-- ==== Sys2Proof/Word.lean ====
section
/-! DEFINITION. The word types of the block and the plainest arithmetic on them. -/

namespace Sys2Proof

/-- One byte; every multi-byte value of the block is little-endian (00_scope, Notation). -/
abbrev Byte := BitVec 8

/-- A host-register half, an FP32 pattern, a dictionary U32. -/
abbrev Word := BitVec 32

/-- A host register, a descriptor word, a dictionary U64, the time T of R92. -/
abbrev Dword := BitVec 64

end Sys2Proof
end

