-- ==== Sys2Proof/Syntax.lean ====
section
/-! DEFINITION. The commands of the block: one constructor per row of the opcode table, with the row's
operands; in the table's order, but that constructors without operands stand after the others (the compiler builds no value of a
constructor with operands past the 245th). A command is a register or dictionary write, an arriving message, or an event of one of the block's own units. -/

namespace Sys2Proof

/-- A phase window descriptor that the block follows: reconfiguration points, or the securing window of job `job` of a
slice (R107). -/
inductive WindowId where
  | reconf
  | secure (slice job : Nat)
  deriving DecidableEq, Repr

/-- The kind of a control-processor access, as RISC-V exceptions distinguish them (R206). -/
inductive AccessKind where
  | load
  | store
  | fetch
  deriving DecidableEq, Repr

/-- A coherence agent of a slice's domain (R276): a cluster cache within the slice's ways, a privileged agent
(0 to 3 the management cores, 4 the front end's management agent), or an uncached requester at the home. -/
inductive Agent where
  | cluster (slice c : Nat)
  | priv (slice i : Nat)
  | uncached (slice i : Nat)
  deriving DecidableEq, Repr

/-- The atomics that a home executes (R50, R168, R293, R442): the AMOs of RV64GC on 4 or 8 bytes, the amax merge, the
FP32 gradient add, the FP32 maximum and the compare-and-swap of a remote atomic. -/
inductive AtomicOp where
  | swap (wide : Bool)
  | add (wide : Bool)
  | xor (wide : Bool)
  | and (wide : Bool)
  | or (wide : Bool)
  | min (wide signed : Bool)
  | max (wide signed : Bool)
  | amaxMerge
  | gradAdd
  | fpMax
  | cas
  deriving DecidableEq, Repr

/-- The shared units that the tenancy controller watches through heartbeats (R312). -/
inductive SharedUnit where
  | frontEnd
  | translation
  | dieRing
  | treeRoot
  deriving DecidableEq, Repr

/-- Source fields of a flit's control word (R441). -/
structure FlitSrc where
  package : Nat
  slice   : Nat
  tag     : Nat
  deriving DecidableEq, Repr

/-- What a request names as a slice's holdings (R178, entries 0x2001:03 to :0B). -/
structure Holdings where
  cores    : BitVec 64
  groups   : BitVec 32
  ways     : BitVec 128
  ccache   : Nat
  qFirst   : Nat
  qCount   : Nat
  contexts : Nat
  fences   : Nat
  rtShare  : Nat
  reserv   : BitVec 64
  deriving DecidableEq, Repr

/-- How a CSR instruction writes: the register's value, or its bits set or cleared. -/
inductive CsrOp where
  | write
  | set
  | clear
  deriving DecidableEq, Repr

/-- A control-processor data access (R86, R294): the operation, the registers named, and the width as a power of two. -/
inductive CpAccess where
  | load (rd rs1 log2 : Nat) (unsigned : Bool) (off : Int)
  | store (rs1 rs2 log2 : Nat) (off : Int)
  | lr (rd rs1 log2 : Nat)
  | sc (rd rs1 rs2 log2 : Nat)
  | amo (op : AtomicOp) (rd rs1 rs2 : Nat)
  deriving DecidableEq, Repr

/-- What CONTROL_PROCESSOR_ACCESS brings: a data access; a CSR instruction, with its value read to rd and the way that a register's value
goes in; or an R-type instruction of the custom-0 opcode that the engine-dispatch extension does not list (R87, R88). -/
inductive CpOp where
  | access (acc : CpAccess)
  | csr (rd csr : Nat) (write : Option (CsrOp × Nat))
  | custom (funct3 funct7 : Nat)
  deriving DecidableEq, Repr

/-- What a test-access readout names (R355, R367). -/
inductive DebugTarget where
  | scratchpad (core : Nat)
  | registers (core : Nat)
  | accumulator (core eng bank : Nat)
  | adapterStore (core : Nat)
  | clusterWay (cluster way : Nat)
  | memory (group : Nat)
  | fuses
  | management
  /-- RISC-V debug access to a management core. -/
  | mgmtCore (core : Nat)
  /-- IEEE 1500 internal scan, and memory BIST, of a switched domain or, 118, the management domain (R453). -/
  | scan (domain : Nat)
  | bist (domain : Nat)
  deriving DecidableEq, Repr

/-- The commands (spec/opcode_table.json). -/
inductive Instr where
  /-- MGT_RST_N_DEASSERT: deassertion of MGT_RST_N; fuseOk is false where the fuse read fails (R385, R392 FAULT 2). -/
  | mgtRstNDeassert (fuseOk : Bool)
  /-- IMAGE_STAGE: the image stage of start-up; flashOk is false where the flash does not respond (R385, R392 FAULT 4). -/
  | imageStage (flashOk : Bool)
  /-- MCP_INIT_DONE: MCPi_INIT_DONE rises on memory port i (R439). -/
  | mcpInitDone (port : Nat)
  /-- PD_REQ_RAISE: the block raises PD_REQ of domain d (R394, R395). -/
  | pdReqRaise (d : Nat)
  /-- PD_ACK_RISE: PD_ACK of domain d rises (R394, R452). -/
  | pdAckRise (d : Nat)
  /-- PD_POWER_DOWN: the block powers domain d down (R394). -/
  | pdPowerDown (d : Nat)
  /-- PD_ACK_FALL: PD_ACK of domain d falls (R394, R396). -/
  | pdAckFall (d : Nat)
  /-- DROOP_SAMPLE: one sample of DM_CODE0 to DM_CODE7, with the level of POWER_WARN in the same clock (R399, R400). -/
  | droopSample (codes : List Nat) (warn : Bool)
  /-- SHUTDOWN: a dictionary write of SHUTDOWN 0x7003:01 (R398). -/
  | shutdown (eid : Nat) (tag : Byte) (value : Byte)
  /-- WINDOW_OPEN: a phase window descriptor reaches its START (R106). -/
  | windowOpen (w : WindowId)
  /-- WINDOW_CLOSE: a window reaches its end (R104). -/
  | windowClose (w : WindowId)
  /-- TIMING: a timing message on fabric port `port` (R95, R96). -/
  | timing (port : Nat) (payload : BitVec 128)
  /-- LOAD_CTRL: a dictionary write of LOAD_CTRL 0x3030:01 (R110). -/
  | loadCtrl (eid : Nat) (tag : Byte) (value : Byte)
  /-- SWITCH_STRIDE: a dictionary write of SWITCH_STRIDE 0x3012:01 (R119). -/
  | switchStride (eid : Nat) (tag : Byte) (value : Dword)
  /-- TILE_EMIT: the root sends the next tile; `failing` lists the commons lines (commons address / 128) of the tile whose read had an uncorrectable error (R111, R115). -/
  | tileEmit (failing : List Nat)
  /-- TALLY_SAVE_COMPLETE: the write of a tally record ends; ok is false on a flash error (R429). -/
  | tallySaveComplete (ok : Bool)
  /-- HISTOGRAM_INTERVAL: the end of a 1 ms interval (none), or of a 1 s interval with the largest junction temperatures of sensors 0 to 7 in it (R426). -/
  | histogramInterval (temps : Option (List Int))
  /-- ENG_ISSUE: eng.issue rd, rs1, rs2 on a core's control processor (R87). -/
  | engIssue (core rd rs1 rs2 : Nat)
  /-- ENG_WAIT: eng.wait rs1, rs2 (R87). -/
  | engWait (core rs1 rs2 : Nat)
  /-- ENG_STAT: eng.stat rd, rs2 (R87). -/
  | engStat (core rd rs2 : Nat)
  /-- VEC_ISSUE: vec.issue rd, rs1 (R87). -/
  | vecIssue (core rd rs1 : Nat)
  /-- TAG_CLR: tag.clr rs1, rs2 (R87). -/
  | tagClr (core rs1 rs2 : Nat)
  /-- FENCE_ENG: fence.eng (R87). -/
  | fenceEng (core : Nat)
  /-- ZH_LAUNCH_WRITE: firmware writes zh.launch (R253). -/
  | zhLaunchWrite (core : Nat) (value : Dword)
  /-- ZH_FNOTE_READ: a read of zh.fnote into rd (R262). -/
  | zhFnoteRead (core rd : Nat)
  /-- CP_ACCESS_FAULT: a control-processor access whose translation fails (R206). -/
  | cpAccessFault (core : Nat) (kind : AccessKind) (va : Dword)
  /-- CORE_MESSAGE: a core-to-core message with its target word (R189). -/
  | coreMessage (src : Nat) (target : Dword) (body : List Byte)
  /-- OP_ACCEPT: an engine accepts the next op that the front end has placed on it (R74, R76). -/
  | opAccept (core eng : Nat)
  /-- PARADE_HEAD_CHECK: the head check of a Parade op (R68). -/
  | paradeHeadCheck (core eng : Nat)
  /-- MATMUL: an engine starts the MATMUL op at the head of its queue (R79). -/
  | matmul (core eng : Nat)
  /-- RESIDENT_LOAD: the tile in NEXT moves to CUR and takes its rows (R60, R63). -/
  | residentLoad (core eng : Nat)
  /-- PARADE_TILE_CAPTURE: the next Parade tile reaches an engine (R64, R65). -/
  | paradeTileCapture (core eng : Nat)
  /-- WRITEOUT: an engine runs the WRITEOUT op at its head (R456). -/
  | writeout (core eng : Nat)
  /-- LOADACC: an engine runs the LOADACC op at its head (R456). -/
  | loadacc (core eng : Nat)
  /-- ZEROACC: an engine runs the ZEROACC op at its head (R456). -/
  | zeroacc (core eng : Nat)
  /-- OP_COMPLETE: an op's writes become visible and DONE advances (R77). -/
  | opComplete (core eng : Nat)
  /-- ADAPT_DOWN_STEP: the adapter unit runs its next step, a down step (R138, R141). -/
  | adaptDownStep (core : Nat)
  /-- ADAPT_UP_STEP: the adapter unit runs its next step, an up step (R139, R141). -/
  | adaptUpStep (core : Nat)
  /-- ADAPT_TRANSPOSED_DOWN: the adapter unit runs its next step, a transposed down step (R163). -/
  | adaptTransposedDown (core : Nat)
  /-- ADAPT_TRANSPOSED_UP: the adapter unit runs its next step, a transposed up step (R164). -/
  | adaptTransposedUp (core : Nat)
  /-- ADAPT_STEP_COMPLETE: the results of the running step are complete (R140). -/
  | adaptStepComplete (core : Nat)
  /-- PREFETCH_FIRE: prefetch idx of a slot reaches its phase F (R144). -/
  | prefetchFire (core slot idx : Nat)
  /-- PANEL_PRESENT: the last byte of the slot's next panel reaches the frame store (R145). -/
  | panelPresent (core slot : Nat)
  /-- ADAPT_MISS: a step's wait for a panel of the slot reaches MISS_LIMIT (R147). -/
  | adaptMiss (core slot : Nat)
  /-- VECTOR_PROGRAM_START: the vector unit starts the next queued program (R85). -/
  | vectorProgramStart (core : Nat)
  /-- VLD: the running program's next instruction is VLD and executes (R85). -/
  | vld (core : Nat)
  /-- VST: VST (R85, R457). -/
  | vst (core : Nat)
  /-- VLDB: VLDB (R85, R457). -/
  | vldb (core : Nat)
  /-- VSTB: VSTB (R85, R457). -/
  | vstb (core : Nat)
  /-- VLDN: VLDN (R85, R457). -/
  | vldn (core : Nat)
  /-- VSTN: VSTN (R85, R457). -/
  | vstn (core : Nat)
  /-- VSETA: VSETA (R85). -/
  | vseta (core : Nat)
  /-- VADD: VADD (R85). -/
  | vadd (core : Nat)
  /-- VSUB: VSUB (R85). -/
  | vsub (core : Nat)
  /-- VMUL: VMUL (R85). -/
  | vmul (core : Nat)
  /-- VFMA: VFMA (R85). -/
  | vfma (core : Nat)
  /-- VDIV: VDIV (R85). -/
  | vdiv (core : Nat)
  /-- VSQRT: VSQRT (R85). -/
  | vsqrt (core : Nat)
  /-- VMAX: VMAX (R457). -/
  | vmax (core : Nat)
  /-- VMIN: VMIN (R457). -/
  | vmin (core : Nat)
  /-- VABS: VABS (R457). -/
  | vabs (core : Nat)
  /-- VCMPLT: VCMPLT (R457). -/
  | vcmplt (core : Nat)
  /-- VSEL: VSEL (R457). -/
  | vsel (core : Nat)
  /-- VBCAST: VBCAST (R85). -/
  | vbcast (core : Nat)
  /-- VREDADD: VREDADD (R457). -/
  | vredadd (core : Nat)
  /-- VREDMAX: VREDMAX (R457). -/
  | vredmax (core : Nat)
  /-- VSCUPD: VSCUPD (R175). -/
  | vscupd (core : Nat)
  /-- VADAMW: VADAMW (R171). -/
  | vadamw (core : Nat)
  /-- VSGDM: VSGDM (R172). -/
  | vsgdm (core : Nat)
  /-- VEND: VEND (R85). -/
  | vend (core : Nat)
  /-- DOORBELL: a write of v to ZH_DOORBELL of queue q (R247). -/
  | doorbell (q : Nat) (v : Word)
  /-- DOORBELL_INLINE: a write of the given 64-bit words to ZH_DOORBELL_INLINE as one transaction (R248). -/
  | doorbellInline (q : Nat) (entry : List Dword)
  /-- RING_FETCH: the queue's lane takes entries from HEAD up to TAIL (R249). -/
  | ringFetch (q : Nat)
  /-- ARBITER_GRANT: the slice's queue arbiter makes one grant (R239). -/
  | arbiterGrant (slice : Nat)
  /-- NOP: the granted command of the queue, a NOP, starts (R242). -/
  | nop (q : Nat)
  /-- OPS: the granted placement of the queue's OPS command is made (R242). -/
  | ops (q : Nat)
  /-- LAUNCH: the granted LAUNCH starts (R253). -/
  | launch (q : Nat)
  /-- DMA: the granted DMA command starts its transfer (R242). -/
  | dma (q : Nat)
  /-- FENCE_WAIT: the granted FENCE_WAIT starts (R256). -/
  | fenceWait (q : Nat)
  /-- FENCE_SIGNAL: the FENCE_SIGNAL of the queue takes effect (R242, R243). -/
  | fenceSignal (q : Nat)
  /-- SET_WINDOW: the granted SET_WINDOW runs (R208). -/
  | setWindow (q : Nat)
  /-- PREFETCH: the queue's PREFETCH moves its next page (R220). -/
  | prefetch (q : Nat)
  /-- ADVISE: the granted ADVISE runs (R221). -/
  | advise (q : Nat)
  /-- STAMP: the granted STAMP writes T (R242). -/
  | stamp (q : Nat)
  /-- COMMAND_COMPLETE: entry k of the queue completes (R251). -/
  | commandComplete (q k : Nat)
  /-- QUEUE_WATCHDOG: the queue's watchdog expires (R263). -/
  | queueWatchdog (q : Nat)
  /-- CTX_CREATE: ZH_CTX_CTRL written with GO and CREATE (R233). -/
  | ctxCreate (slice ctx : Nat)
  /-- CTX_RESET: ZH_CTX_CTRL written with GO and RESET (R234). -/
  | ctxReset (slice ctx : Nat)
  /-- CTX_RESET_COMPLETE: every launch of the resetting context has ended (R234). -/
  | ctxResetComplete (slice ctx : Nat)
  /-- CTX_DESTROY: ZH_CTX_CTRL written with GO and DESTROY (R233). -/
  | ctxDestroy (slice ctx : Nat)
  /-- CTX_CLEAR_FAULT: ZH_CTX_CTRL written with GO and CLEAR_FAULT (R233). -/
  | ctxClearFault (slice ctx : Nat)
  /-- CTX_SYNC: ZH_CTX_CTRL written with GO and SYNC (R233). -/
  | ctxSync (slice ctx : Nat)
  /-- ZH_CTX_TABLE_WRITE: a write to ZH_CTX_TABLE (R233). -/
  | zhCtxTableWrite (slice : Nat) (v : Dword)
  /-- QUEUE_ENABLE: a write to ZH_Q_CFG with ENABLE 1 (R238). -/
  | queueEnable (q : Nat) (cfg : Dword)
  /-- QUEUE_DISABLE: a write to ZH_Q_CFG that clears ENABLE (R238). -/
  | queueDisable (q : Nat)
  /-- FENCE_SETUP: ZH_FENCE_CTRL written with GO and SETUP (R254). -/
  | fenceSetup (slice fence : Nat) (exported : Bool)
  /-- FENCE_CTRL_SIGNAL: ZH_FENCE_CTRL written with GO and SIGNAL (R254). -/
  | fenceCtrlSignal (slice fence : Nat)
  /-- FENCE_RELEASE: ZH_FENCE_CTRL written with GO and RELEASE (R257). -/
  | fenceRelease (slice fence : Nat)
  /-- DMA_TILE: a DMA agent moves the next tile of a transfer (R210). -/
  | dmaTile (agent channel : Nat)
  /-- ZH_FAULT_TAIL_WRITE: a write to ZH_FAULT_TAIL (R213). -/
  | zhFaultTailWrite (slice : Nat) (v : Word)
  /-- FAULT_RING_CONFIG: a write to ZH_FAULT_BASE or ZH_FAULT_SIZE (R213, R214). -/
  | faultRingConfig (slice : Nat) (base : Option Dword) (size : Option Word)
  /-- DMA_RESUME: a write to ZH_RESUME_VA with ABORT 0 (R215). -/
  | dmaResume (slice : Nat) (va : Dword)
  /-- DMA_ABORTED: a write to ZH_RESUME_VA with ABORT 1 (R215). -/
  | dmaAborted (slice : Nat) (va : Dword)
  /-- INVALIDATION: a write to ZH_INVAL_CTRL with GO (R212, R216). -/
  | invalidation (slice : Nat) (ctrl : Word)
  /-- INVALIDATION_COMPLETE: every acknowledgement of the slice's invalidation has arrived (R216). -/
  | invalidationComplete (slice : Nat)
  /-- ZH_POOL_ADD: a write to ZH_POOL_ADD (R226). -/
  | zhPoolAdd (slice : Nat) (v : Dword)
  /-- ALLOC: amoswap.d to ALLOC_VA with an ALLOC request in rs2 (R227). -/
  | alloc (core rd rs2 : Nat)
  /-- FREE: amoswap.d to ALLOC_VA with a FREE request in rs2 (R227). -/
  | free (core rd rs2 : Nat)
  /-- FREE_POINT_PASSED: every queue has passed the free point of the slice's oldest such pending free (R228). -/
  | freePointPassed (slice : Nat)
  /-- KEY_REQUEST: a dictionary write of KEY_REQUEST 0x6100+n:02 (R223). -/
  | keyRequest (slice eid : Nat) (tag : Byte) (value : Byte)
  /-- KEY_RELEASE: a dictionary write of KEY_RELEASE 0x6100+n:04 (R223). -/
  | keyRelease (slice eid : Nat) (tag : Byte) (value : Byte)
  /-- REQ_COMMIT: a dictionary write of REQ_COMMIT 0x2001:10 (R179). -/
  | reqCommit (eid : Nat) (tag : Byte) (value : Byte)
  /-- CREATE: a CREATE request, staged and committed (R178 to R180). -/
  | create (eid : Nat) (tag : Byte) (slice : Nat) (h : Holdings)
  /-- RESIZE: a RESIZE request, staged and committed. -/
  | resize (eid : Nat) (tag : Byte) (slice : Nat) (h : Holdings)
  /-- REMOVE: a REMOVE request, staged and committed. -/
  | remove (eid : Nat) (tag : Byte) (slice : Nat)
  /-- FIRMWARE: a FIRMWARE request, staged and committed (R190). -/
  | firmware (eid : Nat) (tag : Byte) (slice : Nat) (addr : Dword)
  /-- SCRUB_COMPLETE: the scrub of channel group g completes (R186). -/
  | scrubComplete (g : Nat)
  /-- SLICE_MAP_ADDR: a dictionary write of SLICE_MAP_ADDR (R188). -/
  | sliceMapAddr (slice eid : Nat) (tag : Byte) (value : Dword)
  /-- NONCE: a dictionary write of NONCE (R193). -/
  | nonce (slice eid : Nat) (tag : Byte) (value : List Byte)
  /-- NONCE_LEDGER_READY: the first phase zero 100 ms after the NONCE write (R193). -/
  | nonceLedgerReady (slice : Nat)
  /-- MED_ANSWER: the answer to a MED request is sent (R194). -/
  | medAnswer (eid : Nat)
  /-- REIN_SAMPLE: a response returns to a measurement point (R266, R267). -/
  | reinSample (slice point cls x bytes : Nat)
  /-- RDS: the home handles a read to be cached shared (R284). -/
  | rds (agent : Agent) (line : Nat)
  /-- RDX: the home handles a read for ownership (R284). -/
  | rdx (agent : Agent) (line : Nat)
  /-- WRLINE: the home handles a whole-line write (R284). -/
  | wrline (agent : Agent) (line : Nat) (alloc : Bool) (bytes : List Byte)
  /-- UNCRD: the home handles an uncached read (R284). -/
  | uncrd (agent : Agent) (line : Nat)
  /-- UNCWR: the home handles an uncached or partial write (R284). -/
  | uncwr (agent : Agent) (line off : Nat) (bytes : List Byte)
  /-- ATOMIC_HOME: the home executes an atomic (R293). -/
  | atomicHome (agent : Agent) (line off : Nat) (op : AtomicOp) (a b : Dword)
  /-- WB: the home accepts a write-back (R286). -/
  | wb (agent : Agent) (line : Nat)
  /-- SNPS: an agent answers a shared snoop (R284). -/
  | snps (agent : Agent) (line : Nat)
  /-- SNPX: an agent answers an ownership or recall snoop (R284). -/
  | snpx (agent : Agent) (line : Nat)
  /-- SNPCUR: an agent answers a snoop for current data (R284). -/
  | snpcur (agent : Agent) (line : Nat)
  /-- DATA: a requester receives line data (R285). -/
  | data (agent : Agent) (line : Nat)
  /-- RSP: the home receives a snoop response (R286). -/
  | rsp (agent : Agent) (line : Nat)
  /-- NACK: a requester receives Nack (R287). -/
  | nack (agent : Agent) (line : Nat)
  /-- COH_ACK: the home receives the requester's Ack (R287). -/
  | cohAck (agent : Agent) (line : Nat)
  /-- CMPWB: an agent receives CmpWB (R286). -/
  | cmpwb (agent : Agent) (line : Nat)
  /-- COH_POISON: a requester receives Poison (R298). -/
  | cohPoison (agent : Agent) (line : Nat)
  /-- HOLD_END: an agent's hold on a line ends (R291). -/
  | holdEnd (agent : Agent) (line : Nat)
  /-- RETRY_RESERVATION_LAPSE: a reservation for the oldest Nacked request lapses (R289). -/
  | retryReservationLapse (line : Nat)
  /-- RETRY_DELAY_EXPIRY: a Nacked request retries after its random delay (R290). -/
  | retryDelayExpiry (agent : Agent) (line : Nat)
  /-- SNOOP_TIMEOUT: a snoop response is not received in time (R295). -/
  | snoopTimeout (agent : Agent) (line : Nat)
  /-- REQ_TIMEOUT: a grant is not received in time (R295). -/
  | reqTimeout (agent : Agent) (line : Nat)
  /-- VI_ACTIVATE: ZH_VI_CTRL written with GO and ACTIVATE (R302). -/
  | viActivate (v : Nat)
  /-- VI_RESET: ZH_VI_CTRL written with GO and RESET (R305). -/
  | viReset (v : Nat)
  /-- VI_REMOVE: ZH_VI_CTRL written with GO and REMOVE (R305). -/
  | viRemove (v : Nat)
  /-- VI_DRAIN_COMPLETE: steps 5 to 7 of R305. -/
  | viDrainComplete (v : Nat)
  /-- VI_BIND: ZH_VI_QBIND written with GO and UNBIND 0 (R303). -/
  | viBind (v q : Nat)
  /-- VI_UNBIND: ZH_VI_QBIND written with GO and UNBIND 1 (R303). -/
  | viUnbind (v q : Nat)
  /-- ZH_VI_PASID_WRITE: a write to ZH_VI_PASID (R301). -/
  | zhViPasidWrite (v : Nat) (value : Word)
  /-- UNIT_WATCHDOG: a unit watchdog expires (R310). -/
  | unitWatchdog (core unit : Nat)
  /-- FE_HANG: a shared unit's heartbeat stops (R312). -/
  | feHang (unit : SharedUnit)
  /-- SHARED_UNIT_FAILURE: a ring stop or Parade receiver fails (R314). -/
  | sharedUnitFailure (cluster : Nat)
  /-- ENGINE_RUNG: an engine rung runs (R317). -/
  | engineRung (core unit : Nat)
  /-- SLICE_RUNG: a slice rung runs (R318). -/
  | sliceRung (slice : Nat)
  /-- SLICE_RESET: a dictionary write of SLICE_RESET (R321). -/
  | sliceReset (slice eid : Nat) (tag : Byte) (value : Byte)
  /-- RUNG_REQUEST_BLOCK: a write of 4 to RUNG_REQUEST (R336). -/
  | rungRequestBlock (eid : Nat) (tag : Byte)
  /-- RUNG_REQUEST_POWER: a write of 5 to RUNG_REQUEST (R336). -/
  | rungRequestPower (eid : Nat) (tag : Byte)
  /-- REPLAY_TURN: the next replay turn of the slice starts (R325). -/
  | replayTurn (slice : Nat)
  /-- TURN_END: TURN_END written with a context (R325). -/
  | turnEnd (slice ctx : Nat)
  /-- TURN_LIMIT_EXPIRY: a turn reaches TURN_LIMIT (R325). -/
  | turnLimitExpiry (slice : Nat)
  /-- ABANDON: ABANDON written (R326). -/
  | abandon (slice : Nat)
  /-- SUBSTITUTE_CORE: Farrier substitutes a core (R333). -/
  | substituteCore (core : Nat)
  /-- SUBSTITUTE_BANK: Farrier substitutes a scratchpad bank (R332). -/
  | substituteBank (core bank : Nat)
  /-- SUBSTITUTE_WAY: Farrier substitutes a cluster-cache way (R332). -/
  | substituteWay (cluster way : Nat)
  /-- SUBSTITUTE_GROUP: Farrier substitutes a channel group (R333). -/
  | substituteGroup (g : Nat)
  /-- MGMT_CORE_WATCHDOG: a management core's watchdog expires (R334). -/
  | mgmtCoreWatchdog (i : Nat)
  /-- ARM: a dictionary write of 1 to CTRL of a job (R340). -/
  | arm (slice job eid : Nat) (tag : Byte)
  /-- DISARM: a dictionary write of 2 to CTRL of a job (R340). -/
  | disarm (slice job eid : Nat) (tag : Byte)
  /-- RESTORE: a dictionary write of 3 to CTRL of a job (R349). -/
  | restore (slice job eid : Nat) (tag : Byte)
  /-- RESTORE_COMPLETE: a restore ends (R349). -/
  | restoreComplete (slice job : Nat)
  /-- SECURE_COPY_START: the start of a job's securing window (R345). -/
  | secureCopyStart (slice job : Nat)
  /-- SECURE_COPY_COMPLETE: the trailer's acknowledgement has arrived (R345). -/
  | secureCopyComplete (slice job : Nat)
  /-- SECURE_TIMEOUT: a response did not arrive within SECURE_TIMEOUT (R347). -/
  | secureTimeout (slice job : Nat)
  /-- PARTNER_WRITE: a dictionary write of PARTNER of a job (R339). -/
  | partnerWrite (slice job eid : Nat) (tag : Byte) (value : Dword)
  /-- TRANS_TEST: a write of 1 to TRANS_CTRL (R360). -/
  | transTest (eid : Nat) (tag : Byte)
  /-- TRANS_FIELD: a write of 2 to TRANS_CTRL (R360). -/
  | transField (eid : Nat) (tag : Byte)
  /-- TRANS_COMPLETE: a write of 3 to TRANS_CTRL (R361). -/
  | transComplete (eid : Nat) (tag : Byte)
  /-- TRANS_PROVISION: a write of 4 to TRANS_CTRL with a provisioning request staged (R362). -/
  | transProvision (eid : Nat) (tag : Byte)
  /-- TRANS_ANALYSIS: a write of 4 to TRANS_CTRL for a move to ANALYSIS (R363). -/
  | transAnalysis (eid : Nat) (tag : Byte)
  /-- TRANS_SCRAP: a write of 4 to TRANS_CTRL for a move to SCRAP (R363). -/
  | transScrap (eid : Nat) (tag : Byte)
  /-- FUSE_DONE: FUSE_DONE for the bit being burnt; burnt is what the read-back shows (R451). -/
  | fuseDone (burnt : Bool)
  /-- DEBUG_OPEN: a write of 1 to DEBUG_CTRL (R369). -/
  | debugOpen (eid : Nat) (tag : Byte)
  /-- DEBUG_CLOSE: a write of 2 to DEBUG_CTRL (R369). -/
  | debugClose (eid : Nat) (tag : Byte)
  /-- DEBUG_CONSENT: a dictionary write of DEBUG_CONSENT (R368). -/
  | debugConsent (slice eid : Nat) (tag : Byte) (value : Byte)
  /-- SVN_ADVANCE: a dictionary write of SVN_ADVANCE (R381). -/
  | svnAdvance (eid : Nat) (tag : Byte) (value : Byte)
  /-- ADAPTER_EXTEND: a dictionary write of ADAPTER_EXTEND (R377). -/
  | adapterExtend (slice eid : Nat) (tag : Byte) (value : List Byte)
  /-- EXTEND_DONE: the fixed time of R377 has passed. -/
  | extendDone (slice : Nat)
  /-- SEAL_WRITE: a dictionary write of SEAL_DATA (R374). -/
  | sealWrite (slice eid : Nat) (tag : Byte) (value : List Byte)
  /-- SEAL_READ: a dictionary read of SEAL_DATA (R374). -/
  | sealRead (slice eid : Nat) (tag : Byte)
  /-- GET_VERSION: SPDM GET_VERSION (R375). -/
  | getVersion (eid : Nat)
  /-- GET_CAPABILITIES: SPDM GET_CAPABILITIES (R375). -/
  | getCapabilities (eid : Nat)
  /-- NEGOTIATE_ALGORITHMS: SPDM NEGOTIATE_ALGORITHMS with whether the request offers each algorithm (R375). -/
  | negotiateAlgorithms (eid : Nat) (asymP384 hashSha384 measSha384 : Bool)
  /-- GET_DIGESTS: SPDM GET_DIGESTS (R375). -/
  | getDigests (eid : Nat)
  /-- GET_CERTIFICATE: SPDM GET_CERTIFICATE (R375). -/
  | getCertificate (eid slot off len : Nat)
  /-- CHALLENGE: SPDM CHALLENGE (R375). -/
  | challenge (eid slot : Nat) (nonce : List Byte)
  /-- GET_MEASUREMENTS: SPDM GET_MEASUREMENTS (R376). -/
  | getMeasurements (eid index : Nat) (nonce : List Byte)
  /-- IMAGE_CTRL: a dictionary write of IMAGE_CTRL 0x1010:01 (R390). -/
  | imageCtrl (eid : Nat) (tag : Byte) (value : Byte)
  /-- READ: a dictionary READ request (R414). -/
  | read (eid : Nat) (tag : Byte) (index sub : Nat)
  /-- WRITE: a dictionary WRITE request (R414). -/
  | write (eid : Nat) (tag : Byte) (index sub : Nat) (value : List Byte)
  /-- DESCRIBE: a dictionary DESCRIBE request (R418). -/
  | describe (eid : Nat) (tag : Byte) (index sub : Nat)
  /-- EVENT_ACK: an EVENT_ACK request (R420). -/
  | eventAck (eid : Nat) (seq : Word)
  /-- TALLY_CLEAR: a dictionary write of TALLY_CLEAR (R424). -/
  | tallyClear (eid : Nat) (tag : Byte) (value : Byte)
  /-- SAVE_NOW: a dictionary write of SAVE_NOW (R425, R429). -/
  | saveNow (eid : Nat) (tag : Byte) (value : Byte)
  /-- SET_ENDPOINT_ID: MCTP Set Endpoint ID (R449). -/
  | setEndpointId (src newEid : Nat)
  /-- GET_ENDPOINT_ID: MCTP Get Endpoint ID (R449). -/
  | getEndpointId (src : Nat)
  /-- GET_MCTP_VERSION_SUPPORT: MCTP Get MCTP Version Support (R449). -/
  | getMctpVersionSupport (src : Nat)
  /-- GET_MESSAGE_TYPE_SUPPORT: MCTP Get Message Type Support (R449). -/
  | getMessageTypeSupport (src : Nat)
  /-- MCP_READ_RETURN: a memory port returns the four beats of a read of LINE; err is RD_ERR (R437 to R439). -/
  | mcpReadReturn (port line : Nat) (err : Bool)
  /-- NULL: a NULL flit (R442). -/
  | null (port : Nat) (src : FlitSrc) (reqCredits rspCredits : Nat)
  /-- LINK_TRAIN: a LINK TRAIN flit arrives during training (R443). -/
  | linkTrain (port : Nat)
  /-- LINK_NAK: a LINK NAK arrives (R443). -/
  | linkNak (port seq : Nat)
  /-- RX_BAD: a flit marked bad or out of sequence arrives (R443). -/
  | rxBad (port : Nat)
  /-- PHY_UP_RISE: PHY_UP rises (R443). -/
  | phyUpRise (port : Nat)
  /-- PHY_UP_FALL: PHY_UP falls (R443). -/
  | phyUpFall (port : Nat)
  /-- TRAINING_TIMEOUT: training has not ended in 10 ms (R443). -/
  | trainingTimeout (port : Nat)
  /-- RD: a remote read request (R442, R225). -/
  | rd (port : Nat) (src : FlitSrc) (addr : Dword) (bytes : Nat)
  /-- WR: a remote write request (R442). -/
  | wr (port : Nat) (src : FlitSrc) (addr : Dword) (bytes : Nat)
  /-- WR_DATA: a write-data flit (R442). -/
  | wrData (port : Nat) (src : FlitSrc) (bytes : List Byte)
  /-- ATOMIC: a remote atomic request (R442). -/
  | atomic (port : Nat) (src : FlitSrc) (addr : Dword) (op : Nat) (a b : Dword)
  /-- MSG: a remote message to a core (R442, R189). -/
  | msg (port : Nat) (src : FlitSrc) (target : Dword) (body : List Byte)
  /-- FENCE: a remote fence signal (R261). -/
  | fence (port : Nat) (src : FlitSrc) (handle value : Dword)
  /-- STREAM_OPEN: a securing or restore stream is opened here (R342). -/
  | streamOpen (port : Nat) (src : FlitSrc) (base : Dword) (bank job : Nat) (srcPackage srcSlice : Nat) (reading : Bool)
  /-- STREAM_MARK: trailer bytes for a bank's offset 0 (R442). -/
  | streamMark (port : Nat) (src : FlitSrc) (trailer : List Byte)
  /-- STREAM_DATA: stream bytes, to a bank held here or of a restore running here (R442). -/
  | streamData (port : Nat) (src : FlitSrc) (bytes : List Byte)
  /-- STREAM_READ: bank bytes are read back (R350). -/
  | streamRead (port : Nat) (src : FlitSrc) (off bytes : Nat)
  /-- RD_DATA: read data returns (R442). -/
  | rdData (port : Nat) (src : FlitSrc) (bytes : List Byte)
  /-- ACK: a remote write, message or stream write is acknowledged (R442). -/
  | ack (port : Nat) (src : FlitSrc) (value : Dword)
  /-- REFUSED: a remote request is refused (R442). -/
  | refused (port : Nat) (src : FlitSrc) (cause : Nat)
  /-- POISON: a remote request met a poisoned line (R442). -/
  | poison (port : Nat) (src : FlitSrc) (line : Dword)
  /-- STALE_ROLE: a remote message's target generation did not match (R189). -/
  | staleRole (port : Nat) (src : FlitSrc)
  /-- ATOMIC_RSP: the old value of a remote atomic (R442). -/
  | atomicRsp (port : Nat) (src : FlitSrc) (old : Dword)
  /-- DOORBELL_FWD: a forwarded doorbell: one 32-bit value or eight words (R444). -/
  | doorbellFwd (q : Nat) (payload : List Dword)
  /-- FED_CTRL: a federation control flit from an instance (R444). -/
  | fedCtrl (op : Nat) (src : Nat) (payload : List Byte)
  /-- FED_FORWARD: a federation flit for another instance passes (R444). -/
  | fedForward (east : Bool) (dst src kind : Nat) (origin : FlitSrc) (body : List Byte)
  /-- INSTANCE_LOST: instance i of the package is lost (R30). -/
  | instanceLost (i : Nat)
  /-- APERTURE_ACCESS: a host access to BAR2: a read of len bytes, or a write of the data (R446). -/
  | apertureAccess (off : Dword) (len : Nat) (wdata : Option (List Byte))
  /-- ZH_APT_KEY_WRITE: a write to ZH_APT_KEY (R446). -/
  | zhAptKeyWrite (slice : Nat) (value : Word)
  /-- REGISTER_WRITE: a BAR0 write of 4 or 8 bytes (R447). -/
  | registerWrite (off size : Nat) (value : Dword)
  /-- HOST_COMPLETION: a completion for an outbound host read (R445). -/
  | hostCompletion (tag : Nat) (ok : Bool) (bytes : List Byte)
  /-- CONTROL_PROCESSOR_ACCESS: a control-processor load, store, LR/SC or AMO, a CSR instruction, or an unlisted custom-0 one (R86 to R88, R294). -/
  | controlProcessorAccess (core : Nat) (op : CpOp)
  /-- DEBUG_READOUT: a test-access read of n bytes of internal state (R355, R367). -/
  | debugReadout (t : DebugTarget) (off n : Nat)
  /-- IMAGE_WRITE_COMPLETE: the flash write of a new configuration image ends (R390). -/
  | imageWriteComplete (ok : Bool)
  /-- SEAL_RECORD_WRITTEN: the flash write of a sealed record ends (R416). -/
  | sealRecordWritten (slice k : Nat) (ok : Bool)
  /-- MALFORMED: a dictionary message with an invalid PROTO or KIND (R415). -/
  | malformed (eid : Nat) (tag kind : Byte) (index sub : Nat)
  /-- RELEASE_STAGE: the release stage of start-up, begun or finished (R385, R391, R432). -/
  | releaseStage
  /-- RUNNING_STAGE: start-up reaches running (R385). -/
  | runningStage
  /-- POWER_WARN_RISE: POWER_WARN is asserted (R400). -/
  | powerWarnRise
  /-- WARN_HALT_EXPIRY: POWER_WARN has been asserted for WARN_HALT (R400). -/
  | warnHaltExpiry
  /-- EXIT_HOLD_EXPIRY: the exit condition has held for EXIT_HOLD (R401). -/
  | exitHoldExpiry
  /-- SHUTDOWN_READY: the shutdown save completes (R398). -/
  | shutdownReady
  /-- STRIDE_PULSE_EDGE: a synchronised rising edge of STRIDE_PULSE (R98, R99). -/
  | stridePulseEdge
  /-- GRACE_EXPIRY: GRACE elapses with no accepted edge (R99). -/
  | graceExpiry
  /-- HOLDOVER_WRAP: the phase generator wraps in HOLDOVER (R99). -/
  | holdoverWrap
  /-- PHASE_ZERO: the compute-domain phase zero and the events of R108 (R97). -/
  | phaseZero
  /-- BASE_IMAGE_VERIFY: the instance's commons hash completes (R110). -/
  | baseImageVerify
  /-- STAGED_MAP_COMPLETE: the staged map has reached every instance, or fails R118 (R119). -/
  | stagedMapComplete
  /-- PARADE_RUN_START: a sweep-map run begins emission (R115, R122). -/
  | paradeRunStart
  /-- RUN_DROP: the next run is dropped for the stride (R124). -/
  | runDrop
  /-- TALLY_CHECKPOINT: TALLY_PHASE in a checkpoint stride (R107). -/
  | tallyCheckpoint
  /-- TALLY_SAVE: the block snapshots the tallies and begins the write of a tally record (R429). -/
  | tallySave
  /-- TALLY_UNLOCKED_TIMER: 600 s of management clock while UNLOCKED (R429). -/
  | tallyUnlockedTimer
  /-- POWER_ON_MINUTE: one minute of management clock (R425). -/
  | powerOnMinute
  /-- RECONF_ACTION_START: the next pending action begins in an open reconfiguration window (R181, R182). -/
  | reconfActionStart
  /-- RECONF_STAGE_END: the current stage of the running action finishes (R184). -/
  | reconfStageEnd
  /-- BLOCK_COMPUTE_RUNG: a block-compute rung runs (R319). -/
  | blockComputeRung
  /-- POWER_CYCLE_RUNG: a power-cycle rung runs (R320). -/
  | powerCycleRung
  /-- TRAY_HOLD_EXPIRY: TRAY_HOLD elapses (R320). -/
  | trayHoldExpiry
  /-- RUNG_ESCALATION: the oldest rung in progress passes its bound (R315). -/
  | rungEscalation
  /-- DEBUG_DURATION_EXPIRY: phase zero of the closing stride (R369). -/
  | debugDurationExpiry
  /-- RNG_FAULT: a health test of the random source fails (R373). -/
  | rngFault
  /-- EVENT: the next event that the block has to report is queued and sent (R419). -/
  | event
  /-- EVENT_RETRY: EVENT_RETRY has passed since the last sending (R420). -/
  | eventRetry
  /-- IRQ_SEND: one interrupt transfer (R448). -/
  | irqSend
  /-- LOSS_OF_POWER: power is removed or MGT_RST_N asserted (R384). -/
  | lossOfPower
  /-- HEALTH_TEST_PASS: the random source's health tests pass again (R373). -/
  | healthTestPass
  /-- MCP_INIT_TIMEOUT: a memory controller was not ready within 100 ms (R392, R439). -/
  | mcpInitTimeout (port : Nat)
  /-- PD_TIMEOUT: PD_ACK of domain d did not rise within PD_TIMEOUT (R396). -/
  | pdTimeout (d : Nat)
  /-- UNIT_UNCORR: an uncorrectable error in a unit's internal state (R314). -/
  | unitUncorr (core unit : Nat)
  /-- LAUNCH_GRACE_EXPIRY: a launch did not end in LAUNCH_GRACE after RESET_REQ (R314). -/
  | launchGraceExpiry (core : Nat)
  /-- SAMPLE_LIMIT_EXPIRY: a crash record is not complete at SAMPLE_LIMIT (R323). -/
  | sampleLimitExpiry (slice : Nat)
  /-- FLIT_UNKNOWN_KIND: a flit of unknown kind or broken body (R442). -/
  | flitUnknownKind (port : Nat) (src : FlitSrc)
  deriving DecidableEq, Repr

end Sys2Proof
end

