-- ==== Sys2Proof/WellFormed.lean ====
section
/-! DEFINITION. Which commands are well-formed: every number within the range that the spec's field for it has (64 cores,
4,096 queues, 28 slices, 2^20 contexts and so on; 00_scope and R11 to R21), and every payload of the length of its field. -/

namespace Sys2Proof

/-- Slices are numbered 1 to 28 (R21). -/
def okSlice (n : Nat) : Bool := 1 ≤ n && n ≤ 28

/-- Cores 0 to 63 (R11). -/
def okCore (c : Nat) : Bool := c < 64

/-- Engines 0 to 3 of a core. -/
def okEng (e : Nat) : Bool := e < 4

/-- Register numbers of a control processor. -/
def okReg (r : Nat) : Bool := r < 32

/-- Queue numbers are 12 bits wide. -/
def okQueue (q : Nat) : Bool := q < 4096

/-- Context numbers are 20 bits wide. -/
def okCtx (c : Nat) : Bool := c < 2 ^ 20

/-- Fence indices are 16 bits wide. -/
def okFence (f : Nat) : Bool := f < 65536

/-- Jobs 0 to 7 of a slice (R339). -/
def okJob (j : Nat) : Bool := j < 8

/-- MCTP endpoint identifiers are 8 bits wide (R411). -/
def okEid (e : Nat) : Bool := e < 256

/-- Ports: FP0 to FP3, 4 and 5 the east and west links of FED (R25). -/
def okPort (p : Nat) : Bool := p < 6

/-- Source fields of a flit's control word (R441): package 12 bits, slice 8 bits, tag 12 bits. -/
def FlitSrc.wf (s : FlitSrc) : Bool := s.package < 4096 && s.slice < 256 && s.tag < 4096

/-- The body of a flit is 256 bytes (R440); a message's own body follows its 8-byte target word. -/
def okBody (head : Nat) (l : List Byte) : Bool := head + l.length ≤ 256

/-- A domain number (R393). -/
def okDomain (d : Nat) : Bool := d < 118

/-- A coherence agent exists in its slice's domain (R276). -/
def Agent.wf : Agent → Bool
  | .cluster s c => okSlice s && c < 8
  | .priv s i => okSlice s && i < 5
  | .uncached s _ => okSlice s

/-- Holdings within the width of each entry (R178). -/
def Holdings.wf (h : Holdings) : Bool :=
  h.ccache < 256 && h.qFirst < 4096 && h.qCount ≤ 4096 && h.contexts ≤ 2 ^ 20 && h.fences ≤ 65536 && h.rtShare < 256

/-- The registers of a control-processor access. -/
def CpAccess.wf : CpAccess → Bool
  | .load rd rs1 l _ _ => okReg rd && okReg rs1 && l < 4
  | .store rs1 rs2 l _ => okReg rs1 && okReg rs2 && l < 4
  | .lr rd rs1 l => okReg rd && okReg rs1 && (l == 2 || l == 3)
  | .sc rd rs1 rs2 l => okReg rd && okReg rs1 && okReg rs2 && (l == 2 || l == 3)
  | .amo _ rd rs1 rs2 => okReg rd && okReg rs1 && okReg rs2

/-- The CSRs that a CSR instruction names: the standard ones that the hart holds, and those of R88 and R253 that have no row of
their own. -/
def okCsr (n : Nat) : Bool := n == 0x300 || n == 0x305 || (0x341 ≤ n && n ≤ 0x343) || (0xCC0 ≤ n && n ≤ 0xCC6)

/-- The registers and numbers of what a control processor does; an R-type instruction of custom-0 that R87 lists has a row of its
own, as a write of zh.launch has. -/
def CpOp.wf : CpOp → Bool
  | .access acc => acc.wf
  | .csr rd n w => okReg rd && okCsr n && (w.all fun x => okReg x.2) && !(n == 0xCC4 && w.isSome)
  | .custom f3 f7 => f3 < 8 && f7 < 128 && (f7 != 0 || 6 ≤ f3)

/-- A debug target exists. -/
def DebugTarget.wf : DebugTarget → Bool
  | .scratchpad c => okCore c
  | .registers c => okCore c
  | .accumulator c e b => okCore c && okEng e && b < 2
  | .adapterStore c => okCore c
  | .clusterWay cl w => cl < 8 && w < 16
  | .memory g => g < 32
  | .fuses => true
  | .management => true
  | .mgmtCore c => c < 4
  | .scan d => d < 119
  | .bist d => d < 119

/-- A window descriptor exists. -/
def WindowId.wf : WindowId → Bool
  | .reconf => true
  | .secure s j => okSlice s && okJob j

/-- The well-formed commands. -/
def Instr.wf : Instr → Bool
  | .mgtRstNDeassert _ => true
  | .imageStage _ => true
  | .releaseStage => true
  | .runningStage => true
  | .mcpInitDone p => p < 128
  | .mcpInitTimeout p => p < 128
  | .pdReqRaise d => okDomain d
  | .pdAckRise d => okDomain d
  | .pdPowerDown d => okDomain d
  | .pdAckFall d => okDomain d
  | .pdTimeout d => okDomain d
  | .droopSample codes _ => codes.length == 8 && codes.all (· < 64)
  | .powerWarnRise => true
  | .warnHaltExpiry => true
  | .exitHoldExpiry => true
  | .shutdown eid _ _ => okEid eid
  | .shutdownReady => true
  | .stridePulseEdge => true
  | .graceExpiry => true
  | .holdoverWrap => true
  | .phaseZero => true
  | .windowOpen w => w.wf
  | .windowClose w => w.wf
  | .timing p _ => p < 4
  | .loadCtrl eid _ _ => okEid eid
  | .baseImageVerify => true
  | .switchStride eid _ _ => okEid eid
  | .stagedMapComplete => true
  | .paradeRunStart => true
  | .tileEmit _ => true
  | .runDrop => true
  | .tallyCheckpoint => true
  | .tallySave => true
  | .tallySaveComplete _ => true
  | .tallyUnlockedTimer => true
  | .histogramInterval t => match t with
    | none => true
    | some l => l.length == 8
  | .powerOnMinute => true
  | .engIssue c r0 rs1 rs2 => okCore c && okReg r0 && okReg rs1 && okReg rs2
  | .engWait c rs1 rs2 => okCore c && okReg rs1 && okReg rs2
  | .engStat c r0 rs2 => okCore c && okReg r0 && okReg rs2
  | .vecIssue c r0 rs1 => okCore c && okReg r0 && okReg rs1
  | .tagClr c rs1 rs2 => okCore c && okReg rs1 && okReg rs2
  | .fenceEng c => okCore c
  | .zhLaunchWrite c _ => okCore c
  | .zhFnoteRead c r0 => okCore c && okReg r0
  | .cpAccessFault c _ _ => okCore c
  | .coreMessage c _ body => okCore c && okBody 8 body
  | .opAccept c e => okCore c && okEng e
  | .paradeHeadCheck c e => okCore c && okEng e
  | .matmul c e => okCore c && okEng e
  | .residentLoad c e => okCore c && okEng e
  | .paradeTileCapture c e => okCore c && okEng e
  | .writeout c e => okCore c && okEng e
  | .loadacc c e => okCore c && okEng e
  | .zeroacc c e => okCore c && okEng e
  | .opComplete c e => okCore c && okEng e
  | .adaptDownStep c => okCore c
  | .adaptUpStep c => okCore c
  | .adaptTransposedDown c => okCore c
  | .adaptTransposedUp c => okCore c
  | .adaptStepComplete c => okCore c
  | .prefetchFire c s i => okCore c && s < 256 && i < 4
  | .panelPresent c s => okCore c && s < 256
  | .adaptMiss c s => okCore c && s < 256
  | .vectorProgramStart c => okCore c
  | .vld c => okCore c
  | .vst c => okCore c
  | .vldb c => okCore c
  | .vstb c => okCore c
  | .vldn c => okCore c
  | .vstn c => okCore c
  | .vseta c => okCore c
  | .vadd c => okCore c
  | .vsub c => okCore c
  | .vmul c => okCore c
  | .vfma c => okCore c
  | .vdiv c => okCore c
  | .vsqrt c => okCore c
  | .vmax c => okCore c
  | .vmin c => okCore c
  | .vabs c => okCore c
  | .vcmplt c => okCore c
  | .vsel c => okCore c
  | .vbcast c => okCore c
  | .vredadd c => okCore c
  | .vredmax c => okCore c
  | .vscupd c => okCore c
  | .vadamw c => okCore c
  | .vsgdm c => okCore c
  | .vend c => okCore c
  | .doorbell q _ => okQueue q
  | .doorbellInline q e => okQueue q && 1 ≤ e.length && e.length ≤ 8
  | .ringFetch q => okQueue q
  | .arbiterGrant s => okSlice s
  | .nop q => okQueue q
  | .ops q => okQueue q
  | .launch q => okQueue q
  | .dma q => okQueue q
  | .fenceWait q => okQueue q
  | .fenceSignal q => okQueue q
  | .setWindow q => okQueue q
  | .prefetch q => okQueue q
  | .advise q => okQueue q
  | .stamp q => okQueue q
  | .commandComplete q k => okQueue q && k < 2 ^ 32
  | .queueWatchdog q => okQueue q
  | .ctxCreate s c => okSlice s && okCtx c
  | .ctxReset s c => okSlice s && okCtx c
  | .ctxResetComplete s c => okSlice s && okCtx c
  | .ctxDestroy s c => okSlice s && okCtx c
  | .ctxClearFault s c => okSlice s && okCtx c
  | .ctxSync s c => okSlice s && okCtx c
  | .zhCtxTableWrite s _ => okSlice s
  | .queueEnable q _ => okQueue q
  | .queueDisable q => okQueue q
  | .fenceSetup s f _ => okSlice s && okFence f
  | .fenceCtrlSignal s f => okSlice s && okFence f
  | .fenceRelease s f => okSlice s && okFence f
  | .dmaTile a ch => a < 65 && ch < 8
  | .zhFaultTailWrite s _ => okSlice s
  | .faultRingConfig s _ _ => okSlice s
  | .dmaResume s _ => okSlice s
  | .dmaAborted s _ => okSlice s
  | .invalidation s _ => okSlice s
  | .invalidationComplete s => okSlice s
  | .zhPoolAdd s _ => okSlice s
  | .alloc c r0 rs2 => okCore c && okReg r0 && okReg rs2
  | .free c r0 rs2 => okCore c && okReg r0 && okReg rs2
  | .freePointPassed s => okSlice s
  | .keyRequest s eid _ _ => okSlice s && okEid eid
  | .keyRelease s eid _ _ => okSlice s && okEid eid
  | .reqCommit eid _ _ => okEid eid
  | .create eid _ s h => okEid eid && s < 256 && h.wf
  | .resize eid _ s h => okEid eid && s < 256 && h.wf
  | .remove eid _ s => okEid eid && s < 256
  | .firmware eid _ s _ => okEid eid && s < 256
  | .reconfActionStart => true
  | .reconfStageEnd => true
  | .scrubComplete g => g < 32
  | .sliceMapAddr s eid _ _ => okSlice s && okEid eid
  | .nonce s eid _ v => okSlice s && okEid eid && v.length ≤ 1024
  | .nonceLedgerReady s => okSlice s
  | .medAnswer eid => okEid eid
  | .reinSample s p c _ _ => okSlice s && p < 66 && c < 16
  | .rds a _ => a.wf
  | .rdx a _ => a.wf
  | .wrline a _ _ bs => a.wf && bs.length == 128
  | .uncrd a _ => a.wf
  | .uncwr a _ off bs => a.wf && off + bs.length ≤ 128
  | .atomicHome a _ off _ _ _ => a.wf && off < 128
  | .wb a _ => a.wf
  | .snps a _ => a.wf
  | .snpx a _ => a.wf
  | .snpcur a _ => a.wf
  | .data a _ => a.wf
  | .rsp a _ => a.wf
  | .nack a _ => a.wf
  | .cohAck a _ => a.wf
  | .cmpwb a _ => a.wf
  | .cohPoison a _ => a.wf
  | .holdEnd a _ => a.wf
  | .retryReservationLapse _ => true
  | .retryDelayExpiry a _ => a.wf
  | .snoopTimeout a _ => a.wf
  | .reqTimeout a _ => a.wf
  | .viActivate v => v < 2048
  | .viReset v => v < 2048
  | .viRemove v => v < 2048
  | .viDrainComplete v => v < 2048
  | .viBind v q => v < 2048 && okQueue q
  | .viUnbind v q => v < 2048 && okQueue q
  | .zhViPasidWrite v _ => v < 2048
  | .unitWatchdog c u => okCore c && u < 8
  | .unitUncorr c u => okCore c && u < 8
  | .feHang _ => true
  | .sharedUnitFailure c => c < 8
  | .engineRung c u => okCore c && u < 8
  | .sliceRung s => okSlice s
  | .blockComputeRung => true
  | .powerCycleRung => true
  | .trayHoldExpiry => true
  | .rungEscalation => true
  | .launchGraceExpiry c => okCore c
  | .sliceReset s eid _ _ => okSlice s && okEid eid
  | .rungRequestBlock eid _ => okEid eid
  | .rungRequestPower eid _ => okEid eid
  | .replayTurn s => okSlice s
  | .turnEnd s c => okSlice s && okCtx c
  | .turnLimitExpiry s => okSlice s
  | .abandon s => okSlice s
  | .substituteCore c => okCore c
  | .substituteBank c b => okCore c && b < 16
  | .substituteWay c w => c < 8 && w < 16
  | .substituteGroup g => g < 32
  | .mgmtCoreWatchdog i => i < 4
  | .arm s j eid _ => okSlice s && okJob j && okEid eid
  | .disarm s j eid _ => okSlice s && okJob j && okEid eid
  | .restore s j eid _ => okSlice s && okJob j && okEid eid
  | .restoreComplete s j => okSlice s && okJob j
  | .secureCopyStart s j => okSlice s && okJob j
  | .secureCopyComplete s j => okSlice s && okJob j
  | .secureTimeout s j => okSlice s && okJob j
  | .partnerWrite s j eid _ _ => okSlice s && okJob j && okEid eid
  | .transTest eid _ => okEid eid
  | .transField eid _ => okEid eid
  | .transComplete eid _ => okEid eid
  | .transProvision eid _ => okEid eid
  | .transAnalysis eid _ => okEid eid
  | .transScrap eid _ => okEid eid
  | .fuseDone _ => true
  | .debugOpen eid _ => okEid eid
  | .debugClose eid _ => okEid eid
  | .debugDurationExpiry => true
  | .debugConsent s eid _ _ => okSlice s && okEid eid
  | .svnAdvance eid _ _ => okEid eid
  | .adapterExtend s eid _ v => okSlice s && okEid eid && v.length ≤ 1024
  | .extendDone s => okSlice s
  | .sealWrite s eid _ v => okSlice s && okEid eid && v.length ≤ 1024
  | .sealRead s eid _ => okSlice s && okEid eid
  | .rngFault => true
  | .getVersion eid => okEid eid
  | .getCapabilities eid => okEid eid
  | .negotiateAlgorithms eid _ _ _ => okEid eid
  | .getDigests eid => okEid eid
  | .getCertificate eid slot off len => okEid eid && slot < 8 && off < 65536 && len < 65536
  | .challenge eid slot n => okEid eid && slot < 8 && n.length == 32
  | .getMeasurements eid i n => okEid eid && i < 256 && n.length == 32
  | .imageCtrl eid _ _ => okEid eid
  | .read eid _ i s => okEid eid && i < 65536 && s < 256
  | .write eid _ i s _ => okEid eid && i < 65536 && s < 256
  | .describe eid _ i s => okEid eid && i < 65536 && s < 256
  | .eventAck eid _ => okEid eid
  | .event => true
  | .eventRetry => true
  | .tallyClear eid _ _ => okEid eid
  | .saveNow eid _ _ => okEid eid
  | .setEndpointId src e => okEid src && okEid e
  | .getEndpointId src => okEid src
  | .getMctpVersionSupport src => okEid src
  | .getMessageTypeSupport src => okEid src
  | .mcpReadReturn p l _ => p < 128 && l < 2 ^ 28
  | .null p s _ _ => okPort p && s.wf
  | .linkTrain p => okPort p
  | .linkNak p q => okPort p && q < 4096
  | .rxBad p => okPort p
  | .phyUpRise p => okPort p
  | .phyUpFall p => okPort p
  | .trainingTimeout p => okPort p
  | .rd p s _ n => okPort p && s.wf && n < 2 ^ 32
  | .wr p s _ n => okPort p && s.wf && n < 2 ^ 32
  | .wrData p s bs => okPort p && s.wf && okBody 0 bs
  | .atomic p s _ op _ _ => okPort p && s.wf && op < 256
  | .msg p s _ body => okPort p && s.wf && okBody 8 body
  | .fence p s _ _ => okPort p && s.wf
  | .streamOpen p s _ bank job sp ss _ => okPort p && s.wf && bank < 256 && job < 256 && sp < 65536 && ss < 256
  | .streamMark p s t => okPort p && s.wf && t.length ≤ 128
  | .streamData p s bs => okPort p && s.wf && okBody 0 bs
  | .streamRead p s _ n => okPort p && s.wf && n < 2 ^ 32
  | .rdData p s bs => okPort p && s.wf && okBody 0 bs
  | .ack p s _ => okPort p && s.wf
  | .refused p s cause => okPort p && s.wf && cause < 256
  | .poison p s _ => okPort p && s.wf
  | .staleRole p s => okPort p && s.wf
  | .atomicRsp p s _ => okPort p && s.wf
  | .doorbellFwd q ws => okQueue q && (ws.length == 1 || ws.length == 8)
  | .fedCtrl op src p => op < 256 && src < 8 && okBody 8 p
  | .fedForward _ dst src k origin body => dst < 8 && src < 8 && k < 32 && origin.wf && okBody 0 body
  | .instanceLost i => i < 8
  | .apertureAccess _ len w => match w with
    | none => len ≤ 4096
    | some bs => bs.length ≤ 4096
  | .zhAptKeyWrite s _ => okSlice s
  | .registerWrite off size _ => off < 2 ^ 26 && (size == 4 || size == 8)
  | .irqSend => true
  | .lossOfPower => true
  | .hostCompletion tag _ bs => tag < 256 && bs.length ≤ 4096
  | .controlProcessorAccess c a => okCore c && a.wf
  | .debugReadout t _ _ => t.wf
  | .healthTestPass => true
  | .imageWriteComplete _ => true
  | .sealRecordWritten s k _ => okSlice s && k < 8
  | .sampleLimitExpiry s => okSlice s
  | .flitUnknownKind p s => okPort p && s.wf
  | .malformed eid _ _ i s => okEid eid && i < 65536 && s < 256

end Sys2Proof
end

