-- ==== Sys2Proof/Config.lean ====
section
/-! DEFINITION. What the spec leaves open: free values and the functions of published standards that the spec names without
stating. None has a body, so no proof rests on what one of them answers (notes/assumptions/3.md, 4.md). -/

namespace Sys2Proof

/-- The SHA-384 digest (FIPS 180), bit 0 first; the spec names the function only. -/
opaque Config.sha384 : List Byte → BitVec 384

/-- Whether a signature verifies under a public key (ECDSA P-384): key, message, signature. -/
opaque Config.ecdsaOk : List Byte → List Byte → List Byte → Bool

/-- A signature (ECDSA P-384) by a private key over a message. -/
opaque Config.sign : List Byte → List Byte → List Byte

/-- The public key of a private key (P-384). -/
opaque Config.publicKey : List Byte → List Byte

/-- The alias certificate before its signature, from the alias public key and measurements 1, 2 and 5: the spec names its content,
not its encoding (R375). -/
opaque Config.aliasCert : List Byte → List Byte → List Byte → List Byte → List Byte

/-- A drawn random byte, by the model's own counter of draws. -/
opaque Config.randomByte : Nat → Byte

/-- The AES-256-XTS key pair of a generation, as the block drew it (R222, R223): the data key in bits 255:0, the tweak key
above it, each with its first byte lowest. -/
opaque Config.keyPair : Nat → BitVec 512

/-- A 32-bit value that the spec leaves open, by the model's own counter. -/
opaque Config.freeWord : Nat → BitVec 32

/-- Whether a staged sweep map is signed under the configuration image's key; where its signature stands is not given (R119). -/
opaque Config.mapSigned : List Byte → Bool

/-- A choice between orders that the block does not define, by counter (R49, R290). -/
opaque Config.freeNat : Nat → Nat

/-- What Farrier substitutes for an SRAM macro: 1 a core, 2 a scratchpad bank, 3 a way, 4 a channel group, with its number as
SUBSTITUTE has it; 0 nothing (R331). The spec numbers the macros and does not say where each one lies. -/
opaque Config.macroItem : Nat → Nat × Nat

/-- The power domain in which a macro lies; 118 and above for the management domain (R386, R394). -/
opaque Config.macroDomain : Nat → Nat

/-- BANK_BYTES of a source's job in 64 KiB units, less one, at the instance that holds its area: by area, job, package and slice
(R343). -/
opaque Config.bankUnits : Nat → Nat → Nat → Nat → Nat

/-- The integrator's power-switch times for a slice rung, in management clocks (R315). -/
opaque Config.switchClk : Nat

end Sys2Proof
end

