-- ==== Sys2Proof/Machine/State.lean ====
section
/-! DEFINITION. The state of one Zhoara block: plain data, holding everything the spec gives the block, and its reset.
What survives the loss of power (the fuses and the configuration flash, R384) stands beside the block proper. -/

namespace Sys2Proof.Machine

/-- A sparse table: keys strictly rising, and no entry equal to what an unlisted key reads as. -/
abbrev Tab (α : Type) := List (Nat × α)

/-- Bytes by address in the same canonical form (`Host.Cell`). -/
abbrev Mem := List Host.Cell

/-- Why the block stops: no command of this model does, so the type has the one reason below. -/
inductive Fault where
  /-- Raised by no meaning: every row of the table has an effect the spec gives. Safe: it is never reached. -/
  | unreached
  deriving DecidableEq, Repr

/-- Why a command has no meaning. -/
inductive Refusal where
  /-- Raised by an arm of `exec` whose command has no meaning in this model; the mnemonic is the table's. Safe. -/
  | notModelled (mnemonic : String)
  deriving DecidableEq, Repr

/-! ### The time base (R92 to R105) -/

/-- STATE of ZH_STRIDE_STAT (R94, R99). -/
inductive Lock where
  | unlocked
  | locked
  | holdover
  deriving DecidableEq, Repr

/-- A timing message as accepted under R96, with its port (R95). -/
structure TimingMsg where
  port      : Nat
  lenNs     : Nat
  epoch     : BitVec 16
  nextCount : BitVec 48
  deriving DecidableEq, Repr

structure TimeBase where
  /-- Frequency of CLK_COMPUTE in Hz (R382). -/
  computeHz : Nat
  /-- Compute clocks and management clocks since the deassertion of MGT_RST_N. -/
  clk : Nat
  mclk : Nat
  /-- How much of a management clock has passed beyond the last one, in units of 1 / `computeHz` of it. -/
  clkFrac : Nat
  /-- The accumulator A of R99, 48 bits. -/
  acc : Nat
  inc : Nat
  lock : Lock
  /-- The management clock in which A was first held at 0xFFFF_0000_0000. -/
  heldAt : Option Nat
  /-- The management clock of the last accepted edge. -/
  lastEdge : Option Nat
  /-- An edge has been accepted: the next management clock makes phase zero (R98). -/
  edgeDue : Bool
  /-- GRACE has elapsed, or the next sum wraps: the block makes phase zero itself in the next management clock (R99). -/
  ownDue : Bool
  lenNs : Nat
  /-- Stride count and compute-domain phase (R92, R102). -/
  count : BitVec 48
  phase : BitVec 16
  /-- Management-domain phase values not yet taken by the compute domain: the compute clock at which each is taken (R102). -/
  lag : List (Nat × Nat)
  /-- Management-domain phase zeros not yet taken by the compute domain, oldest first: the compute clock in which each is taken,
  and the phase it ended (R102). -/
  zeroDue : List (Nat × Nat)
  /-- False until the phase zero of the first accepted edge (R101). -/
  started : Bool
  /-- Messages accepted in the running stride, in order (R96). -/
  accepted : List TimingMsg
  tmPort : Nat
  epoch : BitVec 16
  /-- The compute clock in which the running stride began, and the measured CPT. -/
  strideClk : Nat
  cpt : Word
  /-- The management clock of the last compute-domain phase zero. -/
  zeroAt : Nat
  timingPorts : BitVec 8
  grace : Nat
  pulseSpurious : Nat
  holdoverStrides : Nat
  tmIgnored : Nat
  tmConflict : Nat
  tmStale : Nat
  countStep : Nat
  freqStep : Nat
  phaseSkip : Nat
  /-- Windows now open (R104), with the stride each opened in. -/
  windows : List (WindowId × Nat)
  deriving DecidableEq, Repr

/-! ### The Parade (R109 to R127) -/

/-- PARADE_STATE (R125). -/
inductive ParadeSt where
  | empty
  | loading
  | verified
  | running
  | fault
  | stopped
  deriving DecidableEq, Repr

/-- A run entry of the sweep map (R113). -/
structure Run where
  seg : Nat
  fmt : Nat
  tileFirst : Nat
  count : Nat
  start : Nat
  stop : Nat
  spacing : Nat
  inner : Nat
  srcBase : Nat
  innerStep : Int
  outerStep : Int
  deriving DecidableEq, Repr

/-- A sweep map (R112). -/
structure SweepMap where
  groups : Nat
  baseBytes : Nat
  commonsDigest : BitVec 384
  runs : List Run
  /-- SHA-384 digest of the map's bytes (SWEEP_DIGEST). -/
  digest : BitVec 384
  deriving DecidableEq, Repr

/-- A staged map under way (R119). -/
structure Staged where
  switchAt : Nat
  /-- The switch stride was above the count at the write. -/
  future : Bool
  /-- List entries still to be fetched, and the bytes received so far. -/
  left : Nat
  bytes : List Byte
  /-- The map, once it has reached every instance, and whether that was at phase 0xFF00 or later of the running stride. -/
  ready : Option SweepMap
  readyLate : Bool
  deriving DecidableEq, Repr

/-- A base-image load under way (R110): list entries left, and bytes written. -/
structure BaseLoad where
  left : Nat
  written : Nat
  fetched : Bool
  deriving DecidableEq, Repr

/-- A tile in the root's lookahead buffer (R121): the place of its run in the map, its bytes, the commons lines (address over 128)
whose read has not returned, those whose read returned with RD_ERR (R111), and the clock in which the last one returned. -/
structure LookTile where
  runIdx : Nat
  size : Nat
  missing : List Nat
  bad : List Nat
  ready : Nat
  deriving DecidableEq, Repr

/-- The run that the root emits (R115), with its place in the map. -/
structure RunSt where
  idx : Nat
  run : Run
  stride : Nat
  startClk : Nat
  next : Nat
  slip : Nat
  late : Bool
  deriving DecidableEq, Repr

/-- A tile on the broadcast tree with its sideband (R64, R120). -/
structure TileMsg where
  seqNo : Nat
  seg : Nat
  tile : Nat
  fmt : Nat
  bytes : List Byte
  clk : Nat
  deriving DecidableEq, Repr

structure Parade where
  st : ParadeSt
  overruns : Nat
  recMaxSlip : Nat
  recStride : BitVec 48
  recEcc : Bool
  recLate : Nat
  recDropped : Nat
  /-- What the running stride has gathered for its record (R125). -/
  curLate : Nat
  curDropped : Nat
  curEcc : Bool
  curSlip : Nat
  lateRuns : Nat
  droppedRuns : Nat
  eccTiles : Nat
  map : SweepMap
  mapRefusal : Nat
  staged : Option Staged
  /-- Index in the map of the next run to start in this stride. -/
  nextRun : Nat
  run : Option RunSt
  /-- C(START) of the runs whose START has come in this stride, in map order (R115). -/
  startClks : List Nat
  /-- The lookahead buffer: whole tiles not yet emitted, in run order, and the bytes read of the next one (R121). -/
  look : List LookTile
  lookPart : Nat
  emitPrev : Nat
  bytesPrev : Nat
  tree : List TileMsg
  seqNo : Nat
  commons : Mem
  /-- Commons groups whose shim failed while running (R396). -/
  failedGroups : List Nat
  load : Option BaseLoad
  loadList : Dword
  loadCount : Nat
  stageList : Dword
  stageCount : Nat
  switchStride : Dword
  overrunLimit : Nat
  tallyPhase : Nat
  deriving DecidableEq, Repr

/-! ### Cores (R58 to R91, R128 to R177) -/

/-- The header and row tags of a tag block, read once (R128, R130); `none` where the op has no adapter work. -/
structure TagBlock where
  down : Bool
  up : Bool
  uBase : Nat
  downIndex : Nat
  upIndex : Nat
  rows : List Word
  deriving DecidableEq, Repr

/-- A mask block with the bitmap bits of the op's rows, read once (R157). -/
structure MaskBlock where
  mode : Nat
  spill : Bool
  grad : Bool
  xfmt : Nat
  /-- Row mode: one bit per row. Block mode: blocks (0,0), (0,1), (1,0), (1,1) of the tile. -/
  bits : List Bool
  uSpill : Dword
  gradTable : Dword
  xAddr : Dword
  xScale : Dword
  xPitch : Nat
  deriving DecidableEq, Repr

/-- Where an op came from: a placement of a queue entry, or a control processor (R77). -/
inductive Issuer where
  | queue (q k slot : Nat)
  | hart (launchQueue : Option Nat)
  deriving DecidableEq, Repr

/-- How far an engine op has come. -/
inductive OpPhase where
  | queued
  | running
  | baseDone
  | written
  deriving DecidableEq, Repr

/-- An engine op (R72, R77) with what it read at its acceptance. -/
structure EOp where
  ticket : Nat
  desc : List Dword
  ctx : Nat
  issuer : Issuer
  /-- Rein label fixed at the issue (R264). -/
  label : Nat
  srCtr : Option Dword
  histFloor : Option Int
  tags : Option TagBlock
  mask : Option MaskBlock
  /-- Place in the core's accept order (R130). -/
  seq : Nat
  phase : OpPhase
  headChecked : Bool
  tile : Nat
  armedAt : Option Nat
  /-- True while the op waits for a later pass and the wait has been counted (R65). -/
  waitCounted : Bool
  downDone : Bool
  upDone : Bool
  baseAt : Nat
  doneAt : Nat
  /-- Codes given for the op, each once (R75), and the slots whose rows the down step missed (R147). -/
  codes : List Nat
  missedSlots : List Nat
  /-- Requests to other instances that the op's writes have made: its completion waits for their answers (R77, R166). -/
  sent : List (Nat × Nat)
  deriving DecidableEq, Repr

/-- An op on its way from the front end to an engine (R250): descriptor offset, context and issuer. -/
structure Placement where
  desc : Nat
  ctx : Nat
  issuer : Issuer
  label : Nat
  gen : BitVec 32
  deriving DecidableEq, Repr

structure Engine where
  cur : List Byte
  nextTile : List Byte
  /-- Byte offsets of CUR and NEXT that came from a line with an uncorrectable error (R75). -/
  curBad : List Nat
  nextBad : List Nat
  /-- The op whose tile stands in NEXT, by its ticket. -/
  nextOp : Option Nat
  stream : List Byte
  /-- The Parade op for whose first tile the streaming buffer holds the rows (R65). -/
  strFor : Option Nat
  bank0 : Tab Word
  bank1 : Tab Word
  arrivals : List Placement
  /-- Ops waiting (at most 16), and ops started and not complete, each in issue order. -/
  queue : List EOp
  active : List EOp
  /-- Tickets refused or ended early and not yet counted complete; those of them that the core's control processor issued. -/
  refused : List Nat
  refusedHart : List Nat
  issued : BitVec 16
  done : BitVec 16
  lastErr : Nat
  waiting : Bool
  /-- The last tile of the tree that this engine has seen pass. -/
  seen : Nat
  deriving DecidableEq, Repr

/-- A vector program queued or running (R85). -/
structure VProg where
  ticket : Nat
  pc : Nat
  ctx : Nat
  label : Nat
  /-- Codes given for the program, each once (R75). -/
  codes : List Nat
  deriving DecidableEq, Repr

structure Vec where
  /-- v0 to v31 by 512 × register + lane; p1 to p7 by 512 × register + lane; a0 to a7. -/
  v : Tab Word
  p : Tab Bool
  a : Tab Dword
  queue : List VProg
  run : Option VProg
  /-- Tickets of programs dropped and not yet counted complete. -/
  refused : List Nat
  issued : BitVec 16
  done : BitVec 16
  lastErr : Nat
  deriving DecidableEq, Repr

/-- A binding of an adapter slot (R134). -/
structure Binding where
  ctx : Nat
  fmt : Nat
  rc64 : Bool
  users : Nat
  alpha : Word
  missLimit : Nat
  frameBase : Nat
  frames : Nat
  deriving DecidableEq, Repr

/-- A panel present in a slot's ring: its index, the uses counted, and its first frame (R145, R146). -/
structure Panel where
  index : Nat
  uses : Nat
  frame : Nat
  deriving DecidableEq, Repr

/-- A placed prefetch (R135, R144). -/
structure Pref where
  seq : Nat
  loop : Bool
  seg : Nat
  cls : Nat
  tile : Nat
  lead : Nat
  first : Nat
  count : Nat
  src : Dword
  pitch : Nat
  /-- F, or none while no run of the active map carries the tile. -/
  fireAt : Option Nat
  /-- A prefetch with REPEAT 0 that has fired. -/
  once : Bool
  /-- The stride of the last firing: one firing in a stride, at the first clock of its phase (R144). -/
  firedIn : Option Nat
  deriving DecidableEq, Repr

/-- A fired prefetch that still writes panels (R145): its own number, the clock of its firing, its slot and its next panel. -/
structure Fire where
  id : Nat
  at_ : Nat
  slot : Nat
  pref : Pref
  next : Nat
  deriving DecidableEq, Repr

/-- A BIND (some) or UNBIND (none) deferred under R137, with the accept place of its op and its own PREFETCH entries. -/
structure Deferred where
  seq : Nat
  bind : Option Binding
  prefs : List Pref
  deriving DecidableEq, Repr

structure Slot where
  bound : Option Binding
  panels : List Panel
  prefs : List Pref
  deferred : List Deferred
  /-- Panel indices not yet arrived, once for each use already counted (R147). -/
  owed : List Nat
  deriving DecidableEq, Repr

/-- A step of an accepted op (R138 to R141): down or up, its op's place and engine, and its progress over panels. -/
structure Step where
  seq : Nat
  eng : Nat
  ticket : Nat
  up : Bool
  transposed : Bool
  /-- Next panel of the step, and slots that missed or had no valid row. -/
  t : Nat
  missed : List Nat
  /-- Busy clocks so far, and the clock after the last of them, the clock in which the unit took the step, or that of its last
  miss, whichever is latest (R140). -/
  busy : Nat
  busyEnd : Nat
  started : Bool
  arithDone : Bool
  doneAt : Nat
  /-- Ticks that the step has waited for its next panel, by slot (R147). -/
  waits : Tab Nat
  /-- The u rows of U_SPILL as they stood when a transposed down step began (R163). -/
  uRows : List (Nat × List Word)
  /-- Partial sums by 64 × row + column. -/
  part : Tab Word
  deriving DecidableEq, Repr

structure Adapter where
  slots : Tab Slot
  frames : Mem
  /-- Bytes of the frame store that came from failing lines: an element taken from one is NaN (R75). -/
  frameBad : List Nat
  u : Tab Word
  /-- Result buffers by (resKey × 64 + row) × 64 + column, with resKey = 65536 × engine + ticket of the op that the sums
  are for, and the rows that stand there as 64 × resKey + row. -/
  results : Tab Word
  resultRows : List Nat
  steps : List Step
  fires : List Fire
  /-- The clock from which the unit is free (R140, R141). -/
  busyTo : Nat
  seq : Nat
  lastErr : Nat
  /-- The clock in which a panel last became present (R311). -/
  panelAt : Option Nat
  deriving DecidableEq, Repr

/-- What stalls a hart (R87, R327, R402). -/
inductive Stall where
  | ticket (unit : Nat) (t : Nat)
  | fence
  | issue (unit : Nat)
  /-- An access to host or remote memory awaits its answer (R206, R445). -/
  | access
  deriving DecidableEq, Repr

/-- A launch on a core (R253). -/
structure Launch where
  queue : Nat
  entry : Nat
  pc : Dword
  arg : Dword
  ctx : Nat
  resetReq : Bool
  /-- The management clock at which RESET_REQ was set (R314). -/
  resetAt : Nat
  /-- CODE, once the firmware has written zh.launch. -/
  code : Option Nat
  /-- The virtual instance and generation of its command (R304). -/
  gen : Option (Nat × Nat)
  deriving DecidableEq, Repr

structure Hart where
  halted : Bool
  machine : Bool
  pc : Dword
  x : Tab Dword
  /-- Standard CSRs by number (mstatus, mtvec, mepc, mcause, mtval). -/
  csr : Tab Dword
  zhCtx : Nat
  launch : Option Launch
  waitingLaunches : List Launch
  extIrq : Bool
  stall : Option Stall
  /-- Load reservation (R292): the line. -/
  reservation : Option Nat
  notes : List Nat
  noteOverflow : Bool
  inbox : List (List Byte)
  deriving DecidableEq, Repr

structure Core where
  owner : Nat
  roleGen : BitVec 32
  scratch : Mem
  tags : Tab Bool
  poison : Tab Bool
  engines : Tab Engine
  vec : Vec
  adapter : Adapter
  hart : Hart
  /-- Bank whose place the core's spare bank has taken (R332). -/
  spareBank : Option Nat
  /-- The core whose place in the core order this one took as its substitute (R333). -/
  place : Option Nat
  /-- Compute clocks that a unit with started work has made no progress in, by unit (R310). -/
  watch : Tab Nat
  deriving DecidableEq, Repr

/-! ### Contexts, queues and fences (R230 to R263) -/

/-- A leaf that a pinned window covers: the window, an address that the leaf maps, its level and its entry (R208). -/
structure WinPin where
  win : Nat
  va : Nat
  level : Nat
  pte : Nat
  deriving DecidableEq, Repr

/-- STATE of a context descriptor (R231). -/
inductive CtxSt where
  | free
  | active
  | faulted
  | resetting
  | suspect
  deriving DecidableEq, Repr

structure Ctx where
  st : CtxSt
  pin : Bool
  gen : BitVec 8
  slice : Nat
  ptRoot : Nat
  winTable : Nat
  /-- Translations that the checks of its valid windows made, kept until a window is revoked or set anew (R208). -/
  pins : List WinPin
  label : Nat
  pasid : Nat
  heapBase : Nat
  heapPages : Nat
  heapMap : Nat
  allocVa : Nat
  srSeed : Dword
  srCtr : Dword
  sticky : Word
  firstCode : Nat
  lastCode : Nat
  errCount : Nat
  firstStamp : Dword
  fenceLow : Nat
  signalStale : Nat
  /-- Residence in the slice's context-cache partition: stamp of the last use (R237), and whether pinned there. -/
  cached : Option Nat
  pinned : Bool
  /-- RESET under way whose end is SUSPECT (R317). -/
  toSuspect : Bool
  deriving DecidableEq, Repr

/-- QSTATE (R238). -/
inductive QSt where
  | disabled
  | running
  | idle
  | stopped
  deriving DecidableEq, Repr

/-- A fetched command (R241): its words, and how far it has come. -/
structure Cmd where
  /-- Its entry number modulo 2^32, plus 2^32 for each time the queue had been enabled. -/
  k : Nat
  /-- The queue's context and Rein label when it was fetched. -/
  ctx : Nat
  label : Nat
  words : List Dword
  started : Bool
  finished : Bool
  completed : Bool
  /-- OPS: placements made so far, and tickets awaited as (core, engine, ticket). -/
  placed : Nat
  tickets : List (Nat × Nat × Nat)
  /-- GEN of the queue's virtual instance at the start (R304). -/
  gen : Option (Nat × Nat)
  /-- DMA and PREFETCH: tiles or pages done. -/
  progress : Nat
  deriving DecidableEq, Repr

structure Queue where
  ringBase : Nat
  ringLog2 : Nat
  enable : Bool
  cls : Nat
  label : Nat
  wdogScale : Nat
  wdogTicks : Nat
  ctx : Nat
  /-- CONTEXT has been written since the queue's reset (R9, R246). -/
  named : Bool
  st : QSt
  head : Word
  tail : Word
  done : Word
  refused : Word
  pending : Bool
  inline : List (Nat × List Dword)
  cmds : List Cmd
  /-- The model's own count of ENABLE set, which keeps entries of one enabling apart from those of the next (R238). -/
  epoch : Nat
  /-- Phase ticks that the watchdog has run since it last restarted (R263). -/
  wdog : Nat
  /-- The virtual instance the queue is bound to (R303). -/
  vi : Option Nat
  deriving DecidableEq, Repr

structure Fence where
  value : Dword
  setUp : Bool
  owner : Nat
  nvalid : Bool
  ncore : Nat
  ngen : BitVec 32
  mirror : Dword
  key : Word
  exported : Bool
  deriving DecidableEq, Repr

/-! ### Translation and memory (R199 to R229) -/

/-- A cached page-table entry (R205). -/
structure TlbEntry where
  ctx : Nat
  gen : BitVec 8
  level : Nat
  va : Nat
  pte : Dword
  deriving DecidableEq, Repr

/-- A fault not yet written to the fault ring (R211, R213). -/
structure FaultRec where
  va : Nat
  cause : Nat
  level : Nat
  write : Bool
  adv : Nat
  queue : Nat
  gen : BitVec 8
  agent : Nat
  ctx : Nat
  stamp : Dword
  channel : Nat
  deriving DecidableEq, Repr

/-- A transfer of a DMA agent (R210). -/
structure Dma where
  agent : Nat
  channel : Nat
  queue : Nat
  k : Nat
  ctx : Nat
  label : Nat
  gen : Option (Nat × Nat)
  src : Nat
  dst : Nat
  bytes : Nat
  /-- Bytes moved so far. -/
  pos : Nat
  /-- The page waited on after a fault. -/
  waits : Option Nat
  /-- A host or remote request outstanding for the next bytes: how many, and the bytes before them in a remote answer's line. -/
  fetch : Option Nat
  skip : Nat
  /-- Bytes that came for a destination page which migrates (R220). -/
  data : List Byte
  deriving DecidableEq, Repr

/-- A pending free (R228). -/
structure PendFree where
  ctx : Nat
  va : Nat
  pages : Nat
  points : List (Nat × Word)
  deriving DecidableEq, Repr

/-- What waits for an invalidation: the registers' GO, a migration, an ADVISE by queue and entry, a free with the pages that
its leaves named, a virtual instance's reset, or a reconfiguration action (R184, R216, R220, R221, R228, R305). -/
inductive InvalUse where
  | reg
  | migrate
  | advise (q k : Nat)
  | free (p : PendFree) (pages : List Nat)
  | vi (v : Nat)
  | reconf
  deriving DecidableEq, Repr

/-- An invalidation (R216): context (none: all of the slice), first byte, length in bytes (0: all), GEN_BUMP. -/
structure Inval where
  ctx : Option Nat
  va : Nat
  len : Nat
  bump : Bool
  use : InvalUse
  deriving DecidableEq, Repr

/-- The page that migrates (R220): its PREFETCH by queue and entry, its leaf's place and old value, its list entry's place and
value, whether it goes to host, the bytes copied so far, and whether the copy waits on a fault. -/
structure Migr where
  q : Nat
  k : Nat
  ctx : Nat
  va : Nat
  leafAt : Nat
  leaf : Nat
  listAt : Nat
  target : Nat
  toHost : Bool
  /-- The command's class label. -/
  label : Nat
  off : Nat
  /-- Writes to host memory that have not left the host port. -/
  unsent : Nat
  waits : Bool
  /-- The copy is made and the leaf written: the invalidation of step 6 is under way. -/
  copied : Bool
  deriving DecidableEq, Repr

structure XlatRegs where
  invalVa : Dword
  invalLen : Dword
  go : Bool
  overrun : Bool
  genBump : Bool
  allCtx : Bool
  ctx : Nat
  invalDone : Word
  faultBase : Dword
  faultSize : Nat
  faultHead : Word
  faultTail : Word
  held : List FaultRec
  resumeAbort : Bool
  resumeGen : BitVec 8
  resumeCtx : Nat
  poolBase : Dword
  poolSize : Nat
  poolHead : Nat
  poolCount : Nat
  poolRefused : Nat
  tlb : List TlbEntry
  invals : List Inval
  /-- What the invalidation under way still waits for: transfers by agent, channel and position, and window requests by tag. -/
  invalDmas : List (Nat × Nat × Nat)
  invalTags : List Nat
  frees : List PendFree
  migrating : Option Migr
  deriving DecidableEq, Repr

structure DevMem where
  /-- Plaintext by GROUP × 2^37 + OFFSET, under the key generation of its line (0: none). -/
  bytes : Mem
  keyGen : Tab Nat
  poison : Tab Bool
  deriving DecidableEq, Repr

/-- A key selector (R223): its holder (0 none) and the generation of its key pair. -/
structure KeySel where
  holder : Nat
  gen : Nat
  deriving DecidableEq, Repr

/-! ### Slices (R178 to R194) and the per-slice register blocks -/

/-- STATE of a slice (R178). -/
inductive SliceSt where
  | none
  | active
  | changing
  deriving DecidableEq, Repr

/-- REQ_ACTION (R178). -/
inductive Action where
  | create
  | resize
  | remove
  | firmware
  deriving DecidableEq, Repr

/-- Context and fence registers of a slice (R233, R254). -/
structure CtxRegs where
  table : Dword
  first : Nat
  count : Nat
  ctrlOp : Nat
  ctrlResult : Nat
  ctrlCtx : Nat
  ctrlGo : Bool
  faultAny : Bool
  lastFaulted : Nat
  fenceFirst : Nat
  fenceCount : Nat
  fenceMirror : Dword
  fenceValue : Dword
  fenceKey : Word
  fenceOp : Nat
  fenceResult : Nat
  fenceIdx : Nat
  fenceExport : Bool
  fenceNotify : Word
  deriving DecidableEq, Repr

/-- The queue arbiter of a slice (R239). -/
structure Arbiter where
  /-- Where round-robin goes on in each class: one past the last queue served. -/
  nextRt : Nat
  nextStd : Nat
  nextBulk : Nat
  bulkWait : Nat
  granted : Option (Nat × Nat)
  deriving DecidableEq, Repr

/-- A class's accounting in the window (R269). -/
structure ReinWin where
  n : Nat
  m : Nat
  largest : Nat
  bytes : Nat
  deriving DecidableEq, Repr

structure Rein where
  settings : Tab Dword
  staged : Tab Dword
  /-- L_c by 16 × point + class, points 0 to 63 the cores, 64 the front-end DMA agent, 65 the walker slot. -/
  est : Tab Nat
  prio : Tab Nat
  win : Tab ReinWin
  records : Tab ReinWin
  missed : BitVec 16
  missStride : BitVec 48
  pending : Bool
  missWindows : Nat
  /-- Slot positions of the ring, FP0 to FP3, the host port and FED (R273). -/
  positions : Tab Dword
  deriving DecidableEq, Repr

/-- A suspect list and turn (R324, R325). -/
structure Replay where
  core : Nat
  unit : Nat
  left : List Nat
  turn : Option Nat
  turnStride : Nat
  /-- A turn has begun: the unit is reserved (R327). -/
  reserved : Bool
  deriving DecidableEq, Repr

/-- An engine rung whose steps 2 to 4 are under way: unit, cause, suspects, and T of its event (R317). -/
structure EngRung where
  core : Nat
  unit : Nat
  cause : Nat
  suspects : List Nat
  stamp : Dword
  deriving DecidableEq, Repr

structure LadderRegs where
  rung : Nat
  cause : Nat
  unit : Nat
  core : Nat
  stride : BitVec 48
  irqTurn : Bool
  irqEvent : Bool
  ctrlCtx : Nat
  replay : Option Replay
  waitingReplays : List Replay
  crashBase : Dword
  crashSize : Nat
  crashSeq : Nat
  crashNext : Nat
  sampleRanges : List Byte
  suspects : List Nat
  /-- A crash record under way: its offset in the area, its bytes, and the lines of it to be written poisoned (R323). -/
  sampling : Option (Nat × List Byte × List Nat)
  /-- Management clocks that the record under way has taken, outside level 5, and those that it needs, a free value (R323). -/
  sampleRan : Nat
  sampleFor : Nat
  /-- The last rung begun, and the management clocks since its start, outside level 5 (R315, R316). -/
  busy : Option (Nat × Nat)
  engRung : Option EngRung
  /-- A replay has run: SUSPECTS has its padding (R321). -/
  replayed : Bool
  /-- The slice's coherent domain is lost, until its rung is done (R296, R322). -/
  lost : Bool
  deriving DecidableEq, Repr

/-- STATE of a securing job (R339). -/
inductive JobSt where
  | off
  | armed
  | copying
  | restoring
  | restoreFailed
  deriving DecidableEq, Repr

structure Region where
  key : Nat
  addr : Nat
  len : Nat
  deriving DecidableEq, Repr

structure Manifest where
  ctxs : List Nat
  regions : List Region
  deriving DecidableEq, Repr

/-- How far a copy has come (R345): each step but the first waits for the acknowledgement of the one before. -/
inductive CopyPh where
  | opening
  | zeroing
  | body
  | trailer
  | acked
  deriving DecidableEq, Repr

/-- The start of an attempt (R345), as the clock (s, START) found it: that compute clock, f, s, the SR snapshot and the regions'
bytes of the last signal, and the result that the attempt had at once (0: none). -/
structure CopyStart where
  clk : Nat
  step : Dword
  stride : BitVec 48
  sr : List (Nat × Dword × Dword)
  held : List Byte
  verdict : Nat
  deriving DecidableEq, Repr

/-- A copy under way (R345): the stream's tag, its start, the bank, and the bytes of its body streamed so far. -/
structure Copy where
  tag : Nat
  ph : CopyPh
  start : CopyStart
  bank : Nat
  sent : List Byte
  /-- The management clock of the last response (R347). -/
  heardAt : Nat
  deriving DecidableEq, Repr

/-- How far a restore has come (R349): a stream opened to a bank for its trailer or its body, what it reads, and the result. -/
inductive RestPh where
  | opening (bank : Nat) (forBody : Bool)
  | trailer (bank : Nat)
  | body (bank : Nat)
  | ended (result : Nat)
  deriving DecidableEq, Repr

/-- A restore under way (R349): its manifest, the trailers read, the candidate banks still to try, and the bytes received of
what was asked for last. -/
structure Restore where
  tag : Nat
  ph : RestPh
  manifest : Manifest
  trailers : List (List Byte)
  left : List Nat
  bytes : List Byte
  heardAt : Nat
  deriving DecidableEq, Repr

structure Job where
  st : JobSt
  manifestAddr : Dword
  fences : Word
  window : Dword
  partner : Dword
  port : Nat
  force : Bool
  cls : Nat
  restoreFrom : Dword
  lastStep : Dword
  valid : Bool
  bank : Nat
  result : Nat
  lastStride : BitVec 48
  partnerFeed : Nat
  pair : Nat
  copies : Nat
  late : Nat
  failed : Nat
  restores : Nat
  /-- What the last ARM read (R339, R340). -/
  armed : Option Manifest
  armedFences : Word
  armedWindow : Dword
  armedAddr : Dword
  /-- The job's window has opened, and its attempt has not begun (R345). -/
  startDue : Option CopyStart
  /-- SR snapshot: (context, SR_SEED, SR_CTR) (R344). -/
  snapshot : List (Nat × Dword × Dword)
  /-- The regions' bytes at the last signal of STEP_FENCE: a copy that meets others meets a breach of R344. -/
  held : List Byte
  copy : Option Copy
  restore : Option Restore
  /-- STATE before a restore. -/
  before : JobSt
  /-- PARTNER was written during a copy: VALID is cleared when the copy ends (R339). -/
  clearValid : Bool
  /-- The management clocks at which the restores began whose refill exposure runs (R351). -/
  exposed : List Nat
  deriving DecidableEq, Repr

/-- Life-cycle entries of a slice (R368, R374, R377). -/
structure SliceSec where
  consent : Bool
  fwDigest : BitVec 384
  fwUnsigned : Bool
  fwAddr : Option Dword
  adapterDigest : BitVec 384
  extendStatus : Nat
  extendRange : Nat × Nat
  /-- The management clock from which EXTEND_STATUS reads 2 (R377). -/
  extendAt : Nat
  sealTag : List Byte
  sealIndex : Nat
  sealStatus : Nat
  keyLast : Nat
  deriving DecidableEq, Repr

/-- The slice's counter set (R151, R152, R299). -/
structure Counters where
  engLateStart : Nat
  adaptWait : Nat
  adaptMisses : Nat
  adaptTagRows : Nat
  adaptLoadRefused : Nat
  prefetchNoTile : Nat
  prefetchBytes : Nat
  cohNacks : Nat
  cohParked : Nat
  cohFilterEvicts : Nat
  cohPoisoned : Nat
  deriving DecidableEq, Repr

structure Slice where
  st : SliceSt
  hold : Holdings
  groupsPending : BitVec 32
  mapAddr : Dword
  pendingStride : Dword
  ledger : List Byte
  ledgerSeq : Nat
  nonce : List Byte
  nonceLedger : List Byte
  nonceStatus : Nat
  nonceAt : Nat
  ctxr : CtxRegs
  xlat : XlatRegs
  arb : Arbiter
  rein : Rein
  ladder : LadderRegs
  jobs : Tab Job
  holdAreas : Tab (List Byte)
  secureIrq : BitVec 8
  sec : SliceSec
  cnt : Counters
  cohProgress : Nat
  cohNext : Nat
  holdClk : Nat
  holdNext : Nat
  viRange : Word
  shedTraining : Bool
  aptValid : Bool
  aptKey : Nat
  deriving DecidableEq, Repr

/-- An accepted request (R179). -/
structure Request where
  act : Action
  slice : Nat
  hold : Holdings
  fw : Dword
  ticket : Nat
  stride : Nat
  /-- Outside the 8 of R179 and ahead of them (R318, R333), with the core or group of a substitution. -/
  ahead : Bool
  subst : Option (Bool × Nat × Nat)
  deriving DecidableEq, Repr

/-- The running action (R184): its request, its stage, and the slice's holdings as they were. -/
structure Running where
  req : Request
  stage : Nat
  old : Holdings
  /-- Stages 6 and 7 only: the joining of scrubbed groups (R186); for slice 0 the re-establishment of every slice (R319). -/
  joinOnly : Option (BitVec 32)
  /-- The stride of the window in which it began. -/
  win : Nat
  deriving DecidableEq, Repr

structure Recon where
  window : Dword
  notice : Nat
  reqAction : Nat
  reqSlice : Nat
  reqHold : Holdings
  reqFw : Dword
  status : Nat
  refusal : Nat
  ticket : Nat
  actionStride : Nat
  pend : List Request
  /-- Commits that await the end of a life-cycle transition: endpoint and tag (R360). -/
  heldCommits : List (Nat × Byte)
  run : Option Running
  /-- The window, by its stride, in which the next action met a case of R182. -/
  deferred : Option Nat
  /-- Groups whose scrub is outstanding (R186). -/
  scrubbing : List Nat
  /-- Granted groups that join in no action of a window, with the window, by its stride (R182, R186). -/
  joinLater : List (Nat × Nat)
  wayOwner : Tab Nat
  groupOwner : Tab Nat
  queueOwner : Tab Nat
  /-- One more than the shim behind a logical group, where Farrier has moved it (R333); 0: the group's own. -/
  shims : Tab Nat
  deriving DecidableEq, Repr

/-! ### Coherence (R276 to R299) -/

/-- State of a line in a cache (R281). -/
inductive LineSt where
  | m
  | e
  | s
  | f
  deriving DecidableEq, Repr

/-- A line in a cluster cache or a privileged agent: its state, its plaintext and the key generation it was filled under; in a
cluster cache, its way and its place in the pseudo-LRU order of its set: 0 first to evict, 1 not used lately, 2 used (R73, R89). -/
structure CLine where
  agent : Agent
  line : Nat
  st : LineSt
  data : BitVec 1024
  key : Nat
  way : Nat
  age : Nat
  /-- Compute clock at which the hold ends (R291). -/
  holdTo : Nat
  deriving DecidableEq, Repr

/-- Requests at a home (R283). -/
inductive CohReq where
  | rds
  | rdx
  | wrline (alloc : Bool) (data : BitVec 1024)
  | uncrd
  | uncwr (off : Nat) (bytes : List Byte)
  | atomic (off : Nat) (op : AtomicOp) (a b : Dword)
  | wb
  | evict
  deriving DecidableEq, Repr

/-- Snoops (R283). -/
inductive Snoop where
  | shared
  | own
  | cur
  deriving DecidableEq, Repr

/-- Messages in flight in a domain (R283). A response carries the state after the snoop (none: I), whether data went to the
requester (FWD), data for the home (WBD), and whether a WB of the line is in flight (WBF). -/
inductive CohMsg where
  | snoop (dst : Agent) (line : Nat) (s : Snoop) (requester : Agent)
  | rsp (src : Agent) (line : Nat) (st : Option LineSt) (fwd : Bool) (wbd : Option (BitVec 1024)) (wbf : Bool)
  | data (dst : Agent) (line : Nat) (st : Option LineSt) (d : BitVec 1024) (key : Nat)
  | nack (dst : Agent) (line : Nat)
  | ack (src : Agent) (line : Nat)
  | cmpwb (dst : Agent) (line : Nat)
  | poison (dst : Agent) (line : Nat)
  deriving DecidableEq, Repr

/-- A snoop-filter entry (R282): OWNED by an agent, or SHARED; stamped for least-recently-used replacement. -/
structure Filt where
  owner : Option Agent
  used : Nat
  deriving DecidableEq, Repr

/-- A busy line's transaction (R287): the agents whose response is awaited since a clock (R295), what the responses have brought,
and the line whose filter entry must first be free (R282). -/
structure Txn where
  req : CohReq
  requester : Agent
  key : Nat
  snoops : List Agent
  fwd : Bool
  wbd : Option (BitVec 1024)
  kept : Bool
  acked : Bool
  since : Nat
  waitsFor : Option Nat
  auto : Bool
  deriving DecidableEq, Repr

/-- How far a request has come: it is on its way, it was answered with Nack, or the home serves it. -/
inductive WantSt where
  | sent
  | nacked
  | served
  deriving DecidableEq, Repr

/-- A request whose requester still waits: the key generation of its access, the clock of a delayed retry, and the clock of its
first try (R287, R290, R295). `auto`, here and in its transaction, for an access of the model's own agents: its messages need no
commands. -/
structure Want where
  agent : Agent
  line : Nat
  req : CohReq
  key : Nat
  retryAt : Option Nat
  since : Nat
  st : WantSt
  auto : Bool
  deriving DecidableEq, Repr

/-- A line in a write-back buffer; `taken` once a snoop was answered from it; `accepted` once its CmpWB is on its way (R286). -/
structure WbEntry where
  agent : Agent
  line : Nat
  data : BitVec 1024
  key : Nat
  taken : Bool
  accepted : Bool
  deriving DecidableEq, Repr

structure Coh where
  lines : List CLine
  filter : Tab Filt
  busy : Tab Txn
  msgs : List CohMsg
  wbuf : List WbEntry
  parks : List (Agent × Nat × Snoop × Agent)
  waiting : List Want
  /-- A home's request queue: requests of uncached requesters and write-backs that wait behind a busy line (R287). -/
  uncQueue : List Want
  /-- The retry order of a line (R289). -/
  retry : Tab (List Agent)
  /-- Lines reserved for the oldest Nacked request: line, agent, the clock of the lapse. -/
  reserved : List (Nat × Agent × Nat)
  /-- Data-cache lines of the control processors: core, line, state. A line's core-presence vector is the cores listed. -/
  dcache : List (Nat × Nat × LineSt)
  /-- The last value returned to an uncached requester: agent, line, data. -/
  returned : List (Agent × Nat × BitVec 1024)
  /-- Writes of the block's own that wait until their line is free, oldest first: key generation, place, bytes within one line
  (R287, R291). -/
  late : List (Nat × Nat × List Byte)
  /-- The model's own counter of random retry delays (R290). -/
  draws : Nat
  deriving DecidableEq, Repr

/-! ### Virtual instances (R300 to R309) -/

/-- STATE of a virtual instance (R301). -/
inductive ViSt where
  | free
  | active
  | resetting
  | removing
  deriving DecidableEq, Repr

structure Vi where
  pasid : Nat
  op : Nat
  result : Nat
  go : Bool
  st : ViSt
  gen : BitVec 16
  qbUnbind : Bool
  qbResult : Nat
  qbQueue : Nat
  qcount : Nat
  dropped : Nat
  /-- The step of R305 under way, 3 or 4, or 0; and the contexts of its steps 3 and 4. -/
  step : Nat
  ctxs : List Nat
  deriving DecidableEq, Repr

/-! ### The ladder's shared part (R310 to R336) -/

structure Ladder where
  engWdogLog2 : Nat
  sampleLimit : Nat
  launchGrace : Nat
  turnLimit : Nat
  feWdog : Nat
  trayHold : Nat
  cohSnoopTimeout : Nat
  cohReqTimeout : Nat
  farrier : Bool
  ceLimit : Nat
  hangLimit : Nat
  /-- Unit watchdog expiries and heartbeats reported, awaiting their rung: (core, unit, cause, T of the event). -/
  dueUnit : List (Nat × Nat × Nat × Dword)
  /-- Slice rungs that are due: (slice, cause, compute clock, T of the event). -/
  dueSlice : List (Nat × Nat × Nat × Dword)
  /-- A rung 4 or 5 that is due: cause, T of the event. -/
  dueBlock : Option (Nat × Dword)
  duePower : Option (Nat × Dword)
  trayFrom : Option Nat
  trayReq : Bool
  /-- Unexplained hangs by 8 × core + unit (R326). -/
  hangs : Tab Nat
  retCores : BitVec 64
  retGroups : BitVec 32
  usedWays : BitVec 8
  usedBanks : BitVec 64
  refusedClusters : BitVec 8
  /-- Management cores: the clocks of watchdog expiries in the last hour, and those that stay halted. -/
  mgmtExp : List (Nat × Nat)
  mgmtHalted : List Nat
  /-- A block-compute rung is in progress: the management clocks that count toward its bound (R315). -/
  blockBusy : Option Nat
  /-- Cores that Farrier is to substitute once no rung is in progress on them (R331). -/
  substDue : List Nat
  /-- Copies of banks to spare banks: core, bank, lines still to copy (R332); ways whose substitution waits: cluster, way (R404); copies
  of groups to spares' shims: group, spare, bytes still to copy (R333). -/
  bankCopies : List (Nat × Nat × Nat)
  wayDue : List (Nat × Nat)
  groupCopies : List (Nat × Nat × Nat)
  /-- Corrected errors of the last hour: macro, management clock (R331, R427). -/
  corrected : List (Nat × Nat)
  deriving DecidableEq, Repr

/-! ### Life cycle (R354 to R381) -/

/-- What a transition does, in order (R361 to R363). -/
inductive BurnStep where
  | bit (n : Nat)
  | drawRoot
  | rootCheck
  | eraseSeal
  | restart
  deriving DecidableEq, Repr

structure Life where
  lcs : Nat
  svn : Nat
  debugOpen : Bool
  rights : Word
  dslices : Word
  closeStride : Dword
  challenge : List Byte
  cert : List Byte
  debugResult : Nat
  transReq : List Byte
  transResult : Nat
  rngFault : Bool
  burn : List BurnStep
  tries : Nat
  /-- The alias key, once it exists, and the alias certificate signed at start-up (R371, R375). -/
  aliasKey : Option (List Byte)
  aliasCert : List Byte
  /-- The last debug readout: allowed, and the bytes. -/
  readout : Option (List Byte)
  deriving DecidableEq, Repr

/-! ### Start-up and power (R382 to R406) -/

structure StartUp where
  stage : Nat
  fault : Nat
  slot : Nat
  fellBack : Bool
  released : Bool
  configDigest : BitVec 384
  mgmtFwDigest : BitVec 384
  imageSvn : Nat
  clusterEn : BitVec 8
  maxSlices : Nat
  serial : Dword
  droopCal : List Int
  thermTrim : List Int
  /-- The valid entries of REPAIR: SRAM macro and column group (R386). -/
  repairs : List (Nat × Nat)
  /-- Memory behind each channel group in MiB (R389). -/
  memMib : Tab Nat
  commons : List Nat
  inst : Nat
  instCount : Nat
  lead : Bool
  /-- LEVEL_MAX received from other members of the package (R432). -/
  levelMax : Tab Nat
  level : Nat
  behaviourReq : Nat
  lost : List Nat
  leadLost : Bool
  mcpInit : Tab Bool
  /-- Management clocks since MGT_RST_N rose, up to the 10 µs that count, and the level of CFG_RST_N (R450). -/
  rstClks : Nat
  cfgRstN : Bool
  imageList : Dword
  imageCount : Nat
  imageStatus : Nat
  imageLeft : Nat
  imageBytes : List Byte
  deriving DecidableEq, Repr

structure Power where
  req : Tab Bool
  ack : Tab Bool
  on : Tab Bool
  failed : Tab Bool
  /-- Management clocks of the rise of PD_REQ, of the end of a power-up under way, and of the last end of one, by domain (R394,
  R396, R439). -/
  reqAt : Tab Nat
  upAt : Tab Nat
  onAt : Tab Nat
  upWait : List Nat
  downWait : List Nat
  /-- Column groups that the spares of SRAM macros replace, by macro, as loaded (R386, R394). -/
  repaired : Tab (List Nat)
  codes : List Nat
  maxDroop : List Nat
  warn : Bool
  /-- The management clock in which POWER_WARN rose; it has been asserted for WARN_HALT (R400). -/
  warnAt : Nat
  warnHalted : Bool
  level : Nat
  cause : Nat
  mgmtStamp : Bool
  changes : Nat
  time : Dword
  shutdown : Bool
  shutdownReady : Bool
  exitFrom : Option Nat
  /-- The compute clock in which level 4 was reached, while it lasts (R402). -/
  parkedAt : Option Nat
  shedMv : List Nat
  hystMv : Nat
  exitHold : Nat
  warnHalt : Nat
  dmEnable : BitVec 8
  pdTimeout : Nat
  pdWave : Nat
  deriving DecidableEq, Repr

/-! ### The object dictionary's own part (R407 to R434) -/

structure EidBinding where
  eid : Nat
  role : Nat
  slices : Word
  deriving DecidableEq, Repr

/-- An event to report, and one queued with its number and the endpoints that have acknowledged it (R419, R420). -/
structure Ev where
  seq : Nat
  code : Nat
  pkgSlice : Nat
  package : Nat
  time : Dword
  arg0 : Dword
  arg1 : Dword
  acked : List Nat
  /-- The management clock at which it was last sent (R420). -/
  sentAt : Nat := 0
  deriving DecidableEq, Repr

/-- A dictionary response (R414). -/
structure DictRsp where
  eid : Nat
  kind : Nat
  tag : Byte
  index : Nat
  sub : Nat
  code : Nat
  reason : Nat
  data : List Byte
  deriving DecidableEq, Repr

structure Tally where
  /-- Every tally and histogram bin by 256 × index + subindex (R425 to R428). -/
  t : Tab Nat
  saveSeq : Nat
  /-- A save under way: its record. -/
  saving : Option (List Byte)
  savePending : Bool
  lastSaveAt : Option Nat
  /-- The stride of the last checkpoint: one in a stride (R107). -/
  checkedIn : Option Nat
  /-- The management clock of the last save that 600 s of UNLOCKED triggered (R429). -/
  unlockedAt : Nat
  /-- The management clocks at which the last interval of the droop histograms, the last of the temperature histograms and the last
  minute of POWER_ON_MIN ended (R425, R426). -/
  droopAt : Nat
  tempAt : Nat
  minuteAt : Nat
  deriving DecidableEq, Repr

/-! ### Ports (R435 to R454) -/

/-- A flit (R441, R442). -/
structure Flit where
  /-- On a FED link: DST_INSTANCE, SRC_INSTANCE and FORWARDED of the control word (R444). -/
  fed : Option (Nat × Nat × Bool) := none
  kind : Nat
  cls : Nat
  package : Nat
  slice : Nat
  tag : Nat
  body : List Byte
  deriving DecidableEq, Repr

/-- States of a link (R423, R443). -/
inductive LinkSt where
  | down
  | training
  | up
  | failed
  deriving DecidableEq, Repr

structure Link where
  st : LinkSt
  phy : Bool
  seqTx : Nat
  seqRx : Nat
  /-- Flits sent and not known to have arrived: SEQ, times replayed, and the flit. -/
  replay : List (Nat × Nat × Flit)
  reqCredits : Nat
  rspCredits : Nat
  retrainAt : List Nat
  /-- The management clock in which training began (R443). -/
  trainAt : Nat
  deriving DecidableEq, Repr

/-- What an outstanding remote request of this block is for (R442). -/
inductive RemoteUse where
  | dma (agent channel : Nat) (write : Bool)
  | fence (q k : Nat)
  | message (core : Nat)
  | stream (slice job : Nat)
  /-- A write through a window, by context and context address; a read of a unit of a core (0 to 3 the engines, 4 the adapter
  unit's steps, 5 its fill port, 6 the vector unit). -/
  | window (ctx va : Nat)
  | winRead (core unit ctx va : Nat)
  /-- An 8-byte swap with zero for a unit of a core (R175). -/
  | winTake (core unit ctx va : Nat)
  /-- A page of a slice on its way to host memory. -/
  | migrate (slice : Nat)
  /-- Control-processor accesses: register, width, first byte within the answer, and the context address. -/
  | load (core rd log2 : Nat) (unsigned : Bool) (at_ va : Nat)
  | store (core va : Nat)
  | atomic (core rd va : Nat)
  deriving DecidableEq, Repr

/-- How a window access of a unit was answered (R206, R298, R442); `taken` is the record that one 8-byte access read and zeroed,
with the code it gave (R175). -/
inductive LineAns where
  | data (bytes : List Byte)
  | refused
  | poison
  | taken (va value code : Nat)
  /-- The access has passed its regulation points, or the walker slot for its page (R265). -/
  | passed
  | walked
  deriving DecidableEq, Repr

/-- A line that a unit of a core has read through a window: context, and context address over 128. -/
structure WinLine where
  core : Nat
  unit : Nat
  ctx : Nat
  line : Nat
  ans : LineAns
  deriving DecidableEq, Repr

/-- What an outstanding host read is for (R445). -/
inductive HostUse where
  | dma (agent channel : Nat)
  | baseList
  | baseData (len : Nat) (addr : Nat)
  | stageList
  | stageData (len : Nat) (addr : Nat)
  | imageList
  | imageData (len : Nat) (addr : Nat)
  | migrate (slice : Nat)
  | load (core rd log2 : Nat) (unsigned : Bool) (va : Nat)
  /-- What asked for it has ended meanwhile. -/
  | stale
  deriving DecidableEq, Repr

structure HostRead where
  addr : Nat
  len : Nat
  pasid : Nat
  use : HostUse
  deriving DecidableEq, Repr

/-- Who makes a request: its class label, and its measurement point: core 0 to 63, 64 the front-end DMA agent, 65 the walker
(R264, R266). -/
structure Maker where
  label : Nat
  point : Nat
  deriving DecidableEq, Repr

/-- What a request that waits at a port sends; a host write may be one that a transfer, by agent and channel, waits for. -/
inductive PortWhat where
  | flit (f : Flit)
  | read (r : HostRead)
  | write (addr : Nat) (bytes : List Byte) (pasid : Nat) (dma : Option (Nat × Nat))
  /-- An access of a unit of the maker to a line of the block's own memory (0 to 6 as for `RemoteUse`, 7 the hart, from 8 on the
  transfer slots), by context and context address. -/
  | mem (unit ctx va : Nat)
  /-- A walk for an access of a unit. -/
  | walk (unit ctx va : Nat)
  deriving DecidableEq, Repr

/-- A slice's request at a regulation point (R265): the path (0 to 3 FP0 to FP3, 4 and 5 FED east and west, 6 the host port, 7 the
walker slot, 8 to 39 the shim queue of a channel group, from 40 on the ring stops of the clusters, the front end and the translation
unit), who made it and its place in the measurement-point order, its stamped priority (R267), the compute clock in which it arrived,
the address that orders it among its maker's (R268), the generation of its queue's virtual instance (R304), and what it sends. -/
structure PortReq where
  path : Nat
  slice : Nat
  by_ : Maker
  order : Nat
  prio : Nat
  at_ : Nat
  addr : Nat
  gen : Option (Nat × Nat)
  what : PortWhat
  deriving DecidableEq, Repr

/-- A stream whose holding side this block is (R342, R350). -/
structure InStream where
  port : Nat
  package : Nat
  slice : Nat
  tag : Nat
  addr : Nat
  key : Nat
  len : Nat
  pos : Nat
  reading : Bool
  deriving DecidableEq, Repr

/-- A remote write whose data is still arriving (R442). -/
structure InWrite where
  port : Nat
  src : FlitSrc
  addr : Nat
  left : Nat
  deriving DecidableEq, Repr

/-- Uncached requests that wait at their homes for a line that is busy, held or reserved (R287, R289, R291): those of links, and
those of the host's aperture. -/
inductive HomeUse where
  | rd (port : Nat) (src : FlitSrc) (addr bytes : Nat)
  | wr (port : Nat) (src : FlitSrc) (w : InWrite) (bytes : List Byte)
  | atomic (port : Nat) (src : FlitSrc) (addr : Nat) (op : AtomicOp) (x y : Dword)
  | aperture (off len : Nat) (wdata : Option (List Byte))
  deriving DecidableEq, Repr

/-- What the block has driven at its ports (R3), newest first. -/
inductive Out where
  | flit (port : Nat) (f : Flit)
  | link (port op seq : Nat)
  | hostRead (tag addr len pasid : Nat)
  | hostWrite (addr : Nat) (bytes : List Byte) (pasid : Nat)
  | irq (vector : Nat)
  | dict (r : DictRsp)
  | event (eid : Nat) (e : Ev)
  | spdm (eid code : Nat) (body : List Byte)
  | mctp (eid code : Nat) (body : List Byte)
  | aperture (data : Option (List Byte))
  | aperturePoison
  deriving DecidableEq, Repr

structure Dict where
  bindings : Tab EidBinding
  vendorIana : Nat
  package : Nat
  eventRetry : Nat
  evSeq : Nat
  evQueue : List Ev
  evDue : List Ev
  evLost : Nat
  evOwed : Nat
  /-- Answers to MED requests that wait for their fixed time: endpoint, the management clock in which it comes, answer (R194,
  R376). -/
  med : List (Nat × Nat × Out)
  mctpEid : Nat
  ageLimit : Nat
  hostSlotClk : Nat
  feedGroup : Nat
  refillMbps : Nat
  secureTimeout : Nat
  /-- Grants of R225 by number, each 24 bytes. -/
  grants : Tab (List Byte)
  /-- The last value accepted by entries that start something and are not said to read 0, by 256 × index + subindex (R410). -/
  held : Tab Nat
  deriving DecidableEq, Repr

/-- A flit of restore data that waits for its place (R350). -/
structure Refill where
  port : Nat
  src : FlitSrc
  flit : Flit
  deriving DecidableEq, Repr

structure Ports where
  links : Tab Link
  /-- By port 0 to 3 FP, 4 FED (R423). -/
  remoteRefused : Tab Nat
  retrains : Tab Nat
  staleRole : Tab Nat
  remote : Tab RemoteUse
  /-- The link by which the request of a tag left. -/
  tagPort : Tab Nat
  nextTag : Nat
  hostReads : Tab HostRead
  /-- Host reads that wait for one of the 256 to return (R445). -/
  hostWait : List HostRead
  /-- The slices' requests that wait for their positions at the ports, in order of arrival (R265, R272). -/
  waiting : List PortReq
  inStreams : List InStream
  /-- Restore data that has still to leave, and each port's budget of it, in bytes × 750 (R350). -/
  refills : List Refill
  refillPart : Tab Nat
  inWrites : List InWrite
  /-- Remote lines that window reads have brought and the access that waits for them has not yet taken. -/
  winLines : List WinLine
  /-- Flits of the block's own that wait for a block position, with their port (R272). -/
  own : List (Nat × Out)
  /-- Uncached requests that wait at their homes, oldest first (R287). -/
  atHome : List HomeUse
  /-- The model's own: lines that the access under way has met and not found, by context, and 4 × context address + cache hint;
  empty between commands. -/
  wanted : List (Nat × Nat)
  irq : Tab Bool
  out : List Out
  /-- The federation flits forwarded for other members (R444). -/
  forwarded : Nat
  deriving DecidableEq, Repr

/-- Where a memory error strikes: corrected; uncorrectable in a scratchpad line of a core, in a line of a cluster's cache, or in
state of the management domain (R91, R334). An uncorrectable error inside a unit has a row of its own. -/
inductive UpsetAt where
  | corrected
  | scratch (core line : Nat)
  | cache (cluster line : Nat)
  | mgmt
  deriving DecidableEq, Repr

/-- A memory error to come: its management clock, its SRAM macro and its place. -/
structure Upset where
  at_ : Nat
  macro_ : Nat
  place : UpsetAt
  deriving DecidableEq, Repr

/-- Everything that is lost when power goes (R384). -/
structure Block where
  time : TimeBase
  parade : Parade
  life : Life
  start : StartUp
  power : Power
  dict : Dict
  tally : Tally
  recon : Recon
  ladder : Ladder
  ports : Ports
  coh : Coh
  mem : DevMem
  keys : Tab KeySel
  keyGens : Nat
  slices : Tab Slice
  cores : Tab Core
  ctxs : Tab Ctx
  queues : Tab Queue
  fences : Tab Fence
  dmas : List Dma
  vis : Tab Vi
  /-- The model's own counter of free values drawn (never the spec's). -/
  draws : Nat
  /-- The model's own free input: the memory errors that are still to strike (R91; notes/assumptions/76.md). -/
  upsets : List Upset
  deriving DecidableEq, Repr

/-- Data sealed by AES-256-GCM under a key with associated data (R374). DESIGN CHOICE: the box opens to its data exactly under that
key and those data (notes/assumptions/125.md). -/
structure SealBox where
  key : List Byte
  aad : List Byte
  data : List Byte
  deriving DecidableEq, Repr

/-- A copy of a sealed record in the flash, with its sequence number (R374, R387). -/
structure SealCopy where
  seq : Nat
  box : SealBox
  deriving DecidableEq, Repr

/-- A copy of the retirement list (R330, R387): cores, groups, spare ways, spare banks, and its sequence number. -/
structure RetCopy where
  seq : Nat
  cores : BitVec 64
  groups : BitVec 32
  ways : BitVec 8
  banks : BitVec 64
  deriving DecidableEq, Repr

/-- The configuration flash (R387): its bytes, and what the block has not finished writing. -/
structure Flash where
  bytes : Mem
  /-- Valid copies of sealed records by copy index, record r at r and r + 224; records held until their flash write ends; and the clock of
  the last write of each record (R374, R416, R430). -/
  sealed : Tab SealCopy
  held : Tab SealBox
  sealAt : Tab Nat
  /-- The model's own free input: the sealed records that the flash cannot read (R374; notes/assumptions/70.md). -/
  unread : List Nat
  /-- The valid copies of the retirement list. -/
  retA : Option RetCopy
  retB : Option RetCopy
  deriving DecidableEq, Repr

structure State where
  /-- Commands waiting, first in first out (the model's own). -/
  pending : List Instr
  /-- The fuse array, bit 0 first (R357). -/
  fuse : BitVec 4096
  flash : Flash
  b : Block
  deriving DecidableEq, Repr

/-! ### Reset: the block with MGT_RST_N asserted, a blank fuse array and an erased flash

A value the spec gives is cited where the structure is declared; a field the spec gives no reset value holds zero, the
empty list, `none` or `false` (notes/assumptions/1.md). Each `X.reset` is also what an unlisted entry of a table reads as. -/

/-- The time base at start-up. DESIGN CHOICE: the stride length until a timing message sets one is 64,000,000 ns, with its INC
(R127; notes/assumptions/93.md). -/
def TimeBase.reset : TimeBase where
  computeHz := 1500000000
  clk := 0
  mclk := 0
  clkFrac := 0
  acc := 0
  inc := 5864062
  lock := .unlocked
  heldAt := none
  lastEdge := none
  edgeDue := false
  ownDue := false
  lenNs := 64000000
  count := 0
  phase := 0
  lag := []
  zeroDue := []
  started := false
  accepted := []
  tmPort := 0
  epoch := 0
  strideClk := 0
  cpt := 0
  zeroAt := 0
  timingPorts := 0x0F
  grace := 64
  pulseSpurious := 0
  holdoverStrides := 0
  tmIgnored := 0
  tmConflict := 0
  tmStale := 0
  countStep := 0
  freqStep := 0
  phaseSkip := 0
  windows := []

def SweepMap.reset : SweepMap where
  groups := 0
  baseBytes := 0
  commonsDigest := 0
  runs := []
  digest := 0

def Parade.reset : Parade where
  st := .empty
  overruns := 0
  recMaxSlip := 0
  recStride := 0
  recEcc := false
  recLate := 0
  recDropped := 0
  curLate := 0
  curDropped := 0
  curEcc := false
  curSlip := 0
  lateRuns := 0
  droppedRuns := 0
  eccTiles := 0
  map := SweepMap.reset
  mapRefusal := 0
  staged := none
  nextRun := 0
  run := none
  startClks := []
  look := []
  lookPart := 0
  emitPrev := 0
  bytesPrev := 0
  tree := []
  seqNo := 0
  commons := []
  failedGroups := []
  load := none
  loadList := 0
  loadCount := 0
  stageList := 0
  stageCount := 0
  switchStride := 0
  overrunLimit := 4096
  tallyPhase := 0xF800

def Engine.reset : Engine where
  cur := []
  nextTile := []
  curBad := []
  nextBad := []
  nextOp := none
  stream := []
  strFor := none
  bank0 := []
  bank1 := []
  arrivals := []
  queue := []
  active := []
  refused := []
  refusedHart := []
  issued := 0
  done := 0
  lastErr := 0
  waiting := false
  seen := 0

def Vec.reset : Vec where
  v := []
  p := []
  a := []
  queue := []
  run := none
  refused := []
  issued := 0
  done := 0
  lastErr := 0

def Slot.reset : Slot where
  bound := none
  panels := []
  prefs := []
  deferred := []
  owed := []

def Adapter.reset : Adapter where
  slots := []
  frames := []
  frameBad := []
  u := []
  results := []
  resultRows := []
  steps := []
  fires := []
  busyTo := 0
  seq := 0
  lastErr := 0
  panelAt := none

def Hart.reset : Hart where
  halted := true
  machine := true
  pc := 0
  x := []
  csr := []
  zhCtx := 0
  launch := none
  waitingLaunches := []
  extIrq := false
  stall := none
  reservation := none
  notes := []
  noteOverflow := false
  inbox := []

def Core.reset : Core where
  owner := 0
  roleGen := 0
  scratch := []
  tags := []
  poison := []
  engines := []
  vec := Vec.reset
  adapter := Adapter.reset
  hart := Hart.reset
  spareBank := none
  place := none
  watch := []

def Ctx.reset : Ctx where
  st := .free
  pin := false
  gen := 0
  slice := 0
  ptRoot := 0
  winTable := 0
  pins := []
  label := 0
  pasid := 0
  heapBase := 0
  heapPages := 0
  heapMap := 0
  allocVa := 0
  srSeed := 0
  srCtr := 0
  sticky := 0
  firstCode := 0
  lastCode := 0
  errCount := 0
  firstStamp := 0
  fenceLow := 0
  signalStale := 0
  cached := none
  pinned := false
  toSuspect := false

def Queue.reset : Queue where
  ringBase := 0
  ringLog2 := 0
  enable := false
  cls := 0
  label := 0
  wdogScale := 0
  wdogTicks := 0
  ctx := 0
  named := false
  st := .disabled
  head := 0
  tail := 0
  done := 0
  refused := 0
  pending := false
  inline := []
  cmds := []
  epoch := 0
  wdog := 0
  vi := none

def Fence.reset : Fence where
  value := 0
  setUp := false
  owner := 0
  nvalid := false
  ncore := 0
  ngen := 0
  mirror := 0
  key := 0
  exported := false

def XlatRegs.reset : XlatRegs where
  invalVa := 0
  invalLen := 0
  go := false
  overrun := false
  genBump := false
  allCtx := false
  ctx := 0
  invalDone := 0
  faultBase := 0
  faultSize := 0
  faultHead := 0
  faultTail := 0
  held := []
  resumeAbort := false
  resumeGen := 0
  resumeCtx := 0
  poolBase := 0
  poolSize := 0
  poolHead := 0
  poolCount := 0
  poolRefused := 0
  tlb := []
  invals := []
  invalDmas := []
  invalTags := []
  frees := []
  migrating := none

def DevMem.reset : DevMem where
  bytes := []
  keyGen := []
  poison := []

def KeySel.reset : KeySel where
  holder := 0
  gen := 0

def Holdings.reset : Sys2Proof.Holdings where
  cores := 0
  groups := 0
  ways := 0
  ccache := 0
  qFirst := 0
  qCount := 0
  contexts := 0
  fences := 0
  rtShare := 0
  reserv := 0

def CtxRegs.reset : CtxRegs where
  table := 0
  first := 0
  count := 0
  ctrlOp := 0
  ctrlResult := 0
  ctrlCtx := 0
  ctrlGo := false
  faultAny := false
  lastFaulted := 0
  fenceFirst := 0
  fenceCount := 0
  fenceMirror := 0
  fenceValue := 0
  fenceKey := 0
  fenceOp := 0
  fenceResult := 0
  fenceIdx := 0
  fenceExport := false
  fenceNotify := 0

def Arbiter.reset : Arbiter where
  nextRt := 0
  nextStd := 0
  nextBulk := 0
  bulkWait := 0
  granted := none

def ReinWin.reset : ReinWin where
  n := 0
  m := 0
  largest := 0
  bytes := 0

def Rein.reset : Rein where
  settings := []
  staged := []
  est := []
  prio := []
  win := []
  records := []
  missed := 0
  missStride := 0
  pending := false
  missWindows := 0
  positions := []

def LadderRegs.reset : LadderRegs where
  rung := 0
  cause := 0
  unit := 0
  core := 0
  stride := 0
  irqTurn := false
  irqEvent := false
  ctrlCtx := 0
  replay := none
  waitingReplays := []
  crashBase := 0
  crashSize := 0
  crashSeq := 0
  crashNext := 0
  sampleRanges := []
  suspects := []
  sampling := none
  sampleRan := 0
  sampleFor := 0
  busy := none
  engRung := none
  replayed := false
  lost := false

def Job.reset : Job where
  st := .off
  manifestAddr := 0
  fences := 0
  window := 0
  partner := 0
  port := 0
  force := false
  cls := 0
  restoreFrom := 0
  lastStep := 0
  valid := false
  bank := 0
  result := 0
  lastStride := 0
  partnerFeed := 0
  pair := 0
  copies := 0
  late := 0
  failed := 0
  restores := 0
  armed := none
  armedFences := 0
  armedWindow := 0
  armedAddr := 0
  startDue := none
  snapshot := []
  held := []
  copy := none
  restore := none
  before := .off
  clearValid := false
  exposed := []

def SliceSec.reset : SliceSec where
  consent := false
  fwDigest := 0
  fwUnsigned := false
  fwAddr := none
  adapterDigest := 0
  extendStatus := 0
  extendRange := (0, 0)
  extendAt := 0
  sealTag := List.replicate 32 0
  sealIndex := 0
  sealStatus := 0
  keyLast := 0xFF

def Counters.reset : Counters where
  engLateStart := 0
  adaptWait := 0
  adaptMisses := 0
  adaptTagRows := 0
  adaptLoadRefused := 0
  prefetchNoTile := 0
  prefetchBytes := 0
  cohNacks := 0
  cohParked := 0
  cohFilterEvicts := 0
  cohPoisoned := 0

def Slice.reset : Slice where
  st := .none
  hold := Holdings.reset
  groupsPending := 0
  mapAddr := 0
  pendingStride := 0
  ledger := []
  ledgerSeq := 0
  nonce := []
  nonceLedger := []
  nonceStatus := 0
  nonceAt := 0
  ctxr := CtxRegs.reset
  xlat := XlatRegs.reset
  arb := Arbiter.reset
  rein := Rein.reset
  ladder := LadderRegs.reset
  jobs := []
  holdAreas := []
  secureIrq := 0
  sec := SliceSec.reset
  cnt := Counters.reset
  cohProgress := 3
  cohNext := 3
  holdClk := 128
  holdNext := 128
  viRange := 0
  shedTraining := false
  aptValid := false
  aptKey := 0

def Recon.reset : Recon where
  window := 0
  notice := 2
  reqAction := 0
  reqSlice := 0
  reqHold := Holdings.reset
  reqFw := 0
  status := 0
  refusal := 0
  ticket := 0
  actionStride := 0
  pend := []
  heldCommits := []
  run := none
  joinLater := []
  deferred := none
  scrubbing := []
  wayOwner := []
  groupOwner := []
  queueOwner := []
  shims := []

def Filt.reset : Filt where
  owner := none
  used := 0

def Coh.reset : Coh where
  lines := []
  filter := []
  busy := []
  msgs := []
  wbuf := []
  parks := []
  waiting := []
  uncQueue := []
  retry := []
  reserved := []
  dcache := []
  returned := []
  late := []
  draws := 0

def Vi.reset : Vi where
  pasid := 0
  op := 0
  result := 0
  go := false
  st := .free
  gen := 0
  qbUnbind := false
  qbResult := 0
  qbQueue := 0
  qcount := 0
  dropped := 0
  step := 0
  ctxs := []

def Ladder.reset : Ladder where
  engWdogLog2 := 22
  sampleLimit := 2000
  launchGrace := 10000
  turnLimit := 64
  feWdog := 1048576
  trayHold := 0
  cohSnoopTimeout := 16384
  cohReqTimeout := 262144
  farrier := true
  ceLimit := 64
  hangLimit := 2
  dueUnit := []
  dueSlice := []
  dueBlock := none
  duePower := none
  trayFrom := none
  trayReq := false
  hangs := []
  retCores := 0
  retGroups := 0
  usedWays := 0
  usedBanks := 0
  refusedClusters := 0
  mgmtExp := []
  mgmtHalted := []
  blockBusy := none
  substDue := []
  bankCopies := []
  wayDue := []
  groupCopies := []
  corrected := []

def Life.reset : Life where
  lcs := 0
  svn := 0
  debugOpen := false
  rights := 0
  dslices := 0
  closeStride := 0
  challenge := []
  cert := []
  debugResult := 0
  transReq := []
  transResult := 0
  rngFault := false
  burn := []
  tries := 0
  aliasKey := none
  aliasCert := []
  readout := none

def StartUp.reset : StartUp where
  stage := 0
  fault := 0
  slot := 0
  fellBack := false
  released := false
  configDigest := 0
  mgmtFwDigest := 0
  imageSvn := 0
  clusterEn := 0
  maxSlices := 0
  serial := 0
  droopCal := []
  thermTrim := []
  repairs := []
  memMib := []
  commons := []
  inst := 0
  instCount := 0
  lead := false
  levelMax := []
  level := 1
  behaviourReq := 1
  lost := []
  leadLost := false
  mcpInit := []
  rstClks := 0
  cfgRstN := false
  imageList := 0
  imageCount := 0
  imageStatus := 0
  imageLeft := 0
  imageBytes := []

def Power.reset : Power where
  req := []
  ack := []
  on := []
  failed := []
  reqAt := []
  upAt := []
  onAt := []
  upWait := []
  downWait := []
  repaired := []
  codes := [0, 0, 0, 0, 0, 0, 0, 0]
  maxDroop := [0, 0, 0, 0, 0, 0, 0, 0]
  warn := false
  warnAt := 0
  warnHalted := false
  level := 0
  cause := 0
  mgmtStamp := false
  changes := 0
  time := 0
  shutdown := false
  shutdownReady := false
  exitFrom := none
  parkedAt := none
  shedMv := [20, 35, 50, 65, 80]
  hystMv := 10
  exitHold := 1000
  warnHalt := 2000
  dmEnable := 0xFF
  pdTimeout := 200
  pdWave := 4

def EidBinding.reset : EidBinding where
  eid := 0
  role := 0
  slices := 0

def Dict.reset : Dict where
  bindings := []
  vendorIana := 0
  package := 0
  eventRetry := 100
  evSeq := 0
  evQueue := []
  evDue := []
  evLost := 0
  evOwed := 0
  med := []
  mctpEid := 0
  ageLimit := 1024
  hostSlotClk := 0
  feedGroup := 0
  refillMbps := 512
  secureTimeout := 100
  grants := []
  held := []

def Tally.reset : Tally where
  t := []
  saveSeq := 0
  saving := none
  savePending := false
  lastSaveAt := none
  checkedIn := none
  unlockedAt := 0
  droopAt := 0
  tempAt := 0
  minuteAt := 0

def Link.reset : Link where
  st := .down
  phy := false
  seqTx := 0
  seqRx := 0
  replay := []
  reqCredits := 0
  rspCredits := 0
  retrainAt := []
  trainAt := 0

def Ports.reset : Ports where
  links := []
  remoteRefused := []
  retrains := []
  staleRole := []
  remote := []
  tagPort := []
  nextTag := 0
  hostReads := []
  hostWait := []
  waiting := []
  inStreams := []
  refills := []
  refillPart := []
  inWrites := []
  winLines := []
  wanted := []
  irq := []
  own := []
  atHome := []
  out := []
  forwarded := 0

def Block.reset : Block where
  time := TimeBase.reset
  parade := Parade.reset
  life := Life.reset
  start := StartUp.reset
  power := Power.reset
  dict := Dict.reset
  tally := Tally.reset
  recon := Recon.reset
  ladder := Ladder.reset
  ports := Ports.reset
  coh := Coh.reset
  mem := DevMem.reset
  keys := []
  keyGens := 0
  slices := []
  cores := []
  ctxs := []
  queues := []
  fences := []
  dmas := []
  vis := []
  draws := 0
  upsets := []

def Flash.reset : Flash where
  bytes := []
  sealed := []
  held := []
  sealAt := []
  unread := []
  retA := none
  retB := none

/-- The block in reset (R384, R392 STAGE 0), with nothing waiting. -/
def State.reset : State where
  pending := []
  fuse := 0
  flash := Flash.reset
  b := Block.reset

end Sys2Proof.Machine
end

