-- ==== Sys2Proof/Machine/Ops.lean ====
section
/-! DEFINITION. The named operations that every family shares: sparse tables and bytes, the parts of the block by number,
time stamps (R103), interrupts (R448), tallies (R424), events (R419) and rungs (R314) asked for. -/

namespace Sys2Proof.Machine

/-! ### Sparse tables -/

/-- What a table holds at a key; `d` is what an unlisted key reads as. -/
def Tab.get {α : Type} (d : α) : Tab α → Nat → α
  | [], _ => d
  | (j, x) :: t, k => if j = k then x else Tab.get d t k

def Tab.has {α : Type} : Tab α → Nat → Bool
  | [], _ => false
  | (j, _) :: t, k => j == k || Tab.has t k

def Tab.find {α : Type} : Tab α → Nat → Option α
  | [], _ => none
  | (j, x) :: t, k => if j = k then some x else Tab.find t k

def Tab.put {α : Type} : Tab α → Nat → α → Tab α
  | [], k, v => [(k, v)]
  | (j, x) :: t, k, v =>
    if k < j then (k, v) :: (j, x) :: t
    else if k = j then (k, v) :: t
    else (j, x) :: Tab.put t k v

/-- Removes whatever is listed for a key. -/
def Tab.erase {α : Type} : Tab α → Nat → Tab α
  | [], _ => []
  | (j, x) :: t, k => if j = k then Tab.erase t k else (j, x) :: Tab.erase t k

/-- A write that keeps the canonical form: writing the default removes the entry. -/
def Tab.set {α : Type} [DecidableEq α] (d : α) (t : Tab α) (k : Nat) (v : α) : Tab α :=
  if v = d then Tab.erase t k else Tab.put t k v

def Tab.upd {α : Type} [DecidableEq α] (d : α) (t : Tab α) (k : Nat) (f : α → α) : Tab α :=
  Tab.set d t k (f (Tab.get d t k))

def Tab.keys {α : Type} (t : Tab α) : List Nat := t.map (·.1)

/-- Every key is above `lo`, and the keys rise strictly. -/
def Tab.rising {α : Type} : Option Nat → Tab α → Bool
  | _, [] => true
  | none, (k, _) :: t => Tab.rising (some k) t
  | some lo, (k, _) :: t => lo < k && Tab.rising (some k) t

/-- The canonical form of a table. -/
def Tab.wf {α : Type} [DecidableEq α] (d : α) (t : Tab α) : Bool :=
  Tab.rising none t && t.all fun (_, x) => x ≠ d

/-- Applies `f` to every entry listed for the keys given. -/
def Tab.updAll {α : Type} [DecidableEq α] (d : α) (t : Tab α) (ks : List Nat) (f : α → α) : Tab α :=
  ks.foldl (fun t k => Tab.upd d t k f) t

/-! ### Bytes -/

/-- A byte that nothing has written reads 0 here; device memory tells such lines apart by their key generation. -/
def Mem.read (m : Mem) (a : Nat) : Byte := Tab.get 0 m a

def Mem.write (m : Mem) (a : Nat) (b : Byte) : Mem := Tab.set 0 m a b

/-- Canonical form of memory (Host.Cell): addresses rising, no byte equal to what an unlisted one reads as. -/
def Mem.wf (m : Mem) : Bool := Tab.wf (0 : Byte) m

def Mem.readN (m : Mem) (a : Nat) : Nat → List Byte
  | 0 => []
  | n + 1 => m.read a :: Mem.readN m (a + 1) n

def Mem.writeN (m : Mem) (a : Nat) : List Byte → Mem
  | [] => m
  | b :: bs => Mem.writeN (m.write a b) (a + 1) bs

/-- Little-endian value of bytes (Notation). -/
def leNat : List Byte → Nat
  | [] => 0
  | b :: bs => b.toNat + 256 * leNat bs

/-- `n` bytes of a value, least significant first. -/
def toLe : Nat → Nat → List Byte
  | 0, _ => []
  | n + 1, v => BitVec.ofNat 8 v :: toLe n (v / 256)

/-- Field [hi:lo] of a value. -/
def fld (v hi lo : Nat) : Nat := (v >>> lo) % 2 ^ (hi + 1 - lo)

def dfld (v : Dword) (hi lo : Nat) : Nat := fld v.toNat hi lo

def bit (v : Nat) (i : Nat) : Bool := v.testBit i

/-- 64-bit words of bytes, eight at a time. -/
def dwordsOf (bs : List Byte) (n : Nat) : List Dword :=
  (List.range n).map fun i => BitVec.ofNat 64 (leNat ((bs.drop (8 * i)).take 8))

/-- Bits of a vector that are set, in ascending order. -/
def setBits {n : Nat} (v : BitVec n) : List Nat := (List.range n).filter fun i => v.getLsbD i

/-- A vector with bit `i` set, and with it cleared. -/
def bvSet {n : Nat} (v : BitVec n) (i : Nat) : BitVec n := v ||| BitVec.twoPow n i
def bvClr {n : Nat} (v : BitVec n) (i : Nat) : BitVec n := v &&& ~~~ BitVec.twoPow n i

def ceilDiv (a b : Nat) : Nat := (a + b - 1) / b

/-- A quotient rounded to the nearest integer, halves up. -/
def roundDiv (a b : Nat) : Nat := (2 * a + b) / (2 * b)

/-- Signed value of the low `n` bits. -/
def signed (n v : Nat) : Int := (BitVec.ofNat n v).toInt

def max32 : Nat := 4294967295

/-- A counter that holds at a maximum. -/
def sat (m n : Nat) : Nat := min m n

/-- Management clocks in a microsecond (R382). -/
def usClk : Nat := 750

/-! ### What an action takes and gives (R179, R180, R184) -/

/-- The holdings of slice m after a request. A substitution swaps a core or leaves them as they are. -/
def Request.apply (r : Request) (m : Nat) (h : Option Holdings) : Option Holdings :=
  if r.slice != m then h
  else
    match r.subst, r.act with
    | some (true, old, new), _ => h.map fun x => { x with cores := bvSet (bvClr x.cores old) new }
    | some (false, _, _), _ => h
    | none, .create => some r.hold
    | none, .resize => some r.hold
    | none, .remove => none
    | none, .firmware => h

/-- The holdings that the action leaves. -/
def Running.target (r : Running) : Holdings := (r.req.apply r.req.slice (some r.old)).getD Holdings.reset

/-- The action moves resources: a request of the operator, not a substitution or a joining. -/
def Running.moves (r : Running) : Bool := r.req.subst.isNone && r.joinOnly.isNone

def Running.coresOut (r : Running) : List Nat := if r.moves then setBits (r.old.cores &&& ~~~r.target.cores) else []
def Running.coresIn (r : Running) : List Nat := if r.moves then setBits (r.target.cores &&& ~~~r.old.cores) else []
def Running.waysOut (r : Running) : List Nat := if r.moves then setBits (r.old.ways &&& ~~~r.target.ways) else []
def Running.waysIn (r : Running) : List Nat := if r.moves then setBits (r.target.ways &&& ~~~r.old.ways) else []
def Running.groupsOut (r : Running) : List Nat := if r.moves then setBits (r.old.groups &&& ~~~r.target.groups) else []

def Running.groupsIn (r : Running) : List Nat :=
  match r.joinOnly with
  | some g => setBits g
  | none => if r.moves then setBits (r.target.groups &&& ~~~r.old.groups) else []

def queueRange (h : Holdings) : List Nat := (List.range h.qCount).map (· + h.qFirst)

/-- Queues that leave the slice. -/
def Running.queuesOut (r : Running) : List Nat := if r.moves then (queueRange r.old).filter fun q => !(queueRange r.target).contains q else []

def Running.isRemove (r : Running) : Bool := r.req.subst.isNone && r.req.act == .remove
def Running.isFirmware (r : Running) : Bool := r.req.subst.isNone && r.req.act == .firmware

/-! ### The parts of the block by number -/

def Block.core (b : Block) (c : Nat) : Core := Tab.get Core.reset b.cores c
def Block.modCore (b : Block) (c : Nat) (f : Core → Core) : Block := { b with cores := Tab.upd Core.reset b.cores c f }

def Core.eng (c : Core) (e : Nat) : Engine := Tab.get Engine.reset c.engines e
def Core.modEng (c : Core) (e : Nat) (f : Engine → Engine) : Core := { c with engines := Tab.upd Engine.reset c.engines e f }

def Block.eng (b : Block) (c e : Nat) : Engine := (b.core c).eng e
def Block.modEng (b : Block) (c e : Nat) (f : Engine → Engine) : Block := b.modCore c fun x => x.modEng e f

def Block.modVec (b : Block) (c : Nat) (f : Vec → Vec) : Block := b.modCore c fun x => { x with vec := f x.vec }
def Block.modHart (b : Block) (c : Nat) (f : Hart → Hart) : Block := b.modCore c fun x => { x with hart := f x.hart }
def Block.modAdapter (b : Block) (c : Nat) (f : Adapter → Adapter) : Block :=
  b.modCore c fun x => { x with adapter := f x.adapter }

/-- A progress event of a core's unit: its watchdog starts again (R310, R311). -/
def Block.progress (b : Block) (c u : Nat) : Block := b.modCore c fun x => { x with watch := Tab.erase x.watch u }

def Adapter.slot (a : Adapter) (i : Nat) : Slot := Tab.get Slot.reset a.slots i
def Adapter.modSlot (a : Adapter) (i : Nat) (f : Slot → Slot) : Adapter :=
  { a with slots := Tab.upd Slot.reset a.slots i f }

def Block.slice (b : Block) (n : Nat) : Slice := Tab.get Slice.reset b.slices n
def Block.modSlice (b : Block) (n : Nat) (f : Slice → Slice) : Block := { b with slices := Tab.upd Slice.reset b.slices n f }

def Block.modXlat (b : Block) (n : Nat) (f : XlatRegs → XlatRegs) : Block :=
  b.modSlice n fun x => { x with xlat := f x.xlat }
def Block.modCtxr (b : Block) (n : Nat) (f : CtxRegs → CtxRegs) : Block :=
  b.modSlice n fun x => { x with ctxr := f x.ctxr }
def Block.modCnt (b : Block) (n : Nat) (f : Counters → Counters) : Block :=
  b.modSlice n fun x => { x with cnt := f x.cnt }
def Block.modLad (b : Block) (n : Nat) (f : LadderRegs → LadderRegs) : Block :=
  b.modSlice n fun x => { x with ladder := f x.ladder }
def Block.modSec (b : Block) (n : Nat) (f : SliceSec → SliceSec) : Block :=
  b.modSlice n fun x => { x with sec := f x.sec }

def Block.job (b : Block) (n j : Nat) : Job := Tab.get Job.reset (b.slice n).jobs j
def Block.modJob (b : Block) (n j : Nat) (f : Job → Job) : Block :=
  b.modSlice n fun x => { x with jobs := Tab.upd Job.reset x.jobs j f }

def Block.ctx (b : Block) (c : Nat) : Ctx := Tab.get Ctx.reset b.ctxs c
def Block.modCtx (b : Block) (c : Nat) (f : Ctx → Ctx) : Block := { b with ctxs := Tab.upd Ctx.reset b.ctxs c f }

def Block.queue (b : Block) (q : Nat) : Queue := Tab.get Queue.reset b.queues q
def Block.modQueue (b : Block) (q : Nat) (f : Queue → Queue) : Block := { b with queues := Tab.upd Queue.reset b.queues q f }

def Block.fence (b : Block) (i : Nat) : Fence := Tab.get Fence.reset b.fences i
def Block.modFence (b : Block) (i : Nat) (f : Fence → Fence) : Block := { b with fences := Tab.upd Fence.reset b.fences i f }

def Block.vi (b : Block) (v : Nat) : Vi := Tab.get Vi.reset b.vis v
def Block.modVi (b : Block) (v : Nat) (f : Vi → Vi) : Block := { b with vis := Tab.upd Vi.reset b.vis v f }

def Block.key (b : Block) (k : Nat) : KeySel := Tab.get KeySel.reset b.keys k

def Ports.link (p : Ports) (i : Nat) : Link := Tab.get Link.reset p.links i
def Block.modLink (b : Block) (i : Nat) (f : Link → Link) : Block :=
  { b with ports := { b.ports with links := Tab.upd Link.reset b.ports.links i f } }

def Block.modTime (b : Block) (f : TimeBase → TimeBase) : Block := { b with time := f b.time }
def Block.modParade (b : Block) (f : Parade → Parade) : Block := { b with parade := f b.parade }
def Block.modPower (b : Block) (f : Power → Power) : Block := { b with power := f b.power }
def Block.modStart (b : Block) (f : StartUp → StartUp) : Block := { b with start := f b.start }
def Block.modRecon (b : Block) (f : Recon → Recon) : Block := { b with recon := f b.recon }
def Block.modLadder (b : Block) (f : Ladder → Ladder) : Block := { b with ladder := f b.ladder }
def Block.modLife (b : Block) (f : Life → Life) : Block := { b with life := f b.life }
def Block.modDict (b : Block) (f : Dict → Dict) : Block := { b with dict := f b.dict }
def Block.modPorts (b : Block) (f : Ports → Ports) : Block := { b with ports := f b.ports }
def Block.modCoh (b : Block) (f : Coh → Coh) : Block := { b with coh := f b.coh }

/-- Slices that exist, in ascending order (R178). -/
def Block.live (b : Block) : List Nat := (List.range 29).filter fun n => 1 ≤ n && (b.slice n).st ≠ .none

/-- Cores that a slice owns in its core order: ascending core number, a substitute in the place of the core that it replaced
(R20, R188, R333). -/
def Block.coresOf (b : Block) (n : Nat) : List Nat :=
  let l := (List.range 64).filter fun c => (b.core c).owner == n
  if b.cores.all fun x => x.2.place.isNone then l
  else (List.range 64).filterMap fun p => l.find? fun c => ((b.core c).place.getD c) == p

def Block.groupOwner (b : Block) (g : Nat) : Nat := Tab.get 0 b.recon.groupOwner g
def Block.wayOwner (b : Block) (cl w : Nat) : Nat := Tab.get 0 b.recon.wayOwner (16 * cl + w)
def Block.queueOwner (b : Block) (q : Nat) : Nat := Tab.get 0 b.recon.queueOwner q

/-- The shim that serves a logical group (R333). -/
def Recon.shimOf (r : Recon) (g : Nat) : Nat :=
  match Tab.get 0 r.shims g with
  | 0 => g
  | k + 1 => k

/-- Bytes of memory behind a group: that of the shim which serves it (R333, R389). -/
def Block.groupBytes (b : Block) (g : Nat) : Nat := Tab.get 0 b.start.memMib (b.recon.shimOf g) * 2 ^ 20

/-- The link of this instance towards another: the shorter way round, east when both are equal (R444). -/
def Block.fedTo (b : Block) (dst : Nat) : Nat :=
  let k := max 1 b.start.instCount
  if 2 * ((dst + k - b.start.inst) % k) ≤ k then 4 else 5

/-- Contexts listed and belonging to a slice. -/
def Block.ctxsOf (b : Block) (n : Nat) : List Nat :=
  (Tab.keys b.ctxs).filter fun c => (b.ctx c).slice == n && (b.ctx c).st ≠ .free

/-- Queues of a slice that are listed. -/
def Block.queuesOf (b : Block) (n : Nat) : List Nat := (Tab.keys b.queues).filter fun q => b.queueOwner q == n

/-- Applies a change of the block for each number in turn. -/
def Block.each (b : Block) (l : List Nat) (f : Nat → Block → Block) : Block := l.foldl (fun b n => f n b) b

/-- The holdings in force of slice n: from the end of stage 6 of its action, those that the action gives (R184). -/
def Block.inForce (b : Block) (n : Nat) : Holdings :=
  let h := (b.slice n).hold
  match b.recon.run with
  | some r =>
    if r.req.slice == n && r.stage == 7 && r.req.subst.isNone && r.joinOnly.isNone && (r.req.act == .create || r.req.act == .resize) then
      r.req.hold
    else h
  | none => h

/-! ### Time stamps -/

/-- The management-domain phase: A[47:32] (R99). -/
def TimeBase.mgmtPhase (t : TimeBase) : Nat := t.acc / 2 ^ 32 % 65536

/-- T of the compute domain (R92). -/
def TimeBase.now (t : TimeBase) : Dword := t.count ++ t.phase

/-- The compute-clock gates are closed: before the release stage ends, and at shedding level 5 (R383). -/
def Block.gated (b : Block) : Bool := !b.start.released || b.power.level == 5

/-- T by the management-domain phase. The count and the phase change together: until the count does, the phase that ended
stands (R92). -/
def TimeBase.mgmtNow (t : TimeBase) : Dword :=
  t.count ++ BitVec.ofNat 16 (match t.zeroDue with
    | (_, p) :: _ => p
    | [] => t.mgmtPhase)

/-- The stamp of an event: compute-domain time, or management-domain time while the compute clock is stopped (R102, R103). -/
def Block.stamp (b : Block) : Dword := if b.gated then b.time.mgmtNow else b.time.now

/-- The phase by which scheduled events are judged (R102). -/
def Block.phaseNow (b : Block) : Nat := b.stamp.toNat % 65536

/-! ### Interrupts, tallies and events -/

/-- Raises interrupt k of slice n; a raise while the bit is set merges into it (R448). -/
def Block.irq (b : Block) (n k : Nat) : Block :=
  b.modPorts fun p => { p with irq := Tab.set false p.irq (16 * n + k) true }

def Block.irqAll (b : Block) (k : Nat) : Block := b.each b.live fun n b => b.irq n k

/-- The maximum of a tally: U64 for droop histograms and exposure, U32 otherwise (R425 to R428). -/
def tallyMax (key : Nat) : Nat :=
  let i := key / 256
  if (0x8100 ≤ i && i ≤ 0x8107) || (0x8401 ≤ i && i ≤ 0x841C && key % 256 == 3) then 2 ^ 64 - 1 else 2 ^ 32 - 1

def Block.tallyAdd (b : Block) (i sub n : Nat) : Block :=
  let k := 256 * i + sub
  { b with tally := { b.tally with t := Tab.upd 0 b.tally.t k fun v => min (tallyMax k) (v + n) } }

/-- One event that a tally counts (R424). -/
def Block.tallyUp (b : Block) (i sub : Nat) : Block := b.tallyAdd i sub 1

def Block.tallyGet (b : Block) (i sub : Nat) : Nat := Tab.get 0 b.tally.t (256 * i + sub)

/-- Package slice ID of slice n of this instance (R27). -/
def Block.pkgSlice (b : Block) (n : Nat) : Nat := 32 * b.start.inst + n

/-- An event of time t to be reported to the FM role (R419). -/
def Block.reportAt (b : Block) (t : Dword) (code pkg : Nat) (a0 a1 : Nat) : Block :=
  b.modDict fun d => { d with evDue := d.evDue ++ [{ seq := 0, code := code, pkgSlice := pkg, package := d.package, time := t,
                                                     arg0 := BitVec.ofNat 64 a0, arg1 := BitVec.ofNat 64 a1, acked := [] }] }

def Block.report (b : Block) (code pkg : Nat) (a0 a1 : Nat) : Block := b.reportAt b.stamp code pkg a0 a1

/-! ### Reports of the ladder (R314, R329, R335) -/

/-- ZH_LADDER_STAT, the interrupt and the event of one slice that a rung reaches, for an event of time t; `unit` 7 and core index 0
for none. -/
def Block.ladderSlice (b : Block) (t : Dword) (n rung cause unit idx : Nat) : Block :=
  let raised := (b.slice n).ladder.irqEvent
  let b := b.modLad n fun l =>
    { l with rung := rung, cause := cause, unit := unit, core := idx, stride := BitVec.ofNat 48 (dfld t 63 16), irqEvent := true }
  ((if raised then b else b.irq n 5).reportAt t 1 (b.pkgSlice n) (rung + 256 * cause + 65536 * unit + 2 ^ 24 * idx) 0).tallyUp 0x8020
    (rung + 1)

/-- The tally counts a rung once for each slice that it reaches, and its cause once (R329, R425). -/
def Block.ladderReport (b : Block) (t : Dword) (ns : List Nat) (rung cause unit idx : Nat) : Block :=
  (b.each ns fun n b => b.ladderSlice t n rung cause unit idx).tallyUp 0x8020 (0x10 + cause)

/-- Keeps the value that an entry accepted, for its next read (R410; notes/assumptions/32.md). -/
def Block.keep (b : Block) (i sub v : Nat) : Block :=
  b.modDict fun d => { d with held := Tab.put d.held (256 * i + sub) v }

/-- An answer to a mediator waits 1 ms from its request's stamp (R194). -/
def Block.medLater (b : Block) (eid : Nat) (o : Out) : Block :=
  b.modDict fun d => { d with med := d.med ++ [(eid, b.time.mclk + 1000 * usClk, o)] }

/-- A flit takes the next place of its link's sequence, in the replay buffer of 2,048 flits, and a credit of its class (R441,
R443). -/
def Link.sends (l : Link) (f : Flit) : Link :=
  { l with seqTx := (l.seqTx + 1) % 4096
           replay := (l.replay ++ [(l.seqTx, 0, f)]).drop (l.replay.length + 1 - 2048)
           reqCredits := if f.cls == 0 then l.reqCredits - 1 else l.reqCredits
           rspCredits := if f.cls == 1 then l.rspCredits - 1 else l.rspCredits }

/-- What the block drives at its ports, newest first. -/
def Block.emit (b : Block) (o : Out) : Block :=
  (match o with
    | .flit port f => b.modLink port fun l => l.sends f
    | _ => b).modPorts fun p => { p with out := o :: p.out }

/-- A flit of the block's own traffic waits for a block position of its port (R272, R443). -/
def Block.emitOwn (b : Block) (port : Nat) (o : Out) : Block := b.modPorts fun p => { p with own := p.own ++ [(port, o)] }

/-- An intact flit has arrived in order on a link (R441). -/
def Block.rx (b : Block) (port : Nat) : Block := b.modLink port fun l => { l with seqRx := (l.seqRx + 1) % 4096 }

/-- A flit of a request or a response arrives on a link; flow control holds it back before release and at level 5 (R402). -/
def Block.arrives (b : Block) (port : Nat) (f : Block → Block) : Block := if b.gated then b else f (b.rx port)

/-! ### Rungs asked for (R313, R314); the commands of their rows run them -/

/-- An engine rung for a unit of a core: unit 0 to 3 the engines, 4 vector, 5 adapter, 6 control processor (R310). -/
def Block.askUnit (b : Block) (core unit cause : Nat) : Block :=
  b.modLadder fun l => { l with dueUnit := l.dueUnit ++ [(core, unit, cause, b.stamp)] }

def Block.askSlice (b : Block) (n cause : Nat) : Block :=
  b.modLadder fun l => { l with dueSlice := l.dueSlice ++ [(n, cause, b.time.clk, b.stamp)] }

def Block.askBlock (b : Block) (cause : Nat) : Block :=
  b.modLadder fun l => { l with dueBlock := some (l.dueBlock.getD (cause, b.stamp)) }

def Block.askPower (b : Block) (cause : Nat) : Block :=
  b.modLadder fun l => { l with duePower := some (l.duePower.getD (cause, b.stamp)) }

/-! ### Lifting a change of the block to a step -/

/-- A command that changes the block only; the fuses, the flash and the queue stay as they are. -/
def State.onBlock (s : State) (f : Block → Block) : Host.Outcome State Fault Refusal := .next { s with b := f s.b }

/-- A command that reaches the block over HTI, whose READY is low before release and at level 5 (R445): it waits at the port then,
and is not taken. -/
def State.onHost (s : State) (f : Block → Block) : Host.Outcome State Fault Refusal := s.onBlock fun b => if b.gated then b else f b

/-- A command of the compute domains, whose clocks stand before release and at level 5 (R383, R402): its work then waits. -/
def State.onCompute (s : State) (f : Block →
  Block) : Host.Outcome State Fault Refusal := s.onBlock fun b => if b.gated then b else f b

/-- A command that changes the block and the flash; the fuses and the queue stay as they are. -/
def State.onFlash (s : State) (f : Flash → Block → Flash × Block) : Host.Outcome State Fault Refusal :=
  .next { s with flash := (f s.flash s.b).1, b := (f s.flash s.b).2 }

/-- A command that may burn fuses as well. Bits burnt read 1 for ever: the new array is the old one with the burnt bits
added (R357). -/
def State.onAll (s : State) (f : BitVec 4096 → Flash → Block → BitVec 4096 × Flash × Block) :
    Host.Outcome State Fault Refusal :=
  .next { s with fuse := s.fuse ||| (f s.fuse s.flash s.b).1, flash := (f s.fuse s.flash s.b).2.1,
                 b := (f s.fuse s.flash s.b).2.2 }

end Sys2Proof.Machine
end

