-- ==== Sys2Proof/Machine/Time.lean ====
section
/-! DEFINITION. The stride time base: STRIDE_PULSE, timing messages, the phase generator and the stride count (R92 to
R105), up to the compute-domain phase zero, which `Strides.lean` completes. -/

namespace Sys2Proof.Machine

/-- INC for a stride length in ns: round(2^48 ÷ (0.75 × LEN_NS)) (R99). -/
def incFor (lenNs : Nat) : Nat := roundDiv (2 ^ 48 * 4) (3 * lenNs)

/-- The message applied in the running stride: the first accepted on the lowest-numbered port that delivered any (R96). -/
def appliedMsg (l : List TimingMsg) : Option TimingMsg :=
  (List.range 4).findSome? fun p => l.find? fun m => m.port == p

/-- Messages that agree in every field of the payload (R96). -/
def TimingMsg.agrees (a b : TimingMsg) : Bool := a.lenNs == b.lenNs && a.epoch == b.epoch && a.nextCount == b.nextCount

/-- The applied message sets the count: NEXT_COUNT above it, or another epoch (R97). -/
def TimeBase.takes (t : TimeBase) (m : TimingMsg) : Bool := t.count.toNat < m.nextCount.toNat || m.epoch != t.epoch

def up32 (n : Nat) : Nat := min max32 (n + 1)

/-- INC at an accepted edge `m` management clocks after the last one, and whether a FREQ_STEP counts: `m` must lie within
500 ppm of 0.75 × LEN_NS (R99). -/
def edgeInc (lenNs m : Nat) : Nat × Bool :=
  let x := 8000 * m
  let y := 6000 * lenNs
  let d := if x ≤ y then y - x else x - y
  if d * 2000 ≤ y then (roundDiv (2 ^ 48) m, false) else (incFor lenNs, true)

/-- The management-domain phase zero: `acc` is the accumulator's new value, and the compute domain follows 8 compute
clocks later (R99, R102). A message that is applied, is not stale and changes LEN_NS sets INC here. `ended` is the phase
that ended. -/
def TimeBase.mgmtZero (t : TimeBase) (acc ended : Nat) : TimeBase :=
  let t := { t with acc := acc, heldAt := none, ownDue := false, zeroDue := t.zeroDue ++ [(t.clk + 8, ended)] }
  match if t.started then appliedMsg t.accepted else none with
  | none => t
  | some m => if t.takes m && m.lenNs != t.lenNs then { t with lenNs := m.lenNs, inc := incFor m.lenNs } else t

/-- An accepted edge (R98, R99). -/
def TimeBase.edge (t : TimeBase) : TimeBase :=
  let p := t.mgmtPhase
  let t := match t.lastEdge with
    | none => t
    | some e =>
      let (i, step) := edgeInc t.lenNs (t.mclk - e)
      { t with inc := i, freqStep := if step then up32 t.freqStep else t.freqStep }
  { t.mgmtZero 0 p with lock := .locked, lastEdge := some t.mclk, edgeDue := false }

/-- R98: which edges are accepted. -/
def TimeBase.acceptsEdge (t : TimeBase) : Bool := t.lock != .locked || 0xFF00 ≤ t.mgmtPhase

/-- A synchronised edge, in the clock in which the second flip-flop holds it: judged against the phase of this clock, and where
it is accepted the next management clock makes phase zero (R98). -/
def execStridePulseEdge (s : State) : Host.Outcome State Fault Refusal :=
  s.onBlock fun b => if b.start.stage == 0 then b else b.modTime fun t =>
    if t.acceptsEdge then { t with edgeDue := true } else { t with pulseSpurious := up32 t.pulseSpurious }

/-- GRACE elapsed with no accepted edge: HOLDOVER, and the block makes phase zero (R99). -/
def TimeBase.graceEnd (t : TimeBase) : TimeBase :=
  { t.mgmtZero 0 0xFFFF with lock := .holdover, holdoverStrides := up32 t.holdoverStrides }

/-- GRACE has elapsed since A was first held (R99). -/
def TimeBase.graceOver (t : TimeBase) : Bool :=
  match t.heldAt with
  | none => false
  | some h => t.lock == .locked && h + ceilDiv (t.grace * 2 ^ 32) t.inc ≤ t.mclk

/-- The next sum of the generator reaches 2^48 in HOLDOVER (R99). -/
def TimeBase.wraps (t : TimeBase) : Bool := t.lock == .holdover && 2 ^ 48 ≤ t.acc + t.inc

/-- GRACE elapses in this management clock: the block makes phase zero in the next one (R99; `Block.generate`). -/
def execGraceExpiry (s : State) : Host.Outcome State Fault Refusal :=
  s.onBlock fun b => if b.time.graceOver && !b.time.edgeDue then b.modTime fun t => { t with ownDue := true } else b

/-- A wrap of the generator in HOLDOVER: A keeps the carry (R99). -/
def TimeBase.wrap (t : TimeBase) : TimeBase :=
  { t.mgmtZero ((t.acc + t.inc) % 2 ^ 48) 0xFFFF with holdoverStrides := up32 t.holdoverStrides }

/-- The next sum of the generator wraps: the management clock that forms it makes phase zero (R99; `Block.generate`). -/
def execHoldoverWrap (s : State) : Host.Outcome State Fault Refusal :=
  s.onBlock fun b => if b.time.wraps && !b.time.edgeDue then b.modTime fun t => { t with ownDue := true } else b

/-- A timing message (R95, R96): bits [127:96] are ignored. -/
def TimeBase.timing (t : TimeBase) (port : Nat) (w : BitVec 128) : TimeBase :=
  let len := (w.extractLsb' 64 32).toNat
  if t.timingPorts.getLsbD port && 0x8000 ≤ t.phase.toNat && t.phase.toNat < 0xFF00 && 2000000 ≤ len && len ≤ 1000000000 then
    { t with accepted := t.accepted ++ [{ port := port, lenNs := len, epoch := w.extractLsb' 48 16,
                                          nextCount := w.extractLsb' 0 48 }] }
  else { t with tmIgnored := up32 t.tmIgnored }

def execTiming (port : Nat) (payload : BitVec 128) (s : State) : Host.Outcome State Fault Refusal :=
  s.onBlock fun b => if b.start.stage == 0 then b else (b.rx port).modTime fun t => t.timing port payload

/-- R97 on the applied message, with the counts of R96 and R97: messages that differ from the applied one, a stale one, and
a count that is not the next. -/
def TimeBase.newCount (t : TimeBase) : TimeBase :=
  let t1 := match appliedMsg t.accepted with
    | none => { t with count := t.count + 1 }
    | some m =>
      let t := { t with tmConflict := min max32 (t.tmConflict + (t.accepted.filter fun (x : TimingMsg) => !x.agrees m).length) }
      if t.takes m then { t with count := m.nextCount, epoch := m.epoch, tmPort := m.port }
      else { t with count := t.count + 1, tmStale := up32 t.tmStale }
  if t1.count == t.count + 1 then t1 else { t1 with countStep := up32 t1.countStep }

/-- The compute-domain phase zero of the time base, which the management domain made for compute clock `c`: phase values from
before it are overtaken (R92, R94, R97, R101, R102). -/
def TimeBase.zero (t : TimeBase) (c : Nat) : TimeBase :=
  let t1 := if t.started then { t.newCount with cpt := BitVec.ofNat 32 (min max32 (t.clk - t.strideClk)) } else t
  { t1 with started := true, phase := 0, lag := t.lag.filter fun (k, _) => c < k, zeroDue := t.zeroDue.drop 1
            accepted := [], strideClk := t.clk, zeroAt := t.mclk }

/-- One management clock of the phase generator outside phase zero: A, its hold at 0xFFFF in LOCKED, and the value that the
compute domain takes 8 compute clocks later (R99, R102). -/
def TimeBase.advance (t : TimeBase) (gated : Bool) : TimeBase :=
  if t.lock == .unlocked then t
  else
    let a := if t.lock == .locked then min (t.acc + t.inc) 0xFFFF00000000 else t.acc + t.inc
    let held := if t.lock == .locked && a == 0xFFFF00000000 then some (t.heldAt.getD t.mclk) else none
    { t with acc := a, heldAt := held, lag := (if gated then [] else t.lag) ++ [(t.clk + 8, a / 2 ^ 32)] }

/-- The management clock in which GRACE has elapsed, counted from the first hold (R99). -/
def TimeBase.graceDue (t : TimeBase) : Bool :=
  match t.heldAt with
  | none => false
  | some h => t.lock == .locked && h + ceilDiv (t.grace * 2 ^ 32) t.inc < t.mclk

/-- Management clocks that begin in the next compute clock, at 750 MHz against `computeHz` (R382). -/
def TimeBase.mgmtClocks (t : TimeBase) : Nat := (t.clkFrac + 750000000) / t.computeHz

/-- One compute clock passes. -/
def TimeBase.computeClock (t : TimeBase) : TimeBase :=
  { t with clk := t.clk + 1, clkFrac := (t.clkFrac + 750000000) % t.computeHz }

/-- A phase zero is not yet taken by the compute domain at clock `c` (R102). -/
def TimeBase.zeroBefore (t : TimeBase) (c : Nat) : Bool := (t.zeroDue.head?.map fun z => decide (z.1 ≤ c)).getD false

/-- The compute domain takes every phase value that is due, up to the next phase zero (R102). -/
def TimeBase.takeLag (t : TimeBase) : TimeBase :=
  let due (c : Nat) : Bool := c ≤ t.clk && !t.zeroBefore c
  match (t.lag.filter fun (c, _) => due c).getLast? with
  | none => t
  | some (_, p) => { t with phase := BitVec.ofNat 16 p, lag := t.lag.filter fun (c, _) => !due c }

/-! ### Phase windows (R104, R106) -/

def winStart (w : Dword) : Nat := dfld w 63 48
/-- END, 0x0000 denoting the end of the stride. -/
def winEnd (w : Dword) : Nat := if dfld w 47 32 == 0 then 0x10000 else dfld w 47 32
def winPeriod (w : Dword) : Nat := dfld w 31 16
def winOffset (w : Dword) : Nat := dfld w 15 0

/-- Why a descriptor is refused, or none (R106). -/
def winRefusal (w : Dword) : Option Nat :=
  if winEnd w ≤ winStart w then some 1
  else if winPeriod w == 0 || winPeriod w ≤ winOffset w then some 2
  else none

/-- The descriptor is active in stride `c`. -/
def winActive (w : Dword) (c : Nat) : Bool := winPeriod w != 0 && c % winPeriod w == winOffset w

/-- The descriptor behind a window: RECONF_WINDOW, or what a job's last ARM read (R107, R340). -/
def Block.windowDesc (b : Block) : WindowId → Dword
  | .reconf => b.recon.window
  | .secure n j => (b.job n j).armedWindow

/-- A window is open in its own stride, and its END has not come (R104). -/
def Block.windowNow (b : Block) (w : WindowId) : Bool :=
  b.time.windows.any fun x => x.1 == w && x.2 == b.time.count.toNat && b.phaseNow < winEnd (b.windowDesc w)

/-- An open window whose END has come: it closes in this clock (R104, R108). -/
def Block.windowDue (b : Block) : Bool :=
  b.time.windows.any fun x => x.2 != b.time.count.toNat || winEnd (b.windowDesc x.1) ≤ b.phaseNow

/-- What the clock (s, START) finds of a job (R345, R347): BUSY while a copy or restore of it runs, SHED at level 4 or higher; a job
that is not armed starts nothing. -/
def Block.copyStarts (b : Block) (x : Job) : Option CopyStart :=
  let verdict := if x.st == .copying || x.st == .restoring then 3 else if x.st == .armed && 4 ≤ b.power.level then 10 else 0
  if verdict == 0 && x.st != .armed then none
  else
    some { clk := b.time.clk, step := (b.fence (fld x.armedFences.toNat 15 0)).value, stride := b.time.count, sr := x.snapshot
           held := x.held, verdict := verdict }

/-- A window reaches its START in a stride in which it is active, once the time base runs (R101, R106). -/
def Block.windowOpens (b : Block) (w : WindowId) : Block :=
  let d := b.windowDesc w
  if b.time.started && winActive d b.time.count.toNat && winStart d ≤ b.phaseNow && b.phaseNow < winEnd d &&
      !(b.time.windows.any fun x => x.1 == w) then
    let b := b.modTime fun t => { t with windows := t.windows ++ [(w, t.count.toNat)] }
    match w with
    | .reconf => b
    | .secure n j => b.modJob n j fun x => { x with startDue := b.copyStarts x }
  else b

def execWindowOpen (w : WindowId) (s : State) : Host.Outcome State Fault Refusal := s.onBlock fun b => b.windowOpens w

/-- A window reaches its end; what it started runs on under its own rules (R104, R105). -/
def Block.closeWindow (b : Block) (w : WindowId) : Block :=
  b.modTime fun t => { t with windows := t.windows.filter fun x => x.1 != w }

/-- The compute-clock gates open. Only before the release and at level 5 may CLK_COMPUTE change frequency (R382): the one that it has
now, of 500 MHz to 1.5 GHz, is the integrator's, and a free value (notes/assumptions/83.md). -/
def Block.gatesOpen (b : Block) : Block :=
  let hz := 500000000 + Config.freeNat b.draws % 1000000001
  { b with draws := b.draws + 1 }.modTime fun t => { t with computeHz := hz, clkFrac := t.clkFrac % hz }

end Sys2Proof.Machine
end

