-- ==== Sys2Proof/Machine/Entries.lean ====
section
/-! DEFINITION. The entries of the object dictionary with their types, access and defaults (R407 to R410, R421 and the entry
tables of every chapter), and the answering of a request (R411 to R417). -/

namespace Sys2Proof.Machine

/-- The types of R408. -/
inductive Ty where
  | u8
  | u16
  | u32
  | u64
  | i32
  | bool
  | octets (n : Nat)
  | str (n : Nat)
  deriving DecidableEq, Repr

def Ty.code : Ty → Nat
  | .u8 => 1
  | .u16 => 2
  | .u32 => 3
  | .u64 => 4
  | .i32 => 5
  | .bool => 6
  | .octets _ => 7
  | .str _ => 8

def Ty.size : Ty → Nat
  | .u8 => 1
  | .u16 => 2
  | .u32 => 4
  | .u64 => 8
  | .i32 => 4
  | .bool => 1
  | .octets n => n
  | .str n => n

/-- Roles as a mask: OP 1, FM 2, MED 4, FAC 8. -/
def rOP : Nat := 1
def rFM : Nat := 2
def rMED : Nat := 4
def rFAC : Nat := 8
def rALL : Nat := 15

/-- DEFAULT_KIND of R418. -/
inductive Dflt where
  | val (bs : List Byte)
  | image
  | fuse
  | none
  deriving DecidableEq, Repr

/-- An entry: its type, the roles that may read and those that may write, its default, and the slice it belongs to. -/
structure Entry where
  ty : Ty
  rd : Nat
  wr : Nat
  dflt : Dflt
  slice : Option Nat
  deriving DecidableEq, Repr

/-- An entry with a numeric default: `w` the RW roles, `r` the R roles. -/
def ent (ty : Ty) (w r : Nat) (d : Nat) : Option Entry :=
  some { ty := ty, rd := w ||| r, wr := w, dflt := .val (toLe ty.size d), slice := none }

/-- An entry with another kind of default. -/
def entK (ty : Ty) (w r : Nat) (d : Dflt) : Option Entry :=
  some { ty := ty, rd := w ||| r, wr := w, dflt := d, slice := none }

/-- Holdings by the offset of 0x2001:03 to :0B (R178). -/
def holdTy : Nat → Ty
  | 0 => .u64
  | 1 => .u32
  | 2 => .octets 16
  | 3 => .u8
  | 4 => .u32
  | 5 => .u32
  | 6 => .u32
  | 7 => .u8
  | _ => .octets 8

/-- Entries of the whole instance in 0x1000 to 0x3030 (R127, R178, R390, R411, R422). -/
def entLow (i s : Nat) : Option Entry :=
  match i, s with
  | 0x1000, 1 => entK .u32 0 rALL .none
  | 0x1000, 2 => entK .u32 0 rALL .none
  | 0x1000, 3 => entK .u32 0 rALL .none
  | 0x1000, 4 => entK .u32 0 rALL .none
  | 0x1000, 5 => entK .u64 0 rALL .fuse
  | 0x1000, 6 => entK .u32 0 rALL .none
  | 0x1000, 7 => entK (.str 32) 0 rALL (.val ("Adfesar Microsystems".toList.map fun c => BitVec.ofNat 8 c.toNat))
  | 0x1000, 8 => entK (.str 32) 0 rALL (.val ("Zhoara".toList.map fun c => BitVec.ofNat 8 c.toNat))
  | 0x1000, 9 => entK (.str 32) 0 rALL (.val ("Phiex".toList.map fun c => BitVec.ofNat 8 c.toNat))
  | 0x1000, 10 => entK .u32 0 rALL .image
  | 0x1001, 1 => ent .u8 rOP (rFM ||| rFAC) 1
  | 0x1010, 1 => ent .u8 rOP 0 0
  | 0x1010, 2 => ent .u64 rOP 0 0
  | 0x1010, 3 => ent .u32 rOP 0 0
  | 0x1010, 4 => ent .u8 0 (rOP ||| rFAC) 0
  | 0x1030, 1 => ent .u16 (rOP ||| rFM) rFAC 100
  | 0x1030, 2 => ent .u8 0 (rOP ||| rFM) 0
  | 0x1030, 3 => ent .u32 0 (rOP ||| rFM) 0
  | 0x2000, 1 => ent .u32 0 (rOP ||| rFM) 0
  | 0x2000, 2 => entK .u64 0 (rOP ||| rFM) .image
  | 0x2000, 3 => ent .u16 rOP rFM 2
  | 0x2000, 4 => ent .u8 0 (rOP ||| rFM) 0
  | 0x2001, 0x0C => ent .u64 rOP 0 0
  | 0x2001, 0x10 => ent .u8 rOP 0 0
  | 0x2001, 0x11 => ent .u8 0 (rOP ||| rFM) 0
  | 0x2001, 0x12 => ent .u8 0 (rOP ||| rFM) 0
  | 0x2001, 0x13 => ent .u16 0 (rOP ||| rFM) 0
  | 0x2001, 0x14 => ent .u64 0 (rOP ||| rFM) 0
  | 0x2001, s => if 1 ≤ s && s ≤ 2 then ent .u8 rOP 0 0 else if 3 ≤ s && s ≤ 11 then ent (holdTy (s - 3)) rOP 0 0 else none
  | 0x3000, 1 => entK .u64 0 rALL .none
  | 0x3000, 2 => entK .u32 0 rALL .none
  | 0x3000, 3 => ent .u8 0 rALL 0
  | 0x3001, 1 => ent .u8 (rOP ||| rFM) rALL 0x0F
  | 0x3001, 2 => ent .u16 rOP rALL 64
  | 0x3002, s => if 1 ≤ s && s ≤ 8 then ent .u32 0 rALL 0 else none
  | 0x3010, 1 => entK .u8 0 rALL .image
  | 0x3010, 2 => entK (.octets 48) 0 rALL .image
  | 0x3010, 3 => ent .u8 0 rALL 0
  | 0x3011, 1 => entK (.octets 48) 0 rALL .image
  | 0x3011, 2 => entK .u16 0 rALL .image
  | 0x3011, 3 => entK .u32 0 rALL .image
  | 0x3011, 4 => entK .u32 0 rALL .image
  | 0x3011, 5 => ent .u8 0 (rOP ||| rFAC) 0
  | 0x3012, 1 => ent .u64 rOP rFM 0
  | 0x3012, 2 => ent .u64 rOP 0 0
  | 0x3012, 3 => ent .u32 rOP 0 0
  | 0x3013, 1 => ent .u16 rOP rALL 4096
  | 0x3014, s => if 1 ≤ s && s ≤ 3 then ent .u32 0 rALL 0 else none
  | 0x3020, 1 => ent .u16 rOP rFM 0xF800
  | 0x3030, 1 => ent .u8 rOP 0 0
  | 0x3030, 2 => ent .u64 rOP 0 0
  | 0x3030, 3 => ent .u32 rOP 0 0
  | 0x1020, s => if 1 ≤ s && s ≤ 32 then entK (.octets 8) rOP (rOP ||| rFM) .image else none
  | _, _ => none

/-- Entries of the whole instance from 0x4000 on (R275, R299, R336, R339, R381, R406, R423 to R427). -/
def entHigh (i s : Nat) : Option Entry :=
  match i, s with
  | 0x4000, 1 => ent .u16 rOP rALL 1024
  | 0x4001, 1 => ent .u8 0 rALL 4
  | 0x4001, 2 => ent .u8 0 rALL 2
  | 0x4001, 3 => ent .u8 0 rALL 4
  | 0x4001, 4 => ent .u8 0 rALL 4
  | 0x4001, 5 => entK .u8 0 rALL .image
  | 0x5000, 1 => entK .u16 rOP (rFM ||| rMED) .image
  | 0x5000, 2 => ent .u16 rOP rFM 512
  | 0x5000, 3 => ent .u16 rOP rFM 100
  | 0x6000, 1 => entK .u8 0 rALL .fuse
  | 0x6000, 2 => entK .u8 0 rALL .fuse
  | 0x6000, 3 => ent .u32 0 (rOP ||| rFM ||| rFAC) 0
  | 0x6000, 4 => ent .u32 0 (rOP ||| rFM ||| rFAC) 0
  | 0x6000, 5 => ent .u64 0 (rOP ||| rFM ||| rFAC) 0
  | 0x6001, 1 => entK (.octets 32) 0 (rOP ||| rFAC) .none
  | 0x6001, 2 => ent (.octets 256) (rOP ||| rFAC) 0 0
  | 0x6001, 3 => ent .u8 (rOP ||| rFAC) 0 0
  | 0x6001, 4 => ent .u8 0 (rOP ||| rFAC) 0
  | 0x6002, 1 => ent (.octets 256) (rOP ||| rFAC) 0 0
  | 0x6002, 2 => ent .u8 (rOP ||| rFAC) 0 0
  | 0x6002, 3 => ent .u8 0 (rOP ||| rFAC) 0
  | 0x6003, 1 => ent .u8 rOP 0 0
  | 0x7000, 1 => ent .u8 0 rALL 0
  | 0x7000, 2 => ent .u8 0 rALL 0
  | 0x7000, 3 => ent .u64 0 rALL 0
  | 0x7001, 1 => ent .u8 rOP (rFM ||| rFAC) 20
  | 0x7001, 2 => ent .u8 rOP (rFM ||| rFAC) 35
  | 0x7001, 3 => ent .u8 rOP (rFM ||| rFAC) 50
  | 0x7001, 4 => ent .u8 rOP (rFM ||| rFAC) 65
  | 0x7001, 5 => ent .u8 rOP (rFM ||| rFAC) 80
  | 0x7001, 6 => ent .u8 rOP (rFM ||| rFAC) 10
  | 0x7001, 7 => ent .u16 rOP (rFM ||| rFAC) 1000
  | 0x7001, 8 => ent .u16 rOP (rFM ||| rFAC) 2000
  | 0x7001, 9 => ent .u8 rOP (rFM ||| rFAC) 0xFF
  | 0x7002, 1 => ent .u16 rOP (rFM ||| rFAC) 200
  | 0x7002, 2 => entK (.octets 15) 0 (rOP ||| rFM ||| rFAC) .none
  | 0x7002, 3 => ent (.octets 15) 0 (rOP ||| rFM ||| rFAC) 0
  | 0x7002, 4 => ent .u8 rOP (rFM ||| rFAC) 4
  | 0x7003, 1 => ent .u8 rOP 0 0
  | 0x7003, 2 => ent .bool 0 (rOP ||| rFM) 0
  | 0x8000, 6 => ent .u8 rFAC 0 0
  | 0x8000, 7 => ent .u8 (rOP ||| rFM) 0 0
  | 0x8000, s => if 1 ≤ s && s ≤ 5 then ent .u32 0 (rOP ||| rFM ||| rFAC) 0 else none
  | 0x8010, s => if 1 ≤ s && s ≤ 0x15 then ent .u32 0 (rOP ||| rFM ||| rFAC) 0 else none
  | 0x8020, s => if (1 ≤ s && s ≤ 6) || (0x11 ≤ s && s ≤ 0x1B) then ent .u32 0 (rOP ||| rFM ||| rFAC) 0 else none
  | 0x9000, 1 => ent .u8 rOP rALL 22
  | 0x9000, 2 => ent .u32 rOP rALL 2000
  | 0x9000, 3 => ent .u32 rOP rALL 10000
  | 0x9000, 4 => ent .u16 rOP rALL 64
  | 0x9000, 5 => ent .u32 rOP rALL 1048576
  | 0x9000, 6 => ent .u32 (rOP ||| rFM) rALL 0
  | 0x9000, 7 => ent .u8 (rOP ||| rFM) 0 0
  | 0x9010, 1 => ent .u32 rOP rALL 16384
  | 0x9010, 2 => ent .u32 rOP rALL 262144
  | 0x9030, 1 => ent .bool rOP rFM 1
  | 0x9030, 2 => ent .u16 rOP rFM 64
  | 0x9030, 3 => ent .u8 rOP rFM 2
  | 0x9030, 4 => ent .u32 rOP 0 0
  | 0x9030, 5 => entK (.octets 16) 0 (rOP ||| rFM) .none
  | 0x9030, 6 => ent (.octets 16) 0 (rOP ||| rFM ||| rFAC) 0
  | 0xA000, 1 => entK .u16 rFM rALL .image
  | 0xA001, s => if 1 ≤ s && s ≤ 6 then ent .u8 0 (rOP ||| rFM ||| rFAC) 0 else none
  | i, s =>
    if 0x8100 ≤ i && i ≤ 0x8107 && 1 ≤ s && s ≤ 16 then ent .u64 0 (rOP ||| rFM ||| rFAC) 0
    else if 0x8110 ≤ i && i ≤ 0x8117 && 1 ≤ s && s ≤ 16 then ent .u32 0 (rOP ||| rFM ||| rFAC) 0
    else if ((0x8200 ≤ i && i ≤ 0x820F) || (0x8300 ≤ i && i ≤ 0x830F)) && 1 ≤ s && s ≤ 128 then
      ent .u32 0 (rOP ||| rFM ||| rFAC) 0
    else if 0x8401 ≤ i && i ≤ 0x841C && 1 ≤ s && s ≤ 5 then
      ent (if s == 3 then .u64 else .u32) 0 (rOP ||| rFM ||| rFAC) 0
    else if 0xA010 ≤ i && i ≤ 0xA014 && 1 ≤ s && s ≤ 3 then ent .u32 0 (rOP ||| rFM) 0
    else if i == 0xA100 && 1 ≤ s && s ≤ 255 then ent (.octets 24) rFM rOP 0
    else none

/-- Entries of a securing job (R339). -/
def entJob : Nat → Option Entry
  | 0x01 => ent .u8 0 (rOP ||| rFM ||| rMED) 0
  | 0x02 => ent .u8 rMED 0 0
  | 0x03 => ent .u64 rMED rOP 0
  | 0x04 => ent .u32 rMED 0 0
  | 0x05 => ent .u64 (rOP ||| rFM) rMED 0
  | 0x06 => ent .u64 rFM (rOP ||| rMED) 0
  | 0x07 => ent .u8 rFM (rOP ||| rMED) 0
  | 0x08 => ent .bool rOP (rFM ||| rMED) 0
  | 0x09 => ent .u8 rMED 0 0
  | 0x0A => ent .u64 (rMED ||| rFM) 0 0
  | 0x0B => ent .u64 0 (rOP ||| rFM ||| rMED) 0
  | 0x0C => ent .u64 0 (rOP ||| rFM ||| rMED) 0
  | 0x0D => ent .u32 0 (rOP ||| rFM ||| rMED) 0
  | s => if 0x0E ≤ s && s ≤ 0x11 then ent .u32 0 (rOP ||| rFM ||| rMED) 0 else none

/-- Entries of slice n at a base index plus n (R421). -/
def entSlice (base s : Nat) : Option Entry :=
  match base, s with
  | 0x2100, 0x01 => ent .u8 0 (rOP ||| rFM ||| rMED) 0
  | 0x2100, 0x0B => ent .u32 0 (rOP ||| rFM ||| rMED) 0
  | 0x2100, 0x0C => ent .u64 rMED rOP 0
  | 0x2100, 0x0D => ent .u64 0 (rOP ||| rFM ||| rMED) 0
  | 0x2100, 0x0E => ent .u8 rOP (rFM ||| rMED) 3
  | 0x2100, 0x0F => ent .u16 rOP (rFM ||| rMED) 128
  | 0x2100, 0x14 => ent .u32 rOP (rFM ||| rMED) 0
  | 0x2100, 0x16 => ent .u64 0 (rOP ||| rFM ||| rMED) 0
  | 0x2100, 0x1B => ent .u64 0 (rOP ||| rFM ||| rMED) 0
  | 0x2100, s =>
    if 2 ≤ s && s ≤ 10 then ent (holdTy (s - 2)) 0 (rOP ||| rFM ||| rMED) 0
    else if 0x10 ≤ s && s ≤ 0x1A then ent .u32 0 (rOP ||| rFM ||| rMED) 0
    else none
  | 0x2200, 1 => entK (.octets 480) 0 (rOP ||| rMED) .none
  | 0x2200, 2 => ent (.octets 32) rMED 0 0
  | 0x2200, 3 => entK (.octets 480) 0 rMED .none
  | 0x2200, 4 => ent .u8 0 rMED 0
  | 0x4100, s => if 1 ≤ s && s ≤ 16 then ent .u64 (rOP ||| rMED) 0 0 else none
  | 0x4200, s =>
    if 1 ≤ s && s ≤ 16 then ent (.octets 16) 0 (rOP ||| rMED) 0
    else if s == 17 then ent .u32 0 (rOP ||| rMED) 0 else none
  | 0x4300, 1 => ent (.octets 56) 0 (rOP ||| rMED) 0
  | 0x5300, s => if 1 ≤ s && s ≤ 8 then ent (.octets 24) (rOP ||| rFM) rMED 0 else none
  | 0x6100, 1 => ent .u64 0 (rOP ||| rMED) 0
  | 0x6100, 2 => ent .u8 rMED 0 0
  | 0x6100, 3 => ent .u8 0 rMED 0xFF
  | 0x6100, 4 => ent .u8 rMED 0 0xFF
  | 0x6200, 1 => ent .bool rMED rOP 0
  | 0x6200, 2 => ent (.octets 16) rMED 0 0
  | 0x6200, 3 => ent (.octets 48) 0 rMED 0
  | 0x6200, 4 => ent .u8 0 rMED 0
  | 0x6300, 1 => ent (.octets 32) rMED 0 0
  | 0x6300, 2 => ent .u8 rMED 0 0
  | 0x6300, 3 => entK (.octets 1024) rMED 0 .none
  | 0x6300, 4 => ent .u8 0 rMED 0
  | 0x7100, 1 => ent .bool rOP (rFM ||| rMED) 0
  | 0x9100, 1 => ent .u64 rMED rOP 0
  | 0x9100, 2 => ent .u32 rMED rOP 0
  | 0x9100, 3 => ent .u32 0 (rMED ||| rOP) 0
  | 0x9100, 4 => ent (.octets 16) rMED rOP 0
  | 0x9100, 5 => ent (.octets 288) 0 (rMED ||| rOP) 0
  | 0x9100, 6 => ent .u8 (rMED ||| rOP) 0 0
  | _, _ => none

/-- The base index, slice and job of an index of a slice's block (R421); jobs stand at 0x5100 + 8n + j. -/
def sliceIndex (i : Nat) : Option (Nat × Nat × Nat) :=
  if 0x5108 ≤ i && i ≤ 0x51E7 then some (0x5100, (i - 0x5100) / 8, (i - 0x5100) % 8)
  else
    let base := i / 256 * 256
    let n := i % 256
    if 1 ≤ n && n ≤ 28 && base ∈ [0x2100, 0x2200, 0x4100, 0x4200, 0x4300, 0x5300, 0x6100, 0x6200, 0x6300, 0x7100, 0x9100] then
      some (base, n, 0)
    else none

/-- The entry at index:subindex for subindex 1 on. -/
def entAt (i s : Nat) : Option Entry :=
  match sliceIndex i with
  | some (base, n, _) =>
    (if base == 0x5100 then entJob s else entSlice base s).map fun e => { e with slice := some n }
  | none => if i < 0x4000 then entLow i s else entHigh i s

/-- Subindexes in use at an index. -/
def subsAt (i : Nat) : List Nat := (List.range 256).filter fun s => 1 ≤ s && (entAt i s).isSome

/-- Every entry, subindex 0x00 included: the highest subindex in use, readable by every role that may read any entry of the
index (R407). -/
def dictEntry (i s : Nat) : Option Entry :=
  if s == 0 then
    match subsAt i with
    | [] => none
    | l => some { ty := .u8, rd := l.foldl (fun m x => m ||| ((entAt i x).map (·.rd)).getD 0) 0, wr := 0,
                  dflt := .val [BitVec.ofNat 8 (l.foldl max 0)], slice := (sliceIndex i).map fun x => x.2.1 }
  else entAt i s

/-! ### Requesters and answers (R411 to R417) -/

/-- Result codes of R415. -/
def cSuccess : Nat := 0
def cNoEntry : Nat := 1
def cDenied : Nat := 2
def cLength : Nat := 3
def cRefused : Nat := 4
def cBusy : Nat := 5
def cMalformed : Nat := 6

/-- The binding of an endpoint, if any (R411). -/
def Dict.binding (d : Dict) (eid : Nat) : Option EidBinding :=
  (d.bindings.find? fun x => x.2.role != 0 && x.2.eid == eid).map (·.2)

/-- The role of an endpoint as a mask: 0 none, 1 OP, 2 FM, 4 MED, 8 FAC. -/
def Dict.roleMask (d : Dict) (eid : Nat) : Nat :=
  match d.binding eid with
  | none => 0
  | some x => 2 ^ (x.role - 1)

def Dict.isMed (d : Dict) (eid : Nat) : Bool := d.roleMask eid == rMED

/-- A MED may reach an entry of slice n only while n is in its mask (R409). -/
def Dict.seesSlice (d : Dict) (eid : Nat) : Option Nat → Bool
  | none => true
  | some n => !d.isMed eid || ((d.binding eid).map fun x => x.slices.getLsbD n).getD false

def Entry.canRead (e : Entry) (d : Dict) (eid : Nat) : Bool := e.rd &&& d.roleMask eid != 0 && d.seesSlice eid e.slice
def Entry.canWrite (e : Entry) (d : Dict) (eid : Nat) : Bool := e.wr &&& d.roleMask eid != 0 && d.seesSlice eid e.slice

/-- SCRAP and INVALID (R356). -/
def Block.locked (b : Block) : Bool := b.life.lcs == 7 || b.life.lcs == 15

/-- An answer: a MED's waits 1 ms for MED_ANSWER (R194), any other leaves at once; none leaves a
block in reset. -/
def Block.answer (b : Block) (r : DictRsp) : Block :=
  if b.start.stage == 0 then b
  else if b.dict.isMed r.eid then b.medLater r.eid (.dict r) else b.emit (.dict r)

/-- The outcome of the entry's own rule on a write. -/
inductive WriteRes where
  | done (b : Block)
  | refused (reason : Nat) (b : Block)

/-- A MED binding has at most one request of the dictionary outstanding (R416). -/
def Block.busyMed (b : Block) (eid : Nat) : Bool :=
  b.dict.isMed eid && b.dict.med.any fun x => match x.2.2 with
    | .dict r => r.eid == eid
    | _ => false

/-- The value is one that the type allows: the size, and 0 or 1 for a BOOL (R408). -/
def Ty.badSize (t : Ty) (v : List Byte) : Bool :=
  match t with
  | .str n => n < v.length
  | t => v.length != t.size

def Ty.badValue (t : Ty) (v : List Byte) : Bool := t == .bool && 1 < leNat v

/-- The checks of R409, R408 and R455 on a write, as a code and reason; none lets the entry's own rule decide. -/
def Block.writeCheck (b : Block) (eid i s : Nat) (v : List Byte) : Option (Nat × Nat) :=
  match dictEntry i s with
  | none => some (cNoEntry, 0)
  | some e =>
    if b.locked then some (cNoEntry, 0)
    else if !e.canWrite b.dict eid then (if e.canRead b.dict eid then some (cDenied, 0) else some (cNoEntry, 0))
    else if e.ty.badSize v then some (cLength, 0)
    else if e.ty.badValue v then some (cRefused, 1)
    else if (e.slice.map fun n => (b.slice n).st == .none).getD false then some (cRefused, 1)
    else none

/-- A WRITE request: the checks, the rule of the entry, and the answer (R414 to R417). -/
def Block.dictWrite (b : Block) (eid : Nat) (tag : Byte) (i s : Nat) (v : List Byte) (f : Block → WriteRes) : Block :=
  let rsp (code reason : Nat) : DictRsp :=
    { eid := eid, kind := 2, tag := tag, index := i, sub := s, code := code, reason := reason, data := [] }
  if b.busyMed eid then b.answer (rsp cBusy 0)
  else
    match b.writeCheck eid i s v with
    | some (c, r) => b.answer (rsp c r)
    | none =>
      match f b with
      | .done b' => b'.answer (rsp cSuccess 0)
      | .refused r b' => b'.answer (rsp cRefused r)

end Sys2Proof.Machine
end

