-- ==== Sys2Proof/Machine/Parade.lean ====
section
/-! DEFINITION. The Parade: the commons and the base-image load, the sweep map, staged maps, runs and tiles (R109 to R126). -/

namespace Sys2Proof.Machine

/-! ### Outbound host reads (R445) -/

/-- The lowest tag from 0 to 255 that no outstanding read holds. -/
def freeReadTag (t : Tab HostRead) : Option Nat := (List.range 256).find? fun k => !(Tab.has t k)

/-- Issues a read of host memory, or lets it wait while 256 are outstanding. -/
def Block.hostRead (b : Block) (r : HostRead) : Block :=
  match freeReadTag b.ports.hostReads with
  | none => b.modPorts fun p => { p with hostWait := p.hostWait ++ [r] }
  | some k =>
    (b.modPorts fun p => { p with hostReads := Tab.put p.hostReads k r }).emit (.hostRead k r.addr r.len r.pasid)

/-- Reads whose use has ended: what they bring is dropped. -/
def Block.staleHost (b : Block) (p : HostUse → Bool) : Block :=
  b.modPorts fun x =>
    { x with hostReads := x.hostReads.map fun r => if p r.2.use then (r.1, { r.2 with use := .stale }) else r
             hostWait := x.hostWait.filter (fun r => !p r.use)
             waiting := x.waiting.filter fun r => match r.what with
               | .read r => !p r.use
               | _ => true }

/-- At most 256 bytes are asked for at a time. -/
def readChunk (left : Nat) : Nat := min 256 left

/-! ### The commons (R109) -/

/-- The channel group of commons address a (R109). -/
def commonsGroup (groups : List Nat) (a : Nat) : Nat := groups.getD ((a / 512) % groups.length) 0

/-- The place on the memory ports of commons line `l` (address over 128): the channel group, the port within it and LINE. The bytes
of a group stand in ascending commons order (R109, R437). -/
def commonsPlace (groups : List Nat) (l : Nat) : Nat × Nat × Nat := (commonsGroup groups (128 * l), l % 4, l / 4 / groups.length)

/-! ### Sweep maps (R112 to R118) -/

/-- Bytes of a tile: 2,052 in Q4m, 8,192 in BF16 (R114). -/
def tileBytes (fmt : Nat) : Nat := if fmt == 0 then 2052 else 8192

def runOf (bs : List Byte) : Run :=
  let w i := (leNat ((bs.drop (8 * i)).take 8))
  { seg := fld (w 0) 62 62, fmt := fld (w 0) 61 59, tileFirst := fld (w 0) 58 32, count := fld (w 0) 26 0
    start := fld (w 1) 63 48
    stop := if fld (w 1) 47 32 == 0 then 0x10000 else fld (w 1) 47 32
    spacing := fld (w 1) 31 12
    inner := fld (w 2) 63 40, srcBase := fld (w 2) 39 0
    innerStep := signed 32 (fld (w 3) 63 32), outerStep := signed 32 (fld (w 3) 31 0) }

/-- Reserved fields of an entry that must be zero. -/
def runReserved (bs : List Byte) : Bool :=
  let w i := (leNat ((bs.drop (8 * i)).take 8))
  fld (w 0) 63 63 != 0 || fld (w 0) 31 27 != 0 || fld (w 1) 11 0 != 0

/-- Commons address of tile n of a run (R114). -/
def Run.src (r : Run) (n : Nat) : Int :=
  (r.srcBase : Int) + ((n % r.inner : Nat) : Int) * r.innerStep + ((n / r.inner : Nat) : Int) * r.outerStep

/-- The corners of rule 7 of R118 that are tiles of the run. -/
def Run.corners (r : Run) : List Nat :=
  let q := (r.count - 1) / r.inner
  ([0, r.inner - 1, q * r.inner, r.count - 1] ++ (if q == 0 then [] else [q * r.inner - 1])).filter fun n => n < r.count

def Run.inBase (r : Run) (baseBytes : Nat) : Bool :=
  r.corners.all fun n => 0 ≤ r.src n && r.src n + (tileBytes r.fmt : Int) ≤ (baseBytes : Int)

/-- Ascending START, and no two windows intersect (rule 5). -/
def runsOrdered : List Run → Bool
  | a :: b :: l => a.start < b.start && a.stop ≤ b.start && runsOrdered (b :: l)
  | _ => true

/-- Two runs of one segment share a tile number (rule 6). -/
def runsShare : List Run → Bool
  | [] => false
  | a :: l => (l.any fun b => a.seg == b.seg && a.tileFirst < b.tileFirst + b.count && b.tileFirst < a.tileFirst + a.count) ||
      runsShare l

def minSpacing (fmt groups : Nat) : Nat := ceilDiv (tileBytes fmt * 4) groups

/-- The run entries of a map's bytes. -/
def mapEntries (bs : List Byte) (n : Nat) : List (List Byte) := (List.range n).map fun k => (bs.drop (64 + 32 * k)).take 32

/-- A sweep map from its bytes, and the first rule of R118 that it breaks (0: none), for G commons groups. DESIGN CHOICE: bytes
that end before the last entry break rule 1 (notes/assumptions/93.md). -/
def mapOf (groups : Nat) (bs : List Byte) : SweepMap × Nat :=
  let w0 := leNat (bs.take 8)
  let n := fld w0 12 0
  let es := mapEntries bs n
  let runs := es.map runOf
  let base := fld (leNat ((bs.drop 8).take 8)) 39 0
  let m : SweepMap :=
    { groups := fld w0 44 40, baseBytes := base, commonsDigest := BitVec.ofNat 384 (leNat ((bs.drop 16).take 48))
      runs := runs, digest := Config.sha384 (bs.take (64 + 32 * n)) }
  let rule :=
    if fld w0 63 48 != 1 || fld w0 44 40 != groups || n == 0 || 4096 < n || bs.length < 64 + 32 * n then 1
    else if (runs.any fun r => (r.fmt != 0 && r.fmt != 3) || r.count == 0 || r.inner == 0) || es.any runReserved then 2
    else if runs.any fun r => r.spacing < minSpacing r.fmt groups then 3
    else if runs.any fun r => r.stop ≤ r.start then 4
    else if !runsOrdered runs then 5
    else if runsShare runs then 6
    else if runs.any fun r => !r.inBase base then 7
    else 0
  (m, rule)

/-- The smallest tile spacing of a segment in whole clocks; none where the map has no run of it (R117). -/
def SweepMap.minSp (m : SweepMap) (seg : Nat) : Option Nat :=
  match (m.runs.filter fun r => r.seg == seg).map (·.spacing) with
  | [] => none
  | x :: l => some (l.foldl min x / 512)

/-- Index of the first run whose START lies after a phase. -/
def nextAfter (runs : List Run) (phase : Nat) : Nat := (runs.filter fun r => r.start ≤ phase).length

/-! ### Base-image loads (R110) -/

/-- Reads the next entry of the list at `base` from which `left` entries are still to come, of `count`. -/
def Block.fetchList (b : Block) (use : HostUse) (base : Dword) (count left : Nat) : Block :=
  b.hostRead { addr := base.toNat + 16 * (count - left), len := 16, pasid := 0, use := use }

/-- A load begins on this instance, under a fresh key pair of selector 63 (R223). DESIGN CHOICE: none begins while no draw succeeds
(R373; notes/assumptions/124.md). -/
def Block.beginLoad (b : Block) (n : Nat) (fetched : Bool) : Block :=
  let b := b.modParade fun p => { p with st := .loading, load := some { left := n, written := 0, fetched := fetched } }
  { b with keyGens := b.keyGens + 1, keys := Tab.put b.keys 63 { holder := 0, gen := b.keyGens + 1 } }

/-- Starts the load; with an empty list nothing is fetched. -/
def Block.startLoad (b : Block) : Block :=
  let n := b.parade.loadCount
  let b := b.beginLoad n (n == 0)
  if n == 0 then b else b.fetchList .baseList b.parade.loadList n n

def execLoadCtrl (eid : Nat) (tag : Byte) (value : Byte) (s : State) : Host.Outcome State Fault Refusal :=
  s.onBlock fun b => b.dictWrite eid tag 0x3030 1 [value] fun b =>
    if value == 1 && b.start.stage == 4 && !b.life.rngFault && (b.parade.st == .empty || b.parade.st == .fault) then .done (b.startLoad.keep 0x3030 1 1)
    else .refused 1 b

/-- Pieces of k bytes; the payload of a FED_CTRL flit is bytes 8 to 255 (R444). -/
def fedChunks (k : Nat) : Nat → List Byte → List (List Byte)
  | 0, _ => []
  | n + 1, bs => if bs.isEmpty then [] else bs.take k :: fedChunks k n (bs.drop k)

/-- A flit of the block's own traffic (R441). -/
def Block.ownFlit (b : Block) (kind cls tag : Nat) (body : List Byte) : Flit :=
  { kind := kind, cls := cls, package := b.dict.package, slice := 0xFF, tag := tag, body := body }

/-- The other instances of the package that are not lost. -/
def Block.otherInsts (b : Block) : List Nat := (List.range b.start.instCount).filter fun i => i != b.start.inst && !b.start.lost.contains i

/-- A FED_CTRL flit to another instance, by the shorter way round (R444). -/
def Block.fedCtrl (b : Block) (dst op : Nat) (payload : List Byte) : Block :=
  b.emitOwn (b.fedTo dst) (.flit (b.fedTo dst) { b.ownFlit 0x19 0 0 (toLe 8 op ++ payload) with fed := some (dst, b.start.inst, false) })

/-- The lead copies bytes to every other instance over FED (R19, R110, R119): op 1 commons-copy data, 2 staged-map data. Each
flit's payload is `head` and a piece of the bytes. -/
def Block.fedCopy (b : Block) (op : Nat) (head bs : List Byte) : Block :=
  if b.start.lead then
    b.each b.otherInsts fun i b => (fedChunks (248 - head.length) (bs.length + 1) bs).foldl (fun b c => b.fedCtrl i op (head ++ c)) b
  else b

/-- The capacity of the commons: G times the memory behind one channel group (R109). -/
def Block.commonsBytes (b : Block) : Nat :=
  b.start.commons.length * ((b.start.commons.head?.map b.groupBytes).getD 0)

/-- Image bytes reach the commons in ascending order (R110); what lies beyond its capacity has no place in it (R109). -/
def Block.commonsAppend (b : Block) (bs : List Byte) : Block :=
  match b.parade.load with
  | none => b
  | some l =>
    (b.modParade fun p => { p with commons := p.commons.writeN l.written (bs.take (b.commonsBytes - l.written))
                                   load := some { l with written := l.written + bs.length } }).fedCopy 1 [] bs

/-- A list entry of the load has arrived: 8 bytes of address, 4 of length. DESIGN CHOICE: an entry of length 0 brings no byte, and
a list of no entries is an empty image (notes/assumptions/93.md). -/
def Block.loadEntry (b : Block) (bs : List Byte) : Block :=
  let addr := leNat (bs.take 8)
  let len := leNat ((bs.drop 8).take 4)
  match b.parade.load with
  | none => b
  | some l =>
    let l := { l with left := l.left - 1 }
    let b := b.modParade fun p => { p with load := some l }
    if len == 0 then
      if l.left == 0 then b.modParade fun p => { p with load := some { l with fetched := true } }
      else b.fetchList .baseList b.parade.loadList b.parade.loadCount l.left
    else b.hostRead { addr := addr, len := readChunk len, pasid := 0, use := .baseData len addr }

/-- Bytes of the entry in progress have arrived: `len` were still to come, from `addr`. -/
def Block.loadData (b : Block) (len addr : Nat) (bs : List Byte) : Block :=
  let b := b.commonsAppend bs
  match b.parade.load with
  | none => b
  | some l =>
    if bs.length < len then
      b.hostRead { addr := addr + bs.length, len := readChunk (len - bs.length), pasid := 0,
                   use := .baseData (len - bs.length) (addr + bs.length) }
    else if l.left == 0 then b.modParade fun p => { p with load := some { l with fetched := true } }
    else b.fetchList .baseList b.parade.loadList b.parade.loadCount l.left

/-- The digest of the commons from address 0 to BASE_BYTES - 1. -/
def Parade.commonsHash (p : Parade) : BitVec 384 := Config.sha384 (p.commons.readN 0 p.map.baseBytes)

/-- A block-compute rung is over once the commons are hashed and every slice is re-established (R319). -/
def Block.blockRungEnds (b : Block) : Block :=
  if b.parade.load.isSome || (b.recon.run.toList.map (·.req) ++ b.recon.pend).any fun r => r.slice == 0 then b
  else b.modLadder fun l => { l with blockBusy := none }

/-- The hash completes: VERIFIED when digest and byte count agree, else FAULT; the Parade then starts at the next run START
(R110). -/
def Block.verifyBase (b : Block) : Block :=
  match b.parade.load with
  | none => b
  | some l =>
    if b.parade.st == .loading && (l.fetched || !b.start.lead) then
      let ok := l.written == b.parade.map.baseBytes && b.parade.commonsHash == b.parade.map.commonsDigest
      (b.modParade fun p => { p with st := if ok then .verified else .fault, load := none, look := [], lookPart := 0
                                     nextRun := nextAfter p.map.runs b.phaseNow }).blockRungEnds
    else b

def execBaseImageVerify (s : State) : Host.Outcome State Fault Refusal := s.onBlock Block.verifyBase

/-! ### Staged maps (R119) -/

/-- A new staged load of n list entries for a switch stride; a staged map is discarded. -/
def Block.newStaged (b : Block) (v : Dword) (n : Nat) : Block :=
  let sw := dfld v 47 0
  b.modParade fun p =>
    { p with switchStride := v, staged := some { switchAt := sw, future := b.time.count.toNat < sw, left := n, bytes := [],
                                                 ready := none, readyLate := false } }

/-- The write of SWITCH_STRIDE discards a staged map and starts a new staged load, here and on every other instance. -/
def Block.stageMap (b : Block) (v : Dword) : Block :=
  let n := b.parade.stageCount
  let b := b.staleHost fun u => match u with
    | .stageList => true
    | .stageData _ _ => true
    | _ => false
  let b := b.newStaged v n
  let b := if b.start.lead then b.each b.otherInsts fun i b => b.fedCtrl i 2 (toLe 8 v.toNat) else b
  if n == 0 then b else b.fetchList .stageList b.parade.stageList n n

def execSwitchStride (eid : Nat) (tag : Byte) (value : Dword) (s : State) : Host.Outcome State Fault Refusal :=
  s.onBlock fun b => b.dictWrite eid tag 0x3012 1 (toLe 8 value.toNat) fun b => .done (b.stageMap value)

def Block.modStaged (b : Block) (f : Staged → Staged) : Block :=
  b.modParade fun p => { p with staged := p.staged.map f }

def Block.stageEntry (b : Block) (bs : List Byte) : Block :=
  let addr := leNat (bs.take 8)
  let len := leNat ((bs.drop 8).take 4)
  match b.parade.staged with
  | none => b
  | some st =>
    let b := b.modStaged fun x => { x with left := x.left - 1 }
    if len == 0 then
      if st.left ≤ 1 then b else b.fetchList .stageList b.parade.stageList b.parade.stageCount (st.left - 1)
    else b.hostRead { addr := addr, len := readChunk len, pasid := 0, use := .stageData len addr }

def Block.stageData (b : Block) (len addr : Nat) (bs : List Byte) : Block :=
  let b := (b.modStaged fun x => { x with bytes := x.bytes ++ bs }).fedCopy 2 (toLe 8 b.parade.switchStride.toNat) bs
  match b.parade.staged with
  | none => b
  | some st =>
    if bs.length < len then
      b.hostRead { addr := addr + bs.length, len := readChunk (len - bs.length), pasid := 0,
                   use := .stageData (len - bs.length) (addr + bs.length) }
    else if st.left == 0 then b
    else b.fetchList .stageList b.parade.stageList b.parade.stageCount st.left

/-- The staged map has reached every instance: it must pass R118, keep BASE_BYTES and COMMONS_DIGEST and be signed; a map
that does not is discarded (R118, R119). -/
def Block.stagedArrived (b : Block) : Block :=
  match b.parade.staged with
  | none => b
  | some st =>
    if st.left == 0 && st.ready.isNone then
      let (m, rule) := mapOf b.start.commons.length st.bytes
      if rule != 0 then b.modParade fun p => { p with staged := none, mapRefusal := rule }
      else if m.baseBytes != b.parade.map.baseBytes || m.commonsDigest != b.parade.map.commonsDigest ||
          !Config.mapSigned st.bytes then b.modParade fun p => { p with staged := none }
      else b.modParade fun p =>
        { p with mapRefusal := 0, staged := some { st with ready := some m, readyLate := 0xFF00 ≤ b.phaseNow } }
    else b

def execStagedMapComplete (s : State) : Host.Outcome State Fault Refusal := s.onBlock Block.stagedArrived

/-- At a map switch a run of the old map that still emits completes, with the tiles of it that the lookahead buffer holds. -/
def Parade.oldMapRun (p : Parade) : Parade :=
  match p.run with
  | none => { p with look := [], lookPart := 0 }
  | some rs =>
    { p with run := some { rs with idx := 4096 }
             look := (p.look.filter fun x => x.runIdx == rs.idx).map fun x => { x with runIdx := 4096 } }

/-- The comparison at a phase zero, after the Parade record (R119). -/
def Block.stagedZero (b : Block) (newCount : Nat) : Block × Bool :=
  match b.parade.staged with
  | none => (b, false)
  | some st =>
    if newCount < st.switchAt then (b.modStaged fun x => { x with readyLate := false }, false)
    else
      match st.ready with
      | some m =>
        if st.readyLate then
          if st.future then (b.modParade fun p => { p with staged := none }, false)
          else (b.modStaged fun x => { x with readyLate := false }, false)
        else (b.modParade fun p => { p.oldMapRun with staged := none, map := m, startClks := [] }, true)
      | none => if st.future then (b.modParade fun p => { p with staged := none }, false) else (b, false)

/-! ### Runs and tiles (R114 to R126) -/

/-- The Parade carries runs: VERIFIED or RUNNING, and the time base has started (R101, R110). -/
def Block.paradeLive (b : Block) : Bool := b.time.started && (b.parade.st == .verified || b.parade.st == .running)

/-- C(START) of each run whose START has come in this stride: the first clock stamped at or after it (R115). -/
def Block.noteStarts (b : Block) : Block :=
  let new := (b.parade.map.runs.drop b.parade.startClks.length).takeWhile fun r => r.start ≤ b.phaseNow
  if !b.time.started || new.isEmpty then b
  else b.modParade fun p => { p with startClks := p.startClks ++ new.map fun _ => b.time.clk }

/-! ### The lookahead buffer (R121) -/

/-- The commons lines, by address over 128, that hold a byte of [a, a + n). -/
def linesOf (a n : Nat) : List Nat := (List.range ((a + n - 1) / 128 - a / 128 + 1)).map (· + a / 128)

/-- The tile k places on, from tile n of a run on, in run order: the place of its run, its bytes and its address. -/
def tileAfter : List (Nat × Run) → Nat → Nat → Option (Nat × Nat × Nat)
  | [], _, _ => none
  | (i, r) :: l, n, k => if n + k < r.count then some (i, tileBytes r.fmt, (r.src (n + k)).toNat) else tileAfter l 0 (n + k - r.count)

/-- The tile that the root reads next: after those in the buffer, crossing from run to run and from stride to stride. -/
def Parade.lookNext (p : Parade) : Option (Nat × Nat × Nat) :=
  let runs := (p.map.runs.zipIdx).map fun x => (x.2, x.1)
  let later := runs.drop p.nextRun ++ runs
  match p.run with
  | some rs => tileAfter ((rs.idx, rs.run) :: later) rs.next p.look.length
  | none => tileAfter later 0 p.look.length

/-- Bytes that the buffer may hold (R121). -/
def Block.lookLimit (b : Block) : Nat := if 1 ≤ b.power.level then 262144 else 2097152

/-- Tiles enter the buffer while it has room for them, each with the lines it waits for; a group whose shim has failed returns
nothing, and its lines fail (R396). -/
def Parade.lookFill (clk limit : Nat) (groups : List Nat) : Nat → Parade → Parade
  | 0, p => p
  | n + 1, p =>
    match p.lookNext with
    | none => { p with lookPart := 0 }
    | some (i, size, a) =>
      if limit < (p.look.map (·.size)).sum + size then { p with lookPart := 0 }
      else if p.lookPart < size then p
      else
        let dead (l : Nat) : Bool := p.failedGroups.contains (commonsGroup groups (128 * l))
        let lines := linesOf a size
        Parade.lookFill clk limit groups n
          { p with look := p.look ++ [{ runIdx := i, size := size, missing := lines.filter fun l => !dead l
                                        bad := lines.filter dead, ready := clk }]
                   lookPart := p.lookPart - size }

/-- The root asks the commons ahead, in run order: for G × 128 bytes in each compute clock (R117, R121). -/
def Block.readAhead (b : Block) : Block :=
  if !b.paradeLive || b.gated then b
  else b.modParade fun p =>
    Parade.lookFill b.time.clk b.lookLimit b.start.commons 32 { p with lookPart := p.lookPart + b.start.commons.length * 128 }

/-- The reads outstanding at a memory port, as the root issues them: at most 32, those of the oldest tiles first (R121, R438). -/
def Parade.outstanding (p : Parade) (groups : List Nat) (g port : Nat) : List Nat :=
  (((p.look.flatMap (·.missing)).filter fun l => commonsGroup groups (128 * l) == g && l % 4 == port).take 32)

/-- The read of a commons line returns, with `err` unable to deliver it intact: every tile of the buffer that waits for the line has
it. DESIGN CHOICE: tiles that share a line share its read (notes/assumptions/104.md). -/
def Block.commonsReturn (b : Block) (g port line : Nat) (err : Bool) : Block :=
  match (b.parade.outstanding b.start.commons g port).find? fun l => (commonsPlace b.start.commons l).2.2 == line with
  | none => b
  | some l => b.modParade fun p =>
    { p with look := p.look.map fun x =>
        if x.missing.contains l then
          { x with missing := x.missing.filter (· != l), bad := if err then x.bad ++ [l] else x.bad, ready := b.time.clk }
        else x }

/-- The tiles of a run leave the buffer with it. -/
def Parade.unlook (p : Parade) (i : Nat) : Parade := { p with look := p.look.filter fun x => x.runIdx != i, lookPart := 0 }

/-- The START of a run has come, the run before it has left, and it is not to be dropped (R115, R122, R124). -/
def Block.begins (b : Block) (r : Run) : Bool :=
  b.paradeLive && !b.gated && b.parade.run.isNone && r.start ≤ b.phaseNow && b.phaseNow < r.start + b.parade.overrunLimit

/-- The next run of the map begins emission. -/
def Block.runStart (b : Block) : Block :=
  match b.parade.map.runs[b.parade.nextRun]? with
  | none => b
  | some r =>
    if b.begins r then
      b.modParade fun p =>
        { p with st := .running, nextRun := p.nextRun + 1
                 run := some { idx := p.nextRun, run := r, stride := b.time.count.toNat
                               startClk := p.startClks.getD p.nextRun b.time.clk, next := 0, slip := 0, late := false } }
    else b

/-- Replaces the bytes from `i` on by `x`. -/
def overwrite (bs : List Byte) (i : Nat) (x : List Byte) : List Byte := bs.take i ++ x ++ bs.drop (i + x.length)

/-- The canonical BF16 NaN over a 128-byte line. -/
def nanLine : List Byte := (List.replicate 64 [(0xC0 : Byte), 0x7F]).flatten

/-- R111: the scale bytes of a Q4m tile, or the tile's own lines of a BF16 tile that touch a failing commons line. -/
def markTile (fmt a : Nat) (bad : List Nat) (bs : List Byte) : List Byte :=
  if fmt == 0 then overwrite bs 2048 [0xFF, 0xFF, 0xFF, 0xFF]
  else
    (List.range 64).foldl (fun bs i =>
      if (linesOf (a + 128 * i) 128).any (bad.contains ·) then overwrite bs (128 * i) nanLine else bs) bs

/-- Tiles that the model's tree keeps for the engines to take (R120; notes/assumptions/20.md). -/
def treeDepth : Nat := 64

/-- sched(n) of the run's next tile (R115). -/
def RunSt.sched (rs : RunSt) : Nat := rs.startClk + rs.next * rs.run.spacing / 512

/-- emit(n) of the run's next tile, which was whole in the buffer in clock `ready` (R115). -/
def Parade.emitAt (p : Parade) (rs : RunSt) (ready : Nat) : Nat :=
  max (rs.sched + rs.slip) (max ready (p.emitPrev + ceilDiv p.bytesPrev 2048))

/-- The run's next tile is whole in the buffer: the clock in which it was first so. -/
def Parade.readyTile (p : Parade) (rs : RunSt) : Option Nat :=
  match p.look with
  | [] => none
  | x :: _ => if x.runIdx == rs.idx && x.missing.isEmpty then some x.ready else none

/-- The lines of that tile whose read failed (R111). -/
def Parade.readBad (p : Parade) : List Nat := (p.look.head?.map (·.bad)).getD []

/-- The root sends tile n of the run in this clock (R111, R115, R120, R123, R125). -/
def Block.sendTile (b : Block) (rs : RunSt) (failing : List Nat) : Block :=
  let p := b.parade
  let emit := b.time.clk
  let r := rs.run
  let n := rs.next
  let size := tileBytes r.fmt
  let a := (r.src n).toNat
  let lines := linesOf a size
  let bad := lines.filter fun l => failing.contains l || p.readBad.contains l
  let raw := p.commons.readN a size
  let bytes := if bad.isEmpty then raw else markTile r.fmt a bad raw
  let slip := emit - rs.sched
  let last := n + 1 == r.count
  let lateNow := last && !rs.late && (rs.stride != b.time.count.toNat || r.stop ≤ b.phaseNow)
  let msg : TileMsg := { seqNo := p.seqNo + 1, seg := r.seg, tile := r.tileFirst + n, fmt := r.fmt, bytes := bytes, clk := emit }
  let b := b.modParade fun p =>
    { p with seqNo := p.seqNo + 1, emitPrev := emit, bytesPrev := size, look := p.look.drop 1
             tree := (p.tree ++ [msg]).drop (p.tree.length + 1 - treeDepth)
             curSlip := max p.curSlip slip
             curEcc := p.curEcc || !bad.isEmpty
             eccTiles := if bad.isEmpty then p.eccTiles else up32 p.eccTiles
             curLate := if lateNow then p.curLate + 1 else p.curLate
             lateRuns := if lateNow then up32 p.lateRuns else p.lateRuns
             run := if last then none else some { rs with next := n + 1, slip := slip, late := rs.late || lateNow } }
  if bad.isEmpty then b else b.tallyUp 0x8010 2

/-- The first tile of a run may leave only before (s, START + OVERRUN_LIMIT) (R124). -/
def Block.firstTooLate (b : Block) (rs : RunSt) : Bool :=
  rs.next == 0 && (rs.stride != b.time.count.toNat || rs.run.start + b.parade.overrunLimit ≤ b.phaseNow)

/-- Counts k dropped runs in the running record and in the counter. -/
def Parade.dropRuns (p : Parade) (k : Nat) : Parade :=
  { p with curDropped := p.curDropped + k, droppedRuns := min max32 (p.droppedRuns + k) }

/-- The run that the root has not begun and whose time has passed is dropped, also while the run before it emits (R124). -/
def Block.dropNext (b : Block) : Block :=
  match b.parade.map.runs[b.parade.nextRun]? with
  | none => b
  | some r =>
    if b.paradeLive && r.start + b.parade.overrunLimit ≤ b.phaseNow then
      b.modParade fun p => { (p.dropRuns 1).unlook p.nextRun with nextRun := p.nextRun + 1 }
    else b

/-- The run whose first tile has not left by START + OVERRUN_LIMIT is dropped, and the root moves to the next (R124). -/
def Block.runDrop (b : Block) : Block :=
  match b.parade.run with
  | some rs => if b.firstTooLate rs then b.modParade fun p => { (p.dropRuns 1).unlook rs.idx with run := none } else b.dropNext
  | none => b.dropNext

def execRunDrop (s : State) : Host.Outcome State Fault Refusal := s.onBlock Block.runDrop

/-- Shedding level 5: the root stops after the tile it is sending; the rest of the run is dropped (R126). -/
def Block.paradeStop (b : Block) : Block :=
  if b.parade.st == .running || b.parade.st == .verified then
    b.modParade fun p =>
      { (if p.run.isSome then p.dropRuns 1 else p) with st := .stopped, run := none, look := [], lookPart := 0 }
  else b

/-- Level 5 is left: STATE returns to RUNNING; runs whose START passed meanwhile, by the management-domain phase that the block
went by (R102), were dropped (R126). -/
def Block.paradeResume (b : Block) : Block :=
  if b.parade.st == .stopped then
    let k := nextAfter b.parade.map.runs b.time.mgmtPhase
    b.modParade fun p => { p.dropRuns (k - p.nextRun) with st := .running, nextRun := max k p.nextRun }
  else b

/-- Runs of the ending stride that have not begun, from `nextRun` on. -/
def Block.runsLeft (b : Block) : Nat :=
  if b.time.started && (b.parade.st == .running || b.parade.st == .verified || b.parade.st == .stopped) then
    b.parade.map.runs.length - b.parade.nextRun
  else 0

/-- The end of a stride for the Parade (R124, R125): runs not begun are dropped, a run still emitting is late, and the record
is written for every slice when any run was late or dropped or a tile was marked. `cpt` is the CPT measured over the stride
that ends, `ended` its count. -/
def Block.paradeRecord (b : Block) (ended : BitVec 48) (cpt : Nat) : Block :=
  let b := b.modParade fun p =>
    if b.runsLeft == 0 then p
    else
      { p.dropRuns b.runsLeft with
        look := p.look.filter fun x => (p.run.map fun rs => x.runIdx == rs.idx).getD false, lookPart := 0 }
  let b := b.modParade fun p =>
    match p.run with
    | none => p
    | some rs =>
      if rs.next == 0 then { (p.dropRuns 1).unlook rs.idx with run := none }
      else if rs.late then p
      else { p with curLate := p.curLate + 1, lateRuns := up32 p.lateRuns, run := some { rs with late := true } }
  let p := b.parade
  let hit := p.curLate != 0 || p.curDropped != 0 || p.curEcc
  let b := b.modParade fun p => { p with curLate := 0, curDropped := 0, curEcc := false, curSlip := 0, nextRun := 0, startClks := [] }
  if hit then
    ((b.modParade fun q =>
      { q with recMaxSlip := min 65535 (p.curSlip * 65536 / max 1 cpt), recStride := ended, recEcc := p.curEcc
               recLate := p.curLate, recDropped := p.curDropped, overruns := min 65535 (q.overruns + 1) }).irqAll 3).tallyUp
      0x8010 1
  else b

end Sys2Proof.Machine
end

