-- ==== Sys2Proof/Machine/Regulate.lean ====
section
/-! DEFINITION. Rein at a regulation point: class settings, the stamped priority (R267, R269), the requests that wait at the ports,
the ring stops, the shims and the walker slot, and the choice among them (R265, R268, R272). -/

namespace Sys2Proof.Machine

/-! ### Class settings and priorities (R267, R269, R271) -/

def clsTarget (w : Dword) : Nat := dfld w 63 40
def clsBase (w : Dword) : Nat := dfld w 39 37
def clsPermille (w : Dword) : Nat := dfld w 34 24
def clsCap (w : Dword) : Nat := dfld w 23 0

/-- A setting that R271 refuses. -/
def clsBad (w : Dword) : Bool := dfld w 36 35 != 0 || 1000 < clsPermille w

def Rein.setting (r : Rein) (c : Nat) : Dword := Tab.get 0 r.settings c
def Rein.class (r : Rein) (c : Nat) : ReinWin := Tab.get ReinWin.reset r.win c

/-- The class has moved its BYTE_CAP in the window (R269). -/
def Rein.capped (r : Rein) (c : Nat) : Bool :=
  clsCap (r.setting c) != 0 && clsCap (r.setting c) * 65536 ≤ (r.class c).bytes

/-- The priority that a measurement point stamps on its next request of a class (R267, R269). -/
def Rein.stamped (r : Rein) (point c : Nat) : Nat :=
  if r.capped c then 0 else (Tab.find r.prio (16 * point + c)).getD (clsBase (r.setting c))

/-! ### Waiting at a regulation point (R265) -/

/-- The measurement-point order of R268: cores in the slice's core order, the front-end DMA agent, the walker. -/
def Block.pointOrder (b : Block) (n point : Nat) : Nat := if point < 64 then (b.coresOf n).idxOf point else point

/-- A request of slice n joins those that wait at a regulation point, under its maker's label and stamped priority (R264, R267). -/
def Block.waitAt (b : Block) (path n : Nat) (m : Maker) (addr : Nat) (gen : Option (Nat × Nat)) (what : PortWhat) : Block :=
  let x : PortReq :=
    { path := path, slice := n, by_ := m, order := b.pointOrder n m.point, prio := (b.slice n).rein.stamped m.point m.label
      at_ := b.time.clk, addr := addr, gen := gen, what := what }
  b.modPorts fun p => { p with waiting := p.waiting ++ [x] }

/-- The channel group that is a line's home. -/
def homeOf (line : Nat) : Nat := line / 2 ^ 30

/-- The ring stop of a measurement point: its cluster's, the front end's or the translation unit's (R11). -/
def ringStop (point : Nat) : Nat := if point < 64 then point / 8 else point - 56

/-- The first regulation point of a request to a channel group: the shim's queue where the group is local to the core's cluster,
else the ring stop (R12). -/
def memPath (point g : Nat) : Nat := if point < 64 && g / 4 == point / 8 then 8 + g else 40 + ringStop point

/-- A request to a line of slice n's memory joins those that wait, unless it does already. -/
def Block.askMem (b : Block) (n : Nat) (m : Maker) (unit c va line : Nat) : Block :=
  if b.ports.waiting.any fun x => x.by_.point == m.point && x.what == .mem unit c va then b
  else b.waitAt (memPath m.point (homeOf line)) n m line none (.mem unit c va)

/-- A walk for an access joins those that wait for the slice's walker slot, unless it does already (R205). -/
def Block.askWalk (b : Block) (n : Nat) (m : Maker) (unit c page : Nat) : Block :=
  if b.ports.waiting.any fun x => x.by_.point == m.point && x.what == .walk unit c page then b
  else b.waitAt 7 n m page none (.walk unit c page)

/-- A flit of slice n's request. -/
def Block.sendFlit (b : Block) (n : Nat) (m : Maker) (port addr : Nat) (f : Flit) : Block :=
  b.waitAt port n m addr none (.flit f)

/-- A read of host memory by slice n. -/
def Block.sliceRead (b : Block) (n : Nat) (m : Maker) (gen : Option (Nat × Nat)) (r : HostRead) : Block :=
  b.waitAt 6 n m r.addr gen (.read r)

/-- Pieces of at most 256 bytes. -/
def flitChunks : Nat → List Byte → List (List Byte)
  | 0, _ => []
  | n + 1, bs => if bs.isEmpty then [] else bs.take 256 :: flitChunks n (bs.drop 256)

/-- Bytes that slice n writes to host memory, at most 256 in a request (R445). -/
def Block.hostWrite (b : Block) (n : Nat) (m : Maker) (gen : Option (Nat × Nat)) (a : Nat) (bs : List Byte) (pasid : Nat)
    (dma : Option (Nat × Nat)) : Block :=
  ((flitChunks (bs.length + 1) bs).zipIdx).foldl (fun b c =>
    b.waitAt 6 n m (a + 256 * c.2) gen (.write (a + 256 * c.2) c.1 pasid dma)) b

/-! ### The choice (R268) -/

/-- The priority that counts: 7 for a request that has waited AGE_LIMIT compute clocks. -/
def PortReq.rank (x : PortReq) (ageLimit clk : Nat) : Nat := if x.at_ + ageLimit ≤ clk then 7 else x.prio

/-- x goes before y: the higher priority, then the earlier arrival, then the measurement point. -/
def PortReq.before (x y : PortReq) (ageLimit clk : Nat) : Bool :=
  y.rank ageLimit clk < x.rank ageLimit clk ||
    (x.rank ageLimit clk == y.rank ageLimit clk && (x.at_ < y.at_ || (x.at_ == y.at_ && x.order < y.order)))

/-- Requests of one measurement point to one address keep their issue order: those with none of their own before them. -/
def frontReqs : List (Nat × Nat) → List PortReq → List PortReq
  | _, [] => []
  | seen, x :: l =>
    if seen.contains (x.by_.point, x.addr) then frontReqs seen l
    else x :: frontReqs ((x.by_.point, x.addr) :: seen) l

/-- The request that R268 chooses. -/
def chooseReq (ageLimit clk : Nat) : List PortReq → Option PortReq
  | [] => none
  | x :: l =>
    match chooseReq ageLimit clk l with
    | none => some x
    | some y => if y.before x ageLimit clk then some y else some x

/-! ### Positions (R272) -/

/-- The REQ_RESERV byte that governs a path: FP0 to FP3, FED, the host port, the ring. -/
def pathByte (path : Nat) : Nat := if path < 4 then path + 1 else if path < 6 then 6 else if path < 40 then 5 else 0

/-- Compute clocks of a position of a path, and the requests that one position sends. -/
def Block.slotClocks (b : Block) (path : Nat) : Nat :=
  if path < 4 then 3 else if path < 6 || 40 ≤ path then 1 else max 1 b.dict.hostSlotClk
def slotSends (path : Nat) : Nat := if path == 4 || path == 5 then 3 else 1

/-- The slice that holds a position of a path. -/
def Block.holderAt (b : Block) (path pos : Nat) : Option Nat :=
  b.live.find? fun n => (Tab.get (0 : Dword) (b.slice n).rein.positions (pathByte path)).getLsbD pos

/-- The position of a path that begins in this compute clock, if any. DESIGN CHOICE: the frame is aligned to compute clock 0
(notes/assumptions/64.md). -/
def Block.positionsNow (b : Block) (path : Nat) : List Nat :=
  let w := b.slotClocks path
  if b.time.clk % w == 0 then [b.time.clk / w % 64] else []

/-- A shim's queue has an entry free, of its 64 (R265). -/
def Block.shimRoom (b : Block) (g : Nat) : Bool := (b.ports.waiting.filter fun x => x.path == 8 + g).length < 64

/-- The request may leave now: its link is up with a credit, a tag is free for its host read, or its shim has room (R265, R443,
R445). -/
def Block.mayLeave (b : Block) (x : PortReq) : Bool :=
  match x.what with
  | .flit _ => (b.ports.link x.path).st == .up && 1 ≤ (b.ports.link x.path).reqCredits
  | .read _ => (freeReadTag b.ports.hostReads).isSome
  | .write _ _ _ _ => true
  | .mem _ _ _ => x.path < 40 || b.shimRoom (homeOf x.addr)
  | .walk _ _ _ => true

/-- The request of slice n that takes the next place at a path. -/
def Block.nextReq (b : Block) (path n : Nat) : Option PortReq :=
  let l := b.ports.waiting.filter fun x => x.path == path && x.slice == n
  chooseReq b.dict.ageLimit b.time.clk ((frontReqs [] (if 8 ≤ path && path < 40 then l.take 64 else l)).filter b.mayLeave)

end Sys2Proof.Machine
end

