-- ==== Sys2Proof/Machine/Num.lean ====
section
/-! DEFINITION. The number formats and the arithmetic rules (R34 to R56): exact dyadic numbers, and one rounding to each
format where a rule says so. -/

namespace Sys2Proof.Machine

/-- A number as the arithmetic rules see it: a signed dyadic `m × 2^e`, an infinity, or NaN. -/
inductive Fp where
  | num (neg : Bool) (m : Nat) (e : Int)
  | inf (neg : Bool)
  | nan
  deriving DecidableEq, Repr

/-- `m × 2^e ÷ 2^q` rounded to nearest even. -/
def rne (m : Nat) (e q : Int) : Nat :=
  if q ≤ e then m <<< (e - q).toNat
  else
    let k := (q - e).toNat
    let t := m >>> k
    let r := m % 2 ^ k
    if r * 2 > 2 ^ k || (r * 2 == 2 ^ k && t % 2 == 1) then t + 1 else t

/-- `m × 2^e ÷ 2^q` rounded stochastically with the 16-bit number `r` (R48). -/
def rsto (m : Nat) (e q : Int) (r : Nat) : Nat :=
  if q ≤ e then m <<< (e - q).toNat
  else
    let k := (q - e).toNat
    if (m % 2 ^ k) * 65536 + r * 2 ^ k ≥ 65536 * 2 ^ k then (m >>> k) + 1 else m >>> k

/-- Nearest even, or stochastic with a random number (R48). -/
def roundTo (m : Nat) (e q : Int) : Option Nat → Nat
  | none => rne m e q
  | some r => rsto m e q r

/-- floor_log2 of a nonzero `m × 2^e` (R44). -/
def flog2 (m : Nat) (e : Int) : Int := m.log2 + e

/-- Decodes a binary format with `p` mantissa bits and 8 exponent bits. -/
def unpackBin (p : Nat) (w : Nat) : Fp :=
  let neg := (w >>> (p + 8)) % 2 == 1
  let x := (w >>> p) % 256
  let f := w % 2 ^ p
  if x == 255 then (if f == 0 then .inf neg else .nan)
  else if x == 0 then .num neg f (-126 - p)
  else .num neg (2 ^ p + f) (x - 127 - p : Int)

/-- FP32 (R37). -/
def unpack32 (w : Word) : Fp := unpackBin 23 w.toNat

/-- BF16 (R37). -/
def unpackBf (w : Nat) : Fp := unpackBin 7 w

/-- An engine operand: a subnormal counts as zero (R54). -/
def Fp.flush : Fp → Fp
  | .num neg m e => if m != 0 && flog2 m e < -126 then .num neg 0 0 else .num neg m e
  | x => x

/-- The pattern of a value that has been rounded to the format already. -/
def packBin (p : Nat) : Fp → Nat
  | .nan => 255 * 2 ^ p + 2 ^ (p - 1)
  | .inf neg => (if neg then 2 ^ (p + 8) else 0) + 255 * 2 ^ p
  | .num neg m e =>
    let s := if neg then 2 ^ (p + 8) else 0
    if m == 0 then s
    else
      let l := flog2 m e
      if l < -126 then s + (if -126 - p ≤ e then m <<< (e + 126 + p).toNat else m >>> (-(126 + p : Int) - e).toNat)
      else
        let q := l - p
        let n := if q ≤ e then m <<< (e - q).toNat else m >>> (q - e).toNat
        s + (l + 127).toNat * 2 ^ p + (n - 2 ^ p)

/-- Rounding to `p` fraction bits with subnormals kept (R56); above the largest finite value, infinity. -/
def roundKeep (p : Nat) (r : Option Nat) : Fp → Fp
  | .num neg m e =>
    if m == 0 then .num neg 0 0
    else
      let q := max (flog2 m e - p) (-126 - p)
      let n := roundTo m e q r
      if n != 0 && flog2 n q > 127 then .inf neg else .num neg n q
  | x => x

/-- Rounding to `p` fraction bits as the engines round: tininess judged after rounding, and a tiny result is zero with the
sign of the exact result (R47, R54). -/
def roundFlush (p : Nat) (r : Option Nat) : Fp → Fp
  | .num neg m e =>
    if m == 0 then .num neg 0 0
    else
      let q := flog2 m e - p
      let n := roundTo m e q r
      if n == 0 || flog2 n q < -126 then .num neg 0 0
      else if flog2 n q > 127 then .inf neg
      else .num neg n q
  | x => x

def pack32 (x : Fp) : Word := BitVec.ofNat 32 (packBin 23 x)

def nan32 : Word := 0x7FC00000

/-- The exact sum; an exact zero is negative only where both terms are (IEEE 754; notes/assumptions/12.md). -/
def Fp.add : Fp → Fp → Fp
  | .nan, _ => .nan
  | _, .nan => .nan
  | .inf a, .inf b => if a == b then .inf a else .nan
  | .inf a, _ => .inf a
  | _, .inf b => .inf b
  | .num a m e, .num b n f =>
    let q := min e f
    let x : Int := (if a then -1 else 1) * ((m <<< (e - q).toNat : Nat) : Int)
    let y : Int := (if b then -1 else 1) * ((n <<< (f - q).toNat : Nat) : Int)
    let z := x + y
    if z == 0 then .num (a && b) 0 0 else .num (z < 0) z.natAbs q

def Fp.neg : Fp → Fp
  | .num a m e => .num (!a) m e
  | .inf a => .inf (!a)
  | .nan => .nan

/-- The exact product; infinity times zero is NaN. -/
def Fp.mul : Fp → Fp → Fp
  | .nan, _ => .nan
  | _, .nan => .nan
  | .inf a, .inf b => .inf (a != b)
  | .inf a, .num b n _ => if n == 0 then .nan else .inf (a != b)
  | .num a m _, .inf b => if m == 0 then .nan else .inf (a != b)
  | .num a m e, .num b n f => .num (a != b) (m * n) (e + f)

/-- A quotient with enough bits, and a sticky bit, to be rounded correctly to 24 bits. -/
def Fp.div : Fp → Fp → Fp
  | .nan, _ => .nan
  | _, .nan => .nan
  | .inf _, .inf _ => .nan
  | .inf a, .num b _ _ => .inf (a != b)
  | .num a _ _, .inf b => .num (a != b) 0 0
  | .num a m e, .num b n f =>
    if n == 0 then (if m == 0 then .nan else .inf (a != b))
    else
      let x := m <<< 300
      .num (a != b) (2 * (x / n) + (if x % n == 0 then 0 else 1)) (e - f - 301)

/-- The integer square root, bit by bit from bit `k` down. -/
def isqrt (n : Nat) : Nat → Nat → Nat
  | 0, r => r
  | k + 1, r => let t := r + 2 ^ k; isqrt n k (if t * t ≤ n then t else r)

def Fp.sqrt : Fp → Fp
  | .nan => .nan
  | .inf neg => if neg then .nan else .inf false
  | .num neg m e =>
    if m == 0 then .num neg 0 0
    else if neg then .nan
    else
      let (m, e) := if e % 2 == 0 then (m, e) else (2 * m, e - 1)
      let x := m <<< 80
      let r := isqrt x 60 0
      .num false (2 * r + (if r * r == x then 0 else 1)) (e / 2 - 41)

/-- Magnitude order: -1, 0 or 1 by exact value (NaN never asked). -/
def Fp.lt : Fp → Fp → Bool
  | .nan, _ => false
  | _, .nan => false
  | .inf a, .inf b => a && !b
  | .inf a, .num _ _ _ => a
  | .num _ _ _, .inf b => !b
  | .num a m e, .num b n f =>
    let q := min e f
    let x : Int := (if a then -1 else 1) * ((m <<< (e - q).toNat : Nat) : Int)
    let y : Int := (if b then -1 else 1) * ((n <<< (f - q).toNat : Nat) : Int)
    x < y

def Fp.abs : Fp → Fp
  | .num _ m e => .num false m e
  | .inf _ => .inf false
  | .nan => .nan

def Fp.isNum : Fp → Bool
  | .num _ _ _ => true
  | _ => false

/-- `x × 2^k`. -/
def Fp.scale (x : Fp) (k : Int) : Fp :=
  match x with
  | .num a m e => .num a m (e + k)
  | x => x

/-! ### FP32 in the engines and in the vector unit -/

/-- Engine FP32 rounding (R54), NaN canonical. -/
def engRound (x : Fp) : Word := pack32 (roundFlush 23 none x)

/-- acc + x with one rounding; a NaN accumulator stays NaN (R52, R54). -/
def engAdd (a : Word) (x : Fp) : Word := engRound ((unpack32 a).flush.add x)

/-- Vector-unit FP32 rounding (R56). -/
def vecRound (x : Fp) : Word := pack32 (roundKeep 23 none x)

def vAdd (a b : Word) : Word := vecRound ((unpack32 a).add (unpack32 b))

/-- FP32 patterns of numbers in order, -0.0 below +0.0 (R457). -/
def ordKey (w : Word) : Int := if w.msb then -((w.toNat % 2 ^ 31 : Nat) : Int) - 1 else (w.toNat : Int)

def isNan32 (w : Word) : Bool := unpack32 w == .nan

def vMax (a b : Word) : Word := if isNan32 a || isNan32 b then nan32 else if ordKey a < ordKey b then b else a
def vSub (a b : Word) : Word := vecRound ((unpack32 a).add (unpack32 b).neg)
def vMul (a b : Word) : Word := vecRound ((unpack32 a).mul (unpack32 b))
def vFma (a b c : Word) : Word := vecRound (((unpack32 a).mul (unpack32 b)).add (unpack32 c))
def vDiv (a b : Word) : Word := vecRound ((unpack32 a).div (unpack32 b))
def vSqrt (a : Word) : Word := vecRound (unpack32 a).sqrt

/-- FP32 value of a natural number, rounded. -/
def natToF32 (n : Nat) : Word := vecRound (.num false n 0)

/-! ### Narrow elements (R35, R36, R38) -/

/-- The formats of an operand by its code in a descriptor: Q4m, Q6m, Q8m, BF16, FP32 (R34, R72). -/
inductive Fmt where
  | q4m
  | q6m
  | q8m
  | bf16
  | fp32
  deriving DecidableEq, Repr

def Fmt.ofCode : Nat → Option Fmt
  | 0 => some .q4m
  | 1 => some .q6m
  | 2 => some .q8m
  | 3 => some .bf16
  | 4 => some .fp32
  | _ => none

def Fmt.narrow : Fmt → Bool
  | .q4m => true
  | .q6m => true
  | .q8m => true
  | _ => false

/-- Exponent bits of an element (R35). -/
def Fmt.ebits : Fmt → Nat
  | .q4m => 2
  | .q6m => 3
  | _ => 4

def Fmt.mbits : Fmt → Nat
  | .q4m => 1
  | .q6m => 2
  | _ => 3

def Fmt.bias : Fmt → Int
  | .q4m => 1
  | .q6m => 3
  | _ => 7

def Fmt.emax : Fmt → Int
  | .q4m => 2
  | .q6m => 4
  | _ => 8

/-- Largest finite magnitude as a multiple of the smallest subnormal one: 6, 28 and 448 (R35). -/
def Fmt.maxUnits : Fmt → Nat
  | .q4m => 12
  | .q6m => 448
  | _ => 229376

/-- Exponent of the smallest subnormal magnitude. -/
def Fmt.sub (f : Fmt) : Int := 1 - f.bias - f.mbits

/-- The value of an element code; only e4m3 has a NaN (R35). -/
def elemVal (f : Fmt) (code : Nat) : Fp :=
  let m := f.mbits
  let neg := (code >>> (f.ebits + m)) % 2 == 1
  let e := (code >>> m) % 2 ^ f.ebits
  let k := code % 2 ^ m
  if f == .q8m && e == 15 && k == 7 then .nan
  else .num neg (if e == 0 then k else (2 ^ m + k) <<< (e - 1)) f.sub

/-- The code of a sign and a magnitude in units of the smallest subnormal. -/
def elemCode (f : Fmt) (neg : Bool) (u : Nat) : Nat :=
  let m := f.mbits
  let s := if neg then 2 ^ (f.ebits + m) else 0
  if u < 2 ^ m then s + u
  else
    let l := u.log2
    s + (l - m + 1) * 2 ^ m + ((u >>> (l - m)) - 2 ^ m)

/-- A scale byte as an exponent; 0xFF is NaN (R38). -/
def scaleExp (c : Nat) : Option Int := if c == 255 then none else some ((c : Int) - 127)

/-! ### Conversion of one scale group (R44 to R51) -/

/-- What a conversion adds to an amax record (R50). -/
structure Amax where
  nonfinite : Bool
  sat : Nat
  floored : Nat
  amax : Word
  deriving DecidableEq, Repr

def Amax.zero : Amax where
  nonfinite := false
  sat := 0
  floored := 0
  amax := 0

/-- The merge of R50: the maximum of AMAX, saturating sums, and the OR of NONFINITE. -/
def Amax.merge (a b : Amax) : Amax where
  nonfinite := a.nonfinite || b.nonfinite
  sat := min 32767 (a.sat + b.sat)
  floored := min 65535 (a.floored + b.floored)
  amax := if (unpack32 a.amax).lt (unpack32 b.amax) then b.amax else a.amax

/-- An 8-byte amax record as its fields (R50). -/
def Amax.ofDword (d : Dword) : Amax where
  nonfinite := d.getLsbD 63
  sat := (d.toNat >>> 48) % 32768
  floored := (d.toNat >>> 32) % 65536
  amax := BitVec.ofNat 32 d.toNat

def Amax.toDword (a : Amax) : Dword :=
  BitVec.ofNat 64 ((if a.nonfinite then 2 ^ 63 else 0) + a.sat * 2 ^ 48 + a.floored * 2 ^ 32 + a.amax.toNat)

/-- One converted group: its scale byte, its element codes in order, and what it adds to the amax record. -/
structure Group where
  scale : Nat
  codes : List Nat
  stats : Amax
  deriving DecidableEq, Repr

/-- The largest magnitude of finite values, as (mantissa, exponent). -/
def maxMag : List Fp → Nat × Int
  | [] => (0, 0)
  | .num _ m e :: xs =>
    let (n, f) := maxMag xs
    if (Fp.num false n f).lt (.num false m e) then (m, e) else (n, f)
  | _ :: xs => maxMag xs

/-- One element of R44: its code, and whether it saturated. -/
def convElem (f : Fmt) (e : Int) (r : Option Nat) : Fp → Nat × Bool
  | .num neg m x =>
    if m == 0 then (elemCode f neg 0, false)
    else
      let q := max (flog2 m (x - e) - f.mbits) f.sub
      let u := roundTo m (x - e) q r <<< (q - f.sub).toNat
      if u > f.maxUnits then (elemCode f neg f.maxUnits, true) else (elemCode f neg u, false)
  | _ => (0, false)

/-- The elements of a group with their random numbers, if any, from `j` on. -/
def convElems (f : Fmt) (e : Int) (rand : Option (Nat → Nat)) : List (Fp × Nat) → List (Nat × Bool)
  | [] => []
  | (x, j) :: xs => convElem f e (rand.map (· j)) x :: convElems f e rand xs

/-- R44 on one group of FP32 values, each with its place in the op's row-major order (R49). DESIGN CHOICE: FLOORED counts a
group whose e_floor exceeds its e_blk, also where both clamp to the same exponent (notes/assumptions/91.md). -/
def convGroup (f : Fmt) (floor : Option Int) (rand : Option (Nat → Nat)) (xs : List (Word × Nat)) : Group :=
  let vs := xs.map fun (w, j) => (unpack32 w, j)
  if vs.any fun (v, _) => !v.isNum then
    { scale := 255, codes := xs.map fun _ => 0, stats := { Amax.zero with nonfinite := true } }
  else
    let (m, x) := maxMag (vs.map (·.1))
    let blk : Option Int := if m == 0 then none else some (flog2 m x - f.emax)
    let e : Option Int := match blk, floor with
      | none, fl => fl
      | some b, none => some b
      | some b, some fl => some (max b fl)
    let raised := match blk, floor with
      | _, none => false
      | none, some _ => true
      | some b, some fl => b < fl
    let e : Int := match e with
      | none => -127
      | some e => min 127 (max (-127) e)
    let cs := convElems f e rand vs
    { scale := (e + 127).toNat
      codes := cs.map (·.1)
      stats := { nonfinite := false
                 sat := min 32767 ((cs.filter (·.2)).length)
                 floored := if raised then 1 else 0
                 amax := pack32 (.num false m x) } }

/-- FP32 to BF16: tininess judged after rounding on an engine's write-out, subnormals kept by the vector unit; the BF16
pattern (R47). -/
def toBf (engine : Bool) (r : Option Nat) (w : Word) : Nat :=
  packBin 7 (if engine then roundFlush 7 r (unpack32 w) else roundKeep 7 r (unpack32 w))

/-- A BF16 pattern widened to FP32 (R44). -/
def bfToF32 (h : Nat) : Word := BitVec.ofNat 32 (h <<< 16)

/-! ### Stochastic rounding (R49) -/

def mix (z : Dword) : Dword :=
  let z := z + 0x9E3779B97F4A7C15
  let z := (z ^^^ (z >>> 30)) * 0xBF58476D1CE4E5B9
  let z := (z ^^^ (z >>> 27)) * 0x94D049BB133111EB
  z ^^^ (z >>> 31)

/-- r_j for seed, counter value and output element j. -/
def srRand (seed c : Dword) (j : Nat) : Nat := (mix (mix (seed ^^^ c) + BitVec.ofNat 64 j)).toNat % 65536

/-! ### The history floor (R51) -/

/-- Entries (HEAD - k) mod 16 for k = 1 to V. -/
def histCount (head : Nat) : Nat → List Nat
  | 0 => []
  | k + 1 => (head + 16 - (k + 1)) % 16 :: histCount head k

/-- The largest magnitude among entries that hold a value. -/
def histMax (entries : List Word) (idx : List Nat) : Nat × Int :=
  maxMag (idx.map fun i => (unpack32 (entries.getD i 0)).abs)

/-- e_floor of a history block's header and entries, or none. -/
def histFloor (hdr : Dword) (entries : List Word) (f : Fmt) : Option Int :=
  let h := hdr.toNat
  let v := min 16 (h % 32)
  let (m, x) := histMax entries (histCount ((h >>> 8) % 16) v)
  if hdr.getLsbD 24 && m != 0 then some (flog2 m x - f.emax - ((h >>> 16) % 32 : Nat)) else none

/-! ### Sub-blocks of the engine product (R52) -/

/-- The exact sum of products of element values. -/
def exactDot : List (Fp × Fp) → Fp
  | [] => .num false 0 0
  | (a, b) :: xs => (a.mul b).add (exactDot xs)

/-- One level of the balanced tree: neighbours added with one rounding each. -/
def treeLevel : List Word → List Word
  | a :: b :: xs => engAdd a (unpack32 b) :: treeLevel xs
  | xs => xs

/-- The balanced tree over rounded sums. -/
def treeSum (xs : List Word) : Nat → List Word
  | 0 => xs
  | k + 1 => treeSum (treeLevel xs) k

/-- A product as the tree takes it: exact, but for R54's zero below the smallest normal magnitude and its infinity above the
largest finite one, which its rounding at FP32 precision decides (R52, R54; notes/assumptions/91.md). -/
def exactProd (x : Fp) : Fp :=
  match roundFlush 23 none x with
  | .num neg m e => if m == 0 then .num neg 0 0 else (match x with | .num a n f => .num a n f | _ => .num neg m e)
  | y => y

/-- The first level of the tree: products 2m and 2m + 1, exact, added with one rounding (R52). -/
def prodLevel : List Fp → List Word
  | a :: b :: xs => engRound (a.add b) :: prodLevel xs
  | [a] => [engRound a]
  | [] => []

/-- The balanced tree over 32 products, five levels. -/
def prodTree (ps : List Fp) : Word := (treeSum (prodLevel ps) 4).headD 0

/-- A value of an operand: its element value and its scale's exponent (none: NaN); a BF16 operand has scale 0 and a
subnormal counts as zero. -/
structure Oper where
  val : Fp
  exp : Option Int
  bf : Bool
  deriving DecidableEq, Repr

/-- An operand's full value, scale included. -/
def Oper.full (o : Oper) : Fp :=
  match o.exp with
  | none => .nan
  | some e => o.val.scale e

/-- One sub-block of at most 32 products onto an accumulator element (R52, R54): any element that is NaN, by its scale or by a
failing line, makes it NaN (R38, R75). -/
def subBlock (acc : Word) (ps : List (Oper × Oper)) : Word :=
  match ps with
  | [] => acc
  | (a0, b0) :: _ =>
    if a0.bf || b0.bf then engAdd acc (unpack32 (prodTree (ps.map fun (a, b) => exactProd (a.full.mul b.full))))
    else if ps.any fun (a, b) => a.exp.isNone || b.exp.isNone then nan32
    else
      match a0.exp, b0.exp with
      | some ea, some eb => engAdd acc ((exactDot (ps.map fun (a, b) => (a.val, b.val))).scale (ea + eb))
      | _, _ => nan32

end Sys2Proof.Machine
end

