-- ==== Sys2Proof/Machine/Xts.lean ====
section
/-! DEFINITION. AES-256-XTS as IEEE 1619 defines it, with the data unit of one 128-byte line (R222). Bytes are Nat below 256; a
block is 16 of them in the order of FIPS 197. -/

namespace Sys2Proof.Machine

/-! ### AES-256 (FIPS 197) -/

/-- The S-box, 32 entries in a row, the lowest in the low byte. -/
def aesSboxRows : List Nat :=
  [0xc072a49cafa2d4adf04759fa7dc982ca76abd7fe2b670130c56f6bf27b777c63,
   0x75b227ebe28012079a059618c323c7041531d871f1e5a534ccf73f362693fdb7,
   0xcf584c4a39becb6a5bb1fc20ed00d153842fe329b3d63b52a05a6e1b1a2c8309,
   0xd2f3ff1021dab6bcf5389d928f40a351a89f3c507f02f94585334d43fbaaefd0,
   0xdb0b5ede14b8ee4688902a22dc4f816073195d643d7ea7c41744975fec130ccd,
   0x08ae7a65eaf4566ca94ed58d6d37c8e779e4959162acd3c25c2406490a3a32e0,
   0x9e1dc186b95735610ef6034866b53e708a8bbd4b1f74dde8c6b4a61c2e2578ba,
   0x16bb54b00f2d99416842e6bf0d89a18cdf2855cee9871e9b948ed9691198f8e1]

/-- The inverse S-box, in the same way. -/
def aesInvRows : List Nat :=
  [0xcbe9dec444438e3487ff2f9b8239e37cfbd7f3819ea340bf38a53630d56a0952,
   0x25d18b6d49a25b76b224d92866a12e084ec3fa420b954cee3d23c2a632947b54,
   0x849d8da75746155edab9edfd5048706c92b6655dcc5ca4d41698688664f6f872,
   0x6b8a130103bdafc1020f3fca8f1e2cd00645b3b80558e4f70ad3bc8c00abd890,
   0x6edf751ce837f9e28535ade72274ac9673e6b4f0cecff297eadc674f4111913a,
   0xf45acd78fec0db9a2079d2c64b3e56fc1bbe18aa0e62b76f89c5291d711af147,
   0xef9cc9939f7ae52d0d4ab519a97f51605fec8027591012b131c7078833a8dd1f,
   0x7d0c2155631469e126d677ba7e042b17619953833cbbebc8b0f52aae4d3be0a0]

/-- Entry x of a table of eight rows of 32 bytes. -/
def tableByte (rows : List Nat) (x : Nat) : Nat := rows.getD (x / 32) 0 >>> (8 * (x % 32)) % 256

def aesSub (x : Nat) : Nat := tableByte aesSboxRows x
def aesInvSub (x : Nat) : Nat := tableByte aesInvRows x

/-- Multiplication by x in GF(2^8). -/
def xtime (a : Nat) : Nat := if 128 ≤ a then (2 * a) % 256 ^^^ 0x1b else 2 * a

/-- Multiplication of a by the low four bits of c in GF(2^8). -/
def gfMul (c a : Nat) : Nat :=
  let a2 := xtime a
  let a4 := xtime a2
  let pick (k x : Nat) : Nat := if c.testBit k then x else 0
  pick 0 a ^^^ pick 1 a2 ^^^ pick 2 a4 ^^^ pick 3 (xtime a4)

def xorBytes (x y : List Nat) : List Nat := (x.zip y).map fun (a, b) => a ^^^ b

/-- Row r of column c goes to column c - r. -/
def shiftRows (s : List Nat) : List Nat := (List.range 16).map fun i => s.getD ((i + 4 * (i % 4)) % 16) 0
def invShiftRows (s : List Nat) : List Nat := (List.range 16).map fun i => s.getD ((i + 12 * (i % 4)) % 16) 0

/-- Each column times the circulant matrix whose first row is m. -/
def mixWith (m : List Nat) (s : List Nat) : List Nat :=
  (List.range 16).map fun i =>
    (List.range 4).foldl (fun x k => x ^^^ gfMul (m.getD ((k + 4 - i % 4) % 4) 0) (s.getD (i / 4 * 4 + k) 0)) 0

def mixColumns (s : List Nat) : List Nat := mixWith [2, 3, 1, 1] s
def invMixColumns (s : List Nat) : List Nat := mixWith [14, 11, 13, 9] s

/-- The next eight words of the key schedule from the eight before them. -/
def keyStep (rcon : Nat) (w : List Nat) : List Nat :=
  let word (k : Nat) : List Nat := (w.drop (4 * k)).take 4
  let last := word 7
  let w0 := xorBytes (word 0) (((last.drop 1 ++ last.take 1).map aesSub).zipIdx.map fun (x, i) => if i == 0 then x ^^^ rcon else x)
  let w1 := xorBytes (word 1) w0
  let w2 := xorBytes (word 2) w1
  let w3 := xorBytes (word 3) w2
  let w4 := xorBytes (word 4) (w3.map aesSub)
  let w5 := xorBytes (word 5) w4
  let w6 := xorBytes (word 6) w5
  w0 ++ w1 ++ w2 ++ w3 ++ w4 ++ w5 ++ w6 ++ xorBytes (word 7) w6

/-- `n` more octets of words of the key schedule. -/
def keySteps : Nat → Nat → List Nat → List Nat
  | 0, _, _ => []
  | n + 1, rcon, w => let w' := keyStep rcon w; w' ++ keySteps n (2 * rcon) w'

/-- The 15 round keys of a 32-byte key. -/
def roundKeys (key : List Nat) : List (List Nat) :=
  let w := key ++ keySteps 7 1 key
  (List.range 15).map fun r => (w.drop (16 * r)).take 16

/-- One round after the first key addition; the last one mixes no columns. -/
def aesRound (s : List Nat) (k : List Nat) (last : Bool) : List Nat :=
  let t := shiftRows (s.map aesSub)
  xorBytes (if last then t else mixColumns t) k

def aesEncrypt (ks : List (List Nat)) (p : List Nat) : List Nat :=
  (ks.drop 1).zipIdx.foldl (fun s k => aesRound s k.1 (k.2 == 13)) (xorBytes p (ks.getD 0 []))

/-- One round of the inverse cipher; the last one mixes no columns. -/
def aesInvRound (s : List Nat) (k : List Nat) (last : Bool) : List Nat :=
  let t := xorBytes ((invShiftRows s).map aesInvSub) k
  if last then t else invMixColumns t

def aesDecrypt (ks : List (List Nat)) (c : List Nat) : List Nat :=
  (ks.reverse.drop 1).zipIdx.foldl (fun s k => aesInvRound s k.1 (k.2 == 13)) (xorBytes c (ks.getD 14 []))

/-! ### XTS (IEEE 1619) -/

/-- A number as 16 bytes, the lowest first. -/
def le16 (v : Nat) : List Nat := (List.range 16).map fun i => v >>> (8 * i) % 256

def ofLe (l : List Nat) : Nat := l.foldr (fun x v => x + 256 * v) 0

/-- The next block's tweak: multiplication by the primitive element of GF(2^128). -/
def tweakNext (t : Nat) : Nat := if 2 ^ 127 ≤ t then (2 * t) % 2 ^ 128 ^^^ 0x87 else 2 * t

/-- Blocks of 16 bytes, each between two additions of its tweak. -/
def xtsBlocks (f : List Nat → List Nat) : Nat → Nat → List Nat → List Nat
  | 0, _, _ => []
  | n + 1, t, bs =>
    let tw := le16 t
    xorBytes (f (xorBytes (bs.take 16) tw)) tw ++ xtsBlocks f n (tweakNext t) (bs.drop 16)

/-- The two 32-byte keys of a pair: the data key, then the tweak key. -/
def keyBytes (pair : BitVec 512) (i : Nat) : List Nat := (List.range 32).map fun k => (pair.extractLsb' (256 * i + 8 * k) 8).toNat

/-- The tweak of a line under a key pair: its number encrypted with the tweak key (R222). -/
def lineTweak (pair : BitVec 512) (line : Nat) : Nat := ofLe (aesEncrypt (roundKeys (keyBytes pair 1)) (le16 line))

/-- The ciphertext of a 128-byte line. The line's number is (GROUP << 30) | OFFSET[36:7] (R222). -/
def xtsEncrypt (pair : BitVec 512) (line : Nat) (p : List Byte) : List Byte :=
  (xtsBlocks (aesEncrypt (roundKeys (keyBytes pair 0))) 8 (lineTweak pair line) (p.map (·.toNat))).map (BitVec.ofNat 8)

/-- The plaintext of a 128-byte line. -/
def xtsDecrypt (pair : BitVec 512) (line : Nat) (c : List Byte) : List Byte :=
  (xtsBlocks (aesDecrypt (roundKeys (keyBytes pair 0))) 8 (lineTweak pair line) (c.map (·.toNat))).map (BitVec.ofNat 8)

end Sys2Proof.Machine
end

