-- ==== Sys2Proof/Machine/Homes.lean ====
section
/-! DEFINITION. The encrypted device memory behind the shims (R222 to R224, R298), and the homes of its lines: a slice's domain,
line states, the snoop filter, transactions, write-backs, the cluster caches' ways and holds (R276 to R294). -/

namespace Sys2Proof.Machine

/-! ### Device memory (R222 to R224, R298) -/

/-- The ciphertext of a line (R222): its plaintext under the key pair it was written with; zero for a line never written, or
scrubbed (R224). -/
def DevMem.cipher (m : DevMem) (line : Nat) : List Byte :=
  let w := Tab.get 0 m.keyGen line
  if w == 0 then List.replicate 128 0 else xtsEncrypt (Config.keyPair w) line (m.bytes.readN (128 * line) 128)

/-- A byte of the group's memory at place k under key generation g (R222 to R224). The key pair that wrote a line gives its
plaintext back, as XTS decryption undoes encryption (notes/assumptions/97.md). -/
def DevMem.byte (m : DevMem) (g k : Nat) : Byte :=
  let w := Tab.get 0 m.keyGen (k / 128)
  if w == g && w != 0 then m.bytes.read k
  else (xtsDecrypt (Config.keyPair g) (k / 128) (m.cipher (k / 128))).getD (k % 128) 0

/-- The line is poisoned, or its group's shim has failed: a read of it is an uncorrectable error (R298, R396). -/
def Block.poisoned (b : Block) (k : Nat) : Bool :=
  Tab.get false b.mem.poison (k / 128) || Tab.get false b.power.failed (80 + b.recon.shimOf (k / 2 ^ 37))

/-- Data-cache copies of a line go, for the cores chosen; a reservation on the line goes with its copy (R292). -/
def Block.loseCopies (b : Block) (line : Nat) (p : Nat → Bool) : Block :=
  let gone := (b.coh.dcache.filter fun x => x.2.1 == line && p x.1).map (·.1)
  if gone.isEmpty then b
  else
    (b.each gone fun core b => b.modHart core fun h =>
      if h.reservation == some line then { h with reservation := none } else h).modCoh fun c =>
        { c with dcache := c.dcache.filter fun x => !(x.2.1 == line && p x.1) }

/-- A modified line is written to memory under its key. -/
def Block.storeLine (b : Block) (line key : Nat) (d : BitVec 1024) : Block :=
  { b with mem := { b.mem with
      bytes := b.mem.bytes.writeN (128 * line) ((List.range 128).map fun i => d.extractLsb' (8 * i) 8)
      keyGen := Tab.set 0 b.mem.keyGen line key } }

/-- The key generation behind a selector (R223). -/
def Block.keyGen (b : Block) (sel : Nat) : Nat := (b.key sel).gen

/-- The slice holds the selector (R223). -/
def Block.holdsKey (b : Block) (n sel : Nat) : Bool := sel < 63 && (b.key sel).holder == n && n != 0

/-- The key generation of the block's own accesses to slice n's memory: the aperture's key while the slice holds it, else the
block's own (notes/assumptions/7.md). -/
def Block.ownGen (b : Block) (n : Nat) : Nat := b.keyGen (if b.holdsKey n (b.slice n).aptKey then (b.slice n).aptKey else 63)

/-! ### Domains (R276 to R280) -/

def Agent.sliceOf : Agent → Nat
  | .cluster s _ => s
  | .priv s _ => s
  | .uncached s _ => s

def agentPriv : Agent → Bool
  | .priv _ _ => true
  | _ => false

def agentUncached : Agent → Bool
  | .uncached _ _ => true
  | _ => false

def agentSlice : Agent → Nat := Agent.sliceOf

/-- The running action of a slice at the stages chosen. -/
def Block.runOf (b : Block) (n : Nat) (p : Nat → Bool) : Option Running :=
  b.recon.run.filter fun r => r.req.slice == n && p r.stage

/-- Clusters of cores that leave the slice: they stay in its membership to stage 4 (R280). -/
def Block.leavingClusters (b : Block) (n : Nat) : List Nat :=
  ((b.runOf n (· < 4)).map fun r => r.coresOut.map (· / 8)).getD []

/-- Member clusters of a slice (R278, R280). -/
def Block.memberClusters (b : Block) (n : Nat) : List Nat :=
  let out := b.leavingClusters n
  (List.range 8).filter fun c => (b.coresOf n).any (fun k => k / 8 == c) || out.contains c

/-- Where a snoop of a slice is delivered: its member clusters, and the privileged agents when one holds a line of it (R279). -/
def Block.snooped (b : Block) (n : Nat) : List Agent :=
  (b.memberClusters n).map (Agent.cluster n) ++
    (if b.coh.lines.any fun l => agentPriv l.agent && agentSlice l.agent == n then (List.range 5).map (Agent.priv n) else [])

/-- The group serves slice n as a home: one that leaves stops at stage 4 (R280). -/
def Block.homeServes (b : Block) (n g : Nat) : Bool :=
  g < 32 && b.groupOwner g == n && ((b.runOf n (4 ≤ ·)).all fun r => !r.groupsOut.contains g)

/-- The line's home belongs to the agent's slice, and the agent to its domain. The uncached requester 4096 is the home itself, in
whose name it recalls a held line, and makes no request. -/
def Block.inDomain (b : Block) (a : Agent) (line : Nat) : Bool :=
  let n := agentSlice a
  (b.slice n).st != .none && b.homeServes n (homeOf line) &&
    line % 2 ^ 30 * 128 + 128 ≤ b.groupBytes (homeOf line) &&
    match a with
    | .cluster _ c => (b.memberClusters n).contains c
    | .priv _ i => i < 5
    | .uncached _ i => i != 4096

/-- CLASSES and HOLD in force for a slice (R288). -/
def Block.classes (b : Block) (n : Nat) : Bool := (b.slice n).cohProgress != 2
def Block.holds (b : Block) (n : Nat) : Bool := (b.slice n).cohProgress != 1

/-! ### Lines and the filter (R281, R282) -/

def Coh.lineOf (c : Coh) (a : Agent) (line : Nat) : Option CLine := c.lines.find? fun l => l.agent == a && l.line == line

def Coh.dropLine (c : Coh) (a : Agent) (line : Nat) : Coh :=
  { c with lines := c.lines.filter fun l => !(l.agent == a && l.line == line) }

def Coh.putLine (c : Coh) (l : CLine) : Coh := { (c.dropLine l.agent l.line) with lines := (c.dropLine l.agent l.line).lines ++ [l] }

/-- An agent's copy goes, with the copies of the cores behind it. -/
def Block.dropCopy (b : Block) (a : Agent) (line : Nat) : Block :=
  let b := match a with
    | .cluster _ c => b.loseCopies line fun core => core / 8 == c
    | _ => b
  b.modCoh fun c => c.dropLine a line

/-- An agent's copy is no longer the only one: F, or S for a privileged agent; its cores' copies are S (R281). -/
def Coh.shareCopy (c : Coh) (l : CLine) : Coh :=
  let c := c.putLine { l with st := if agentPriv l.agent then .s else .f }
  { c with dcache := c.dcache.map fun x => if x.2.1 == l.line && l.agent == .cluster (agentSlice l.agent) (x.1 / 8) then (x.1, x.2.1, .s) else x }

def Coh.filt (c : Coh) (line : Nat) : Option Filt := Tab.find c.filter line

/-- An entry is written, stamped as used last in its set. -/
def Coh.setFilt (c : Coh) (line : Nat) (owner : Option Agent) : Coh :=
  let u := (c.filter.map fun x => x.2.used).foldl max 0 + 1
  { c with filter := Tab.put c.filter line { owner := owner, used := u } }

def Coh.noFilt (c : Coh) (line : Nat) : Coh := { c with filter := Tab.erase c.filter line }

/-- Entries of the line's set at its home: 8,192 sets by line-address bits [19:7] (R282). -/
def Coh.filtSet (c : Coh) (line : Nat) : Tab Filt :=
  c.filter.filter fun x => x.1 % 8192 == line % 8192 && homeOf x.1 == homeOf line

/-- The least recently used entry of a set that no transaction uses. -/
def Coh.victim (c : Coh) (set : Tab Filt) : Option Nat :=
  (set.filter fun x => !Tab.has c.busy x.1).foldl (fun (r : Option (Nat × Nat)) x =>
    match r with
    | none => some (x.1, x.2.used)
    | some y => if x.2.used < y.2 then some (x.1, x.2.used) else some y) none |>.map (·.1)

/-! ### Memory at the home -/

/-- The key generation that a request without one of its own uses: the line's, or the slice's aperture key. -/
def Block.lineKey (b : Block) (n line : Nat) : Nat :=
  let w := Tab.get 0 b.mem.keyGen line
  if w != 0 then w else b.ownGen n

def bytesLine (bs : List Byte) : BitVec 1024 := BitVec.ofNat 1024 (leNat bs)
def lineBytes (d : BitVec 1024) : List Byte := (List.range 128).map fun i => d.extractLsb' (8 * i) 8

/-- A line of memory under a key generation. -/
def Block.memLine (b : Block) (key line : Nat) : BitVec 1024 :=
  bytesLine ((List.range 128).map fun i => b.mem.byte key (128 * line + i))

def Block.linePoisoned (b : Block) (line : Nat) : Bool := b.poisoned (128 * line)

/-- A byte range of a line replaced. -/
def patchLine (d : BitVec 1024) (off : Nat) (bs : List Byte) : BitVec 1024 := bytesLine (overwrite (lineBytes d) off bs)

def Block.setPoison (b : Block) (line : Nat) (v : Bool) : Block :=
  { b with mem := { b.mem with poison := Tab.set false b.mem.poison line v } }

/-- The newest copy of a line, with the key generation it was filled under, where memory is not current: a modified line, one on
its way to its new owner or to the home, or one in a write-back buffer. -/
def Coh.newest (c : Coh) (line : Nat) : Option (BitVec 1024 × Nat) :=
  let m : Option (BitVec 1024 × Nat) := (c.lines.find? fun l => l.line == line && l.st == .m).map fun l => (l.data, l.key)
  let way : Option (BitVec 1024 × Nat) := c.msgs.findSome? fun x => match x with
    | .data _ l (some .m) d k => if l == line then some (d, k) else none
    | _ => none
  let txn := Tab.find c.busy line
  let home : Option (BitVec 1024 × Nat) := txn.bind fun t => (c.msgs.findSome? fun x => match x with
    | .rsp _ l _ _ (some d) _ => if l == line then some (d, t.key) else none
    | _ => none).or (t.wbd.map fun d => (d, t.key))
  let buf : Option (BitVec 1024 × Nat) := (c.wbuf.find? fun w => w.line == line && !w.taken).map fun w => (w.data, w.key)
  ((m.or way).or home).or buf

/-! ### Atomics (R50, R168, R293) -/

def atomicBytes : AtomicOp → Nat
  | .swap w => if w then 8 else 4
  | .add w => if w then 8 else 4
  | .xor w => if w then 8 else 4
  | .and w => if w then 8 else 4
  | .or w => if w then 8 else 4
  | .min w _ => if w then 8 else 4
  | .max w _ => if w then 8 else 4
  | .amaxMerge => 8
  | .gradAdd => 4
  | .fpMax => 4
  | .cas => 8

/-- The order of two values of `n` bits. -/
def below (n : Nat) (sgn : Bool) (x y : Nat) : Bool := if sgn then signed n x < signed n y else decide (x < y)

/-- The new value of an atomic from the old one and its operands. -/
def atomicNew (op : AtomicOp) (old a c : Nat) : Nat :=
  let n := 8 * atomicBytes op
  let a := a % 2 ^ n
  match op with
  | .swap _ => a
  | .add _ => (old + a) % 2 ^ n
  | .xor _ => old ^^^ a
  | .and _ => old &&& a
  | .or _ => old ||| a
  | .min _ s => if below n s a old then a else old
  | .max _ s => if below n s old a then a else old
  | .amaxMerge => ((Amax.ofDword (BitVec.ofNat 64 old)).merge (Amax.ofDword (BitVec.ofNat 64 a))).toDword.toNat
  | .gradAdd => (vAdd (BitVec.ofNat 32 old) (BitVec.ofNat 32 a)).toNat
  | .fpMax => (vMax (BitVec.ofNat 32 old) (BitVec.ofNat 32 a)).toNat
  | .cas => if old == a then c % 2 ^ n else old

/-- An atomic on a line: the new line and the old value. -/
def atomicLine (d : BitVec 1024) (off : Nat) (op : AtomicOp) (a c : Dword) : BitVec 1024 × Nat :=
  let n := atomicBytes op
  let old := leNat (((lineBytes d).drop off).take n)
  (patchLine d off (toLe n (atomicNew op old a.toNat c.toNat)), old)

/-! ### Messages and waiting requests -/

def Block.send (b : Block) (m : CohMsg) : Block := b.modCoh fun c => { c with msgs := c.msgs ++ [m] }

/-- The first message that a choice names, taken out. -/
def Block.takeMsg (b : Block) (p : CohMsg → Bool) : Option (CohMsg × Block) :=
  match b.coh.msgs.find? p with
  | none => none
  | some m => some (m, b.modCoh fun c => { c with msgs := c.msgs.erase m })

def Coh.wantOf (c : Coh) (a : Agent) (line : Nat) : Option Want := c.waiting.find? fun w => w.agent == a && w.line == line

/-- A waiting request changes: the first that is equal to it. -/
def Coh.setWant (c : Coh) (w w' : Want) : Coh := { c with waiting := c.waiting.replace w w' }

/-- The requester of a request waits no more. -/
def Coh.dropWant (c : Coh) (a : Agent) (line : Nat) (p : Want → Bool) : Coh :=
  match c.waiting.find? fun w => w.agent == a && w.line == line && p w with
  | none => c
  | some w => { c with waiting := c.waiting.erase w }

/-- The reservation of a line in force (R289). -/
def Block.reservedFor (b : Block) (line : Nat) : Option Agent :=
  (b.coh.reserved.find? fun r => r.1 == line && b.time.clk < r.2.2).map fun r => r.2.1

def Block.modTxn (b : Block) (line : Nat) (f : Txn → Txn) : Block :=
  b.modCoh fun c => match Tab.find c.busy line with
    | none => c
    | some t => { c with busy := Tab.put c.busy line (f t) }

/-! ### The home (R284 to R287) -/

/-- The requester waits for no grant: it takes no Ack. -/
def CohReq.noAck : CohReq → Bool
  | .rds => false
  | .rdx => false
  | .wrline alloc _ => !alloc
  | _ => true

/-- A request that a line answers to, rather than a value or nothing (R283). -/
def CohReq.fills (r : CohReq) : Bool := !r.noAck

/-- A request that a value answers. -/
def CohReq.reads : CohReq → Bool
  | .uncrd => true
  | .atomic _ _ _ _ => true
  | _ => false

/-- The snoop that a request sends where the filter has an entry (R284, R293). -/
def CohReq.snoop (r : CohReq) (owned : Bool) : Option Snoop :=
  match r with
  | .rds => some .shared
  | .rdx => some .own
  | .wrline _ _ => some .own
  | .uncrd => if owned then some .cur else none
  | .uncwr _ _ => some .own
  | .atomic _ _ _ _ => some .own
  | .wb => none
  | .evict => some .own

/-- Grants a line with its data. -/
def Block.grantLine (b : Block) (a : Agent) (line : Nat) (st : LineSt) (d : BitVec 1024) (key : Nat) : Block :=
  b.send (.data a line (some st) d key)

/-- The agent in whose name a home recalls a held line for an access of the model's own (R291). -/
def recaller (n : Nat) : Agent := .uncached n 4096

/-- Ends a transaction's wait with Poison (R298); a recall has nobody who waits. -/
def Block.poisonReq (b : Block) (a : Agent) (line : Nat) : Block :=
  let b := b.modTxn line fun t => { t with acked := true }
  if a == recaller (agentSlice a) then b else b.send (.poison a line)

/-- The entry of a line of which no copy is left: freed (R286). -/
def Block.freeFilt (b : Block) (line : Nat) (kept : Bool) : Block := if kept then b else b.modCoh fun c => c.noFilt line

/-- What the home does once every response is there (R284, R285, R286, R293). A poisoned line is answered with Poison, and its
entry stays while copies do (R282, R298). -/
def Block.resolve (b : Block) (line : Nat) : Block :=
  match Tab.find b.coh.busy line with
  | none => b
  | some t =>
    let a := t.requester
    let owned := ((b.coh.filt line).map fun x => x.owner.isSome).getD false
    let left := t.kept || (!owned && t.req == .uncrd)
    let fromMem (f : Block → Block) : Block :=
      if t.wbd.isNone && b.linePoisoned line then (b.poisonReq a line).freeFilt line left else f b
    let d := t.wbd.getD (b.memLine t.key line)
    match t.req with
    | .rds =>
      if t.fwd then b.modCoh fun c => c.setFilt line none
      else fromMem fun b =>
        if t.kept then (b.grantLine a line (if agentPriv a then .s else .f) d t.key).modCoh fun c => c.setFilt line none
        else (b.grantLine a line .e d t.key).modCoh fun c => c.setFilt line (some a)
    | .rdx =>
      if t.fwd then b.modCoh fun c => c.setFilt line (some a)
      else fromMem fun b => (b.grantLine a line .e d t.key).modCoh fun c => c.setFilt line (some a)
    | .wrline alloc w =>
      let b := (b.storeLine line t.key w).setPoison line false
      if alloc then (b.grantLine a line .m w t.key).modCoh fun c => c.setFilt line (some a)
      else (b.modCoh fun c => c.noFilt line).modCoh fun c => c.dropWant a line fun w => w.req == t.req && w.st == .served
    | .uncrd =>
      if a == recaller (agentSlice a) then b
      else fromMem fun b => (b.send (.data a line none d t.key)).freeFilt line left
    | .uncwr off bs =>
      (b.storeLine line t.key (patchLine d off bs)).modCoh fun c => (c.noFilt line).dropWant a line fun w => w.req == t.req && w.st == .served
    | .atomic off op x y =>
      fromMem fun b =>
        let r := atomicLine d off op x y
        ((b.storeLine line t.key r.1).send (.data a line none (BitVec.ofNat 1024 r.2) t.key)).modCoh fun c => c.noFilt line
    | .wb => b
    | .evict => (match t.wbd with
      | none => b
      | some w => b.storeLine line t.key w).modCoh fun c => c.noFilt line

/-- A transaction begins: a snoop to the domain where the filter asks for one, else the home's own answer (R284); a request that
waits for an entry of its full set holds its line busy (R282). -/
def Block.openTxn (b : Block) (w : Want) (waitsFor : Option Nat) : Block :=
  let f := b.coh.filt w.line
  let owned := (f.map fun x => x.owner.isSome).getD false
  let sn := f.bind fun _ => w.req.snoop owned
  let targets := if sn.isSome then b.snooped (agentSlice w.agent) else []
  let x : Txn :=
    { req := w.req, requester := w.agent, key := w.key, snoops := targets, fwd := false, wbd := none, kept := false
      acked := w.req.noAck, since := b.time.clk, waitsFor := waitsFor, auto := w.auto }
  let b := b.modCoh fun c => { (c.setWant w { w with st := .served }) with busy := Tab.put c.busy w.line x }
  match sn with
  | none => if waitsFor.isSome then b else b.resolve w.line
  | some s => if targets.isEmpty then b.resolve w.line else targets.foldl (fun b a => b.send (.snoop a w.line s w.agent)) b

/-- A request needs a new entry and the line's set is full. -/
def Block.setFull (b : Block) (w : Want) : Bool :=
  !w.req.noAck && (b.coh.filt w.line).isNone && 16 ≤ (b.coh.filtSet w.line).length

/-- A place in the retry order of at most 16 at a home (R289). -/
def Coh.enqueueRetry (c : Coh) (line : Nat) (a : Agent) : Coh :=
  let l := Tab.get [] c.retry line
  let n := ((c.retry.filter fun x => homeOf x.1 == homeOf line).map fun x => x.2.length).sum
  if l.contains a || 16 ≤ n then c else { c with retry := Tab.put c.retry line (l ++ [a]) }

/-- The home's request queue takes a request that waits behind a busy line (R287). -/
def Coh.enqueue (c : Coh) (w : Want) : Coh := { c with uncQueue := c.uncQueue ++ [w] }

/-- A request that the home does not take: an uncached one waits in the request queue, any other gets Nack (R287, R289). -/
def Block.turnAway (b : Block) (w : Want) : Block :=
  let n := agentSlice w.agent
  if agentUncached w.agent then b.modCoh fun c => c.enqueue w
  else
    let b := (b.send (.nack w.agent w.line)).modCnt n fun c => { c with cohNacks := up32 c.cohNacks }
    if b.classes n then b.modCoh fun c => c.enqueueRetry w.line w.agent else b

/-- The home handles a request (R282, R284, R287, R289). One that finds every entry of its full set in use is turned away. -/
def Block.handleReq (b : Block) (w : Want) : Block :=
  let n := agentSlice w.agent
  let held := match b.reservedFor w.line with
    | none => false
    | some a => a != w.agent
  let full := 64 ≤ (b.coh.busy.filter fun x => homeOf x.1 == homeOf w.line).length
  let v := if b.setFull w then b.coh.victim (b.coh.filtSet w.line) else none
  if Tab.has b.coh.busy w.line || held || full || (b.setFull w && v.isNone) then b.turnAway w
  else
    let b := b.modCoh fun c =>
      { c with reserved := c.reserved.filter fun r => r.1 != w.line
               retry := Tab.set [] c.retry w.line ((Tab.get [] c.retry w.line).filter fun a => a != w.agent) }
    match v with
    | none => b.openTxn w none
    | some v =>
      ((b.openTxn w (some v)).openTxn
        { agent := .uncached n 0, line := v, req := .evict, key := b.lineKey n v, retryAt := none, since := b.time.clk,
          st := .served, auto := w.auto } none).modCnt
          n fun c => { c with cohFilterEvicts := up32 c.cohFilterEvicts }

/-- The request is one that the agent has already made: a miss on a line that it has asked for, or its try again after a Nack.
DESIGN CHOICE: which of two equal requests a command tries again (notes/assumptions/118.md). -/
def CohReq.merges (r : CohReq) (w : Want) : Bool := (r.fills && w.req.fills) || (r == w.req && w.st == .nacked)

/-- A request as its agent makes it, or tries it again; a miss merges into the one that the home serves or that waits out its
delay (R287, R290). -/
def Block.request (b : Block) (a : Agent) (line key : Nat) (r : CohReq) (auto : Bool) : Block :=
  if !b.inDomain a line then b
  else
    match b.coh.waiting.find? fun w => w.agent == a && w.line == line && r.merges w with
    | none =>
      let w : Want := { agent := a, line := line, req := r, key := key, retryAt := none, since := b.time.clk, st := .sent, auto := auto }
      (b.modCoh fun c => { c with waiting := c.waiting ++ [w] }).handleReq w
    | some w =>
      if w.st == .served || w.retryAt.any (b.time.clk < ·) then b
      else
        let w' := { w with retryAt := none, st := .sent, auto := auto }
        (b.modCoh fun c => c.setWant w w').handleReq w'

/-- A requester receives Nack: it tries again, without CLASSES after a random delay of 16 to 1,023 clocks (R289, R290). -/
def Block.takeNack (b : Block) (a : Agent) (line : Nat) : Block :=
  match b.takeMsg fun m => m == .nack a line with
  | none => b
  | some (_, b) =>
    match b.coh.waiting.find? fun w => w.agent == a && w.line == line && w.st == .sent with
    | none => b
    | some w =>
      if b.classes (agentSlice a) then b.modCoh fun c => c.setWant w { w with st := .nacked }
      else
        let t := b.time.clk + 16 + Config.freeNat b.coh.draws % 1008
        b.modCoh fun c => { (c.setWant w { w with st := .nacked, retryAt := some t }) with draws := c.draws + 1 }

/-- The home accepts a write-back: the data is written while the agent still owns the line, else discarded, and CmpWB goes
back; behind a busy line it waits in the request queue (R284, R286, R287). -/
def Block.acceptWb (b : Block) (a : Agent) (line : Nat) : Block :=
  match b.coh.wbuf.find? fun w => w.agent == a && w.line == line && !w.accepted with
  | none => b
  | some w =>
    if Tab.has b.coh.busy line then
      let w : Want := { agent := a, line := line, req := .wb, key := w.key, retryAt := none, since := 0, st := .sent, auto := false }
      if b.coh.uncQueue.contains w then b else b.modCoh fun c => c.enqueue w
    else
      let mine := ((b.coh.filt line).bind (·.owner)) == some a && !w.taken
      let b := if mine then (b.storeLine line w.key w.data).modCoh fun c => c.noFilt line else b
      (b.modCoh fun c =>
        { c with wbuf := c.wbuf.map fun x => if x == w then { w with taken := true, accepted := true } else x }).send (.cmpwb a line)

/-- Write-backs that wait for the line are accepted. -/
def Block.acceptWbs (b : Block) (line : Nat) : Block :=
  let ws := b.coh.uncQueue.filter fun w => w.line == line && w.req == .wb
  if ws.isEmpty then b
  else
    ws.foldl (fun b w => b.acceptWb w.agent line)
      (b.modCoh fun c => { c with uncQueue := c.uncQueue.filter fun w => !(w.line == line && w.req == .wb) })

/-- A line that is free: write-backs first; then it is reserved for 256 clocks for its oldest Nacked request, else the oldest
uncached request that waits for it runs, which the answer tells (R287, R289). -/
def Block.freeLine (b : Block) (line : Nat) : Block × Bool :=
  let b := b.acceptWbs line
  match (Tab.get [] b.coh.retry line).head?.filter fun _ => b.classes (b.groupOwner (homeOf line)) with
  | some a => (b.modCoh fun c => { c with reserved := c.reserved.filter (fun r => r.1 != line) ++ [(line, a, b.time.clk + 256)] }, false)
  | none =>
    match b.coh.uncQueue.find? fun w => w.line == line with
    | none => (b, false)
    | some w => ((b.modCoh fun c => { c with uncQueue := c.uncQueue.erase w }).handleReq w, true)

/-- Requests that waited for the line's filter entry go on (R282). -/
def Block.wake (b : Block) (line : Nat) : Block :=
  let ws := b.coh.busy.filter fun x => x.2.waitsFor == some line
  ws.foldl (fun b x => (b.modTxn x.1 fun t => { t with waitsFor := none, since := b.time.clk }).resolve x.1) b

/-- The line stops being busy once every response and the Ack are there (R287). -/
def Block.settleLine (line : Nat) : Nat → Block → Block
  | 0, b => b
  | n + 1, b =>
    match Tab.find b.coh.busy line with
    | none => b
    | some t =>
      if t.snoops.isEmpty && t.acked && t.waitsFor.isNone then
        let (b, again) := ((b.modCoh fun c => { c with busy := Tab.erase c.busy line }).wake line).freeLine line
        if again then Block.settleLine line n b else b
      else b

def Block.settleTxn (b : Block) (line : Nat) : Block := Block.settleLine line (b.coh.uncQueue.length + 1) b

/-- What a request brings about at once: the entry that its full set gives up, and its own end. -/
def Block.settleReq (b : Block) (line : Nat) : Block :=
  match (Tab.find b.coh.busy line).bind (·.waitsFor) with
  | none => b.settleTxn line
  | some v => (b.settleTxn v).settleTxn line

/-! ### Agents (R281, R284 to R286, R291) -/

/-- F for a cluster cache, S for a privileged agent (R281). -/
def fwdState (a : Agent) : LineSt := if agentPriv a then .s else .f

/-- An agent's answer to a snoop from the state it holds, or from its write-back buffer (R284, R286). -/
def Block.answerSnoop (b : Block) (a : Agent) (line : Nat) (s : Snoop) (req : Agent) : Block :=
  let reader := match Tab.find b.coh.busy line with
    | none => false
    | some t => t.req == CohReq.rds || t.req == CohReq.rdx
  let say (st : Option LineSt) (fwd : Bool) (wbd : Option (BitVec 1024)) : CohMsg := .rsp a line st fwd wbd false
  match b.coh.lineOf a line with
  | none =>
    match b.coh.wbuf.find? fun w => w.agent == a && w.line == line && !w.taken with
    | some w =>
      (b.modCoh fun c => { c with wbuf := c.wbuf.map fun x => if x == w then { x with taken := true } else x }).send
        (.rsp a line none false (some w.data) true)
    | none => b.send (say none false none)
  | some l =>
    match s, l.st with
    | .shared, .s => b.send (say (some .s) false none)
    | .shared, st =>
      ((b.modCoh fun c => c.shareCopy l).grantLine req line .s l.data l.key).send
        (say (some (fwdState a)) true (if st == .m then some l.data else none))
    | .own, .s => (b.dropCopy a line).send (say none false none)
    | .own, st =>
      let b := b.dropCopy a line
      if reader then (b.grantLine req line (if st == .m then .m else .e) l.data l.key).send (say none true none)
      else b.send (say none false (if st == .m then some l.data else none))
    | .cur, .m => b.send (say (some .m) false (some l.data))
    | .cur, .e => b.send (say (some .e) false (some l.data))
    | .cur, st => b.send (say (some st) false none)

/-- The agent holds the line against snoops (R291, R292). -/
def Block.lineHeld (b : Block) (a : Agent) (line : Nat) : Bool :=
  match b.coh.lineOf a line with
  | none => false
  | some l => b.time.clk < l.holdTo

/-- The hold ends and the parked snoops of the line are answered in order (R291). -/
def Block.holdEnds (b : Block) (a : Agent) (line : Nat) : Block :=
  let mine (p : Agent × Nat × Snoop × Agent) : Bool := p.1 == a && p.2.1 == line
  let ps := b.coh.parks.filter mine
  let b := b.modCoh fun c =>
    { c with parks := c.parks.filter fun p => !mine p
             lines := c.lines.map fun l => if l.agent == a && l.line == line then { l with holdTo := 0 } else l }
  ps.foldl (fun b p => b.answerSnoop a line p.2.2.1 p.2.2.2) b

/-- A delivered snoop of one kind: parked under a hold while the park of 16 has room, else answered (R290, R291). -/
def Block.deliverSnoop (b : Block) (a : Agent) (line : Nat) (s : Snoop) : Block :=
  match b.takeMsg fun m => match m with
    | .snoop d l k _ => d == a && l == line && k == s
    | _ => false with
  | some (.snoop _ _ _ req, b') =>
    if b'.lineHeld a line && (b'.coh.parks.filter fun p => p.1 == a).length < 16 then
      (b'.modCoh fun c => { c with parks := c.parks ++ [(a, line, s, req)] }).modCnt (agentSlice a) fun c =>
        { c with cohParked := up32 c.cohParked }
    else b'.answerSnoop a line s req
  | _ => b

/-! ### The ways of a cluster cache (R89) -/

/-- Ways that a slice may fill in a cluster: those it owns, but for ways that leave it from stage 2 on (R90). -/
def Block.waysOf (b : Block) (n c : Nat) : List Nat :=
  let out := ((b.runOf n (2 ≤ ·)).map fun r => r.waysOut).getD []
  (List.range 16).filter fun w => b.wayOwner c w == n && !out.contains (16 * c + w)

/-- Lines of the set of a line in a cluster cache: 4,096 sets by address bits [18:7]. -/
def Coh.setOf (c : Coh) (a : Agent) (line : Nat) : List CLine :=
  c.lines.filter fun l => l.agent == a && l.line % 4096 == line % 4096 && l.line != line

/-- A line of a cluster cache was used, or filled as the first to evict: one mark for each line, and when every line of the full
set has it, the others lose theirs. DESIGN CHOICE: this pseudo-LRU order (notes/assumptions/22.md). -/
def Coh.used (c : Coh) (a : Agent) (line ways : Nat) (first : Bool) : Coh :=
  let set := c.setOf a line
  let full := !first && ways ≤ set.length + 1 && set.all (2 ≤ ·.age)
  { c with lines := c.lines.map fun l =>
      if l.agent == a && l.line == line then { l with age := if first then 0 else 2 }
      else if full && l.agent == a && l.line % 4096 == line % 4096 then { l with age := 1 } else l }

def Block.useLine (b : Block) (a : Agent) (line : Nat) (first : Bool) : Block :=
  match a with
  | .cluster n c => b.modCoh fun k => k.used a line (b.waysOf n c).length first
  | _ => b

/-- The line that makes room: first in the pseudo-LRU order, then the lowest way; one that is held only where all are (R291). -/
def Block.roomFrom (b : Block) (set : List CLine) : Option CLine :=
  let free := set.filter fun l => l.holdTo ≤ b.time.clk
  (if free.isEmpty then set else free).foldl (fun r l => match r with
    | none => some l
    | some x => if l.age < x.age || (l.age == x.age && l.way < x.way) then some l else some x) none

/-- A modified line goes to the write-back buffer, any other copy silently (R286). -/
def Block.evictCopy (b : Block) (l : CLine) : Block :=
  let b := b.dropCopy l.agent l.line
  if l.st == .m then
    b.modCoh fun c =>
      { c with wbuf := c.wbuf ++ [{ agent := l.agent, line := l.line, data := l.data, key := l.key, taken := false, accepted := false }] }
  else b

/-- The way of a fill: the line's own, a free one of the slice's, or that of the line which makes room; none while the slice may
fill no way of the cluster (R89, R90). -/
def Block.makeRoom (b : Block) (a : Agent) (line : Nat) : Block × Option Nat :=
  match a with
  | .cluster n c =>
    let ways := b.waysOf n c
    let set := b.coh.setOf a line
    match b.coh.lineOf a line with
    | some l => (b, some l.way)
    | none =>
      match ways.find? fun w => set.all (·.way != w) with
      | some w => (b, some w)
      | none =>
        match b.roomFrom (set.filter fun l => ways.contains l.way) with
        | none => (b, none)
        | some l => (b.evictCopy l, some l.way)
  | _ => (b, some 0)

/-- A granted line is installed, held where HOLD is in force, and acknowledged (R285, R287, R291). Where it can fill no way, the
cache gives it up at once. -/
def Block.install (b : Block) (a : Agent) (line : Nat) (st : LineSt) (d : BitVec 1024) (key : Nat) : Block :=
  let n := agentSlice a
  let hold := if b.holds n && (st == .e || st == .m) then b.time.clk + (b.slice n).holdClk else 0
  let (b, way) := b.makeRoom a line
  let l : CLine := { agent := a, line := line, st := st, data := d, key := key, way := way.getD 16, age := 2, holdTo := hold }
  let b := (b.modCoh fun c => (c.putLine l).dropWant a line fun w => w.req.fills).useLine a line false
  (if way.isNone then b.evictCopy l else b).send (.ack a line)

/-- A requester receives data: a granted line, or a value (R283). -/
def Block.takeData (b : Block) (a : Agent) (line : Nat) : Block :=
  match b.takeMsg fun m => match m with
    | .data d l _ _ _ => d == a && l == line
    | _ => false with
  | some (.data _ _ (some st) d key, b') => b'.install a line st d key
  | some (.data _ _ none d _, b') =>
    b'.modCoh fun c =>
      { (c.dropWant a line fun w => w.req.reads && w.st == .served) with
        returned := (c.returned.filter fun r => !(r.1 == a && r.2.1 == line)) ++ [(a, line, d)] }
  | _ => b

/-- The home receives a response (R284, R286). Data of a write-back in flight is written, as the WB will be discarded. -/
def Block.takeRsp (b : Block) (a : Agent) (line : Nat) : Block :=
  match b.takeMsg fun m => match m with
    | .rsp d l _ _ _ _ => d == a && l == line
    | _ => false with
  | some (.rsp _ _ st fwd wbd wbf, b') =>
    match Tab.find b'.coh.busy line with
    | none => b'
    | some t =>
      let b' := match t.req, wbd with
        | .rds, some d => b'.storeLine line t.key d
        | .rdx, some d => b'.storeLine line t.key d
        | .uncrd, some d => if wbf then b'.storeLine line t.key d else b'
        | _, _ => b'
      let left := t.snoops.filter fun x => x != a
      let b' := b'.modTxn line fun t =>
        { t with snoops := left, fwd := t.fwd || fwd, kept := t.kept || st.isSome, wbd := if wbd.isSome then wbd else t.wbd }
      if left.isEmpty && t.snoops.contains a then (b'.resolve line).settleTxn line else b'.settleTxn line
  | _ => b

/-- The home receives the requester's Ack (R287). -/
def Block.takeAck (b : Block) (a : Agent) (line : Nat) : Block :=
  match b.takeMsg fun m => match m with
    | .ack d l => d == a && l == line
    | _ => false with
  | some (_, b') => (b'.modTxn line fun t => if t.requester == a then { t with acked := true } else t).settleTxn line
  | none => b

/-! ### Transactions of the model's own agents -/

/-- An agent's answer to the snoop of the line comes to the home: to a snoop on its way, which a hold parks, or to one whose hold
has ended. -/
def Block.answerNow (b : Block) (a : Agent) (line : Nat) : Block :=
  let b := b.coh.msgs.foldl (fun b m => match m with
    | .snoop d l k _ => if d == a && l == line then b.deliverSnoop a line k else b
    | _ => b) b
  (if b.lineHeld a line || !(b.coh.parks.any fun p => p.1 == a && p.2.1 == line) then b else b.holdEnds a line).takeRsp a line

/-- A transaction of a line that the model's own agents made comes as far as holds allow, its messages delivered in order. -/
def Block.pushGo (line : Nat) : Nat → Block → Block
  | 0, b => b
  | k + 1, b =>
    match Tab.find b.coh.busy line with
    | none => b
    | some t =>
      if !t.auto then b
      else
        let b := match t.waitsFor with
          | none => b
          | some v => Block.pushGo v k b
        let b := t.snoops.foldl (fun b x => b.answerNow x line) b
        let acked := ((Tab.find b.coh.busy line).map fun t => t.acked).getD true
        let b := if t.req.fills && !acked then (b.takeData t.requester line).takeAck t.requester line else b.settleTxn line
        Block.pushGo line k b

def Block.push (b : Block) (line : Nat) : Block := if Tab.has b.coh.busy line then Block.pushGo line (b.coh.uncQueue.length + 2) b else b

/-- What a requester is answered. -/
inductive Got where
  | nothing
  | poison
  | value (d : BitVec 1024)
  deriving DecidableEq, Repr

/-- The home can begin a transaction of the agent: the line is not busy, nor reserved for another, and the home has room (R287,
R289). -/
def Block.lineTurn (b : Block) (a : Agent) (line : Nat) : Bool :=
  !Tab.has b.coh.busy line && (match b.reservedFor line with
    | none => true
    | some x => x == a) &&
    (b.coh.busy.filter fun x => homeOf x.1 == homeOf line).length < 64 && b.inDomain a line

/-- Another agent that a request would snoop holds the line (R291, R292). -/
def Block.heldAgainst (b : Block) (a : Agent) (line : Nat) (r : CohReq) : Bool :=
  ((b.coh.filt line).bind fun f => r.snoop f.owner.isSome).isSome &&
    b.coh.lines.any fun l => l.line == line && l.agent != a && b.time.clk < l.holdTo

/-- The line is free for a transaction of the agent that ends at once: the home can begin it, and nobody holds the line. -/
def Block.lineFree (b : Block) (a : Agent) (line : Nat) : Bool :=
  b.lineTurn a line && (b.coh.lines.all fun l => l.line != line || l.agent == a || l.holdTo ≤ b.time.clk)

/-- A request that the agent has to wait with: its delay runs, or it has a place in the retry order (R289, R290). DESIGN CHOICE:
with a place in the order it sends no further request until its turn (notes/assumptions/118.md). -/
def Block.waitsTurn (b : Block) (a : Agent) (line : Nat) (p : CohReq → Bool) : Bool :=
  b.coh.waiting.any fun w => w.agent == a && w.line == line && p w.req && w.st == .nacked &&
    (w.retryAt.any (b.time.clk < ·) || (b.classes (agentSlice a) && (Tab.get [] b.coh.retry line).contains a))

/-- A request with its snoops, its data and its Ack, as far as holds let it go: nothing where it is turned away or must wait. -/
def Block.whole (b : Block) (a : Agent) (line key : Nat) (r : CohReq) : Block × Got :=
  let b := (b.request a line key r true).push line
  let ends (b : Block) (m : CohMsg) : Block := b.modCoh fun c => { (c.dropWant a line fun w => w.st == .served) with msgs := c.msgs.erase m }
  if b.coh.msgs.contains (.poison a line) then (ends b (.poison a line), .poison)
  else
    match (b.coh.msgs.filterMap fun m => match m with
      | .data d l none x k => if r.noAck && d == a && l == line then some (x, k) else none
      | _ => none).getLast? with
    | none => (b.takeNack a line, .nothing)
    | some (x, k) => (ends b (.data a line none x k), .value x)

/-- An access at the home that the home turns away: Nack for a caching agent, which tries again (R287, R289, R290). -/
def Block.nackHome (b : Block) (a : Agent) (line : Nat) : Block :=
  if agentUncached a || b.waitsTurn a line (· == .evict) then b
  else
    let old := b.coh.waiting.find? fun w => w.agent == a && w.line == line && w.req == .evict
    let w : Want := old.getD { agent := a, line := line, req := .evict, key := 0, retryAt := none, since := b.time.clk, st := .sent, auto := true }
    let w := { w with st := .sent, retryAt := none }
    ((b.modCoh fun c => { (c.dropWant a line fun x => x.req == .evict) with
      waiting := (c.dropWant a line fun x => x.req == .evict).waiting ++ [w] }).turnAway w).takeNack a line

/-- A held line is snooped for an access at its home, for ownership or for current data: the holder parks the snoop (R291). -/
def Block.recall (b : Block) (line : Nat) (own : Bool) : Block :=
  let n := b.groupOwner (homeOf line)
  (b.openTxn { agent := recaller n, line := line, req := if own then .evict else .uncrd, key := b.lineKey n line, retryAt := none
               since := b.time.clk, st := .served, auto := true } none).push line

/-- The turn of an access that is made at a line's home and ends at once there: a write or an atomic (`own`), or an uncached read.
Behind a busy or reserved line it waits, with Nack for a caching agent; a held line is snooped first (R287, R289, R291 to R293). A
line outside every domain has nothing to wait for. -/
def Block.homeTurn (b : Block) (a : Agent) (line : Nat) (own : Bool) : Block × Bool :=
  let b := b.push line
  if !b.inDomain a line then (b, agentUncached a)
  else if !b.lineTurn a line then (b.nackHome a line, false)
  else if b.heldAgainst a line (if own then .evict else .uncrd) then (b.recall line own, false)
  else if b.coh.waiting.any fun w => w.agent == a && w.line == line && w.req == .evict then
    (b.modCoh fun c => c.dropWant a line fun w => w.req == .evict, true)
  else (b, true)

/-- The turn of an access to several lines. -/
def Block.homeTurns (b : Block) (a : Agent) (lines : List Nat) (own : Bool) : Block × Bool :=
  lines.foldl (fun (b, ok) l => let (b, x) := b.homeTurn a l own; (b, ok && x)) (b, true)

/-- A clock in the domains: the transactions of the model's own agents go on where a hold has ended. -/
def Block.cohTick (b : Block) : Block :=
  if b.coh.busy.isEmpty then b else b.coh.busy.foldl (fun b x => if x.2.auto then b.push x.1 else b) b

/-! ### The cluster cache of a core (R73, R89, R281) -/

/-- The cluster cache can take no line: the slice may fill none of its ways (R89). -/
def Block.noWays (b : Block) (a : Agent) : Bool :=
  match a with
  | .cluster n c => (b.waysOf n c).isEmpty
  | _ => false

/-- The cluster cache that serves a core. -/
def Block.clusterOf (b : Block) (core : Nat) : Agent := .cluster (b.core core).owner (core / 8)

/-- The core's data cache takes the line in a state; a core of the cluster with the line modified drops to shared. Of its 256 lines
the one used longest ago makes room. DESIGN CHOICE: a data cache replaces so (R276; notes/assumptions/38.md). -/
def Block.dcacheFill (b : Block) (core line : Nat) (st : LineSt) : Block :=
  let others := b.coh.dcache.filter fun x => x.1 == core && x.2.1 != line
  let b := if others.length < 256 then b
    else match others.head? with
      | none => b
      | some x => b.loseCopies x.2.1 (· == core)
  b.modCoh fun c =>
    { c with dcache := (c.dcache.filter fun x => !(x.1 == core && x.2.1 == line)).map (fun x =>
        if x.2.1 == line && x.1 / 8 == core / 8 then (x.1, line, .s) else x) ++ [(core, line, st)] }

/-- How a cluster cache's access to a line ends: it must wait, the line is poisoned, or the line is there. -/
inductive LineRes where
  | wait (b : Block)
  | bad (b : Block)
  | ok (b : Block) (l : CLine)

/-- A request of a cluster cache for the line, until it has it in a state that serves. -/
def Block.fetchLine (b : Block) (a : Agent) (line key : Nat) (r : CohReq) : LineRes :=
  if !b.lineTurn a line && b.waitsTurn a line CohReq.fills then .wait b
  else
    match b.whole a line key r with
    | (b, .poison) => .bad b
    | (b, _) =>
      match b.coh.lineOf a line with
      | none => .wait b
      | some l => if r == .rds || l.st == .m || l.st == .e then .ok b l else .wait b

/-- The line in the cluster cache for a read (R281, R298). -/
def Block.readLine (b : Block) (a : Agent) (line key : Nat) : LineRes :=
  match b.coh.lineOf a line with
  | some l => .ok (b.useLine a line false) l
  | none => b.fetchLine a line key .rds

/-- The line in E or M for a store (R281). -/
def Block.ownLine (b : Block) (a : Agent) (line key : Nat) : LineRes :=
  match b.coh.lineOf a line with
  | some l => if l.st == .m || l.st == .e then .ok (b.useLine a line false) l else b.fetchLine a line key .rdx
  | none => b.fetchLine a line key .rdx

/-- The cluster of a cluster cache. -/
def agentCluster : Agent → Option Nat
  | .cluster _ c => some c
  | _ => none

/-- A store in an owned line: the line becomes M without a message; other cores of the cluster lose it (R281). -/
def Block.storeIn (b : Block) (l : CLine) (off : Nat) (bs : List Byte) (but : Option Nat) : Block :=
  (b.loseCopies l.line fun k => agentCluster l.agent == some (k / 8) && but != some k).modCoh fun c =>
    { c with lines := c.lines.map fun x =>
        if x.agent == l.agent && x.line == l.line then { x with st := .m, data := patchLine l.data off bs } else x }

end Sys2Proof.Machine
end

