-- ==== Sys2Proof/Machine/Memory.lean ====
section
/-! DEFINITION. Global addresses, ownership, the encrypted device memory, page tables and pinned windows (R199 to R208, R222
to R224), the scratchpad with its tags and poison (R80, R81, R91, R298), and the codes a context receives (R236). -/

namespace Sys2Proof.Machine

/-! ### Global addresses (R199, R200) -/

def gaPackage (a : Nat) : Nat := fld a 56 45
def gaInstance (a : Nat) : Nat := fld a 44 42
def gaGroup (a : Nat) : Nat := fld a 41 37
def gaOffset (a : Nat) : Nat := fld a 36 0
/-- The place within the instance's memory: GROUP and OFFSET. -/
def gaKey (a : Nat) : Nat := fld a 41 0

/-- The address lies on the block's own instance. -/
def Block.isOwn (b : Block) (a : Nat) : Bool := gaPackage a == b.dict.package && gaInstance a == b.start.inst

/-- Owner tag 1 to 28 of slice n on the group, and the range wholly within its memory (R200). -/
def Block.ownRange (b : Block) (n a len : Nat) : Bool :=
  b.isOwn a && 1 ≤ n && n ≤ 28 && b.groupOwner (gaGroup a) == n && gaOffset a + len ≤ b.groupBytes (gaGroup a)

/-- The global address of a place of this instance. -/
def Block.gaOf (b : Block) (key : Nat) : Nat := b.dict.package * 2 ^ 45 + b.start.inst * 2 ^ 42 + key

/-! ### Reads and writes of device memory (R276, R284) -/

/-- The byte that the block's own last waiting write of a place gives it. -/
def Coh.lateByte (c : Coh) (k : Nat) : Option Byte :=
  c.late.foldl (fun r x => if x.2.1 ≤ k && k < x.2.1 + x.2.2.length then x.2.2[k - x.2.1]? else r) none

/-- A byte at place k as a reader with key generation g sees it: of the line's newest copy. -/
def Block.rdByte (b : Block) (g k : Nat) : Byte :=
  match b.coh.lateByte k with
  | some x => x
  | none =>
    match b.coh.newest (k / 128) with
    | some x => x.1.extractLsb' (8 * (k % 128)) 8
    | none => b.mem.byte g k

/-- A read of the line meets its poison: no copy of it is newer (R298). -/
def Block.poisonedNow (b : Block) (k : Nat) : Bool := b.poisoned k && (b.coh.newest (k / 128)).isNone

def Block.rdMem (b : Block) (g k : Nat) : Nat → List Byte
  | 0 => []
  | n + 1 => b.rdByte g k :: Block.rdMem b g (k + 1) n

/-- A line's newest data goes to memory, and every copy of it goes, with its filter entry: what an uncached write or an atomic
does at the line's home once the line is free (R284, R287). -/
def Block.takeLine (b : Block) (line : Nat) : Block :=
  let b := match b.coh.newest line with
    | none => b
    | some x => b.storeLine line x.2 x.1
  let b := b.loseCopies line fun _ => true
  if (b.coh.lines.any fun l => l.line == line) || (b.coh.wbuf.any fun w => w.line == line) || Tab.has b.coh.filter line then
    b.modCoh fun c =>
      { c with lines := c.lines.filter (fun l => l.line != line), filter := Tab.erase c.filter line
               wbuf := c.wbuf.map fun w => if w.line == line then { w with taken := true } else w }
  else b

/-- An atomic at the home of its line: its old value; a poisoned line stays as it was (R293, R298). -/
def Block.homeAtomic (b : Block) (key k : Nat) (op : AtomicOp) (x y : Dword) : Block × Option Nat :=
  let b := b.takeLine (k / 128)
  if b.linePoisoned (k / 128) then (b, none)
  else
    let r := atomicLine (b.memLine key (k / 128)) (k % 128) op x y
    (b.storeLine (k / 128) key r.1, some r.2)

/-- A write of the block's own to the line has to wait: the line is busy, held or reserved, or an earlier such write waits for it
(R287, R289, R291). -/
def Block.lineLate (b : Block) (line : Nat) : Bool :=
  Tab.has b.coh.busy line || (b.reservedFor line).isSome || (b.coh.late.any fun x => x.2.1 / 128 == line) ||
    b.heldAgainst (recaller (b.groupOwner (homeOf line))) line .evict

/-- A write of the block's own waits for its line, which is recalled where an agent holds it. -/
def Block.wrLater (b : Block) (g k : Nat) (bs : List Byte) : Block :=
  let b := b.modCoh fun c => { c with late := c.late ++ [(g, k, bs)] }
  if Tab.has b.coh.busy (k / 128) || (b.reservedFor (k / 128)).isSome then b else b.recall (k / 128) true

/-- A write within one line under key generation g: decrypt, modify and encrypt of the whole line; only a write of the whole
line ends its poison (R222, R298). It is made once the line is free. DESIGN CHOICE: its maker goes on meanwhile
(notes/assumptions/99.md). -/
def Block.wrLine (b : Block) (g k : Nat) (bs : List Byte) : Block :=
  if b.lineLate (k / 128) then b.wrLater g k bs else
  let b := b.takeLine (k / 128)
  let w := Tab.get 0 b.mem.keyGen (k / 128)
  let base := if w == g || bs.length == 128 then b.mem.bytes
    else b.mem.bytes.writeN (k / 128 * 128) (b.rdMem g (k / 128 * 128) 128)
  { b with mem := { bytes := base.writeN k bs
                    keyGen := Tab.set 0 b.mem.keyGen (k / 128) g
                    poison := if bs.length == 128 then Tab.set false b.mem.poison (k / 128) false else b.mem.poison } }

/-- The pieces of a range that lie in one 128-byte line each. -/
def lineChunks : Nat → Nat → List Byte → List (Nat × List Byte)
  | 0, _, _ => []
  | f + 1, a, bs =>
    if bs.isEmpty then []
    else
      let n := 128 - a % 128
      (a, bs.take n) :: lineChunks f (a + n) (bs.drop n)

def Block.wrMem (b : Block) (g k : Nat) (bs : List Byte) : Block :=
  (lineChunks (bs.length + 1) k bs).foldl (fun b c => b.wrLine g c.1 c.2) b

/-- The block's own writes that wait are made, those whose lines are free now. -/
def Block.lateTick (b : Block) : Block :=
  if b.coh.late.isEmpty then b
  else b.coh.late.foldl (fun b x => b.wrLine x.1 x.2.1 x.2.2) (b.modCoh fun c => { c with late := [] })

/-- What a failing line, or a refused read of the block's own, gives is left open: a free value. -/
def Block.openByte (b : Block) (i : Nat) : Byte := (Config.freeWord (b.draws + i)).setWidth 8

/-- The block's own reads and writes of slice n's structures: rings, tables, records. A range that R200 refuses is neither read
nor written; what its reader sees there, and in a poisoned line, is a free value. -/
def Block.rdOwn (b : Block) (n a len : Nat) : List Byte :=
  if b.ownRange n a len then
    if (List.range (len / 128 + 2)).any fun i => b.poisonedNow (min (gaKey a + 128 * i) (gaKey a + len - 1)) then
      (List.range len).map fun i =>
        if b.poisonedNow (gaKey a + i) then b.openByte (gaKey a + i) else b.rdByte (b.ownGen n) (gaKey a + i)
    else b.rdMem (b.ownGen n) (gaKey a) len
  else (List.range len).map fun i => b.openByte (gaKey a + i)
def Block.wrOwn (b : Block) (n a : Nat) (bs : List Byte) : Block :=
  if b.ownRange n a bs.length then b.wrMem (b.ownGen n) (gaKey a) bs else b
def Block.rdOwn64 (b : Block) (n a : Nat) : Nat := leNat (b.rdOwn n a 8)

/-- The scrub of R186: zero ciphertext with fresh ECC over a whole group (R224). -/
def Block.scrubGroup (b : Block) (g : Nat) : Block :=
  let keep {α : Type} (w : Nat) (t : Tab α) : Tab α := t.filter fun x => x.1 * w / 2 ^ 37 != g
  let b := if b.coh.late.isEmpty then b else b.modCoh fun c => { c with late := c.late.filter fun x => x.2.1 / 2 ^ 37 != g }
  { b with mem := { bytes := keep 1 b.mem.bytes, keyGen := keep 128 b.mem.keyGen, poison := keep 128 b.mem.poison } }

/-! ### Codes a context receives (R75, R236) -/

def cOpInvalid : Nat := 0x21
def cWindowEdge : Nat := 0x22
def cParadeFmt : Nat := 0x23
def cEccUncorr : Nat := 0x24
def cAdaptMiss : Nat := 0x25
def cCancelled : Nat := 0x26
def cAdaptTag : Nat := 0x27
def cAdaptLoad : Nat := 0x28
def cReclaimed : Nat := 0x2B
def cStaleRole : Nat := 0x2C
def cWindowInvalid : Nat := 0x2D
def cDmaAborted : Nat := 0x2E
def cRemoteRefused : Nat := 0x2F
def cWindowRefused : Nat := 0x30
def cEngineReserved : Nat := 0x31
def cFenceRefused : Nat := 0x32
def cWatchdog : Nat := 0x33
def cLaunchFailed : Nat := 0x34
def cParadeNotile : Nat := 0x38

/-- R236: STICKY, LAST_CODE, ERR_COUNT, and FIRST_CODE with FIRST_STAMP when ERR_COUNT was 0. -/
def Ctx.code (x : Ctx) (code : Nat) (stamp : Dword) : Ctx :=
  let x := if x.errCount == 0 then { x with firstCode := code, firstStamp := stamp } else x
  { x with sticky := if 0x21 ≤ code && code ≤ 0x3F then bvSet x.sticky (code - 0x20) else x.sticky
           lastCode := code, errCount := min 65535 (x.errCount + 1) }

/-- In place of a code: the access has met a line that is still to come, at this context address under a cache hint; 3 in the hint's
place stands for the swap of a record with zero (R175); for what has still to pass its regulation points, or waits for its line, 4
for a write or an atomic at the line's home and 5 for a write in the cluster cache (R265). -/
def needLine (va hint : Nat) : Nat := 65536 + 8 * va + hint % 8

/-- A context receives a code; a line still to come is noted instead. -/
def Block.ctxCode (b : Block) (c code : Nat) : Block :=
  if 65536 ≤ code then b.modPorts fun p => { p with wanted := p.wanted ++ [(c, code - 65536)] }
  else b.modCtx c fun x => x.code code b.stamp

def Block.ctxCodes (b : Block) (c : Nat) (codes : List Nat) : Block := codes.foldl (fun b k => b.ctxCode c k) b

/-! ### Page tables (R202 to R205) -/

/-- What an address translates to; a walk that meets a poisoned line of a table ends with Poison (R276, R298). -/
inductive Tr where
  | dev (a key : Nat) (adv : Nat)
  | host (a : Nat)
  | remote (a : Nat)
  | fail (cause level adv : Nat)
  | poison
  deriving DecidableEq, Repr

/-- Index of an address at a level. -/
def ptIndex (level va : Nat) : Nat :=
  match level with
  | 5 => fld va 56 48
  | 4 => fld va 47 39
  | 3 => fld va 38 30
  | 2 => fld va 29 21
  | _ => fld va 20 16

/-- Bytes that a leaf of a level maps. -/
def leafSpan (level : Nat) : Nat :=
  match level with
  | 3 => 2 ^ 30
  | 2 => 2 ^ 21
  | 1 => 2 ^ 16
  | 4 => 2 ^ 39
  | _ => 2 ^ 48

/-- Bytes and alignment of the table of a level. -/
def tableSize (level : Nat) : Nat := if level == 1 then 256 else 4096

def pteV (e : Nat) : Bool := bit e 0
def pteW (e : Nat) : Bool := bit e 2
def pteLeaf (e : Nat) : Bool := bit e 3
def pteTarget (e : Nat) : Nat := fld e 5 4
def pteAdv (e : Nat) : Nat := fld e 7 6
def pteAddr (e : Nat) : Nat := fld e 56 8 * 256
def pteKey (e : Nat) : Nat := fld e 63 58

/-- The first row of R204 that an entry meets at a level, for a context of slice n; none when the entry serves. -/
def Block.pteFault (b : Block) (n level e : Nat) (write : Bool) : Option Nat :=
  if !pteV e then some 1
  else if pteLeaf e then
    if write && !pteW e then some 2
    else if bit e 1 || bit e 57 || 2 ≤ pteTarget e || 4 ≤ level || pteAddr e % leafSpan level != 0 then some 3
    else if pteTarget e == 0 && b.isOwn (pteAddr e) && !b.ownRange n (pteAddr e) (leafSpan level) then some 4
    else if pteTarget e == 0 && !b.holdsKey n (pteKey e) then some 5
    else none
  else
    if bit e 1 || bit e 57 || pteTarget e != 0 || level == 1 || pteAddr e % tableSize (level - 1) != 0 ||
        !b.isOwn (pteAddr e) then some 3
    else if !b.ownRange n (pteAddr e) (tableSize (level - 1)) then some 4
    else none

/-- What a valid leaf gives for an address. -/
def Block.leafTr (b : Block) (level e va : Nat) : Tr :=
  let a := pteAddr e + va % leafSpan level
  if pteTarget e == 1 then .host a
  else if b.isOwn a then .dev a (pteKey e) (pteAdv e) else .remote a

/-- A walk from the table of a level, at most `level` entries deep: the translation, and the entries read with their levels. -/
def Block.walkFrom (b : Block) (n va : Nat) (write : Bool) : Nat → Nat → Tr × List (Nat × Nat)
  | 0, _ => (.fail 3 1 0, [])
  | level + 1, table =>
    let l := level + 1
    let e := b.rdOwn64 n (table + 8 * ptIndex l va)
    if b.poisonedNow (gaKey (table + 8 * ptIndex l va)) then (.poison, []) else
    match b.pteFault n l e write with
    | some c => (.fail c l (if pteLeaf e || l == 1 then pteAdv e else 0), [])
    | none =>
      if pteLeaf e then (b.leafTr l e va, [(l, e)])
      else
        let (r, es) := b.walkFrom n va write level (pteAddr e)
        (r, (l, e) :: es)

/-- The lines of the tables that a walk reads, from the table of a level on. -/
def Block.tablesFrom (b : Block) (n va : Nat) : Nat → Nat → List Nat
  | 0, _ => []
  | level + 1, table =>
    let a := table + 8 * ptIndex (level + 1) va
    let e := b.rdOwn64 n a
    gaKey a / 128 :: if (b.pteFault n (level + 1) e false).isNone && !pteLeaf e then b.tablesFrom n va level (pteAddr e) else []

/-- A cached entry serves this context, generation and address (R205). -/
def TlbEntry.hits (t : TlbEntry) (c : Nat) (gen : BitVec 8) (va : Nat) : Bool :=
  t.ctx == c && t.gen == gen && t.va / leafSpan t.level == va / leafSpan t.level

/-- A cached leaf that serves, else the deepest cached table pointer. -/
def tlbLeaf (l : List TlbEntry) (c : Nat) (gen : BitVec 8) (va : Nat) : Option TlbEntry :=
  l.find? fun t => t.hits c gen va && pteLeaf t.pte.toNat

def tlbPointer (l : List TlbEntry) (c : Nat) (gen : BitVec 8) (va : Nat) : Option TlbEntry :=
  [2, 3, 4, 5].findSome? fun lv => l.find? fun t => t.level == lv && t.hits c gen va && !pteLeaf t.pte.toNat

/-- The translation of a context address, and the entries that a walk read (R202 to R205, R227). -/
def Block.walk (b : Block) (c va : Nat) (write : Bool) : Tr × List (Nat × Nat) :=
  let x := b.ctx c
  let n := x.slice
  let tlb := (b.slice n).xlat.tlb
  if x.allocVa != 0 && va / 65536 == x.allocVa / 65536 then (.fail 1 0 0, [])
  else
    match tlbLeaf tlb c x.gen va with
    | some t =>
      match b.pteFault n t.level t.pte.toNat write with
      | some cause => (.fail cause t.level (pteAdv t.pte.toNat), [])
      | none => (b.leafTr t.level t.pte.toNat va, [])
    | none =>
      match tlbPointer tlb c x.gen va with
      | some t =>
        match b.pteFault n t.level t.pte.toNat write with
        | some cause => (.fail cause t.level 0, [])
        | none => b.walkFrom n va write (t.level - 1) (pteAddr t.pte.toNat)
      | none =>
        if b.ownRange n x.ptRoot 4096 && x.ptRoot % 4096 == 0 then b.walkFrom n va write 5 x.ptRoot
        else (.fail 4 5 0, [])

/-- The lines that a walk for a context address reads at their homes (R276). -/
def Block.tableLines (b : Block) (c va : Nat) : List Nat :=
  let x := b.ctx c
  match tlbPointer (b.slice x.slice).xlat.tlb c x.gen va with
  | some t => b.tablesFrom x.slice va (t.level - 1) (pteAddr t.pte.toNat)
  | none => if b.ownRange x.slice x.ptRoot 4096 then b.tablesFrom x.slice va 5 x.ptRoot else []

/-! ### Unit status (R87) -/

def statWord (done issued : BitVec 16) (lastErr depth : Nat) (waiting : Bool) : Dword :=
  BitVec.ofNat 64 (done.toNat * 2 ^ 48 + issued.toNat * 2 ^ 32 + lastErr % 256 * 2 ^ 24 + depth % 256 * 2 ^ 16 +
    (if waiting then 1 else 0))

def Engine.stat (e : Engine) : Dword := statWord e.done e.issued e.lastErr e.queue.length e.waiting

def Vec.stat (v : Vec) : Dword := statWord v.done v.issued v.lastErr v.queue.length false

/-- Ticket t counts as complete (R77). -/
def ticketDone (done : BitVec 16) (t : Nat) : Bool := (done - BitVec.ofNat 16 t).toNat < 2 ^ 15

/-! ### The context descriptor (R231) -/

def CtxSt.num : CtxSt → Nat
  | .free => 0
  | .active => 1
  | .faulted => 2
  | .resetting => 3
  | .suspect => 4

/-- W0 to W12 of a context's descriptor; W13 to W15 read 0. -/
def Ctx.words (x : Ctx) (c : Nat) : List Nat :=
  [x.st.num * 2 ^ 60 + (if x.pin then 2 ^ 59 else 0) + x.gen.toNat * 2 ^ 44 + x.slice * 2 ^ 20 + c, x.ptRoot, x.winTable,
   x.label * 2 ^ 60 + x.pasid, x.heapBase, x.heapPages, x.heapMap, x.allocVa, x.srSeed.toNat, x.srCtr.toNat,
   x.sticky.toNat * 2 ^ 32 + x.firstCode * 2 ^ 24 + x.lastCode * 2 ^ 16 + x.errCount, x.firstStamp.toNat,
   x.fenceLow % 2 ^ 32 * 2 ^ 32 + x.signalStale % 2 ^ 32, 0, 0, 0]

def Ctx.bytes (x : Ctx) (c : Nat) : List Byte := (x.words c).flatMap (toLe 8)

/-- The fields that the driver writes before CREATE, from the descriptor's words; `old` gives the rest. -/
def Ctx.ofWords (old : Ctx) (w : List Nat) : Ctx :=
  { old with pin := bit (w.getD 0 0) 59, ptRoot := fld (w.getD 1 0) 56 0, winTable := fld (w.getD 2 0) 56 0
             label := fld (w.getD 3 0) 63 60, pasid := fld (w.getD 3 0) 19 0, heapBase := fld (w.getD 4 0) 56 0
             heapPages := fld (w.getD 5 0) 23 0, heapMap := fld (w.getD 6 0) 56 0, allocVa := fld (w.getD 7 0) 56 0
             srSeed := BitVec.ofNat 64 (w.getD 8 0), srCtr := BitVec.ofNat 64 (w.getD 9 0) }

/-- Address of the descriptor of context c (R230). -/
def Block.ctxAddr (b : Block) (c : Nat) : Nat :=
  let x := b.ctx c
  let r := (b.slice x.slice).ctxr
  r.table.toNat + 128 * (c - r.first)

/-- The block writes the descriptor back to memory (R232), where the slice owns the place. -/
def Block.ctxWriteBack (b : Block) (c : Nat) : Block :=
  let x := b.ctx c
  if (b.slice x.slice).ctxr.table != 0 && b.ownRange x.slice (b.ctxAddr c) 128 then b.wrOwn x.slice (b.ctxAddr c) (x.bytes c) else b

/-- A change of STATE is written back (R232). -/
def Block.setCtxSt (b : Block) (c : Nat) (st : CtxSt) : Block := (b.modCtx c fun x => { x with st := st }).ctxWriteBack c

/-! ### The context cache (R237) -/

/-- Resident contexts of a slice's partition. -/
def Block.resident (b : Block) (n : Nat) : List Nat :=
  (Tab.keys b.ctxs).filter fun c => (b.ctx c).slice == n && (b.ctx c).cached.isSome

/-- The least recently used of the contexts given. -/
def Block.oldest (b : Block) : List Nat → Option Nat
  | [] => none
  | c :: l =>
    match b.oldest l with
    | none => some c
    | some d => if ((b.ctx c).cached.getD 0) ≤ ((b.ctx d).cached.getD 0) then some c else some d

/-- A use of a descriptor: it is loaded or marked as used last; the least recently used unpinned one makes room, and is
written back. -/
def Block.touchCtx (b : Block) (c : Nat) : Block :=
  let x := b.ctx c
  if x.st == .free then b
  else
    let res := b.resident x.slice
    let stamp := (res.map fun d => (b.ctx d).cached.getD 0).foldl max 0 + 1
    let b :=
      if x.cached.isSome || res.length < 16 * (b.inForce x.slice).ccache then b
      else
        match b.oldest (res.filter fun d => !(b.ctx d).pinned) with
        | none => b
        | some d => (b.ctxWriteBack d).modCtx d fun y => { y with cached := none }
    b.modCtx c fun y => { y with cached := some stamp }

/-! ### Pinned windows (R207, R208, R206) -/

/-- A window as its table entry holds it. -/
structure Win where
  base : Nat
  status : Nat
  write : Bool
  len : Nat
  deriving DecidableEq, Repr

def Block.winAddr (b : Block) (c w : Nat) : Nat := (b.ctx c).winTable + 32 * w

/-- Window w of context c; unset where the slice may not use its entry's place (R200). -/
def Block.win (b : Block) (c w : Nat) : Win :=
  let n := (b.ctx c).slice
  if !b.ownRange n (b.winAddr c w) 32 then { base := 0, status := 0, write := false, len := 0 } else
  let w0 := b.rdOwn64 n (b.winAddr c w)
  let w1 := b.rdOwn64 n (b.winAddr c w + 8)
  { base := fld w0 56 16 * 65536, status := fld w0 15 12, write := bit w0 2, len := fld w1 31 0 * 65536 }

/-- The translation of an address in a valid window: by the leaf that the window's check met (R208). -/
def Block.winTr (b : Block) (c w va : Nat) (write : Bool) : Tr :=
  match (b.ctx c).pins.find? fun p => p.win == w && p.va / leafSpan p.level == va / leafSpan p.level with
  | some p => b.leafTr p.level p.pte va
  | none => (b.walk c va write).1

/-- The window that covers an address of a context, among those that are valid. -/
def Block.winAt (b : Block) (c va : Nat) : Option Nat :=
  (List.range 8).find? fun w => (b.win c w).status == 1 && (b.win c w).base ≤ va && va < (b.win c w).base + (b.win c w).len

/-- A window's pinned translations go. -/
def Block.unpin (b : Block) (c w : Nat) : Block :=
  if (b.ctx c).pins.any fun p => p.win == w then b.modCtx c fun x => { x with pins := x.pins.filter fun p => p.win != w } else b

/-- Writes STATUS, CAUSE and STAMP of a window, keeping its other fields. -/
def Block.setWinStatus (b : Block) (c w status cause : Nat) : Block :=
  let n := (b.ctx c).slice
  let w0 := b.rdOwn64 n (b.winAddr c w)
  let v := w0 - fld w0 15 8 * 256 + status * 4096 + cause * 256
  ((b.unpin c w).wrOwn n (b.winAddr c w) (toLe 8 v)).wrOwn n (b.winAddr c w + 16) (toLe 8 b.stamp.toNat)

/-! ### The scratchpad (R80, R81, R91) -/

def scratchEnd : Nat := 0x300000

def Core.rdS (c : Core) (a : Nat) : Byte := c.scratch.read a
def Core.rdSN (c : Core) (a n : Nat) : List Byte := c.scratch.readN a n
def Core.rdS64 (c : Core) (a : Nat) : Nat := leNat (c.rdSN a 8)

/-- A line of [a, a + n) of the scratchpad has an uncorrectable error (R91). -/
def Core.badAt (c : Core) (a n : Nat) : Bool := (List.range n).any fun i => Tab.get false c.poison ((a + i) / 128)

/-- Bytes of the scratchpad that are no elements. -/
def Block.rdRaw (b : Block) (core a n : Nat) : List Byte :=
  if (b.core core).badAt a n then
    (List.range n).map fun i =>
      if Tab.get false (b.core core).poison ((a + i) / 128) then b.openByte (a + i) else (b.core core).rdS (a + i)
  else (b.core core).rdSN a n

/-- A write within one line sets its tag; a clear line already reads zero elsewhere. A write of all 128 bytes ends poison. -/
def Core.wrLineS (c : Core) (a : Nat) (bs : List Byte) : Core :=
  { c with scratch := c.scratch.writeN a bs
           tags := Tab.set false c.tags (a / 128) true
           poison := if bs.length == 128 then Tab.set false c.poison (a / 128) false else c.poison }

def Core.wrS (c : Core) (a : Nat) (bs : List Byte) : Core :=
  (lineChunks (bs.length + 1) a bs).foldl (fun c x => c.wrLineS x.1 x.2) c

/-- tag.clr of one line: it reads as zero, and its poison ends (R81, R91). -/
def Core.clearLine (c : Core) (line : Nat) : Core :=
  { c with scratch := c.scratch.filter (fun x => x.1 / 128 != line)
           tags := Tab.set false c.tags line false
           poison := Tab.set false c.poison line false }

/-- A core as its power domain comes up: every tag clear (R81, R132). -/
def Core.powerUp (c : Core) : Core :=
  { Core.reset with owner := c.owner, roleGen := c.roleGen, spareBank := c.spareBank, place := c.place }

/-! ### Operand accesses of the engines, the adapter and the vector unit (R73, R75, R206) -/

def awWindow (w : Nat) : Bool := bit w 63
def awWin (w : Nat) : Nat := fld w 62 60
def awOff (w : Nat) : Nat := fld w 47 0
/-- CHINT: 1 no-allocate, 2 allocate as first to evict; 0, and the reserved 3, allocate. -/
def awHint (w : Nat) : Nat := fld w 59 58 % 3

/-- A byte of an operand with whether its line had an uncorrectable error, and the code the access gives (0: none). -/
structure OpByte where
  val : Byte
  bad : Bool
  code : Nat
  deriving DecidableEq, Repr

/-- The answer to a read of a line through a window (R206, R276). -/
def Block.winLine (b : Block) (core c va : Nat) : Option LineAns :=
  b.ports.winLines.findSome? fun l => match l.ans with
    | .taken _ _ _ => none
    | .passed => none
    | .walked => none
    | x => if l.core == core && l.ctx == c && l.line == va / 128 then some x else none

/-- One byte of a window of a context: beyond the edge, without a valid window, or refused by its target, a read returns zero
(R75, R206, R209). -/
def Block.rdWin (b : Block) (core c w off hint : Nat) : OpByte :=
  let x := b.win c w
  if x.status != 1 then { val := 0, bad := false, code := cWindowInvalid }
  else if x.len ≤ off then { val := 0, bad := false, code := cWindowEdge }
  else
    let line (a : Nat) : OpByte := match b.winLine core c (x.base + off) with
      | some (.data bs) => { val := bs.getD (a % 128) 0, bad := false, code := 0 }
      | some .refused => { val := 0, bad := false, code := cRemoteRefused }
      | some .poison => { val := b.openByte (gaKey a), bad := true, code := cEccUncorr }
      | _ => { val := 0, bad := false, code := needLine ((x.base + off) / 128 * 128) hint }
    match b.winTr c w (x.base + off) false with
    | .dev a _ _ => line a
    | .remote a => line a
    | .poison => { val := b.openByte (gaKey (x.base + off)), bad := true, code := cEccUncorr }
    | _ => { val := 0, bad := false, code := cWindowInvalid }

/-- One byte of an operand at an address word plus an offset. -/
def Block.rdOperand (b : Block) (core c aw off : Nat) : OpByte :=
  if awWindow aw then b.rdWin core c (awWin aw) (awOff aw + off) (awHint aw)
  else
    let a := awOff aw + off
    if Tab.get false (b.core core).poison (a / 128) then { val := b.openByte a, bad := true, code := cEccUncorr }
    else { val := (b.core core).rdS a, bad := false, code := 0 }

def Block.rdOperands (b : Block) (core c aw off n : Nat) : List OpByte :=
  (List.range n).map fun i => b.rdOperand core c aw (off + i)

/-- Codes that stand for lines still to come. -/
def needsOf (l : List Nat) : List Nat := l.filter (65536 ≤ ·)

/-- Each code once, in the order met. -/
def codesOf (l : List OpByte) : List Nat := (l.map (·.code)).eraseDups.filter (· != 0)

def opVals (l : List OpByte) : List Byte := l.map (·.val)

/-! ### Requests to other instances (R441, R442; the ports carry them) -/

/-- A reservation byte of a slice: 0 the ring, 1 to 4 FP0 to FP3, 5 the host port, 6 FED (R178). -/
def Block.reservByte (b : Block) (n i : Nat) : Nat := fld (b.inForce n).reserv.toNat (8 * i + 7) (8 * i)

/-- The port towards an address: the shorter way round FED within the package, east when equal (R444); else the first fabric
port on which the slice holds a reservation (notes/assumptions/31.md). -/
def Block.portTo (b : Block) (n a : Nat) : Nat :=
  if gaPackage a == b.dict.package then b.fedTo (gaInstance a)
  else ((List.range 4).find? fun p => b.reservByte n (p + 1) != 0).getD 0

/-- The first tag from `t` on that no outstanding request holds. -/
def freeTag (l : Tab RemoteUse) (t : Nat) : Nat :=
  (((List.range 4096).map fun i => (t + i) % 4096).find? fun k => !(Tab.has l k)).getD (t % 4096)

/-- Takes a tag for a request that leaves by a link. -/
def Block.takeTag (b : Block) (u : RemoteUse) (port : Nat) : Block × Nat :=
  let k := freeTag b.ports.remote b.ports.nextTag
  (b.modPorts fun p => { p with nextTag := (k + 1) % 4096, remote := Tab.put p.remote k u, tagPort := Tab.put p.tagPort k port }, k)

/-- The request of a tag is over; what of it still waits at its port does not leave. -/
def Block.dropTag (b : Block) (tag : Nat) : Block :=
  b.modPorts fun p =>
    { p with remote := Tab.erase p.remote tag, tagPort := Tab.erase p.tagPort tag
             waiting := p.waiting.filter fun x => match x.what with
               | .flit f => f.tag != tag
               | _ => true }

/-- The core whose hart waits for an answer. -/
def RemoteUse.hart : RemoteUse → Option Nat
  | .message c => some c
  | .load c _ _ _ _ _ => some c
  | .store c _ => some c
  | .atomic c _ _ => some c
  | _ => none

def HostUse.hart : HostUse → Option Nat
  | .load c _ _ _ _ => some c
  | _ => none

/-- A hart makes a new access: what an earlier one, since given up, still awaits is no longer its own. -/
def Block.newAccess (b : Block) (core : Nat) : Block :=
  let old := (b.ports.remote.filter fun u => u.2.hart == some core).map (·.1)
  (old.foldl Block.dropTag b).staleHost fun u => u.hart == some core

/-- A flit of slice n's traffic. -/
def Block.sliceFlit (b : Block) (n kind tag : Nat) (body : List Byte) : Flit :=
  { kind := kind, cls := if kind < 0x10 then 0 else 1, package := b.dict.package, slice := b.pkgSlice n, tag := tag, body := body }

/-- WR with its WR_DATA (R442). -/
def Block.remoteWrite (b : Block) (n : Nat) (m : Maker) (u : RemoteUse) (a : Nat) (bs : List Byte) : Block :=
  let port := b.portTo n a
  let (b, tag) := b.takeTag u port
  (flitChunks (bs.length + 1) bs).foldl (fun b c => b.sendFlit n m port a (b.sliceFlit n 0x04 tag c))
    (b.sendFlit n m port a (b.sliceFlit n 0x03 tag (toLe 8 a ++ toLe 4 bs.length)))

/-- RD of the lines that hold [a, a + len); the tag is what its answer carries. -/
def Block.remoteRead (b : Block) (n : Nat) (m : Maker) (u : RemoteUse) (a len : Nat) : Block × Nat :=
  let first := a / 128 * 128
  let bytes := (a + len - first + 127) / 128 * 128
  let (b, tag) := b.takeTag u (b.portTo n a)
  (b.sendFlit n m (b.portTo n a) a (b.sliceFlit n 0x02 tag (toLe 8 first ++ toLe 4 bytes)), tag)

/-- A line already read, after a write through the same window by the access under way. -/
def WinLine.patched (l : WinLine) (c va : Nat) (bs : List Byte) : WinLine :=
  match l.ans with
  | .data old => if l.ctx == c && l.line == va / 128 then { l with ans := .data (overwrite old (va % 128) bs) } else l
  | _ => l

def Block.patchLines (b : Block) (c va : Nat) (bs : List Byte) : Block :=
  if b.ports.winLines.isEmpty then b
  else b.modPorts fun p => { p with winLines := p.winLines.map fun l => l.patched c va bs }

/-! ### Window accesses through the cluster cache (R73, R89, R276) -/

/-- An access of a core's unit to the line of a context address has passed its regulation points (R265). -/
def Block.hasPassed (b : Block) (core c va : Nat) : Bool :=
  b.ports.winLines.any fun l => l.core == core && l.ctx == c && l.line == va / 128 && l.ans == .passed

/-- A write of a core to the line makes no request: its cluster cache owns the line (R281). -/
def Block.ownsLine (b : Block) (a : Agent) (line : Nat) : Bool := (b.coh.lineOf a line).any fun l => l.st == .m || l.st == .e

/-- A write under a hint goes past the cluster cache (R73, R89). -/
def Block.writesPast (b : Block) (a : Agent) (line hint : Nat) : Bool := (b.coh.lineOf a line).isNone && (hint == 1 || b.noWays a)

/-- A read of a line through the cluster cache of a core: a hit; else the line is fetched, and filled unless the hint says not to;
none while the line is busy or held (R73, R89, R287, R291). DESIGN CHOICE: which requests the hints make, and that a slice which may
fill no way of the cluster makes those of no fill (notes/assumptions/100.md). -/
def Block.cacheRead (b : Block) (a : Agent) (i key k hint : Nat) : Block × Option LineAns :=
  let line := k / 128
  let home := Agent.uncached (agentSlice a) i
  match b.coh.lineOf a line with
  | some l => (b.useLine a line false, some (.data (lineBytes l.data)))
  | none =>
    if hint == 1 || b.noWays a then
      match b.homeTurn home line false with
      | (b, false) => (b, none)
      | (b, true) =>
        match b.whole home line key .uncrd with
        | (b, .value d) => (b, some (.data (lineBytes d)))
        | (b, .poison) => (b, some .poison)
        | (b, .nothing) => (b, none)
    else
      match b.readLine a line key with
      | .wait b => (b, none)
      | .bad b => (b, some .poison)
      | .ok b l => (if hint == 2 then b.useLine a line true else b, some (.data (lineBytes l.data)))

/-- A write within one line through a cluster cache, for a core or another agent: in a line that the cache owns or takes for it, or
past the cache at the home where the hint says not to allocate; it waits, and the answer says so, while the line is busy or held. A
poisoned line takes no part of a write (R298). -/
def Block.cacheWrite (b : Block) (a : Agent) (core key k hint : Nat) (bs : List Byte) : Block × Bool :=
  let line := k / 128
  let d := bytesLine bs
  let home := Agent.uncached (agentSlice a) core
  let owned := b.ownsLine a line
  if b.writesPast a line hint then
    match b.homeTurn home line true with
    | (b, false) => (b, false)
    | (b, true) => ((b.whole home line key (if bs.length == 128 then .wrline false d else .uncwr (k % 128) bs)).1, true)
  else if bs.length == 128 && !owned && b.lineFree a line && !(b.coh.waiting.any fun w => w.agent == a && w.line == line) then
    let (b, _) := b.whole a line key (.wrline true d)
    (if hint == 2 then b.useLine a line true else b, true)
  else
    match b.ownLine a line key with
    | .wait b => (b, false)
    | .bad b => (b, true)
    | .ok b l =>
      let b := b.storeIn l (k % 128) bs none
      (if hint == 2 && !owned then b.useLine a line true else b, true)

/-- A write through a window within one line; beyond the edge, or without a valid window, it is discarded. DESIGN CHOICE: a write
through a valid window whose WRITE is 0 is discarded with WINDOW_INVALID (notes/assumptions/108.md). -/
def Block.wrWinLine (b : Block) (m : Maker) (c w off hint : Nat) (bs : List Byte) : Block × Nat :=
  let x := b.win c w
  if x.status != 1 || !x.write then (b, cWindowInvalid)
  else
    let inside := bs.take (x.len - off)
    let code := if inside.length < bs.length then cWindowEdge else 0
    if inside.isEmpty then (b, code)
    else
      let b := b.touchCtx c
      match b.winTr c w (x.base + off) true with
      | .dev a key _ =>
        let home := b.clusterOf m.point
        let need := needLine (x.base + off) (if b.writesPast home (gaKey a / 128) hint then 4 else 5)
        if !b.ownsLine home (gaKey a / 128) && !b.hasPassed m.point c (x.base + off) then (b, need)
        else
          match b.cacheWrite home m.point (b.keyGen key) (gaKey a) hint inside with
          | (b, false) => (b, need)
          | (b, true) => (b.patchLines c (x.base + off) inside, code)
      | .remote a => ((b.patchLines c (x.base + off) inside).remoteWrite (b.ctx c).slice m (.window c (x.base + off)) a inside, code)
      | .poison => (b, cEccUncorr)
      | _ => (b, cWindowInvalid)

/-- The operation that ATOMIC names for an atomic of a unit, on an element `i` bytes into its 8 bytes: the operation, its operand
and the second one. DESIGN CHOICE: the second operand of an FP32 add is the element's byte within the 8 that the address names
(R442; notes/assumptions/106.md). -/
def unitAtomic (op : AtomicOp) (i : Nat) : Option (Nat × Nat) :=
  match op with
  | .gradAdd => some (3, i)
  | _ => none

/-- ATOMIC to another instance (R442). -/
def Block.remoteAtomic (b : Block) (n : Nat) (m : Maker) (u : RemoteUse) (a op x y : Nat) : Block :=
  let (b, tag) := b.takeTag u (b.portTo n a)
  b.sendFlit n m (b.portTo n a) a (b.sliceFlit n 0x05 tag (toLe 8 (a / 8 * 8) ++ toLe 8 op ++ toLe 8 x ++ toLe 8 y))

/-- An atomic on 8 bytes or less behind a window: at the home of its line, which it waits for, or at the shim of another instance,
by ATOMIC (R50, R168, R293, R442); none where the place is no such memory, or ATOMIC has no such operation. -/
def Block.winAtomic (b : Block) (core label c aw off : Nat) (op : AtomicOp) (v : Dword) : Option (Block × List Nat) :=
  let x := b.win c (awWin aw)
  let o := awOff aw + off
  if !awWindow aw || x.status != 1 || !x.write || x.len < o + atomicBytes op then none
  else
    let b := b.touchCtx c
    match b.winTr c (awWin aw) (x.base + o) true with
    | .remote a =>
      (unitAtomic op (a % 8)).map fun k =>
        (b.remoteAtomic (b.ctx c).slice { label := label, point := core } (.window c (x.base + o)) a k.1 v.toNat k.2, [])
    | .dev a key _ =>
      match if b.hasPassed core c (x.base + o) then b.homeTurn (b.clusterOf core) (gaKey a / 128) true else (b, false) with
      | (b, false) => some (b, [needLine (x.base + o) 4])
      | (b, true) =>
        match b.homeAtomic (b.keyGen key) (gaKey a) op v 0 with
        | (b, none) => some (b, [cEccUncorr])
        | (b, some old) =>
          some (b.patchLines c (x.base + o) (toLe (atomicBytes op) (atomicNew op old v.toNat 0)), [])
    | _ => none

/-- A write at an address word plus an offset, under a class label, with the codes it gives. -/
def Block.wrOperand (b : Block) (core label c aw off : Nat) (bs : List Byte) : Block × List Nat :=
  (lineChunks (bs.length + 1) (awOff aw + off) bs).foldl (fun (b, codes) x =>
    if awWindow aw then
      let (b, k) := b.wrWinLine { label := label, point := core } c (awWin aw) x.1 (awHint aw) x.2
      (b, if k == 0 || codes.contains k then codes else codes ++ [k])
    else (b.modCore core fun z => z.wrLineS x.1 x.2, codes)) (b, [])

/-- A request for memory of a unit of a core. -/
def PortReq.isOf (x : PortReq) (core unit : Nat) : Bool := x.by_.point == core && match x.what with
  | .mem u _ _ => u == unit
  | .walk u _ _ => u == unit
  | _ => false

/-- The lines that a unit of a core has read, and the requests it has waiting or outstanding, are no longer its own. -/
def Block.dropLines (b : Block) (core unit : Nat) : Block :=
  let b := if b.ports.waiting.any fun x => x.isOf core unit then
      b.modPorts fun p => { p with waiting := p.waiting.filter fun x => !x.isOf core unit }
    else b
  let old := (b.ports.remote.filter fun u => match u.2 with
    | .winRead c k _ _ => c == core && k == unit
    | .winTake c k _ _ => c == core && k == unit
    | _ => false).map (·.1)
  let b := old.foldl Block.dropTag b
  if b.ports.winLines.any fun l => l.core == core && l.unit == unit then
    b.modPorts fun p => { p with winLines := p.winLines.filter fun l => !(l.core == core && l.unit == unit) }
  else b

/-- A line has come for a unit of a core (R206, R276). -/
def Block.gotLine (b : Block) (core unit c va : Nat) (ans : LineAns) : Block :=
  b.modPorts fun p =>
    { p with winLines := p.winLines ++ [{ core := core, unit := unit, ctx := c, line := va / 128, ans := ans }] }

/-- RD of a remote line for a unit, under a class label, unless one is outstanding. -/
def Block.askLine (b : Block) (core unit label c va : Nat) : Block :=
  if b.ports.remote.any fun u => u.2 == .winRead core unit c va then b
  else
    match b.winTr c ((b.winAt c va).getD 8) va false with
    | .remote a => (b.remoteRead (b.ctx c).slice { label := label, point := core } (.winRead core unit c va) a 128).1
    | _ => b

/-- The record of 8 bytes that one access reads and zeroes, behind a window (R175): at the home of its line once that is free, or at
another instance by its swap. -/
def Block.serveTake (b : Block) (core unit label c va : Nat) : Block :=
  let got (b : Block) (v code : Nat) : Block := b.gotLine core unit c va (.taken va v code)
  match b.winTr c ((b.winAt c va).getD 8) va true with
  | .remote a =>
    if b.ports.remote.any fun u => u.2 == .winTake core unit c va then b
    else b.remoteAtomic (b.ctx c).slice { label := label, point := core } (.winTake core unit c va) a 1 0 0
  | .dev a key _ =>
    match b.homeTurn (b.clusterOf core) (gaKey a / 128) true with
    | (b, false) => b
    | (b, true) =>
      match b.homeAtomic (b.keyGen key) (gaKey a) (.swap true) 0 0 with
      | (b, none) => got b (leNat ((List.range 8).map fun i => b.openByte (gaKey a + i))) cEccUncorr
      | (b, some old) => got (b.patchLines c va (toLe 8 0)) old 0
  | _ => got b 0 cWindowInvalid

/-- A line that an access of a unit waits for: a remote one is asked for; one of this instance comes through the cluster cache,
where it is not there once the request has passed its regulation points and the line is free. -/
def Block.serveLine (b : Block) (core unit label c need : Nat) : Block :=
  let va := need / 8
  let b := b.touchCtx c
  let m : Maker := { label := label, point := core }
  match b.winTr c ((b.winAt c va).getD 8) va (3 ≤ need % 8) with
  | .remote _ => if need % 8 == 3 then b.serveTake core unit label c va else b.askLine core unit label c (va / 128 * 128)
  | .dev a key _ =>
    let line := gaKey a / 128
    let hit := (need % 8 < 3 && (b.coh.lineOf (b.clusterOf core) line).isSome) || (need % 8 == 5 && b.ownsLine (b.clusterOf core) line)
    if !hit && !b.hasPassed core c va then b.askMem (b.core core).owner m unit c (va / 128 * 128) line
    else if need % 8 == 3 then b.serveTake core unit label c va
    else if need % 8 == 4 then (b.homeTurn (b.clusterOf core) line true).1
    else if need % 8 == 5 then
      match b.ownLine (b.clusterOf core) line (b.keyGen key) with
      | .wait b => b
      | .bad b => b
      | .ok b _ => b
    else
      match b.cacheRead (b.clusterOf core) core (b.keyGen key) (gaKey a) (need % 8) with
      | (b, none) => b
      | (b, some ans) => b.gotLine core unit c va ans
  | _ => if need % 8 == 3 then b.serveTake core unit label c va else b

/-- The accesses of a unit of a core through its windows (R206, R276): where they meet lines still to come, those are served, and
the accesses are made again with what has come. -/
def Block.attemptFrom (core unit label : Nat) (wait f : Block → Block) : Nat → Block → Block
  | 0, b => wait b
  | n + 1, b =>
    let b1 := f b
    if b1.ports.wanted.isEmpty then b1.dropLines core unit
    else
      let b2 := b1.ports.wanted.eraseDups.foldl (fun b x => b.serveLine core unit label x.1 x.2) b
      if b2.ports.winLines.length ≤ b.ports.winLines.length then wait b2 else Block.attemptFrom core unit label wait f n b2

/-- No access has met a line still to come. -/
def Block.noWants (b : Block) : Block := b.modPorts fun p => { p with wanted := [] }

/-- While a line that it needs has not come, the command has no effect but `wait`, until its next turn. -/
def Block.attemptOr (b : Block) (core unit label : Nat) (wait f : Block → Block) : Block :=
  Block.attemptFrom core unit label wait f 8 b.noWants

def Block.attempt (b : Block) (core unit label : Nat) (f : Block → Block) : Block := b.attemptOr core unit label id f

end Sys2Proof.Machine
end

