-- ==== Sys2Proof/Machine/Operands.lean ====
section
/-! DEFINITION. The operand forms: the engine op descriptor with its operands and extents (R39 to R41, R61, R72, R73), tag and
mask blocks (R128, R157), load lists (R134, R135), vector instructions (R84) and ring entries (R241). -/

namespace Sys2Proof.Machine

/-- Word k of a list of 64-bit words. -/
def wd (d : List Dword) (k : Nat) : Nat := (d.getD k 0).toNat

/-! ### The engine op descriptor (R72) -/

def dOpcode (d : List Dword) : Nat := fld (wd d 0) 63 60
def dSfmt (d : List Dword) : Nat := fld (wd d 0) 59 57
def dRfmt (d : List Dword) : Nat := fld (wd d 0) 56 54
def dOfmt (d : List Dword) : Nat := fld (wd d 0) 53 51
def dTranspose (d : List Dword) : Bool := bit (wd d 0) 50
def dRsrc (d : List Dword) : Bool := bit (wd d 0) 49
def dBank (d : List Dword) : Nat := fld (wd d 0) 48 48
def dAccMode (d : List Dword) : Nat := fld (wd d 0) 47 46
def dWaxis (d : List Dword) : Bool := bit (wd d 0) 45
def dRmode (d : List Dword) : Bool := bit (wd d 0) 44
def dAdapt (d : List Dword) : Bool := bit (wd d 0) 43
def dMask (d : List Dword) : Bool := bit (wd d 0) 42
def dHist (d : List Dword) : Bool := bit (wd d 0) 41
def dAmax (d : List Dword) : Bool := bit (wd d 0) 40
def dRows (d : List Dword) : Nat := fld (wd d 0) 38 32
def dTiles (d : List Dword) : Nat := fld (wd d 0) 23 0
def dSeg (d : List Dword) : Nat := fld (wd d 1) 27 27
def dTileFirst (d : List Dword) : Nat := fld (wd d 1) 26 0
def dStrPitch (d : List Dword) : Nat := fld (wd d 11) 63 40
def dOutPitch (d : List Dword) : Nat := fld (wd d 11) 39 16
def dResStride (d : List Dword) : Nat := fld (wd d 12) 63 32
def dResPitch (d : List Dword) : Nat := fld (wd d 12) 31 8

/-- The op writes out: WRITEOUT and MATMUL with OFMT other than 7. -/
def dWrites (d : List Dword) : Bool := (dOpcode d == 1 || dOpcode d == 2) && dOfmt d != 7

/-- The op converts to a narrow format. -/
def dNarrowOut (d : List Dword) : Bool := dWrites d && dOfmt d ≤ 2

/-- The op rounds stochastically: it converts with RMODE 1 (R48, R49). -/
def dSto (d : List Dword) : Bool := dWrites d && dOfmt d ≤ 3 && dRmode d

/-- Bytes of n elements of a format code along a row (R40, R41, R73). -/
def elemBytes (fmt n : Nat) : Nat :=
  match fmt with
  | 0 => n / 2
  | 1 => n * 3 / 4
  | 2 => n
  | 3 => 2 * n
  | _ => 4 * n

/-- Passes and clocks per row of an operand pair (R58). -/
def pairClocks (s r : Nat) : Nat := if s == 3 || r == 3 then 4 else if s == 0 || r == 0 then 1 else 2

/-- Clocks of loading a resident tile from the scratchpad (R63). -/
def loadClocks (r : Nat) : Nat :=
  match r with
  | 0 => 9
  | 1 => 13
  | 2 => 17
  | _ => 32

/-- Rows of an output plane (R71). -/
def dOutRows (d : List Dword) : Nat := if dWaxis d then 64 else dRows d

/-- Elements of an output row (R71). -/
def dOutCols (d : List Dword) : Nat := if dWaxis d then dRows d else 64

/-- The address words that an op uses, each with the extent in bytes that it would read or write (R61, R70 to R74), and the
alignment of its OFFSET. -/
def dUses (d : List Dword) : List (Nat × Nat × Nat) :=
  let op := dOpcode d
  let mm := op == 1
  let n := dRows d
  let t := dTiles d
  let plane (fmt pitch rows cols : Nat) : Nat := elemBytes fmt ((rows - 1) * pitch) + elemBytes fmt cols
  let scales (pitch rows cols : Nat) : Nat := (rows - 1) * pitch / 32 + (cols + 31) / 32
  (if mm && !dRsrc d then
    [(wd d 1, if dRfmt d == 0 then (t - 1) * dResStride d + 2052 else plane (dRfmt d) (dResPitch d) 64 (64 * t), 128)]
   else []) ++
  (if mm then [(wd d 2, if dSfmt d == 0 then (t - 1) * dStrPitch d + 2052 else plane (dSfmt d) (dStrPitch d) n (64 * t), 128)]
   else []) ++
  (if mm && (dSfmt d == 1 || dSfmt d == 2) then [(wd d 3, scales (dStrPitch d) n (64 * t), 128)] else []) ++
  (if dWrites d then
    [(wd d 4, if dOfmt d == 0 then 2052 else plane (dOfmt d) (dOutPitch d) (dOutRows d) (dOutCols d), 128)] else []) ++
  (if dWrites d && (dOfmt d == 1 || dOfmt d == 2) then [(wd d 5, scales (dOutPitch d) (dOutRows d) (dOutCols d), 128)]
   else []) ++
  (if (mm || op == 3) && dAccMode d == 2 then [(wd d 6, plane 4 (dOutPitch d) n 64, 128)] else []) ++
  (if dAmax d && dNarrowOut d then [(wd d 7, 8, 8)] else []) ++
  (if dHist d && (mm || op == 2) then [(wd d 8, 72, 8)] else []) ++
  (if mm && !dRsrc d && (dRfmt d == 1 || dRfmt d == 2) then [(wd d 13, scales (dResPitch d) 64 (64 * t), 128)] else [])

/-- A fault of condition 7 in one address word. -/
def awFault (u : Nat × Nat × Nat) : Bool :=
  awOff u.1 % u.2.2 != 0 || (!awWindow u.1 && scratchEnd < awOff u.1 + u.2.1)

/-- The first condition of R74 that an op breaks (0: none); `minSp` is the smallest tile spacing of the segment in whole
clocks, none where the active map has no run of it. -/
def opCheck (d : List Dword) (minSp : Option Nat) : Nat :=
  let op := dOpcode d
  let mm := op == 1
  let wo := mm || op == 2
  if op == 0 || 4 < op || (mm && (3 < dSfmt d || 3 < dRfmt d)) || (wo && (dOfmt d == 5 || dOfmt d == 6)) ||
      (mm && dAccMode d == 3) || (op == 3 && dAccMode d != 2) then 1
  else if mm && dTranspose d && (dRfmt d == 1 || dRfmt d == 2) then 2
  else if mm && dRsrc d && ((dRfmt d != 0 && dRfmt d != 3) || awWindow (wd d 2)) then 3
  else if dRows d == 0 || 64 < dRows d then 4
  else if mm && dRsrc d && (match minSp with
      | none => false
      | some m => decide (m < dRows d * pairClocks (dSfmt d) (dRfmt d))) then 5
  else if wo && ((dOfmt d == 0 && dRows d != 64) ||
      ((dOfmt d == 1 || dOfmt d == 2) && dWaxis d && dRows d != 32 && dRows d != 64)) then 6
  else if (dUses d).any awFault || (mm && dSfmt d == 0 && (dStrPitch d % 128 != 0 || dStrPitch d < 2176)) then 7
  else 0

/-! ### Elements of operands -/

/-- An element of a 2,052-byte Q4m tile with its scale (R39). -/
def q4Elem (tile : List OpByte) (i j : Nat) : Oper :=
  let x := tile.getD ((64 * i + j) / 2) { val := 0, bad := false, code := 0 }
  let s := tile.getD (2048 + 2 * (i / 32) + j / 32) { val := 0, bad := false, code := 0 }
  let code := if j % 2 == 0 then x.val.toNat % 16 else x.val.toNat / 16
  { val := elemVal .q4m code, exp := if x.bad || s.bad then none else scaleExp s.val.toNat, bf := false }

/-- Element k of a row of an element plane, from the row's bytes; Q6m packs four elements into three bytes (R40). -/
def q6Code (row : List Nat) (k : Nat) : Nat :=
  let g := k / 4 * 3
  (row.getD g 0 + 256 * row.getD (g + 1) 0 + 65536 * row.getD (g + 2) 0) >>> (6 * (k % 4)) % 64

/-- Element k of a row with `fmt` 1 Q6m, 2 Q8m or 3 BF16, from the row's element and scale bytes; `keep` keeps BF16
subnormals, as the gradient sums do (R165). -/
def planeElemK (keep : Bool) (fmt : Nat) (row scales : List OpByte) (k : Nat) : Oper :=
  let z : OpByte := { val := 0, bad := false, code := 0 }
  if fmt == 3 then
    let a := row.getD (2 * k) z
    let c := row.getD (2 * k + 1) z
    if a.bad || c.bad then { val := .nan, exp := some 0, bf := true }
    else
      let v := unpackBf (a.val.toNat + 256 * c.val.toNat)
      { val := if keep then v else v.flush, exp := some 0, bf := true }
  else
    let s := scales.getD (k / 32) z
    let bad := s.bad || (if fmt == 1 then (List.range 3).any fun i => (row.getD (k / 4 * 3 + i) z).bad else (row.getD k z).bad)
    let v := if fmt == 1 then elemVal .q6m (q6Code (row.map fun x => x.val.toNat) k) else elemVal .q8m (row.getD k z).val.toNat
    { val := v, exp := if bad then none else scaleExp s.val.toNat, bf := false }

/-- An element as an engine takes it (R54). -/
def planeElem (fmt : Nat) (row scales : List OpByte) (k : Nat) : Oper := planeElemK false fmt row scales k

/-- The 64 streaming elements of row r in tile t of an op, with the codes met (R73). DESIGN CHOICE: a Q4m streaming tile is read
whole, so a failing line or a window edge among its 2,052 bytes is met whatever ROWS is (notes/assumptions/91.md). -/
def Block.strRowK (b : Block) (keep : Bool) (core ctx : Nat) (d : List Dword) (r t : Nat) : List Oper × List Nat :=
  if dSfmt d == 0 then
    let tile := b.rdOperands core ctx (wd d 2) (t * dStrPitch d) 2052
    ((List.range 64).map fun k => q4Elem tile r k, codesOf tile)
  else
    let f := dSfmt d
    let row := b.rdOperands core ctx (wd d 2) (elemBytes f (r * dStrPitch d) + elemBytes f (64 * t)) (elemBytes f 64)
    let sc := if f == 3 then [] else b.rdOperands core ctx (wd d 3) (r * dStrPitch d / 32 + 2 * t) 2
    ((List.range 64).map fun k => planeElemK keep f row sc k, codesOf (row ++ sc))

def Block.strRow (b : Block) (core ctx : Nat) (d : List Dword) (r t : Nat) : List Oper × List Nat :=
  b.strRowK false core ctx d r t

/-- The bytes of resident tile t from the scratchpad or a window, packed as a tile of its own: element plane rows of 64, then
the scale plane (R61). -/
def Block.resTile (b : Block) (core ctx : Nat) (d : List Dword) (t : Nat) : List OpByte :=
  let f := dRfmt d
  if f == 0 then b.rdOperands core ctx (wd d 1) (t * dResStride d) 2052
  else
    let rows := (List.range 64).flatMap fun j =>
      b.rdOperands core ctx (wd d 1) (elemBytes f (j * dResPitch d) + elemBytes f (64 * t)) (elemBytes f 64)
    let sc := if f == 3 then [] else (List.range 64).flatMap fun j =>
      b.rdOperands core ctx (wd d 13) (j * dResPitch d / 32 + 2 * t) 2
    rows ++ sc

/-- Element (i, j) of the tile in CUR as the op presents it: i along the reduction, j along the output (R61, R62). -/
def resElem (d : List Dword) (cur : List OpByte) (i j : Nat) : Oper :=
  let f := dRfmt d
  let (i, j) := if dTranspose d then (j, i) else (i, j)
  if f == 0 then q4Elem cur i j
  else
    let n := elemBytes f 64
    planeElem f ((cur.drop (j * n)).take n) ((cur.drop (64 * n + 2 * j)).take 2) i

/-! ### Tag blocks and mask blocks (R128, R157) -/

/-- The header and row tags, from 32 + 4 × ROWS bytes. -/
def tagBlockOf (bs : List Byte) (rows : Nat) : TagBlock :=
  let h0 := leNat (bs.take 8)
  let h1 := leNat ((bs.drop 8).take 8)
  { down := bit h0 63, up := bit h0 62, uBase := fld h0 55 48, downIndex := fld h0 23 0, upIndex := fld h1 63 40
    rows := (List.range rows).map fun r => BitVec.ofNat 32 (leNat ((bs.drop (32 + 4 * r)).take 4)) }

def tagValid (w : Word) : Bool := w.getLsbD 31
def tagSlot (w : Word) : Nat := fld w.toNat 27 20
def tagCtx (w : Word) : Nat := fld w.toNat 19 0

/-- Reserved bits of a tag block's header. -/
def tagReserved (bs : List Byte) : Bool :=
  let h0 := leNat (bs.take 8)
  fld h0 61 56 != 0 || fld h0 39 24 != 0 || fld (leNat ((bs.drop 8).take 8)) 39 0 != 0 ||
    leNat ((bs.drop 24).take 8) != 0

/-- Position (r, j) of an op with a mask is on (R159). -/
def MaskBlock.on (m : MaskBlock) (r j : Nat) : Bool :=
  match m.mode with
  | 1 => m.bits.getD r true
  | 2 => m.bits.getD (2 * (r / 32) + j / 32) true
  | _ => true

def EOp.on (o : EOp) (r j : Nat) : Bool :=
  match o.mask with
  | none => true
  | some m => m.on r j

/-- Rows of the op with any position on (R161). -/
def EOp.onRows (o : EOp) : List Nat := (List.range (dRows o.desc)).filter fun r => o.on r 0 || o.on r 32

/-! ### Vector instructions (R84) -/

def viOp (w : Nat) : Nat := fld w 63 56
def viVD (w : Nat) : Nat := fld w 55 51
def viVA (w : Nat) : Nat := fld w 50 46
def viVB (w : Nat) : Nat := fld w 45 41
def viVC (w : Nat) : Nat := fld w 40 36
def viPred (w : Nat) : Nat := fld w 35 33
def viRmode (w : Nat) : Bool := bit w 32
def viImm (w : Nat) : Nat := fld w 31 0

/-! ### Ring entries (R241) -/

def Cmd.w (c : Cmd) (k : Nat) : Nat := wd c.words k
def Cmd.opcode (c : Cmd) : Nat := fld (c.w 0) 63 56
def Cmd.overlap (c : Cmd) : Bool := bit (c.w 0) 55
def Cmd.fsig (c : Cmd) : Bool := bit (c.w 0) 54
def Cmd.fsigFence (c : Cmd) : Nat := fld (c.w 0) 47 32
def Cmd.fsigValue (c : Cmd) : Dword := BitVec.ofNat 64 (c.w 1)

/-- A placement word of an OPS body: VALID, CORE, ENGINE and DESC. -/
def plValid (w : Nat) : Bool := bit w 63
def plCore (w : Nat) : Nat := fld w 61 56
def plEngine (w : Nat) : Nat := fld w 49 48
def plDesc (w : Nat) : Nat := fld w 21 0

/-- The slice's k-th core in ascending core number (R188). -/
def Block.sliceCore (b : Block) (n k : Nat) : Option Nat := (b.coresOf n)[k]?

end Sys2Proof.Machine
end

