-- ==== Sys2Proof/Machine/Flags.lean ====
section
/-! DEFINITION. Cached translation (R205, R237), and the codes that ops of a unit give (R75, R150,
R170). -/

namespace Sys2Proof.Machine

/-- The translation of an agent whose walks are cached: a use of the context's descriptor; a failed walk is never cached (R205,
R237). -/
def Block.translate (b : Block) (c va : Nat) (write : Bool) : Block × Tr :=
  let b := b.touchCtx c
  let (r, es) := b.walk c va write
  let x := b.ctx c
  match r with
  | .fail _ _ _ => (b, r)
  | .poison => (b, r)
  | _ =>
    let cap := 32 * (b.inForce x.slice).ccache
    let new := es.map fun (l, e) =>
      ({ ctx := c, gen := x.gen, level := l, va := va / leafSpan l * leafSpan l, pte := BitVec.ofNat 64 e } : TlbEntry)
    if new.isEmpty then (b, r)
    else (b.modXlat x.slice fun z => { z with tlb := (new ++ z.tlb).take cap }, r)

/-- An access of a unit to a context address has still to walk: no cached leaf serves it, and no walk for it has had the slice's
walker slot (R205, R265). -/
def Block.mustWalk (b : Block) (point unit c va : Nat) : Bool :=
  (tlbLeaf (b.slice (b.ctx c).slice).xlat.tlb c (b.ctx c).gen va).isNone &&
    !(b.ports.winLines.any fun l => l.core == point && l.unit == unit && l.ctx == c && l.line == va / 65536 * 512 && l.ans == .walked)

/-! ### Codes of a unit's ops -/

/-- An engine op gives a code: to its context and to the unit's LAST_ERR (R75). -/
def Block.engCode (b : Block) (core eng ctx code : Nat) : Block :=
  (b.ctxCode ctx code).modEng core eng fun e => { e with lastErr := code }

def Block.vecCode (b : Block) (core ctx code : Nat) : Block :=
  (b.ctxCode ctx code).modVec core fun v => { v with lastErr := code }

/-- An op gives codes, each once in its life (R75); `seen` lists those it has given. -/
def Block.engCodes (b : Block) (core eng ctx : Nat) (seen codes : List Nat) : Block × List Nat :=
  codes.foldl (fun (b, l) k => if l.contains k then (b, l) else (b.engCode core eng ctx k, l ++ [k])) (b, seen)

/-! ### Shedding (R402) -/

/-- Engines, adapter units and vector units are parked. -/
def Block.parked (b : Block) : Bool := 4 ≤ b.power.level

/-- A slice counts as a training slice. -/
def Block.training (b : Block) (n : Nat) : Bool :=
  (b.slice n).shedTraining || (List.range 8).any fun j => (b.job n j).st == .armed || (b.job n j).st == .copying

/-- Work of a queue class of a slice is suspended at the level in force: levels 2 and 3. -/
def Block.suspended (b : Block) (n cls : Nat) : Bool :=
  (2 ≤ b.power.level && cls != 0) || (3 ≤ b.power.level && b.training n)

end Sys2Proof.Machine
end

