-- ==== Sys2Proof/Machine/Banks.lean ====
section
/-! DEFINITION. Inside an engine: the accumulator banks (R70), rows against the tile in CUR (R52, R53, R60), the write-out
(R44 to R47, R71, R160) and the order in which tickets complete (R77). -/

namespace Sys2Proof.Machine

/-! ### Accumulator banks -/

def Engine.bank (e : Engine) (k : Nat) : Tab Word := if k == 0 then e.bank0 else e.bank1

def Engine.setBank (e : Engine) (k : Nat) (t : Tab Word) : Engine :=
  if k == 0 then { e with bank0 := t } else { e with bank1 := t }

/-- Accumulator element (r, j) of a bank; an element never written reads +0.0 (R81). -/
def accGet (t : Tab Word) (r j : Nat) : Word := Tab.get 0 t (64 * r + j)
def accSet (t : Tab Word) (r j : Nat) (v : Word) : Tab Word := Tab.set 0 t (64 * r + j) v

/-- Rows 0 to n - 1 set to +0.0 (R70, R456). -/
def bankZero (t : Tab Word) (n : Nat) : Tab Word := t.filter fun x => 64 * n ≤ x.1

/-- One FP32 element from four operand bytes; an element of a failing line is the canonical NaN (R75). -/
def fp32Of (l : List OpByte) : Word :=
  if l.any (·.bad) then nan32 else BitVec.ofNat 32 (leNat (opVals l))

/-- Rows 0 to ROWS - 1 loaded as FP32 from LOAD_ADDR, with the codes met (R70). DESIGN CHOICE: the bits are kept, subnormals
and NaN payloads included, until an addition takes them (notes/assumptions/91.md). -/
def Block.bankLoad (b : Block) (core ctx : Nat) (d : List Dword) (t : Tab Word) : Tab Word × List Nat :=
  (List.range (dRows d)).foldl (fun (t, codes) r =>
    let row := b.rdOperands core ctx (wd d 6) (4 * (r * dOutPitch d)) 256
    ((List.range 64).foldl (fun t j => accSet t r j (fp32Of ((row.drop (4 * j)).take 4))) t, codes ++ codesOf row)) (t, [])

/-- The ACC_MODE action of an op on its bank. -/
def Block.accStart (b : Block) (core eng ctx : Nat) (d : List Dword) (mode : Nat) : Block × List Nat :=
  let e := b.eng core eng
  let k := dBank d
  match mode with
  | 0 => (b.modEng core eng fun x => x.setBank k (bankZero (x.bank k) (dRows d)), [])
  | 2 =>
    let (t, codes) := b.bankLoad core ctx d (e.bank k)
    (b.modEng core eng fun x => x.setBank k t, codes)
  | _ => (b, [])

/-! ### Rows against the tile in CUR -/

/-- A tile's bytes with the offsets that came from failing lines. -/
def withBad (bs : List Byte) (bad : List Nat) : List OpByte :=
  bs.zipIdx.map fun (v, i) => { val := v, bad := bad.contains i, code := 0 }

def badOf (l : List OpByte) : List Nat := (l.zipIdx.filter fun x => x.1.bad).map (·.2)

/-- One row's contribution to one accumulator element: two sub-blocks of 32 in ascending order (R52, R53). -/
def dot64 (acc : Word) (row col : List Oper) : Word :=
  let ps := row.zip col
  subBlock (subBlock acc (ps.take 32)) (ps.drop 32)

/-- The bytes that the streaming buffer holds for tile t of an op. -/
def Block.streamOf (b : Block) (core : Nat) (o : EOp) (t : Nat) : List OpByte :=
  let d := o.desc
  if dSfmt d == 0 then b.rdOperands core o.ctx (wd d 2) (t * dStrPitch d) 2052
  else o.onRows.flatMap fun r => b.rdOperands core o.ctx (wd d 2)
    (elemBytes (dSfmt d) (r * dStrPitch d) + elemBytes (dSfmt d) (64 * t)) (elemBytes (dSfmt d) 64)

/-- The op takes its rows against the tile in CUR, which is tile t of the op: every position that is on receives the row's
sub-blocks, and rows with every position off are skipped (R60, R160, R161). -/
def Block.takeRows (b : Block) (core eng : Nat) (o : EOp) (t : Nat) : Block × List Nat :=
  let e := b.eng core eng
  let cur := withBad e.cur e.curBad
  let cols := (List.range 64).map fun j => (List.range 64).map fun i => resElem o.desc cur i j
  let rows := o.onRows.map fun r => (r, b.strRow core o.ctx o.desc r t)
  let k := dBank o.desc
  let bank := rows.foldl (fun acc (r, row, _) =>
    cols.zipIdx.foldl (fun acc (col, j) => if o.on r j then accSet acc r j (dot64 (accGet acc r j) row col) else acc) acc)
    (e.bank k)
  ((b.progress core eng).modEng core eng fun x =>
    if (x.strFor.map fun k => k != o.ticket).getD false then x.setBank k bank
    else { x.setBank k bank with stream := opVals (b.streamOf core o t), strFor := none }, rows.flatMap fun x => x.2.2)

/-! ### The write-out -/

/-- Joins adjacent pieces of an output. -/
def joinRuns : List (Nat × List Byte) → List (Nat × List Byte)
  | [] => []
  | (a, x) :: l =>
    match joinRuns l with
    | (a2, y) :: l2 => if a + x.length == a2 then (a, x ++ y) :: l2 else (a, x) :: (a2, y) :: l2
    | [] => [(a, x)]

/-- Four 6-bit codes in three bytes, the first in the lowest bits (R40). -/
def packQ6 : List Nat → List Byte
  | a :: b :: c :: d :: l => toLe 3 (a + b * 64 + c * 4096 + d * 262144) ++ packQ6 l
  | _ => []

/-- Two 4-bit codes in each byte, the first in the low half (R39). -/
def packQ4 : List Nat → List Byte
  | a :: b :: l => BitVec.ofNat 8 (a + 16 * b) :: packQ4 l
  | _ => []

/-- Element codes of a plane format as bytes. -/
def packCodes (fmt : Nat) (l : List Nat) : List Byte :=
  match fmt with
  | 0 => packQ4 l
  | 1 => packQ6 l
  | _ => l.map (BitVec.ofNat 8)

/-- What a write-out needs of its op: the bank, which position output (row, element) holds, and the random numbers. -/
structure OutCtx where
  bank : Tab Word
  op : EOp
  seed : Dword
  deriving DecidableEq, Repr

/-- The accumulator position of output element k of output row o (R71). -/
def OutCtx.pos (x : OutCtx) (o k : Nat) : Nat × Nat := if dWaxis x.op.desc then (k, o) else (o, k)

def OutCtx.val (x : OutCtx) (o k : Nat) : Word := let (r, j) := x.pos o k; accGet x.bank r j
def OutCtx.on (x : OutCtx) (o k : Nat) : Bool := let (r, j) := x.pos o k; x.op.on r j

/-- r_j of the op, when it rounds stochastically (R49). -/
def OutCtx.rand (x : OutCtx) : Option (Nat → Nat) :=
  match x.op.srCtr with
  | none => none
  | some c => some (srRand x.seed c)

/-- A Q4m tile: the blocks that are on, with each piece's offset, and the amax contribution (R39, R46, R71). -/
def OutCtx.tile (x : OutCtx) : List (Nat × List Byte) × List Amax :=
  let blocks := (List.range 4).filter fun k => x.on (32 * (k / 2)) (32 * (k % 2))
  let groups := blocks.map fun k =>
    (k, convGroup .q4m x.op.histFloor x.rand ((List.range 1024).map fun m =>
      let i := 32 * (k / 2) + m / 32
      let j := 32 * (k % 2) + m % 32
      (x.val i j, 64 * i + j)))
  let rows := (List.range 64).flatMap fun i =>
    (groups.filter fun g => g.1 / 2 == i / 32).map fun g =>
      (32 * i + 16 * (g.1 % 2), packQ4 ((g.2.codes.drop (32 * (i % 32))).take 32))
  (joinRuns (rows ++ groups.map fun g => (2048 + g.1, [BitVec.ofNat 8 g.2.scale])), groups.map (·.2.stats))

/-- The groups of output row o of a Q6m or Q8m plane: group number and group, those that are on. -/
def OutCtx.groups (x : OutCtx) (f : Fmt) (o : Nat) : List (Nat × Group) :=
  ((List.range (dOutCols x.op.desc / 32)).filter fun g => x.on o (32 * g)).map fun g =>
    (g, convGroup f x.op.histFloor x.rand ((List.range 32).map fun k =>
      (x.val o (32 * g + k), o * dOutCols x.op.desc + 32 * g + k)))

/-- The BF16 or FP32 elements of output row o that are on, with their offsets along the row. -/
def OutCtx.wide (x : OutCtx) (bf : Bool) (o : Nat) : List (Nat × List Byte) :=
  joinRuns (((List.range (dOutCols x.op.desc)).filter fun k => x.on o k).map fun k =>
    if bf then (2 * k, toLe 2 (toBf true (x.rand.map fun f => f (o * dOutCols x.op.desc + k)) (x.val o k)))
    else (4 * k, toLe 4 (x.val o k).toNat))

/-- The pieces of a write-out: each as (element plane, byte offset, bytes), with the amax contributions. -/
def OutCtx.pieces (x : OutCtx) : List (Bool × Nat × List Byte) × List Amax :=
  let d := x.op.desc
  let p := dOutPitch d
  match dOfmt d with
  | 0 => let (l, s) := x.tile; (l.map fun q => (true, q.1, q.2), s)
  | 3 => ((List.range (dOutRows d)).flatMap fun o => (x.wide true o).map fun q => (true, 2 * (o * p) + q.1, q.2), [])
  | 4 => ((List.range (dOutRows d)).flatMap fun o => (x.wide false o).map fun q => (true, 4 * (o * p) + q.1, q.2), [])
  | f =>
    let fmt := if f == 1 then Fmt.q6m else Fmt.q8m
    let rows := (List.range (dOutRows d)).map fun o => (o, x.groups fmt o)
    (rows.flatMap fun (o, gs) =>
        (joinRuns (gs.map fun g => (elemBytes f (o * p) + elemBytes f (32 * g.1), packCodes f g.2.codes))).map
          (fun q => (true, q.1, q.2)) ++
        (joinRuns (gs.map fun g => (o * p / 32 + g.1, [BitVec.ofNat 8 g.2.scale]))).map fun q => (false, q.1, q.2),
      rows.flatMap fun (_, gs) => gs.map (·.2.stats))

/-- The merge into the amax record: one 8-byte atomic access (R50). -/
def Block.amaxMerge (b : Block) (core label ctx aw : Nat) (a : Amax) : Block × List Nat :=
  match b.winAtomic core label ctx aw 0 .amaxMerge a.toDword with
  | some r => r
  | none =>
  let old := b.rdOperands core ctx aw 0 8
  let v := (Amax.ofDword (BitVec.ofNat 64 (leNat (opVals old)))).merge a
  let (b, codes) := b.wrOperand core label ctx aw 0 (toLe 8 v.toDword.toNat)
  (b, codesOf old ++ codes)

/-- The write-out of an op (R71), with the codes met. DESIGN CHOICE: SR_CTR was taken at the op's acceptance (R49), SR_SEED is
read from the context here (notes/assumptions/91.md). -/
def Block.writeOut (b : Block) (core eng : Nat) (o : EOp) : Block × List Nat :=
  let d := o.desc
  let x : OutCtx := { bank := (b.eng core eng).bank (dBank d), op := o, seed := (b.ctx o.ctx).srSeed }
  let (pieces, stats) := x.pieces
  let (b, codes) := pieces.foldl (fun (b, codes) q =>
    let (b, k) := b.wrOperand core o.label o.ctx (if q.1 then wd d 4 else wd d 5) q.2.1 q.2.2
    (b, codes ++ k)) (b, [])
  if dAmax d && dNarrowOut d && !stats.isEmpty then
    let (b, k) := b.amaxMerge core o.label o.ctx (wd d 7) (stats.foldl Amax.merge Amax.zero)
    (b, codes ++ k)
  else (b, codes)

/-! ### Ops of an engine -/

/-- The op came from the core's control processor. -/
def Issuer.isHart : Issuer → Bool
  | .hart _ => true
  | .queue _ _ _ => false

def Engine.modOp (e : Engine) (ticket : Nat) (f : EOp → EOp) : Engine :=
  { e with queue := e.queue.map (fun o => if o.ticket == ticket then f o else o)
           active := e.active.map fun o => if o.ticket == ticket then f o else o }

def Block.modOp (b : Block) (core eng ticket : Nat) (f : EOp → EOp) : Block :=
  b.modEng core eng fun e => e.modOp ticket f

def Engine.op (e : Engine) (ticket : Nat) : Option EOp := (e.active ++ e.queue).find? fun o => o.ticket == ticket

/-- An op gives codes, each once in its life. -/
def Block.opCodes (b : Block) (core eng : Nat) (o : EOp) (codes : List Nat) : Block :=
  let seen := (((b.eng core eng).op o.ticket).map (·.codes)).getD o.codes
  let (b, l) := b.engCodes core eng o.ctx seen codes
  b.modOp core eng o.ticket fun x => { x with codes := l }

/-- DONE rises over tickets refused or ended early once every earlier ticket is complete (R77). -/
def Engine.settle : Nat → Engine → Engine
  | 0, e => e
  | n + 1, e =>
    let t := (e.done + 1).toNat
    if e.refused.contains t then
      Engine.settle n { e with done := e.done + 1, refused := e.refused.erase t }
    else e

def Block.settle (b : Block) (core eng : Nat) : Block := b.modEng core eng fun e => e.settle (e.refused.length + 1)

/-- A ticket without an op counts as complete when DONE reaches it (R77). -/
def Engine.refuse (e : Engine) (ticket : Nat) (hart : Bool) : Engine :=
  { e with refused := e.refused ++ [ticket]
           refusedHart := e.refusedHart.filter (fun t => e.refused.contains t) ++ (if hart then [ticket] else []) }

/-- An op that is not to be executed further: it leaves its engine, and its ticket completes in its turn. -/
def Block.endOp (b : Block) (core eng ticket : Nat) : Block :=
  ((b.progress core eng).modEng core eng fun e =>
    { (e.refuse ticket (((e.op ticket).map fun o => o.issuer.isHart).getD false)) with
        queue := e.queue.filter (fun o => o.ticket != ticket), active := e.active.filter (fun o => o.ticket != ticket) }).settle
    core eng

/-- The clocks per row at the level in force: alternate clocks for a bulk source at level 1 and above, Parade ops apart
(R58, R402). -/
def Block.rowClocks (b : Block) (o : EOp) : Nat :=
  let q := match o.issuer with
    | .queue q _ _ => some q
    | .hart l => l
  let slow := 1 ≤ b.power.level && !dRsrc o.desc && (q.map fun q => (b.queue q).cls == 2).getD false
  pairClocks (dSfmt o.desc) (dRfmt o.desc) * (if slow then 2 else 1)

/-- Latency of the last addition (R59). -/
def dLatency (d : List Dword) : Nat := if dSfmt d == 3 || dRfmt d == 3 then 6 else 4

/-- Where the sums that an op's up step holds for it stand (R139; notes/assumptions/92.md). -/
def resKey (eng ticket : Nat) : Nat := 65536 * eng + ticket

/-- The result buffer holds nothing for the op any more. -/
def Adapter.dropResults (a : Adapter) (eng ticket : Nat) : Adapter :=
  { a with results := a.results.filter (fun x => x.1 / 4096 != resKey eng ticket)
           resultRows := a.resultRows.filter fun x => x / 64 != resKey eng ticket }

/-- The op's write through a window to another instance still waits for its answer. -/
def Block.unanswered (b : Block) (o : EOp) : Bool :=
  o.sent.any fun x => Tab.find b.ports.remote x.1 == some (.window o.ctx x.2)

/-- Writes that an op makes: it keeps the requests to other instances that they send (R77). -/
def Block.tracked {α : Type} (b : Block) (core eng ticket : Nat) (f : Block → Block × α) : Block × α :=
  let (b', x) := f b
  let sent := b'.ports.remote.filterMap fun u => match u.2 with
    | .window _ va => if Tab.find b.ports.remote u.1 == some u.2 then none else some (u.1, va)
    | _ => none
  (if sent.isEmpty then b' else b'.modOp core eng ticket fun o => { o with sent := o.sent ++ sent }, x)

/-- The adapter addition of R53 to every position of the op that is on, from the sums that its own up step holds for it,
which then leave the result buffer (R139, R160). -/
def Block.adapterAdd (b : Block) (core eng : Nat) (o : EOp) : Block :=
  let k := dBank o.desc
  let ad := (b.core core).adapter
  let base := resKey eng o.ticket
  let rows := (List.range (dRows o.desc)).filter fun r => ad.resultRows.contains (64 * base + r)
  if rows.isEmpty then b
  else
    let bank := rows.foldl (fun t r => (List.range 64).foldl (fun t j =>
      if o.on r j then accSet t r j (engAdd (accGet t r j) (unpack32 (Tab.get 0 ad.results ((64 * base + r) * 64 + j)))) else t)
      t) ((b.eng core eng).bank k)
    (b.modEng core eng fun e => e.setBank k bank).modAdapter core fun a => a.dropResults eng o.ticket

/-- The op's sums and its adapter addition are made: the write-out follows, and the op waits for its completion (R71, R143).
`doneAt` is the clock in which the last element reaches its place. -/
def Block.finishOp (b : Block) (core eng : Nat) (o : EOp) : Block :=
  let d := o.desc
  let b := (b.adapterAdd core eng o).progress core eng
  let rows := if dOpcode d == 1 then o.onRows.length else dRows d
  let start := max b.time.clk o.baseAt
  if dWrites d && rows != 0 then
    let (b, codes) := b.tracked core eng o.ticket fun b => b.writeOut core eng o
    (b.modOp core eng o.ticket fun x => { x with phase := .written, doneAt := start + rows + (if dOpcode d == 1 then 6 else 5) }
      ).opCodes core eng o codes
  else b.modOp core eng o.ticket fun x =>
    { x with phase := .written, doneAt := if dOpcode d == 2 || rows == 0 then start + 1 else start }

/-- The base product is complete; the op writes out unless its up step is still to come (R143). -/
def Block.baseComplete (b : Block) (core eng : Nat) (o : EOp) (at_ : Nat) : Block :=
  let b := b.modOp core eng o.ticket fun x => { x with phase := .baseDone, baseAt := at_ }
  let o := (((b.eng core eng).op o.ticket).getD o)
  if o.upDone then b.finishOp core eng o else b

end Sys2Proof.Machine
end

