-- ==== Sys2Proof/Machine/Adapter.lean ====
section
/-! DEFINITION. The adapter unit of a core: tag blocks and load lists (R128 to R137), panels and prefetches (R133, R144 to
R149), and the down, up and transposed steps with their gradient adds (R138 to R143, R162 to R170). -/

namespace Sys2Proof.Machine

/-! ### Panels (R133) -/

def Binding.rc (x : Binding) : Nat := if x.rc64 then 64 else 32

/-- Bytes of one element of a slot's format. -/
def Binding.eb (x : Binding) : Nat := if x.fmt == 3 then 2 else 1

def Binding.panelBytes (x : Binding) : Nat :=
  if x.fmt == 3 then 128 * x.rc else 64 * x.rc + 2 * x.rc

/-- Frames per panel. -/
def Binding.need (x : Binding) : Nat := if x.fmt == 3 && x.rc64 then 2 else 1

def frameBytes : Nat := 4224

/-- The bytes of a panel in the frame store, with the marks of those that came from failing lines. -/
def Adapter.panelBytes (a : Adapter) (x : Binding) (f : Nat) : List OpByte :=
  let l := a.frames.readN (frameBytes * f) x.panelBytes
  if a.frameBad.isEmpty then l.map fun v => { val := v, bad := false, code := 0 }
  else l.zipIdx.map fun (v, i) => { val := v, bad := a.frameBad.contains (frameBytes * f + i), code := 0 }

/-- Plane row r of an A panel: rank r, 64 reduction positions. -/
def Binding.aRow (x : Binding) (keep : Bool) (p : List OpByte) (r : Nat) : List Oper :=
  let n := 64 * x.eb
  (List.range 64).map fun i =>
    planeElemK keep x.fmt ((p.drop (r * n)).take n) ((p.drop (x.rc * n + 2 * r)).take 2) i

/-- Plane row r of a B panel: output column r, RC rank positions. -/
def Binding.bRow (x : Binding) (keep : Bool) (p : List OpByte) (r : Nat) : List Oper :=
  let n := x.rc * x.eb
  (List.range x.rc).map fun j =>
    planeElemK keep x.fmt ((p.drop (r * n)).take n) ((p.drop (64 * n + r * (x.rc / 32))).take (x.rc / 32)) j

def Adapter.findPanel (a : Adapter) (slot idx : Nat) : Option Panel :=
  (a.slot slot).panels.find? fun p => p.index == idx

/-- One use of the oldest panel of an index; its frames are free after USERS uses (R146). -/
def usePanel (users idx : Nat) : List Panel → List Panel
  | [] => []
  | p :: l =>
    if p.index == idx then (if users ≤ p.uses + 1 then l else { p with uses := p.uses + 1 } :: l)
    else p :: usePanel users idx l

def Slot.useIdx (s : Slot) (idx : Nat) : Slot :=
  match s.bound with
  | none => s
  | some x => { s with panels := usePanel x.users idx s.panels }

/-! ### Steps and the rows they serve -/

def Core.stepOp (c : Core) (st : Step) : Option EOp := (c.eng st.eng).op st.ticket

def EOp.rowTags (o : EOp) : List (Nat × Word) :=
  match o.tags with
  | none => []
  | some t => (t.rows.zipIdx.filter fun x => tagValid x.1).map fun x => (x.2, x.1)

/-- Slots that the op's valid rows name, each once. -/
def EOp.slots (o : EOp) : List Nat := (o.rowTags.map fun x => tagSlot x.2).eraseDups

/-- Valid rows of the op whose slot is bound to the context they name (R129, R148). -/
def Adapter.rowsOf (a : Adapter) (o : EOp) (slot : Nat) : List Nat :=
  match (a.slot slot).bound with
  | none => []
  | some x => (o.rowTags.filter fun y => tagSlot y.2 == slot && tagCtx y.2 == x.ctx).map (·.1)

/-- Slots that a step still serves: those with a row to serve and no miss. -/
def Adapter.served (a : Adapter) (o : EOp) (st : Step) : List Nat :=
  o.slots.filter fun s => !st.missed.contains s && !(a.rowsOf o s).isEmpty

/-- Panel index of panel t of a step (R138, R139, R162). -/
def stepIndex (o : EOp) (st : Step) (t : Nat) : Nat :=
  match o.tags with
  | none => 0
  | some g => if st.up then g.upIndex else (g.downIndex + t) % 2 ^ 24

/-- Panels of a step: TILES for a down step, 1 for an up step. -/
def stepPanels (o : EOp) (st : Step) : Nat := if st.up then 1 else dTiles o.desc

/-- U entries that the op's rows use. -/
def EOp.uEntries (o : EOp) : List Nat :=
  match o.tags with
  | none => []
  | some g => o.rowTags.map fun x => g.uBase + x.1

def meets (a b : List Nat) : Bool := a.any (b.contains ·)

/-- A step of an earlier-accepted op names the slot, so a deferred change of it waits (R137). -/
def Core.namedBefore (c : Core) (seq slot : Nat) : Bool :=
  c.adapter.steps.any fun st => st.seq < seq && ((c.stepOp st).map fun o => o.slots.contains slot).getD false

/-- A step is eligible (R137, R141), but for its first needed panels. -/
def Core.readyBut (c : Core) (st : Step) (o : EOp) : Bool :=
  let a := c.adapter
  !st.arithDone &&
  (o.slots.all fun s => (a.slot s).deferred.all fun d => st.seq < d.seq) &&
  (a.steps.all fun e =>
    st.seq ≤ e.seq || e.up == st.up ||
      match c.stepOp e with
      | none => true
      | some p => !meets p.uEntries o.uEntries) &&
  (!st.up || o.downDone)

def Core.panelsHere (c : Core) (st : Step) (o : EOp) (t : Nat) : Bool :=
  (c.adapter.served o st).all fun s => (c.adapter.findPanel s (stepIndex o st t)).isSome

def Core.eligible (c : Core) (st : Step) (o : EOp) : Bool := c.readyBut st o && c.panelsHere st o st.t

/-- An op comes from a real-time queue, or from a launch of one (R141, R240). -/
def Block.realTime (b : Block) : Issuer → Bool
  | .queue q _ _ => (b.queue q).cls == 0
  | .hart (some q) => (b.queue q).cls == 0
  | .hart none => false

/-- Rank of a step (R141): an up step whose op's bank waits for it stands first, which it does once the base product is complete. -/
def Block.stepRank (b : Block) (st : Step) (o : EOp) : Nat :=
  if st.up && o.phase == .baseDone && o.baseAt ≤ b.time.clk then 1 else if b.realTime o.issuer then 2 else 3

/-- The step that the adapter unit runs next: lowest rank, then accept order (R141). -/
def Block.nextStep (b : Block) (core : Nat) : Option (Step × EOp) :=
  let c := b.core core
  let l := c.adapter.steps.filterMap fun st =>
    match c.stepOp st with
    | none => none
    | some o => if c.eligible st o then some (b.stepRank st o, st, o) else none
  (l.foldl (fun best x =>
    match best with
    | none => some x
    | some y => if x.1 < y.1 || (x.1 == y.1 && x.2.1.seq < y.2.1.seq) then some x else some y) none).map (·.2)

def Step.same (a b : Step) : Bool := a.seq == b.seq && a.up == b.up

def Block.modStep (b : Block) (core : Nat) (st : Step) (f : Step → Step) : Block :=
  b.modAdapter core fun a => { a with steps := a.steps.map fun x => if x.same st then f x else x }

/-! ### Bindings and prefetches (R134 to R137, R144) -/

/-- The run of the active map that carries a tile, and the nominal phase of the tile (R114, R116). -/
def Block.nominalPhase (b : Block) (seg tile : Nat) : Option Nat :=
  (b.parade.map.runs.find? fun r => r.seg == seg && r.tileFirst ≤ tile && tile < r.tileFirst + r.count).map fun r =>
    r.start + (tile - r.tileFirst) * r.spacing / 512 * (65536 * 10 ^ 9) / max 1 (b.time.computeHz * b.time.lenNs)

/-- F of a prefetch, or none where no run carries its tile (R144). -/
def Block.fireOf (b : Block) (p : Pref) : Option Nat :=
  (b.nominalPhase p.seg p.tile).map fun t => (t + 65536 - p.lead) % 65536

/-- Computes P_T of prefetches anew, counting those that find no run (R144). -/
def Block.aimPrefs (b : Block) (core : Nat) (l : List Pref) : Block × List Pref :=
  let l := l.map fun p => { p with fireAt := b.fireOf p }
  let k := (l.filter fun p => p.fireAt.isNone).length
  let n := (b.core core).owner
  (if k == 0 || n == 0 then b else b.modCnt n fun c => { c with prefetchNoTile := min max32 (c.prefetchNoTile + k) }, l)

/-- The end of a binding: its frames, prefetches and panels go (R137). -/
def Adapter.unbind (a : Adapter) (slot : Nat) : Adapter :=
  { a.modSlot slot fun s => { s with bound := none, panels := [], prefs := [], owed := [] } with
    fires := a.fires.filter fun f => f.slot != slot }

/-- Deferred changes of a slot take effect in order, each once no earlier-accepted step names the slot (R137). DESIGN CHOICE: the
PREFETCH entries behind a deferred BIND have their P_T computed, and PREFETCH_NOTILE counted, when the BIND takes effect
(notes/assumptions/110.md). -/
def Block.settleSlot (core slot : Nat) : Nat → Block → Block
  | 0, b => b
  | n + 1, b =>
    let c := b.core core
    match (c.adapter.slot slot).deferred with
    | [] => b
    | d :: rest =>
      if c.namedBefore d.seq slot then b
      else
        let b := b.modAdapter core fun a => a.unbind slot
        let (b, prefs) := b.aimPrefs core d.prefs
        let b := b.modAdapter core fun a => a.modSlot slot fun s => { s with bound := d.bind, prefs := prefs, deferred := rest }
        Block.settleSlot core slot n b

def Block.settleSlots (b : Block) (core : Nat) (slots : List Nat) : Block :=
  slots.foldl (fun b s => Block.settleSlot core s ((((b.core core).adapter.slot s).deferred.length) + 1) b) b

/-- Steps leave the unit; deferred changes that waited for them follow. -/
def Block.dropSteps (b : Block) (core : Nat) (gone : Step → Bool) : Block :=
  (b.modAdapter core fun a => { a with steps := a.steps.filter fun st => !gone st }).settleSlots core
    (Tab.keys (b.core core).adapter.slots)

/-! ### The load list (R134 to R137) -/

/-- The binding that a BIND entry asks for. -/
def bindOf (w0 w1 w2 : Nat) : Binding :=
  { ctx := fld w0 19 0, fmt := fld w0 51 49, rc64 := bit w0 48, users := fld w0 47 44, alpha := BitVec.ofNat 32 (fld w1 63 32)
    missLimit := fld w1 31 16, frameBase := fld w2 25 16, frames := fld w2 9 0 + 1 }

def Binding.overlaps (a b : Binding) : Bool :=
  a.frameBase < b.frameBase + b.frames && b.frameBase < a.frameBase + a.frames

/-- Rings of a slot: that of its binding and those of its deferred BINDs. -/
def Slot.rings (s : Slot) : List Binding := s.bound.toList ++ s.deferred.filterMap (·.bind)

/-- A context number within the slice's range (R230). -/
def Block.ctxInRange (b : Block) (n c : Nat) : Bool :=
  let r := (b.slice n).ctxr
  r.first ≤ c && c < r.first + r.count

/-- Case 4 of R136, with the entry's reserved fields. -/
def Block.bindRefused (b : Block) (core slot : Nat) (x : Binding) (w0 w1 w2 w3 : Nat) : Bool :=
  let c := b.core core
  fld w0 43 20 != 0 || fld w1 15 0 != 0 || fld w2 63 26 != 0 || fld w2 15 10 != 0 || w3 != 0 ||
    (x.fmt != 2 && x.fmt != 3) || x.users == 0 || x.missLimit == 0 || 1024 < x.frameBase + x.frames ||
    (x.fmt == 3 && x.rc64 && x.frames % 2 == 1) || !b.ctxInRange c.owner x.ctx ||
    (c.adapter.slots.any fun y => y.1 != slot && y.2.rings.any fun z => z.overlaps x)

/-- The binding that a PREFETCH of a slot applies to: the last deferred one, else the one in effect (R137). -/
def Slot.target (s : Slot) : Option Binding :=
  match s.deferred.getLast? with
  | some d => d.bind
  | none => s.bound

def Slot.activePrefs (s : Slot) : List Pref :=
  match s.deferred.getLast? with
  | some d => d.prefs
  | none => s.prefs

/-- Case 5 of R136, with the entry's reserved fields. -/
def prefRefused (s : Slot) (w0 w1 w2 w3 : Nat) : Bool :=
  fld w0 49 48 != 0 || fld w0 43 27 != 0 || fld w2 57 48 != 0 || fld w3 63 32 != 0 ||
    match s.target with
    | none => true
    | some x => fld w1 23 0 == 0 || fld w3 31 0 < x.panelBytes || fld w3 31 0 % 64 != 0 || 4 ≤ s.activePrefs.length

/-- One entry of a load list; the flag says whether it was refused. -/
def Block.loadEntry1 (b : Block) (core seq : Nat) (bs : List Byte) : Block × Bool :=
  let w i := leNat ((bs.drop (8 * i)).take 8)
  let slot := fld (w 0) 59 52
  let s := (b.core core).adapter.slot slot
  let defer (b : Block) (x : Option Binding) : Block :=
    (b.modAdapter core fun a => a.modSlot slot fun s =>
      { s with deferred := s.deferred ++ [{ seq := seq, bind := x, prefs := [] }] }).settleSlots core [slot]
  match fld (w 0) 63 60 with
  | 0 => (b, false)
  | 1 =>
    let x := bindOf (w 0) (w 1) (w 2)
    if b.bindRefused core slot x (w 0) (w 1) (w 2) (w 3) then (b, true) else (defer b (some x), false)
  | 2 => if fld (w 0) 51 0 != 0 || w 1 != 0 || w 2 != 0 || w 3 != 0 then (b, true) else (defer b none, false)
  | 3 =>
    if prefRefused s (w 0) (w 1) (w 2) (w 3) then (b, true)
    else
      let p : Pref :=
        { seq := (b.core core).adapter.seq + 1, loop := bit (w 0) 51, seg := fld (w 0) 50 50, cls := fld (w 0) 47 44
          tile := fld (w 0) 26 0, lead := fld (w 1) 63 48, first := fld (w 1) 47 24, count := fld (w 1) 23 0
          src := BitVec.ofNat 64 (w 2), pitch := fld (w 3) 31 0, fireAt := none, once := false, firedIn := none }
      let b := b.modAdapter core fun a => { a with seq := a.seq + 1 }
      match s.deferred with
      | [] =>
        let (b, l) := b.aimPrefs core [p]
        (b.modAdapter core fun a => a.modSlot slot fun s => { s with prefs := s.prefs ++ l }, false)
      | _ =>
        (b.modAdapter core fun a => a.modSlot slot fun s =>
          { s with deferred := s.deferred.dropLast ++ (s.deferred.getLast?.map fun d => { d with prefs := d.prefs ++ [p] }).toList },
          false)
  | _ => (b, true)

/-- ADAPT_LOAD: a refused header or entry (R136, R151). -/
def Block.adaptLoad (b : Block) (core eng ctx : Nat) : Block :=
  let n := (b.core core).owner
  let b := b.engCode core eng ctx cAdaptLoad
  if n == 0 then b else b.modCnt n fun c => { c with adaptLoadRefused := up32 c.adaptLoadRefused }

/-- A header refused by cases 1 to 3 of R136. -/
def headerRefused (aw rows : Nat) (bs : List Byte) : Bool :=
  let h0 := leNat (bs.take 8)
  let ll := leNat ((bs.drop 16).take 8)
  let n := fld h0 47 40
  awOff aw % 128 != 0 || (!awWindow aw && scratchEnd < awOff aw + 32 + 4 * rows) || tagReserved bs ||
    256 < fld h0 55 48 + rows ||
    (n != 0 && (awOff ll % 128 != 0 || fld ll 57 48 != 0 || (!awWindow ll && scratchEnd < awOff ll + 32 * n)))

/-- The adapter unit reads an accepted op's tag block and applies its load list, once (R130); none: no adapter work. -/
def Block.readTags (b : Block) (core eng ctx : Nat) (d : List Dword) : Block × Option TagBlock × List Nat :=
  let aw := wd d 9
  let raw := b.rdOperands core ctx aw 0 (32 + 4 * dRows d)
  let bs := opVals raw
  if headerRefused aw (dRows d) bs then (b.adaptLoad core eng ctx, none, codesOf raw)
  else
    let seq := (b.core core).adapter.seq + 1
    let b := b.modAdapter core fun a => { a with seq := seq }
    let ll := leNat ((bs.drop 16).take 8)
    let (b, codes) := (List.range (fld (leNat (bs.take 8)) 47 40)).foldl (fun (b, codes) i =>
      let entry := b.rdOperands core ctx ll (32 * i) 32
      let (b, no) := b.loadEntry1 core seq (opVals entry)
      (if no then b.adaptLoad core eng ctx else b, codes ++ codesOf entry)) (b, codesOf raw)
    (b, some (tagBlockOf bs (dRows d)), codes)

/-- The steps of an accepted op (R128, R162). -/
def stepsOf (o : EOp) (eng : Nat) : List Step :=
  match o.tags with
  | none => []
  | some g =>
    let mk (up : Bool) : Step :=
      { seq := o.seq, eng := eng, ticket := o.ticket, up := up, transposed := dTranspose o.desc, t := 0, missed := [], busy := 0
        busyEnd := 0, started := false, arithDone := false, doneAt := 0, waits := [], uRows := [], part := [] }
    (if g.down then [mk false] else []) ++ (if g.up then [mk true] else [])

/-! ### The arithmetic of a step -/

/-- U entry e, value j. -/
def Adapter.uGet (a : Adapter) (e j : Nat) : Word := Tab.get 0 a.u (64 * e + j)

/-- Every sub-block of a transposed step uses the BF16 arithmetic (R162). -/
def asBf (l : List Oper) : List Oper := l.map fun o => { o with bf := true }

/-- An FP32 value as an operand of a transposed step (R164). -/
def operOf (w : Word) : Oper := { val := (unpack32 w).flush, exp := some 0, bf := true }

/-- u converted to the slot's format for the up step (R139). -/
def Binding.convU (x : Binding) (u : List Word) : List Oper :=
  if x.fmt == 3 then (u.take x.rc).map fun w => { val := (unpackBf (toBf true none w)).flush, exp := some 0, bf := true }
  else
    (List.range (x.rc / 32)).flatMap fun g =>
      let q := convGroup .q8m none none (((u.drop (32 * g)).take 32).map fun w => (w, 0))
      q.codes.map fun c => { val := elemVal .q8m c, exp := scaleExp q.scale, bf := false }

/-- Sub-blocks of 32 in ascending order. -/
def dotSub : Nat → Word → List (Oper × Oper) → Word
  | 0, acc, _ => acc
  | n + 1, acc, ps => if ps.isEmpty then acc else dotSub n (subBlock acc (ps.take 32)) (ps.drop 32)

/-- ALPHA times a sum, one rounding (R139, R163). -/
def alphaMul (alpha c : Word) : Word := engRound ((unpack32 alpha).flush.mul (unpack32 c))

/-- Partial sums of a step for one row from one panel: rank or column k from 0 on, as (k, new sum). -/
def rowSums (x : Binding) (st : Step) (p : List OpByte) (row : List Oper) (u : List Word) (old : Nat → Word) :
    List (Nat × Word) :=
  match st.up, st.transposed with
  | false, false => (List.range x.rc).map fun j => (j, dotSub 2 (old j) (row.zip (x.aRow false p j)))
  | false, true =>
    let cols := (List.range 64).map fun n => x.bRow false p n
    (List.range x.rc).map fun j =>
      (j, dotSub 2 (old j) ((asBf row).zip (asBf (cols.map fun c => c.getD j { val := .nan, exp := none, bf := true }))))
  | true, false =>
    let us := x.convU u
    (List.range 64).map fun n => (n, alphaMul x.alpha (dotSub 2 (old n) (us.zip (x.bRow false p n))))
  | true, true =>
    let rows := (List.range x.rc).map fun j => x.aRow false p j
    (List.range 64).map fun k =>
      (k, dotSub 2 (old k) (((u.take x.rc).map operOf).zip
        (asBf (rows.map fun r => r.getD k { val := .nan, exp := none, bf := true }))))

/-- A product of a gradient sum: exact, but infinite above the largest finite FP32 magnitude (R54, R165). -/
def gradMul (a b : Fp) : Fp :=
  match unpack32 (vecRound (a.mul b)) with
  | .inf neg => .inf neg
  | _ => a.mul b

/-- A gradient sum over rows: products exact, each addition rounded with subnormals kept (R165). DESIGN CHOICE: the sum starts from
the exact first product, and not from +0.0 (notes/assumptions/105.md). -/
def gradSum : List (Fp × Fp) → Fp
  | [] => .num false 0 0
  | (a, b) :: l => l.foldl (fun s p => unpack32 (vecRound (s.add (gradMul p.1 p.2)))) (gradMul a b)

/-- Where panel p of a slot's gradient area lies: the area's address word and byte offset; `some none` where the index lies
outside the area, none where the area is empty (R167). -/
def gradPlace (entry : List Byte) (rc p : Nat) : Option (Option (Nat × Nat)) :=
  let w1 := leNat ((entry.drop 8).take 8)
  let q := (p + 2 ^ 24 - fld w1 63 40) % 2 ^ 24
  if fld w1 39 16 == 0 then none
  else if fld w1 39 16 ≤ q then some none
  else some (some (leNat (entry.take 8), q * 256 * rc))

/-- One gradient add: an atomic FP32 add of a 4-byte element (R168). -/
def Block.gradAdd (b : Block) (core label ctx aw off : Nat) (v : Fp) : Block × List Nat :=
  match b.winAtomic core label ctx aw off .gradAdd ((vecRound v).setWidth 64) with
  | some r => r
  | none =>
  let old := b.rdOperands core ctx aw off 4
  let (b, codes) := b.wrOperand core label ctx aw off
    (toLe 4 (vecRound ((unpack32 (BitVec.ofNat 32 (leNat (opVals old)))).add (unpack32 (vecRound v)))).toNat)
  (b, codesOf old ++ codes)

/-- The gradient adds of a step for one slot and panel: for each element in ascending order, the pairs of factors by row
(R163 to R168). -/
def Block.gradPanel (b : Block) (core eng : Nat) (o : EOp) (m : MaskBlock) (slot rc p : Nat) (alpha : Option Word)
    (pairs : Nat → List (Fp × Fp)) : Block :=
  let entry := b.rdOperands core o.ctx m.gradTable.toNat (16 * slot) 16
  match gradPlace (opVals entry) rc p with
  | none => b.opCodes core eng o (codesOf entry)
  | some none => (b.opCodes core eng o (codesOf entry)).engCode core eng o.ctx 0x2A
  | some (some (aw, off)) =>
    let (b, codes) := b.tracked core eng o.ticket fun b => (List.range (64 * rc)).foldl (fun (b, codes) i =>
      let s := gradSum (pairs i)
      let v := match alpha with
        | none => s
        | some a => gradMul (unpack32 a) s
      let (b, k) := b.gradAdd core o.label o.ctx aw (off + 4 * i) v
      (b, if k.isEmpty then codes else (codes ++ k).eraseDups)) (b, codesOf entry)
    b.opCodes core eng o codes

/-- u of op row r as the spill holds it, with the codes met (R163, R166). -/
def Block.spillRow (b : Block) (core : Nat) (o : EOp) (m : MaskBlock) (r : Nat) : List Word × List Nat :=
  let row := b.rdOperands core o.ctx m.uSpill.toNat (256 * r) 256
  ((List.range 64).map fun j => fp32Of ((row.drop (4 * j)).take 4), codesOf row)

/-- x row r in XFMT, with the codes met (R164). -/
def Block.xRow (b : Block) (core : Nat) (o : EOp) (m : MaskBlock) (r : Nat) : List Oper × List Nat :=
  let f := m.xfmt
  let row := b.rdOperands core o.ctx m.xAddr.toNat (elemBytes f (r * m.xPitch)) (elemBytes f 64)
  let sc := if f == 3 then [] else b.rdOperands core o.ctx m.xScale.toNat (r * m.xPitch / 32) 2
  ((List.range 64).map fun k => planeElemK true f row sc k, codesOf (row ++ sc))

def Oper.orNan (l : List Oper) (k : Nat) : Fp := ((l[k]?).map Oper.full).getD .nan

/-- The dA adds of a transposed up step for one slot (R164): each element from du of the rows that name the slot and x. -/
def Block.gradUp (b : Block) (core : Nat) (o : EOp) (st : Step) (slot : Nat) (x : Binding) (rows : List Nat) : Block :=
  match o.mask, o.tags with
  | some m, some g =>
    if !st.transposed || !m.grad || !st.up then b
    else
      let fs := rows.map fun r =>
        ((List.range x.rc).map fun j => unpack32 ((b.core core).adapter.uGet (g.uBase + r) j), b.xRow core o m r)
      (b.opCodes core st.eng o (fs.flatMap fun y => y.2.2)).gradPanel core st.eng o m slot x.rc (stepIndex o st st.t) none fun i =>
        fs.map fun (u, xr, _) => (u.getD (i / 64) .nan, Oper.orNan xr (i % 64))
  | _, _ => b

/-- The dB adds of a transposed down step for one slot and chunk t (R163): u as it stood when the step began, and dY. -/
def Block.gradDown (b : Block) (core : Nat) (o : EOp) (st : Step) (slot t : Nat) : Block :=
  match o.mask, ((b.core core).adapter.slot slot).bound with
  | some m, some x =>
    let fs := ((b.core core).adapter.rowsOf o slot).map fun r =>
      (((st.uRows.find? fun y => y.1 == r).map (·.2)).getD [], b.strRowK true core o.ctx o.desc r t)
    (b.opCodes core st.eng o (fs.flatMap fun y => y.2.2)).gradPanel core st.eng o m slot x.rc (stepIndex o st t) (some x.alpha) fun i =>
      fs.map fun (u, dy, _) => (unpack32 (u.getD (i % x.rc) 0), Oper.orNan dy (i / x.rc))
  | _, _ => b

/-- One panel of a step for one slot: the sums of its rows, the gradient adds, and one use of the panel (R146). -/
def Block.stepSlot (b : Block) (core : Nat) (o : EOp) (st : Step) (slot : Nat) : Block :=
  let a := (b.core core).adapter
  match (a.slot slot).bound, a.findPanel slot (stepIndex o st st.t) with
  | some x, some p =>
    let bytes := a.panelBytes x (x.frameBase + p.frame)
    let rows := a.rowsOf o slot
    let ub := (o.tags.map (·.uBase)).getD 0
    let sums := rows.map fun r =>
      let (row, codes) := if st.up then ([], []) else b.strRow core o.ctx o.desc r st.t
      let u := (List.range 64).map fun j => a.uGet (ub + r) j
      (r, rowSums x st bytes row u (fun k => Tab.get 0 st.part (64 * r + k)), codes)
    let part := sums.foldl (fun t y => y.2.1.foldl (fun t z => Tab.set 0 t (64 * y.1 + z.1) z.2) t) st.part
    let b := b.gradUp core o st slot x rows
    let b := b.modAdapter core fun a => a.modSlot slot fun s => s.useIdx (stepIndex o st st.t)
    (b.modStep core st fun s => { s with part := part }).opCodes core st.eng o (sums.flatMap fun y => y.2.2)
  | _, _ => b

/-- The step as the unit holds it now. -/
def Block.stepNow (b : Block) (core : Nat) (st : Step) : Step :=
  ((b.core core).adapter.steps.find? fun x => x.same st).getD st

/-- The step makes gradient adds (R163, R164). -/
def Step.grads (st : Step) (o : EOp) : Bool := st.transposed && (o.mask.map fun m => m.grad && (st.up || m.spill)).getD false

/-- Busy clocks of one panel of a step, over the slots it still serves (R140, R169). DESIGN CHOICE: the rows of a slot are those
that it serves, without those handled under R148 (notes/assumptions/113.md). -/
def Block.panelBusy (b : Block) (core : Nat) (o : EOp) (st : Step) : Nat :=
  let a := (b.core core).adapter
  let q8str := dSfmt o.desc != 3
  ((a.served o st).map fun s =>
    match (a.slot s).bound with
    | none => 0
    | some x =>
      let n := (a.rowsOf o s).length * 64 * x.rc
      if st.transposed then ceilDiv (n * (if st.grads o then 2 else 1)) (if x.fmt == 3 then 512 else 1024)
      else ceilDiv n (if x.fmt != 3 && (st.up || q8str) then 2048 else 512)).sum

/-- The arithmetic of a step is done: its results are complete 8 clocks after its last busy clock, or after it was taken or
last missed (R140). A transposed down step makes its dB adds for the slots that did not miss (R163, R170). -/
def Block.arithEnds (b : Block) (core : Nat) (o : EOp) (st : Step) : Block :=
  let b := if st.grads o && !st.up then
      ((b.core core).adapter.served o st).foldl (fun b s =>
        (List.range (stepPanels o st)).foldl (fun b t => b.gradDown core o st s t) b) b
    else b
  b.modStep core st fun s => { s with arithDone := true, waits := [], doneAt := s.busyEnd + 8 }

/-- Panels of a step while they are present: the step yields at the first that is not, or completes its arithmetic (R141). -/
def Block.runPanels (core : Nat) (o : EOp) (st0 : Step) : Nat → Block → Block
  | 0, b => b
  | n + 1, b =>
    let st := b.stepNow core st0
    let c := b.core core
    if stepPanels o st ≤ st.t || (c.adapter.served o st).isEmpty then b.arithEnds core o st
    else if c.panelsHere st o st.t then
      let k := b.panelBusy core o st
      let free := max c.adapter.busyTo b.time.clk + k
      let b := (c.adapter.served o st).foldl (fun b s => b.stepSlot core o (b.stepNow core st) s) b
      let b := b.modAdapter core fun a => { a with busyTo := free }
      Block.runPanels core o st0 n
        (b.modStep core st fun s => { s with t := s.t + 1, waits := [], busy := s.busy + k, busyEnd := free })
    else b

/-- What a step does in the clock in which the unit takes it: ADAPT_TAG for each valid row whose slot is unbound or bound to
another context (R148), and, in a transposed down step with dB adds, the u rows of U_SPILL (R163). DESIGN CHOICE: each such row of
each step gives ADAPT_TAG once (notes/assumptions/114.md). -/
def Block.tagRows (b : Block) (core : Nat) (o : EOp) (st : Step) : Block :=
  if st.started then b
  else
    let c := b.core core
    let bad := o.rowTags.filter fun y => ((c.adapter.slot (tagSlot y.2)).bound.map fun x => x.ctx != tagCtx y.2).getD true
    let us : List (Nat × List Word × List Nat) := match o.mask with
      | none => []
      | some m => if st.grads o && !st.up then o.rowTags.map fun y => (y.1, b.spillRow core o m y.1) else []
    let b := b.modStep core st fun s =>
      { s with started := true, busyEnd := max s.busyEnd b.time.clk, uRows := us.map fun y => (y.1, y.2.1) }
    (bad.foldl (fun b _ =>
      let b := b.engCode core st.eng o.ctx cAdaptTag
      if c.owner == 0 then b else b.modCnt c.owner fun z => { z with adaptTagRows := up32 z.adaptTagRows }) b).opCodes core st.eng o
        (us.flatMap fun y => y.2.2)

/-- The unit takes a step and runs its panels while they are there. -/
def Block.takeStep (b : Block) (core : Nat) (st : Step) (o : EOp) : Block :=
  Block.runPanels core o st (stepPanels o st + 2) (b.tagRows core o st)

/-- The adapter unit, when it is free, runs its next step, if it is of the kind named. -/
def Block.runStep (b : Block) (core : Nat) (up transposed : Bool) : Block :=
  if b.parked || b.gated || b.time.clk < (b.core core).adapter.busyTo then b
  else
    match b.nextStep core with
    | none => b
    | some (st, o) =>
      if st.up == up && st.transposed == transposed then b.attempt core 4 o.label fun b => b.takeStep core st o else b

def execAdaptDownStep (core : Nat) (s : State) : Host.Outcome State Fault Refusal :=
  s.onBlock fun b => b.runStep core false false

def execAdaptUpStep (core : Nat) (s : State) : Host.Outcome State Fault Refusal :=
  s.onBlock fun b => b.runStep core true false

def execAdaptTransposedDown (core : Nat) (s : State) : Host.Outcome State Fault Refusal :=
  s.onBlock fun b => b.runStep core false true

def execAdaptTransposedUp (core : Nat) (s : State) : Host.Outcome State Fault Refusal :=
  s.onBlock fun b => b.runStep core true true

/-! ### Completion of a step (R140) -/

/-- The u or du that a down step leaves for a row: 64 values, +0.0 beyond RC and for a slot that missed; none for a row
handled under R148. -/
def Adapter.uOut (a : Adapter) (st : Step) (y : Nat × Word) : Option (List Word) :=
  match (a.slot (tagSlot y.2)).bound with
  | none => none
  | some x =>
    if x.ctx != tagCtx y.2 then none
    else if st.missed.contains (tagSlot y.2) then some (List.replicate 64 0)
    else some ((List.range 64).map fun j =>
      if x.rc ≤ j then 0
      else
        let v := Tab.get 0 st.part (64 * y.1 + j)
        if st.transposed then alphaMul x.alpha v else v)

/-- FP32 values as bytes. -/
def wordBytes (l : List Word) : List Byte := l.flatMap fun w => toLe 4 w.toNat

/-- A down step ends: U entries and, in a forward op with SPILL, the spill rows (R138, R147, R163, R166). -/
def Block.downEnds (b : Block) (core : Nat) (o : EOp) (st : Step) : Block :=
  let a := (b.core core).adapter
  let ub := (o.tags.map (·.uBase)).getD 0
  let outs := o.rowTags.filterMap fun y => (a.uOut st y).map fun u => (y.1, u)
  let u := outs.foldl (fun t (r, u) => u.zipIdx.foldl (fun t (v, j) => Tab.set 0 t (64 * (ub + r) + j) v) t) a.u
  let b := b.modAdapter core fun a => { a with u := u }
  let b := match o.mask with
    | none => b
    | some m =>
      if m.spill && !st.transposed then
        let (b, codes) := b.tracked core st.eng o.ticket fun b =>
          outs.foldl (fun ((b, codes) : Block × List Nat) ((r, u) : Nat × List Word) =>
          let (b, k) := b.wrOperand core o.label o.ctx m.uSpill.toNat (256 * r) (wordBytes u)
          (b, codes ++ k)) (b, ([] : List Nat))
        b.opCodes core st.eng o codes
      else b
  b.modOp core st.eng o.ticket fun x => { x with downDone := true }

/-- The rows that an up step serves: not those whose slot missed in it or in the op's forward down step (R139, R147). -/
def Adapter.upRows (a : Adapter) (o : EOp) (st : Step) : List Nat :=
  o.slots.flatMap fun s =>
    if st.missed.contains s || (!st.transposed && o.missedSlots.contains s) then [] else a.rowsOf o s

/-- An up step ends: its sums stand in the result buffer for its op, which goes on where its base product is complete (R139,
R143); the clocks of the wait were counted one by one. -/
def Block.upEnds (b : Block) (core : Nat) (o : EOp) (st : Step) : Block :=
  let a := (b.core core).adapter
  let base := resKey st.eng st.ticket
  let rows := a.upRows o st
  let res := rows.foldl (fun t r => (List.range 64).foldl (fun t j =>
    Tab.set 0 t ((64 * base + r) * 64 + j) (Tab.get 0 st.part (64 * r + j))) t) a.results
  let b := b.modAdapter core fun a => { a with results := res, resultRows := a.resultRows ++ rows.map fun r => 64 * base + r }
  let b := b.modOp core st.eng o.ticket fun x => { x with upDone := true }
  let o := ((b.eng core st.eng).op o.ticket).getD o
  if o.phase == .baseDone then b.finishOp core st.eng o else b

/-- The result buffer of an up step's engine and bank holds no sums for an op ahead of the step's own (R131;
notes/assumptions/92.md). -/
def Core.bufferFree (c : Core) (o : EOp) (st : Step) : Bool :=
  let ahead := ((c.eng st.eng).active ++ (c.eng st.eng).queue).takeWhile fun p => p.ticket != o.ticket
  !st.up || !(ahead.any fun p => dBank p.desc == dBank o.desc &&
    c.adapter.resultRows.any fun x => x / 64 == resKey st.eng p.ticket)

/-- The first step whose results are complete (R140). -/
def Block.doneStep (b : Block) (core : Nat) : Option (Step × EOp) :=
  let c := b.core core
  c.adapter.steps.findSome? fun st =>
    match c.stepOp st with
    | none => none
    | some o => if st.arithDone && st.doneAt ≤ b.time.clk && c.bufferFree o st then some (st, o) else none

/-- A step ends and leaves the unit. -/
def Block.stepEnds (b : Block) (core : Nat) (st : Step) (o : EOp) : Block :=
  (if st.up then b.upEnds core o st else b.downEnds core o st).dropSteps core fun x => x.same st

def execAdaptStepComplete (core : Nat) (s : State) : Host.Outcome State Fault Refusal :=
  s.onCompute fun b =>
    if b.parked then b else
    match b.doneStep core with
    | none => b
    | some (st, o) => b.attempt core 4 o.label fun b => b.stepEnds core st o

/-! ### Prefetches (R144, R145) and misses (R147) -/

/-- Fired prefetches stand in firing order; those of one clock in slot number, then in accept order (R145). -/
def insertFire (f : Fire) : List Fire → List Fire
  | [] => [f]
  | g :: l =>
    if g.at_ == f.at_ && (f.slot < g.slot || (f.slot == g.slot && f.pref.seq < g.pref.seq)) then f :: g :: l
    else g :: insertFire f l

/-- The phase F has come, for the first time in this stride (R144). -/
def Block.fires (b : Block) (p : Pref) : Bool :=
  p.fireAt == some b.phaseNow && !p.once && p.firedIn != some b.time.count.toNat && !b.gated

/-- The prefetch joins the fires of its core (R144). -/
def Block.firePref (b : Block) (core slot : Nat) (p : Pref) : Block :=
  b.modAdapter core fun a =>
    { a.modSlot slot fun x =>
        { x with prefs := x.prefs.map fun q =>
            if q.seq == p.seq then { q with once := !q.loop, firedIn := some b.time.count.toNat } else q } with
      fires := insertFire { id := a.seq + 1, at_ := b.time.clk, slot := slot, pref := p, next := 0 } a.fires
      seq := a.seq + 1 }

/-- Positions of the ring in ring order after the slot's last panel. DESIGN CHOICE: that is the last panel still present, and an
empty ring starts at its first frame (notes/assumptions/111.md). -/
def ringOrder (x : Binding) (l : List Panel) : List Nat :=
  let n := x.frames / x.need
  let from' := match l.getLast? with
    | none => 0
    | some p => p.frame / x.need + 1
  (List.range n).map fun i => (from' + i) % max 1 n * x.need

/-- The next free place of a slot's ring (R145). -/
def Slot.freeFrame (s : Slot) : Option Nat :=
  match s.bound with
  | none => none
  | some x => (ringOrder x s.panels).find? fun f => !(s.panels.any fun p => p.frame == f)

/-- The fired prefetch that the fill port serves: the first in firing order that is its slot's first and has a free frame. -/
def Adapter.portFire (a : Adapter) : List Nat → List Fire → Option Fire
  | _, [] => none
  | seen, f :: l =>
    if !seen.contains f.slot && (a.slot f.slot).freeFrame.isSome then some f
    else Adapter.portFire a (f.slot :: seen) l

/-- Uses already counted for a panel that arrives late: it takes those owed to its index, and is freed at once where they
reach USERS (R147). -/
def Slot.arrive (s : Slot) (users : Nat) (p : Panel) : Slot :=
  let k := s.owed.count p.index
  let take := min k users
  let owed := (List.range take).foldl (fun l _ => l.erase p.index) s.owed
  if users ≤ take then { s with owed := owed }
  else { s with owed := owed, panels := s.panels ++ [{ p with uses := take }] }

/-- The last byte of the next panel reaches the frame store (R145). DESIGN CHOICE: the codes of its reads go to the bound context
(notes/assumptions/112.md). -/
def Block.panelArrives (b : Block) (core : Nat) (f : Fire) (x : Binding) (frame : Nat) : Block :=
  let bytes := b.rdOperands core x.ctx f.pref.src.toNat (f.next * f.pref.pitch) x.panelBytes
  let at_ := frameBytes * (x.frameBase + frame)
  let idx := (f.pref.first + f.next) % 2 ^ 24
  let last := f.next + 1 == f.pref.count
  let b := (b.ctxCodes x.ctx (codesOf bytes)).progress core 5
  let b := b.modAdapter core fun a =>
    { a.modSlot f.slot fun s =>
        let s := s.arrive x.users { index := idx, uses := 0, frame := frame }
        if last && !f.pref.loop then { s with prefs := s.prefs.filter fun p => p.seq != f.pref.seq } else s with
      frames := a.frames.writeN at_ (opVals bytes)
      frameBad := a.frameBad.filter (fun k => k < at_ || at_ + x.panelBytes ≤ k) ++ (badOf bytes).map fun i => at_ + i
      fires := if last then a.fires.filter (fun g => g.id != f.id)
        else a.fires.map fun g => if g.id == f.id then { g with next := g.next + 1 } else g
      panelAt := some b.time.clk }
  let n := (b.core core).owner
  if n == 0 then b else b.modCnt n fun c => { c with prefetchBytes := min (2 ^ 64 - 1) (c.prefetchBytes + x.panelBytes) }

def execPanelPresent (core slot : Nat) (s : State) : Host.Outcome State Fault Refusal :=
  s.onCompute fun b =>
    let a := (b.core core).adapter
    match a.portFire [] a.fires with
    | none => b
    | some f =>
      match (a.slot f.slot).bound, (a.slot f.slot).freeFrame with
      | some x, some fr =>
        if f.slot == slot && !b.parked then b.attempt core 5 f.pref.cls fun b => b.panelArrives core f x fr else b
      | _, _ => b

/-- The step that waits for a panel of the slot, first in accept order. -/
def Core.waitingStep (c : Core) (slot : Nat) : Option (Step × EOp) :=
  c.adapter.steps.findSome? fun st =>
    match c.stepOp st with
    | none => none
    | some o =>
      if c.readyBut st o && (c.adapter.served o st).contains slot &&
          (c.adapter.findPanel slot (stepIndex o st st.t)).isNone then some (st, o) else none

/-- One use of each panel the step still needs for the slot, present or missing (R147). -/
def Slot.useRest (s : Slot) : List Nat → Slot
  | [] => s
  | i :: l =>
    if s.panels.any fun p => p.index == i then Slot.useRest (s.useIdx i) l
    else Slot.useRest { s with owed := s.owed ++ [i] } l

/-- One tick of a step's wait, for each slot whose next panel is not there (R147). A panel is needed once the unit has done with the
step's earlier ones. DESIGN CHOICE: the wait counts only while every other condition of the step is met
(notes/assumptions/103.md). -/
def Core.stepWaits (c : Core) (clk : Nat) (st : Step) : Step :=
  match c.stepOp st with
  | none => st
  | some o =>
    if !c.readyBut st o || clk < st.busyEnd then st
    else
      let missing := (c.adapter.served o st).filter fun s => (c.adapter.findPanel s (stepIndex o st st.t)).isNone
      { st with waits := missing.foldl (fun t s => Tab.upd 0 t s (· + 1)) st.waits }

def Core.waitTick (clk : Nat) (c : Core) : Core :=
  { c with adapter := { c.adapter with steps := c.adapter.steps.map (c.stepWaits clk) } }

/-- A tick of the waits for panels, where no unit is parked (R147). -/
def Block.waitTick (b : Block) : Block :=
  if b.gated || b.parked then b
  else b.each (Tab.keys b.cores) fun c b => if (b.core c).adapter.steps.isEmpty then b else b.modCore c (Core.waitTick b.time.clk)

/-- A compute clock adds a clock of ADAPT_WAIT_CLOCKS for each bank that waits for its op's up step (R143). -/
def Block.waitClock (b : Block) : Block :=
  if b.gated then b
  else b.each (Tab.keys b.cores) fun c b =>
    let n := (b.core c).owner
    let k := ((List.range 4).map fun e =>
      ((b.eng c e).active.filter fun o => o.phase == .baseDone && !o.upDone && o.baseAt ≤ b.time.clk).length).sum
    if n == 0 || k == 0 then b else b.modCnt n fun z => { z with adaptWait := min (2 ^ 64 - 1) (z.adaptWait + k) }

/-- The wait reaches MISS_LIMIT (R147). -/
def Block.adaptMiss (b : Block) (core slot : Nat) (st : Step) (o : EOp) : Block :=
  let rest := ((List.range (stepPanels o st)).drop st.t).map (stepIndex o st)
  let b := b.modAdapter core fun a => a.modSlot slot fun s => s.useRest rest
  let b := b.modStep core st fun x =>
    { x with missed := x.missed ++ [slot], waits := Tab.erase x.waits slot, busyEnd := max x.busyEnd b.time.clk }
  let b := if st.up then b else b.modOp core st.eng o.ticket fun x => { x with missedSlots := x.missedSlots ++ [slot] }
  let n := (b.core core).owner
  let b := b.engCode core st.eng o.ctx cAdaptMiss
  let b := if n == 0 then b else b.modCnt n fun c => { c with adaptMisses := up32 c.adaptMisses }
  let st := b.stepNow core st
  if ((b.core core).adapter.served o st).isEmpty then (b.tagRows core o st).arithEnds core o (b.stepNow core st) else b

/-- The step has waited MISS_LIMIT ticks for the slot's panel. -/
def Core.waitedOut (c : Core) (slot : Nat) (st : Step) : Bool :=
  ((c.adapter.slot slot).bound.map fun x => decide (x.missLimit ≤ Tab.get 0 st.waits slot)).getD false

def execAdaptMiss (core slot : Nat) (s : State) : Host.Outcome State Fault Refusal :=
  s.onCompute fun b =>
    if b.parked then b
    else
      match (b.core core).waitingStep slot with
      | none => b
      | some (st, o) => if (b.core core).waitedOut slot st then b.adaptMiss core slot st o else b

/-! ### Ends of bindings by a context reset (R148) -/

/-- Every binding of the context ends at once; a deferred BIND to it becomes an UNBIND. -/
def Block.endBindings (b : Block) (core ctx : Nat) : Block :=
  let slots := Tab.keys (b.core core).adapter.slots
  (b.modAdapter core fun a => slots.foldl (fun a s =>
    let a := if ((a.slot s).bound.map fun x => x.ctx == ctx).getD false then a.unbind s else a
    a.modSlot s fun x =>
      { x with deferred := x.deferred.map fun d =>
          if (d.bind.map fun y => y.ctx == ctx).getD false then { d with bind := none, prefs := [] } else d }) a).settleSlots core slots

end Sys2Proof.Machine
end

