-- ==== Sys2Proof/Machine/Engine.lean ====
section
/-! DEFINITION. Engine ops: acceptance with its checks (R74, R76, R77, R157, R158, R240), the start of each opcode (R79,
R161, R456), resident tiles and Parade tiles (R60, R63 to R68), and completion (R77). -/

namespace Sys2Proof.Machine

/-! ### Acceptance -/

/-- Engine `eng` of a core is reserved to real-time sources of slice n (R240). -/
def Block.reservedEng (b : Block) (n core eng : Nat) : Bool :=
  let cs := b.coresOf n
  eng * cs.length + cs.idxOf core < 4 * cs.length * (b.inForce n).rtShare / 100

/-- A unit is held for another context's replay turn: units 0 to 3 the engines, 4 vector; an adapter unit under replay holds
ops with adapter work. From the first turn on the wait ends with the replay (R327). -/
def Block.turnHeld (b : Block) (core unit ctx : Nat) (adapt : Bool) : Bool :=
  match (b.slice (b.core core).owner).ladder.replay with
  | none => false
  | some r =>
    r.reserved && r.turn != some ctx && r.core == core && (r.unit == unit || (r.unit == 5 && adapt))

/-- The bitmap bit of an index, and the code its byte gives (R159). -/
def Block.maskBit (b : Block) (core ctx aw i : Nat) : Bool × List Nat :=
  let x := b.rdOperand core ctx aw (i / 8)
  (x.val.getLsbD (i % 8), codesOf [x])

/-- The mask block of an op read at its acceptance (R157); none where R158 refuses it. DESIGN CHOICE: the address words M2 to M6 are
checked whether or not the op uses them, each by its offset only (notes/assumptions/107.md). -/
def Block.readMask (b : Block) (core ctx : Nat) (d : List Dword) : Option MaskBlock × List Nat :=
  let aw := wd d 10
  let raw := b.rdOperands core ctx aw 0 64
  let m := (dwordsOf (opVals raw) 8).map (·.toNat)
  let w k := m.getD k 0
  let mode := fld (w 0) 63 62
  let row0 := fld (w 0) 47 24
  let col0 := fld (w 0) 23 0
  let cols := fld (w 1) 63 40
  let n := dRows d
  if awOff aw % 128 != 0 || (!awWindow aw && scratchEnd ≤ awOff aw) || mode == 3 || fld (w 0) 56 48 != 0 ||
      fld (w 1) 39 0 != 0 || fld (w 7) 39 0 != 0 ||
      ([2, 3, 4, 5, 6].any fun k => fld (w k) 57 48 != 0 || (!awWindow (w k) && scratchEnd ≤ awOff (w k))) ||
      (mode == 2 && (row0 % 32 != 0 || col0 % 32 != 0 || cols == 0)) ||
      (bit (w 0) 60 && (fld (w 0) 59 57 == 0 || 3 < fld (w 0) 59 57)) then (none, codesOf raw)
  else
    let idx := match mode with
      | 1 => (List.range n).map fun r => row0 + r
      | 2 => (List.range (ceilDiv n 32)).flatMap fun a => [(row0 / 32 + a) * cols + col0 / 32, (row0 / 32 + a) * cols + col0 / 32 + 1]
      | _ => []
    let bits := idx.map fun i => b.maskBit core ctx (w 2) i
    let vals := bits.map (·.1)
    let mixed (l : List Bool) : Bool := l.any id && l.any not
    let across := dWrites d && (dOfmt d == 0 || (dOfmt d ≤ 2 && dWaxis d))
    if mode == 1 && across && (mixed (vals.take 32) || mixed (vals.drop 32)) then
      (none, codesOf raw ++ (bits.flatMap (·.2)).eraseDups)
    else
      (some { mode := mode, spill := bit (w 0) 61, grad := bit (w 0) 60, xfmt := fld (w 0) 59 57, bits := vals
              uSpill := BitVec.ofNat 64 (w 3), gradTable := BitVec.ofNat 64 (w 4), xAddr := BitVec.ofNat 64 (w 5)
              xScale := BitVec.ofNat 64 (w 6), xPitch := fld (w 7) 63 40 },
        codesOf raw ++ (bits.flatMap (·.2)).eraseDups)

/-- A ticket without a queue entry: the code is given at once, and the ticket completes in its turn (R74, R77). -/
def Block.refuseOp (b : Block) (core eng ctx ticket code : Nat) (hart : Bool) : Block :=
  ((b.engCode core eng ctx code).modEng core eng fun e => e.refuse ticket hart).settle core eng

/-- The history floor that an op reads once, at its issue (R51). -/
def Block.readHist (b : Block) (core ctx : Nat) (d : List Dword) : Option Int × List Nat :=
  if dHist d && dNarrowOut d then
    let raw := b.rdOperands core ctx (wd d 8) 0 72
    let bs := opVals raw
    let f := match dOfmt d with
      | 0 => Fmt.q4m
      | 1 => Fmt.q6m
      | _ => Fmt.q8m
    (histFloor (BitVec.ofNat 64 (leNat (bs.take 8)))
      ((List.range 16).map fun i => BitVec.ofNat 32 (leNat ((bs.drop (8 + 4 * i)).take 4))) f, codesOf raw)
  else (none, [])

/-- The op checks of R240, R74 and R158 in order: a refusal code, or the op's mask block. -/
def Block.opRefusal (b : Block) (core eng ctx : Nat) (d : List Dword) (rt : Bool) : Option Nat × Option MaskBlock × List Nat :=
  if b.reservedEng (b.core core).owner core eng && !rt then (some cEngineReserved, none, [])
  else if opCheck d (b.parade.map.minSp (dSeg d)) != 0 then (some cOpInvalid, none, [])
  else if dOpcode d == 1 && dMask d then
    let (m, codes) := b.readMask core ctx d
    match m with
    | none => (some 0x29, none, codes)
    | some m => (none, some m, codes)
  else (none, none, [])

/-- An op that no check refuses joins the queue, with what it reads once: random numbers, history, tags and load list (R49,
R51, R76, R130). -/
def Block.joinOp (b : Block) (core eng ctx ticket : Nat) (d : List Dword) (iss : Issuer) (label : Nat) (m : Option MaskBlock)
    (codes : List Nat) : Block :=
  let sr := if dSto d then some (b.ctx ctx).srCtr else none
  let b := if dSto d then b.modCtx ctx fun x => { x with srCtr := x.srCtr + 1 } else b
  let (fl, hc) := b.readHist core ctx d
  let adapt := dOpcode d == 1 && dAdapt d
  let (b, tags, tc) := if adapt then b.readTags core eng ctx d else (b, none, [])
  let seq := (b.core core).adapter.seq
  let o : EOp :=
    { ticket := ticket, desc := d, ctx := ctx, issuer := iss, label := label, srCtr := sr, histFloor := fl, tags := tags
      mask := m, seq := seq, phase := .queued, headChecked := false, tile := 0, armedAt := none, waitCounted := false
      downDone := (tags.map fun t => !t.down).getD true, upDone := (tags.map fun t => !t.up).getD true, baseAt := 0, doneAt := 0
      codes := [], missedSlots := [], sent := [] }
  let b := b.modEng core eng fun e => { e with queue := e.queue ++ [o] }
  let b := b.modAdapter core fun a => { a with steps := a.steps ++ stepsOf o eng }
  b.opCodes core eng o (codes ++ hc ++ tc)

/-- The descriptor at a scratchpad offset (R72). -/
def Block.readDesc (b : Block) (core off : Nat) : List Dword := dwordsOf (b.rdRaw core off 128) 16

/-- An engine accepts the op at a descriptor offset; every op takes the next ticket (R77). -/
def Block.acceptOp (b : Block) (core eng off ctx : Nat) (iss : Issuer) (label : Nat) : Block :=
  let ticket := ((b.eng core eng).issued + 1).toNat
  let d := b.readDesc core off
  let b := (b.touchCtx ctx).modEng core eng fun e => { e with issued := e.issued + 1 }
  let bad := (b.core core).badAt off 128
  let b := if bad then { b with draws := b.draws + 128 } else b
  let (no, m, codes) := b.opRefusal core eng ctx d (b.realTime iss)
  let codes := if bad then cEccUncorr :: codes else codes
  match no with
  | some k => (b.ctxCodes ctx codes.eraseDups).refuseOp core eng ctx ticket k iss.isHart
  | none => b.joinOp core eng ctx ticket d iss label m codes

def Block.modCmd (b : Block) (q k : Nat) (f : Cmd → Cmd) : Block :=
  b.modQueue q fun x => { x with cmds := x.cmds.map fun c => if c.k == k then f c else c }

/-- The next op that the front end has placed on an engine arrives: a stale role generation drops it (R189), a full queue or
a replay turn holds it (R76, R327). -/
def Block.frontAccept (b : Block) (core eng : Nat) : Block :=
  let e := b.eng core eng
  match e.arrivals with
  | [] => b
  | p :: rest =>
    let b1 := b.modEng core eng fun x => { x with arrivals := rest }
    if p.gen != (b.core core).roleGen then b1.ctxCode p.ctx cStaleRole
    else if 16 ≤ e.queue.length || b.turnHeld core eng p.ctx (dAdapt (b.readDesc core p.desc)) then b
    else
      let ticket := (e.issued + 1).toNat
      let b1 := b1.acceptOp core eng p.desc p.ctx p.issuer p.label
      match p.issuer with
      | .queue q k _ => b1.modCmd q k fun c => { c with tickets := c.tickets ++ [(core, eng, ticket)] }
      | .hart _ => b1

/-- The class label of the op placed next. -/
def Engine.nextLabel (e : Engine) : Nat := (e.arrivals.head?.map (·.label)).getD 0

/-- The engine's turn to accept the op placed next. -/
def Block.acceptTurn (b : Block) (core eng : Nat) : Block :=
  b.attempt core eng (b.eng core eng).nextLabel fun b => b.frontAccept core eng

/-- The engine accepts, or drops, the op placed next if it has its turn now. -/
def Block.acceptsNow (b : Block) (core eng : Nat) : Bool :=
  !(b.eng core eng).arrivals.isEmpty &&
    ((b.acceptTurn core eng).eng core eng).arrivals.length < (b.eng core eng).arrivals.length

/-- Ops that join several engines of a core in one clock join in ascending engine order (R130). -/
def execOpAccept (core eng : Nat) (s : State) : Host.Outcome State Fault Refusal :=
  s.onCompute fun b => if (List.range eng).any fun e => b.acceptsNow core e then b else b.acceptTurn core eng

/-! ### The head of the queue -/

/-- Every tile number from `first` on, `n` of them, lies in a run of the segment (R68, R114). -/
def SweepMap.covers (m : SweepMap) (seg first n : Nat) : Bool :=
  ((m.runs.filter fun r => r.seg == seg).map fun r =>
    min (first + n) (r.tileFirst + r.count) - max first r.tileFirst).sum == n

/-- The op's adapter work goes with it. -/
def Block.dropOpSteps (b : Block) (core eng ticket : Nat) : Block :=
  (b.dropLines core 4).dropSteps core fun st => st.eng == eng && st.ticket == ticket

/-- The op is at the head of its engine's queue. -/
def Engine.isHead (e : Engine) (ticket : Nat) : Bool := ((e.queue.head?.map fun o => o.ticket == ticket)).getD false

/-- An op ends at once with a code, without write-out; its bank keeps its sums, and what its up step held for it goes (R67,
R68). -/
def Block.endWith (b : Block) (core eng : Nat) (o : EOp) (code : Nat) : Block :=
  let head := (b.eng core eng).isHead o.ticket
  ((((b.opCodes core eng o [code]).endOp core eng o.ticket).dropOpSteps core eng o.ticket).modAdapter core fun a =>
    a.dropResults eng o.ticket).modEng core eng fun e =>
    { e with waiting := e.waiting && !head, strFor := if e.strFor == some o.ticket then none else e.strFor }

def execParadeHeadCheck (core eng : Nat) (s : State) : Host.Outcome State Fault Refusal :=
  s.onCompute fun b =>
    match (b.eng core eng).queue with
    | [] => b
    | o :: _ =>
      if dOpcode o.desc == 1 && dRsrc o.desc && !o.headChecked then
        if b.parade.map.covers (dSeg o.desc) (dTileFirst o.desc) (dTiles o.desc) then
          b.modOp core eng o.ticket fun x => { x with headChecked := true }
        else b.endWith core eng o cParadeNotile
      else b

/-- Scratchpad ranges [first, end) of the address words named that an op uses. -/
def dRanges (d : List Dword) (words : List Nat) : List (Nat × Nat) :=
  (dUses d).filterMap fun u =>
    if !awWindow u.1 && (words.any fun k => wd d k == u.1) then some (awOff u.1, awOff u.1 + u.2.1) else none

/-- The op would read what an op of the other bank has still to write out (R78). -/
def Engine.readsPending (e : Engine) (o : EOp) : Bool :=
  e.active.any fun p => p.phase != .written && dWrites p.desc &&
    ((dRanges p.desc [4, 5]).any fun w => (dRanges o.desc [1, 2, 3, 6, 13]).any fun r => r.1 < w.2 && w.1 < r.2)

/-- The op at the head may start: its bank is free, with its last write-out over, and the cells and staging registers are (R69, R76,
R78). A Parade op may be armed while another one runs; while an op with a scratchpad or window operand runs, the streaming buffer is
that op's. -/
def Engine.mayStart (e : Engine) (clk : Nat) (o : EOp) : Bool :=
  let parade := dOpcode o.desc == 1 && dRsrc o.desc
  (e.active.all fun p => dBank p.desc != dBank o.desc || (p.phase == .written && p.doneAt ≤ clk)) &&
  (e.active.all fun p => p.phase == .written || p.phase == .baseDone || (parade && dRsrc p.desc)) &&
  (!parade || o.headChecked) && !e.readsPending o

/-- The head op of an engine that may start, of the opcode given. -/
def Block.headOp (b : Block) (core eng opcode : Nat) : Option EOp :=
  let e := b.eng core eng
  match e.queue with
  | [] => none
  | o :: _ => if dOpcode o.desc == opcode && e.mayStart b.time.clk o && !b.parked && !b.gated then some o else none

/-- The head op leaves the queue and runs. -/
def Block.begin (b : Block) (core eng : Nat) (o : EOp) : Block :=
  b.modEng core eng fun e => { e with queue := e.queue.drop 1, active := e.active ++ [{ o with phase := .running }] }

/-! ### Resident tiles -/

/-- Tile t of the op is loaded into NEXT from the scratchpad or a window (R63). -/
def Block.loadNext (b : Block) (core eng : Nat) (o : EOp) (t : Nat) : Block :=
  let bs := b.resTile core o.ctx o.desc t
  (((b.progress core eng).modEng core eng fun e => { e with nextTile := opVals bs, nextBad := badOf bs, nextOp := some o.ticket }).opCodes core eng o (codesOf bs)).modOp
    core eng o.ticket fun x => { x with tile := t + 1 }

/-- The tile in NEXT moves to CUR (R60). -/
def Engine.shift (e : Engine) : Engine :=
  { e with cur := e.nextTile, curBad := e.nextBad, nextTile := [], nextBad := [], nextOp := none }

/-- The op whose tile stands in NEXT. -/
def Engine.nextOwner (e : Engine) : Option EOp := e.active.find? fun o => o.phase == .running && e.nextOp == some o.ticket

/-- The tile in NEXT moves to CUR and takes the op's rows; a scratchpad or window op loads its next tile meanwhile, and the
op's base product is complete after its last tile (R60, R63). -/
def Block.residentMove (b : Block) (core eng : Nat) : Block :=
  let e := b.eng core eng
  match e.nextOwner with
  | none => b
  | some o =>
    if e.nextTile.isEmpty then b
    else
      let b := b.modEng core eng Engine.shift
      let (b, codes) := b.takeRows core eng o (o.tile - 1)
      let b := b.opCodes core eng o codes
      if o.tile < dTiles o.desc then (if dRsrc o.desc then b else b.loadNext core eng o o.tile)
      else b.baseComplete core eng o (if dRsrc o.desc then b.time.clk + o.onRows.length * b.rowClocks o - 1 + dLatency o.desc
        else o.baseAt)

def execResidentLoad (core eng : Nat) (s : State) : Host.Outcome State Fault Refusal :=
  s.onCompute fun b =>
    if b.parked then b
    else b.attempt core eng (((b.eng core eng).nextOwner.map (·.label)).getD 0) fun b => b.residentMove core eng

/-- The clock in which the last addition of an op with a scratchpad or window operand lands (R59, R79, R161). -/
def Block.baseClock (b : Block) (o : EOp) : Nat :=
  b.time.clk + dTiles o.desc * max (o.onRows.length * b.rowClocks o) (loadClocks (dRfmt o.desc)) - 1 + dLatency o.desc

/-- The tile has left the root in this stride's pass of its run. -/
def Block.passed (b : Block) (seg tile : Nat) : Bool :=
  match (b.parade.map.runs.zipIdx.find? fun x => x.1.seg == seg && x.1.tileFirst ≤ tile && tile < x.1.tileFirst + x.1.count) with
  | none => false
  | some (r, i) =>
    i < b.parade.nextRun &&
      match b.parade.run with
      | some rs => if rs.run == r then decide (tile - r.tileFirst < rs.next) else true
      | none => true

/-- The tile is on its way to the engine. -/
def Block.onTree (b : Block) (core eng seg tile : Nat) : Bool :=
  b.parade.tree.any fun t => (b.eng core eng).seen < t.seqNo && t.seg == seg && t.tile == tile

/-- A wait for a later pass, counted once (R65, R403); WAITING shows it for the head op (R87). -/
def Block.lateStart (b : Block) (core eng : Nat) (o : EOp) : Block :=
  let b := b.modEng core eng fun e => { e with waiting := e.waiting || e.isHead o.ticket }
  if o.waitCounted then b
  else
    let n := (b.core core).owner
    let b := b.modOp core eng o.ticket fun x => { x with waitCounted := true }
    if n == 0 then b else b.modCnt n fun c => { c with engLateStart := up32 c.engLateStart }

/-- The streaming buffer takes the rows for the first tile of the Parade op at the head, which is thereby armed; one whose
first tile has passed already in this stride waits for the next pass (R65). It stays at the head until it captures. -/
def Block.arm (b : Block) (core eng : Nat) (o : EOp) : Block :=
  let rows := b.streamOf core o 0
  let b := b.modEng core eng fun e => { e with stream := opVals rows, strFor := some o.ticket }
  let b := b.ctxCodes o.ctx (needsOf (codesOf rows))
  let b := b.modOp core eng o.ticket fun x => { x with armedAt := some b.time.clk }
  if !b.onTree core eng (dSeg o.desc) (dTileFirst o.desc) && b.passed (dSeg o.desc) (dTileFirst o.desc) then
    b.lateStart core eng o
  else b

/-- An op leaves the queue with its ACC_MODE action on its bank (R70). -/
def Block.beginAcc (b : Block) (core eng : Nat) (o : EOp) : Block :=
  let (b, codes) := (b.begin core eng o).accStart core eng o.ctx o.desc (dAccMode o.desc)
  b.opCodes core eng o codes

/-- A MATMUL starts: its ACC_MODE action, then its first resident tile and rows (R70, R79); with every position off it takes
no tile (R161). With RSRC = 1 it is armed, and begins with its first tile (R65, R68). -/
def Block.startMatmul (b : Block) (core eng : Nat) (o : EOp) : Block :=
  if o.onRows.isEmpty then (b.beginAcc core eng o).baseComplete core eng o b.time.clk
  else if dRsrc o.desc then (if o.armedAt.isSome then b else b.arm core eng o)
  else
    let b := b.beginAcc core eng o
    let b := b.modOp core eng o.ticket fun x => { x with baseAt := b.baseClock o }
    (b.loadNext core eng o 0).residentMove core eng

def execMatmul (core eng : Nat) (s : State) : Host.Outcome State Fault Refusal :=
  s.onBlock fun b =>
    match b.headOp core eng 1 with
    | none => b
    | some o => b.attempt core eng o.label fun b => b.startMatmul core eng o

/-- A WRITEOUT leaves the queue, its base product complete (R456). -/
def Block.startWriteout (b : Block) (core eng : Nat) (o : EOp) : Block := (b.begin core eng o).baseComplete core eng o b.time.clk

/-- WRITEOUT (R456). -/
def execWriteout (core eng : Nat) (s : State) : Host.Outcome State Fault Refusal :=
  s.onBlock fun b =>
    match b.headOp core eng 2 with
    | none => b
    | some o => b.attempt core eng o.label fun b => b.startWriteout core eng o

/-- LOADACC loads its bank, complete ROWS + 4 clocks after it starts (R456). -/
def Block.startLoadacc (b : Block) (core eng : Nat) (o : EOp) : Block :=
  let (b, codes) := (b.begin core eng o).accStart core eng o.ctx o.desc 2
  (b.opCodes core eng o codes).modOp core eng o.ticket fun x =>
    { x with phase := .written, doneAt := b.time.clk + dRows o.desc + 4 }

/-- LOADACC (R456). -/
def execLoadacc (core eng : Nat) (s : State) : Host.Outcome State Fault Refusal :=
  s.onBlock fun b =>
    match b.headOp core eng 3 with
    | none => b
    | some o => b.attempt core eng o.label fun b => b.startLoadacc core eng o

/-- ZEROACC (R456): complete in the clock after it starts. -/
def execZeroacc (core eng : Nat) (s : State) : Host.Outcome State Fault Refusal :=
  s.onBlock fun b =>
    match b.headOp core eng 4 with
    | none => b
    | some o =>
      ((b.begin core eng o).accStart core eng o.ctx o.desc 0).1.modOp core eng o.ticket fun x =>
        { x with phase := .written, doneAt := b.time.clk + 1 }

/-! ### Parade tiles (R64 to R67, R120) -/

/-- The op that a tile is for: one that runs and needs it next, or the armed head of the queue for its first tile (R64,
R65). -/
def Engine.catcher (e : Engine) (t : TileMsg) : Option EOp :=
  ((e.active.filter fun o => o.phase == .running && dRsrc o.desc && o.tile < dTiles o.desc) ++
    ((e.queue.take 1).filter fun o => o.armedAt.isSome)).find? fun o =>
      t.seg == dSeg o.desc && t.tile == dTileFirst o.desc + o.tile

/-- The clock in which a tile sent at `clk` reaches an engine (R120). -/
def arrival (clk : Nat) : Nat := clk + 20

/-- An armed op captures the tile it needs into NEXT, and begins with its first; a tile of another format ends it (R64, R67).
DESIGN CHOICE: a tile captured before and still in NEXT has then formed no sums, unless RESIDENT_LOAD moved it
(notes/assumptions/91.md). -/
def Block.capture (b : Block) (core eng : Nat) (o : EOp) (t : TileMsg) : Block :=
  if t.fmt != dRfmt o.desc then
    (b.modEng core eng fun e =>
      if e.nextOp == some o.ticket then { e with nextTile := [], nextBad := [], nextOp := none } else e).endWith core eng o cParadeFmt
  else
    let b := if (b.eng core eng).nextTile.isEmpty then b else b.residentMove core eng
    let b := if o.tile == 0 then b.beginAcc core eng o else b
    ((b.progress core eng).modEng core eng fun e =>
      { e with nextTile := t.bytes, nextBad := [], nextOp := some o.ticket, waiting := e.waiting && o.tile != 0 }).modOp
        core eng o.ticket fun x => { x with tile := x.tile + 1, waitCounted := false }

/-- The tile that reaches an engine next, once it has come down the tree (R120). -/
def Block.treeFront (b : Block) (core eng : Nat) : Option TileMsg :=
  (b.parade.tree.find? fun t => (b.eng core eng).seen < t.seqNo).filter fun t => arrival t.clk ≤ b.time.clk

/-- The op that the next tile of the tree is for. -/
def Block.nextTile (b : Block) (core eng : Nat) : Option EOp := (b.treeFront core eng).bind (b.eng core eng).catcher

/-- The next tile of the tree reaches an engine. -/
def Block.tileArrives (b : Block) (core eng : Nat) : Block :=
  match b.treeFront core eng with
  | none => b
  | some t =>
    let b := b.modEng core eng fun e => { e with seen := t.seqNo }
    match (b.eng core eng).catcher t with
    | none => b
    | some o =>
      if b.parked || (o.tile == 0 && arrival t.clk < o.armedAt.getD 0) then b.lateStart core eng o
      else b.capture core eng o t

def execParadeTileCapture (core eng : Nat) (s : State) : Host.Outcome State Fault Refusal :=
  s.onCompute fun b => b.attempt core eng (((b.nextTile core eng).map (·.label)).getD 0) fun b => b.tileArrives core eng

/-! ### Completion (R77) -/

/-- The op's write-out has reached its place and its adapter work is done. -/
def Block.opOver (b : Block) (o : EOp) : Bool := o.phase == .written && o.downDone && o.doneAt ≤ b.time.clk && !b.unanswered o

/-- The op next in issue order completes once its write-out has reached its place and its adapter work is done. -/
def Block.completeOp (b : Block) (core eng : Nat) : Block :=
  let e := b.eng core eng
  match e.active.find? fun o => o.ticket == (e.done + 1).toNat with
  | none => b
  | some o =>
    if b.opOver o then
      ((b.progress core eng).modEng core eng fun x =>
        { x with active := x.active.filter (fun p => p.ticket != o.ticket), done := x.done + 1 }).settle core eng
    else b

def execOpComplete (core eng : Nat) (s : State) : Host.Outcome State Fault Refusal :=
  s.onCompute fun b => b.completeOp core eng

/-! ### Ends by reset, shedding and the ladder -/

/-- Ops of an engine end with a code, without write-out; the staging registers keep their contents. -/
def Block.endOps (b : Block) (core eng code : Nat) (gone : List EOp) : Block :=
  let b := if gone.isEmpty then b else b.dropLines core eng
  let b := gone.foldl (fun b o => b.endWith core eng o code) b
  b.modEng core eng fun e => if e.nextOwner.isSome then e else { e with nextOp := none }

/-- Every op of an engine that a choice names is dropped: queued ops at once, running ops after their current tile, neither
with a write-out; an op already written out completes (R75, R234). Each gives the code. -/
def Block.dropOps (b : Block) (core eng code : Nat) (p : EOp → Bool) : Block :=
  let e := b.eng core eng
  b.endOps core eng code ((e.active.filter fun o => p o && o.phase != .written) ++ e.queue.filter p)

/-- The running op of an engine: the one that takes rows, else the first that is not complete (R324). DESIGN CHOICE: an op whose
bank waits, or whose write-out runs, beside one that takes rows is neither a suspect nor reset (notes/assumptions/120.md). -/
def Block.runningOp (b : Block) (core eng : Nat) : Option EOp :=
  ((b.eng core eng).active.find? fun o => o.phase == .running).or ((b.eng core eng).active.find? fun o => !b.opOver o)

/-- Placements of a context on their way to an engine are dropped with the code. -/
def Block.dropArrivals (b : Block) (core eng code : Nat) (p : Placement → Bool) : Block :=
  let gone := (b.eng core eng).arrivals.filter p
  let b := b.modEng core eng fun e => { e with arrivals := e.arrivals.filter fun x => !p x }
  gone.foldl (fun b x => b.ctxCode x.ctx code) b

end Sys2Proof.Machine
end

