-- ==== Sys2Proof/Machine/Vector.lean ====
section
/-! DEFINITION. The vector unit: its programs and every instruction (R84, R85, R171 to R175, R457), under the arithmetic of
R56. -/

namespace Sys2Proof.Machine

def lanes : List Nat := List.range 512

def Vec.lane (v : Vec) (r l : Nat) : Word := Tab.get 0 v.v (512 * r + l)
def Vec.pbit (v : Vec) (k l : Nat) : Bool := Tab.get false v.p (512 * k + l)
def Vec.areg (v : Vec) (k : Nat) : Dword := Tab.get 0 v.a k

/-- Lane l takes part in an instruction (R84). -/
def Vec.on (v : Vec) (w l : Nat) : Bool := viPred w == 0 || v.pbit (viPred w) l

/-- Writes the lanes of a register that a choice names. -/
def Vec.setLanes (v : Vec) (r : Nat) (on : Nat → Bool) (f : Nat → Word) : Vec :=
  { v with v := (lanes.filter on).foldl (fun t l => Tab.set 0 t (512 * r + l) (f l)) v.v }

def Vec.setBits (v : Vec) (k : Nat) (on : Nat → Bool) (f : Nat → Bool) : Vec :=
  { v with p := (lanes.filter on).foldl (fun t l => Tab.set false t (512 * k + l) (f l)) v.p }

/-! ### Programs -/

/-- DONE rises over tickets dropped once every earlier one is complete (R77). -/
def Vec.settle : Nat → Vec → Vec
  | 0, v => v
  | n + 1, v =>
    let t := (v.done + 1).toNat
    if v.refused.contains t then Vec.settle n { v with done := v.done + 1, refused := v.refused.erase t } else v

/-- The running program ends. -/
def Block.vecEnd (b : Block) (core : Nat) : Block :=
  (b.progress core 4).modVec core fun v => match v.run with
    | none => v
    | some p => Vec.settle (v.refused.length + 2) { v with run := none, refused := v.refused ++ [p.ticket] }

/-- Programs that a choice names are dropped with a code; a running one stops after its current instruction (R75). -/
def Block.dropProgs (b : Block) (core code : Nat) (p : VProg → Bool) : Block :=
  let v := (b.core core).vec
  let gone := (v.run.toList ++ v.queue).filter p
  let b := if gone.isEmpty then b else b.dropLines core 6
  let b := gone.foldl (fun b x => b.vecCode core x.ctx code) b
  b.modVec core fun v => Vec.settle (v.refused.length + gone.length + 1)
    { v with queue := v.queue.filter (fun x => !p x), run := v.run.filter (fun x => !p x)
             refused := v.refused ++ gone.map (·.ticket) }

def execVectorProgramStart (core : Nat) (s : State) : Host.Outcome State Fault Refusal :=
  s.onBlock fun b =>
    let v := (b.core core).vec
    match v.run, v.queue with
    | none, p :: rest => if b.parked || b.gated then b else b.modVec core fun v => { v with run := some p, queue := rest }
    | _, _ => b

/-- OP codes of R85. -/
def vecOps : List Nat :=
  [0x01, 0x02, 0x03, 0x04, 0x05, 0x06, 0x08, 0x10, 0x11, 0x12, 0x13, 0x14, 0x15, 0x16, 0x17, 0x18, 0x19, 0x1A, 0x1B, 0x20, 0x21,
   0x30, 0x31, 0x32, 0x3F]

/-- An invalid instruction stops the program with OP_INVALID (R75, R85, R457). -/
def Block.vecInvalid (b : Block) (core : Nat) (p : VProg) : Block := (b.vecCode core p.ctx cOpInvalid).vecEnd core

/-- A program gives codes, each once (R75). -/
def Block.progCodes (b : Block) (core : Nat) (p : VProg) (codes : List Nat) : Block :=
  codes.foldl (fun b k =>
    match (b.core core).vec.run with
    | none => b
    | some q =>
      if q.codes.contains k then b
      else (b.vecCode core p.ctx k).modVec core fun v => { v with run := some { q with codes := q.codes ++ [k] } }) b

/-- The program's next instruction lies on a failing line of the scratchpad (R91); what it reads is a free value. -/
def Block.fetchEcc (b : Block) (core : Nat) (p : VProg) : Block :=
  { b.progCodes core p [cEccUncorr] with draws := b.draws + 8 }

/-- What follows an instruction: the program goes on at the next one, or stops at an invalid field. -/
def Block.vecNext (b : Block) (core : Nat) (p : VProg) : Option Block → Block
  | none => b.vecInvalid core p
  | some b => (b.progress core 4).modVec core fun v => { v with run := v.run.map fun q => { q with pc := q.pc + 8 } }

/-- The running program's next instruction executes where its OP is `op`; `f` answers none for an invalid field. An OP that is
not in the table stops the program. -/
def Block.vecRun (b : Block) (core op : Nat) (f : Block → VProg → Nat → Option Block) : Block :=
  match (b.core core).vec.run with
  | none => b
  | some p =>
    if b.parked || b.gated then b
    else
      let w := leNat (b.rdRaw core p.pc 8)
      let b := if (b.core core).badAt p.pc 8 then b.fetchEcc core p else b
      if !vecOps.contains (viOp w) then b.vecInvalid core p
      else if viOp w != op then b
      else b.attempt core 6 p.label fun b => b.vecNext core p (f b p w)

/-- A lane-wise instruction. -/
def Block.vecLanes (b : Block) (core w : Nat) (f : Vec → Nat → Word) : Block :=
  b.modVec core fun v => v.setLanes (viVD w) (v.on w) (f v)

/-- The next instruction is a lane-wise one with OP `op`. -/
def State.vecLaneOp (s : State) (core op : Nat) (f : Nat → Vec → Nat → Word) : Host.Outcome State Fault Refusal :=
  s.onBlock fun b => b.vecRun core op fun b _ w => some (b.vecLanes core w (f w))

/-! ### Loads and stores -/

/-- A scratchpad offset that is aligned to 128 bytes, with n bytes from it within the scratchpad (R457). -/
def immOk (off n : Nat) : Bool := off % 128 == 0 && off + n ≤ scratchEnd

/-- FP32 loads: bits unchanged, NaN for an element of a failing line (R75, R457). DESIGN CHOICE: a load under a predicate
reads all 512 lanes, so a failing line or the end of the scratchpad is met for lanes that are not set as well
(notes/assumptions/91.md). -/
def execVld (core : Nat) (s : State) : Host.Outcome State Fault Refusal :=
  s.onBlock fun b => b.vecRun core 0x01 fun b p w =>
    if !immOk (viImm w) 2048 then none
    else
      let m := b.rdOperands core p.ctx (viImm w) 0 2048
      some ((b.vecLanes core w fun _ l => fp32Of ((m.drop (4 * l)).take 4)).progCodes core p (codesOf m))

/-- An aligned offset, with every byte that a store of n bytes a lane writes there within the scratchpad (R457). -/
def storeOk (v : Vec) (w off n : Nat) : Bool :=
  off % 128 == 0 && (lanes.filter (v.on w)).all fun l => off + n * l + n ≤ scratchEnd

/-- Pieces of a store under a predicate, joined where lanes are neighbours. -/
def lanePieces (v : Vec) (w n : Nat) (f : Nat → List Byte) : List (Nat × List Byte) :=
  joinRuns ((lanes.filter (v.on w)).map fun l => (n * l, f l))

def Block.vecStore (b : Block) (core : Nat) (p : VProg) (aw : Nat) (l : List (Nat × List Byte)) : Block :=
  let (b, codes) := l.foldl (fun (b, codes) q =>
    let (b, k) := b.wrOperand core p.label p.ctx aw q.1 q.2
    (b, codes ++ k)) (b, [])
  b.progCodes core p codes

def execVst (core : Nat) (s : State) : Host.Outcome State Fault Refusal :=
  s.onBlock fun b => b.vecRun core 0x02 fun b p w =>
    let v := (b.core core).vec
    if !storeOk v w (viImm w) 4 then none
    else some (b.vecStore core p (viImm w) (lanePieces v w 4 fun l => toLe 4 (v.lane (viVA w) l).toNat))

def execVldb (core : Nat) (s : State) : Host.Outcome State Fault Refusal :=
  s.onBlock fun b => b.vecRun core 0x03 fun b p w =>
    if !immOk (viImm w) 1024 then none
    else
      let m := b.rdOperands core p.ctx (viImm w) 0 1024
      some ((b.vecLanes core w fun _ l =>
        let e := (m.drop (2 * l)).take 2
        if e.any (·.bad) then nan32 else bfToF32 (leNat (opVals e))).progCodes core p (codesOf m))

/-- The random numbers of an instruction, where RMODE asks for them; the counter advances at its issue (R49). -/
def Block.vecRand (b : Block) (p : VProg) (w : Nat) : Block × Option (Nat → Nat) :=
  if viRmode w then
    let x := b.ctx p.ctx
    (b.modCtx p.ctx fun x => { x with srCtr := x.srCtr + 1 }, some (srRand x.srSeed x.srCtr))
  else (b, none)

def execVstb (core : Nat) (s : State) : Host.Outcome State Fault Refusal :=
  s.onBlock fun b => b.vecRun core 0x04 fun b p w =>
    let v := (b.core core).vec
    if !storeOk v w (viImm w) 2 then none
    else
      let (b, r) := b.vecRand p w
      some (b.vecStore core p (viImm w)
        (lanePieces v w 2 fun l => toLe 2 (toBf false (r.map fun f => f l) (v.lane (viVA w) l))))

/-- Format and offset of a narrow instruction's IMM: Q6m or Q8m, and the element bytes of 512 lanes. -/
def narrowImm (w : Nat) : Option (Nat × Nat) :=
  let f := fld (viImm w) 31 30
  let off := fld (viImm w) 29 0
  if (f == 1 || f == 2) && immOk off (elemBytes f 512) then some (f, off) else none

/-- VLDN: narrow elements with their scales at an address register. -/
def Block.vldn (b : Block) (core : Nat) (p : VProg) (w : Nat) : Option Block :=
  match narrowImm w with
  | none => none
  | some (f, off) =>
    if 8 ≤ viVA w then none
    else
      let e := b.rdOperands core p.ctx off 0 (elemBytes f 512)
      let sc := b.rdOperands core p.ctx ((b.core core).vec.areg (viVA w)).toNat 0 16
      some ((b.vecLanes core w fun _ l => vecRound (planeElemK true f e sc l).full).progCodes core p (codesOf (e ++ sc)))

def execVldn (core : Nat) (s : State) : Host.Outcome State Fault Refusal :=
  s.onBlock fun b => b.vecRun core 0x05 fun b p w => b.vldn core p w

/-- Groups of 32 lanes with any lane set. -/
def groupsOn (v : Vec) (w : Nat) : List Nat := (List.range 16).filter fun g => (List.range 32).any fun k => v.on w (32 * g + k)

/-- Format and offset of VSTN, as `narrowImm`, for the groups that it stores. -/
def narrowStore (v : Vec) (w : Nat) : Option (Nat × Nat) :=
  let f := fld (viImm w) 31 30
  let off := fld (viImm w) 29 0
  if (f == 1 || f == 2) && off % 128 == 0 && (groupsOn v w).all fun g => off + elemBytes f (32 * g + 32) ≤ scratchEnd
  then some (f, off) else none

/-- Groups of 32 lanes with any lane set, converted whole (R457). -/
def vstnGroups (v : Vec) (w : Nat) (f : Fmt) (r : Option (Nat → Nat)) : List (Nat × Group) :=
  (groupsOn v w).map fun g =>
    (g, convGroup f none r ((List.range 32).map fun k => (v.lane (viVB w) (32 * g + k), 32 * g + k)))

/-- VSTN: the groups' codes at the offset, their scales at one address register, and their amax record merged at another. -/
def Block.vstn (b : Block) (core : Nat) (p : VProg) (w : Nat) : Option Block :=
  let v := (b.core core).vec
  match narrowStore v w with
  | none => none
  | some (f, off) =>
    if 8 ≤ viVA w || 8 ≤ viVC w then none
    else
      let (b, r) := b.vecRand p w
      let gs := vstnGroups v w (if f == 1 then .q6m else .q8m) r
      let b := b.vecStore core p off (joinRuns (gs.map fun g => (elemBytes f (32 * g.1), packCodes f g.2.codes)))
      let b := b.vecStore core p (v.areg (viVA w)).toNat (joinRuns (gs.map fun g => (g.1, [BitVec.ofNat 8 g.2.scale])))
      if viVC w == 0 || gs.isEmpty then some b
      else
        let (b, codes) := b.amaxMerge core p.label p.ctx (v.areg (viVC w)).toNat ((gs.map (·.2.stats)).foldl Amax.merge Amax.zero)
        some (b.progCodes core p codes)

def execVstn (core : Nat) (s : State) : Host.Outcome State Fault Refusal :=
  s.onBlock fun b => b.vecRun core 0x06 fun b p w => b.vstn core p w

def execVseta (core : Nat) (s : State) : Host.Outcome State Fault Refusal :=
  s.onBlock fun b => b.vecRun core 0x08 fun b _ w =>
    if 8 ≤ viVD w then none
    else some (b.modVec core fun v => { v with a := Tab.set 0 v.a (viVD w) ((BitVec.ofNat 32 (viImm w)).signExtend 64) })

/-! ### Arithmetic, comparison, selection -/

def execVadd (core : Nat) (s : State) : Host.Outcome State Fault Refusal :=
  s.vecLaneOp core 0x10 fun w v l => vAdd (v.lane (viVA w) l) (v.lane (viVB w) l)

def execVsub (core : Nat) (s : State) : Host.Outcome State Fault Refusal :=
  s.vecLaneOp core 0x11 fun w v l => vSub (v.lane (viVA w) l) (v.lane (viVB w) l)

def execVmul (core : Nat) (s : State) : Host.Outcome State Fault Refusal :=
  s.vecLaneOp core 0x12 fun w v l => vMul (v.lane (viVA w) l) (v.lane (viVB w) l)

def execVfma (core : Nat) (s : State) : Host.Outcome State Fault Refusal :=
  s.vecLaneOp core 0x13 fun w v l => vFma (v.lane (viVA w) l) (v.lane (viVB w) l) (v.lane (viVC w) l)

def execVdiv (core : Nat) (s : State) : Host.Outcome State Fault Refusal :=
  s.vecLaneOp core 0x14 fun w v l => vDiv (v.lane (viVA w) l) (v.lane (viVB w) l)

def execVsqrt (core : Nat) (s : State) : Host.Outcome State Fault Refusal :=
  s.vecLaneOp core 0x15 fun w v l => vSqrt (v.lane (viVA w) l)

def vMin (a b : Word) : Word := if isNan32 a || isNan32 b then nan32 else if ordKey b < ordKey a then b else a

def execVmax (core : Nat) (s : State) : Host.Outcome State Fault Refusal :=
  s.vecLaneOp core 0x16 fun w v l => vMax (v.lane (viVA w) l) (v.lane (viVB w) l)

def execVmin (core : Nat) (s : State) : Host.Outcome State Fault Refusal :=
  s.vecLaneOp core 0x17 fun w v l => vMin (v.lane (viVA w) l) (v.lane (viVB w) l)

def vAbs (a : Word) : Word := if isNan32 a then nan32 else a &&& 0x7FFFFFFF

def execVabs (core : Nat) (s : State) : Host.Outcome State Fault Refusal :=
  s.vecLaneOp core 0x18 fun w v l => vAbs (v.lane (viVA w) l)

def execVcmplt (core : Nat) (s : State) : Host.Outcome State Fault Refusal :=
  s.onBlock fun b => b.vecRun core 0x19 fun b _ w =>
    if viVD w == 0 || 8 ≤ viVD w then none
    else some (b.modVec core fun v =>
      v.setBits (viVD w) (v.on w) fun l => (unpack32 (v.lane (viVA w) l)).lt (unpack32 (v.lane (viVB w) l)))

def execVsel (core : Nat) (s : State) : Host.Outcome State Fault Refusal :=
  s.onBlock fun b => b.vecRun core 0x1A fun b _ w =>
    if 8 ≤ viVC w then none
    else some (b.vecLanes core w fun v l =>
      if viVC w == 0 || v.pbit (viVC w) l then v.lane (viVA w) l else v.lane (viVB w) l)

def execVbcast (core : Nat) (s : State) : Host.Outcome State Fault Refusal :=
  s.vecLaneOp core 0x1B fun w _ _ => BitVec.ofNat 32 (viImm w)

/-! ### Reductions -/

/-- One level of a balanced tree with the rounding of R56. -/
def vecTreeLevel : List Word → List Word
  | a :: b :: l => vAdd a b :: vecTreeLevel l
  | l => l

def vecTree : Nat → List Word → Word
  | 0, l => l.headD 0
  | n + 1, l => vecTree n (vecTreeLevel l)

def execVredadd (core : Nat) (s : State) : Host.Outcome State Fault Refusal :=
  s.onBlock fun b => b.vecRun core 0x20 fun b _ w =>
    let v := (b.core core).vec
    let x := vecTree 9 (lanes.map fun l => if v.on w l then v.lane (viVA w) l else 0)
    some (b.vecLanes core w fun _ _ => x)

def execVredmax (core : Nat) (s : State) : Host.Outcome State Fault Refusal :=
  s.onBlock fun b => b.vecRun core 0x21 fun b _ w =>
    let v := (b.core core).vec
    let x := ((lanes.filter (v.on w)).map fun l => v.lane (viVA w) l).foldl vMax 0xFF800000
    some (b.vecLanes core w fun _ _ => x)

/-! ### Scale and optimiser instructions -/

/-- The history block after a push: the entry at HEAD, HEAD advanced modulo 16 and VALID raised up to 16 (R51). DESIGN CHOICE:
a VALID above 16 becomes 16 (notes/assumptions/91.md). -/
def histPush (bs : List Byte) (amax : Word) : List Byte :=
  let h := leNat (bs.take 8)
  let head := fld h 11 8
  let valid := fld h 4 0
  let h' := h - head * 256 - valid + (head + 1) % 16 * 256 + min 16 (valid + 1)
  overwrite (toLe 8 h' ++ bs.drop 8) (8 + 4 * head) (toLe 4 amax.toNat)

/-- The amax record behind a window, as one 8-byte access at its home reads and zeroes it (R175). -/
def Block.takeRecord (b : Block) (core c aw : Nat) : List OpByte :=
  let x := b.win c (awWin aw)
  let va := x.base + awOff aw
  let all (v code : Nat) : List OpByte := (toLe 8 v).map fun y => { val := y, bad := false, code := code }
  if x.status != 1 || !x.write then all 0 cWindowInvalid
  else if x.len < awOff aw + 8 then all 0 cWindowEdge
  else
    match b.ports.winLines.findSome? fun l => match l.ans with
        | .taken a v code => if l.core == core && l.ctx == c && a == va then some (v, code) else none
        | _ => none with
    | some (v, code) => all v code
    | none => all 0 (needLine va 3)

/-- VSCUPD: the amax record is read, and zeroed where IMM says so; its maximum is pushed into the history block. -/
def Block.vscupd (b : Block) (core : Nat) (p : VProg) (w : Nat) : Option Block :=
  let v := (b.core core).vec
  if 8 ≤ viVA w || 8 ≤ viVB w || viImm w / 2 != 0 then none
  else
    let ra := (v.areg (viVA w)).toNat
    let ha := (v.areg (viVB w)).toNat
    let take := viImm w == 1 && awWindow ra
    let raw := if take then b.takeRecord core p.ctx ra else b.rdOperands core p.ctx ra 0 8
    let rec8 := Amax.ofDword (BitVec.ofNat 64 (leNat (opVals raw)))
    let b := if viImm w == 1 && !take then b.vecStore core p ra [(0, toLe 8 0)] else b
    let blk := b.rdOperands core p.ctx ha 0 72
    let b := b.vecStore core p ha [(0, histPush (opVals blk) rec8.amax)]
    let out : List Word := [rec8.amax, natToF32 rec8.sat, natToF32 rec8.floored, natToF32 (if rec8.nonfinite then 1 else 0)]
    some ((b.vecLanes core w fun _ l => out.getD l 0).progCodes core p (codesOf (raw ++ blk)))

def execVscupd (core : Nat) (s : State) : Host.Outcome State Fault Refusal :=
  s.onBlock fun b => b.vecRun core 0x30 fun b p w => b.vscupd core p w

/-- The optimiser record's FP32 fields and FLAGS (R173), with the codes met. -/
def Block.optRecord (b : Block) (core ctx off : Nat) : List Word × Nat × List Nat :=
  let m := b.rdOperands core ctx off 0 64
  ((List.range 10).map fun i => fp32Of ((m.drop (4 * i)).take 4), leNat (opVals ((m.drop 48).take 4)), codesOf m)

def negW (w : Word) : Word := w ^^^ 0x80000000

/-- One lane of AdamW: w, m and v after the step (R171). -/
def adamw (f : Nat → Word) (w g0 m v : Word) : Word × Word × Word :=
  let g := vMul g0 (f 7)
  let m := vFma (f 1) m (vMul (f 2) g)
  let v := vFma (f 3) v (vMul (vMul (f 4) g) g)
  let d := vDiv (vMul m (f 8)) (vAdd (vSqrt (vMul v (f 9))) (f 5))
  (vFma (negW (f 0)) (vFma (f 6) w d) w, m, v)

/-- One lane of SGD with momentum: w and b after the step (R172). -/
def sgdm (f : Nat → Word) (nesterov : Bool) (w g0 m : Word) : Word × Word :=
  let g := vFma (f 6) w (vMul g0 (f 7))
  let m := vFma (f 1) m g
  let s := if nesterov then vFma (f 1) m g else m
  (vFma (negW (f 0)) s w, m)

/-- SKIPNF keeps a lane whose VA × GSCALE is infinite or NaN (R174). -/
def skipLane (skip : Bool) (g0 gs : Word) : Bool := skip && !(unpack32 (vMul g0 gs)).isNum

def execVadamw (core : Nat) (s : State) : Host.Outcome State Fault Refusal :=
  s.onBlock fun b => b.vecRun core 0x31 fun b p w =>
    if !immOk (viImm w) 64 then none
    else
      let (fs, flags, codes) := b.optRecord core p.ctx (viImm w)
      let f i := fs.getD i 0
      let skip := bit flags 0
      let b := b.modVec core fun v =>
        let kept l := skipLane skip (v.lane (viVA w) l) (f 7)
        let on l := v.on w l && !kept l
        let r l := adamw f (v.lane (viVD w) l) (v.lane (viVA w) l) (v.lane (viVB w) l) (v.lane (viVC w) l)
        let v1 := v.setLanes (viVB w) on fun l => (r l).2.1
        let v2 := v1.setLanes (viVC w) on fun l => (r l).2.2
        let v3 := v2.setLanes (viVD w) on fun l => (r l).1
        if skip then v3.setBits 7 (fun _ => true) fun l => v.on w l && kept l else v3
      some (b.progCodes core p codes)

def execVsgdm (core : Nat) (s : State) : Host.Outcome State Fault Refusal :=
  s.onBlock fun b => b.vecRun core 0x32 fun b p w =>
    if !immOk (viImm w) 64 || viVC w != 0 then none
    else
      let (fs, flags, codes) := b.optRecord core p.ctx (viImm w)
      let f i := fs.getD i 0
      let skip := bit flags 0
      let b := b.modVec core fun v =>
        let kept l := skipLane skip (v.lane (viVA w) l) (f 7)
        let on l := v.on w l && !kept l
        let r l := sgdm f (bit flags 1) (v.lane (viVD w) l) (v.lane (viVA w) l) (v.lane (viVB w) l)
        let v1 := v.setLanes (viVB w) on fun l => (r l).2
        let v2 := v1.setLanes (viVD w) on fun l => (r l).1
        if skip then v2.setBits 7 (fun _ => true) fun l => v.on w l && kept l else v2
      some (b.progCodes core p codes)

def execVend (core : Nat) (s : State) : Host.Outcome State Fault Refusal :=
  s.onBlock fun b =>
    match (b.core core).vec.run with
    | none => b
    | some p =>
      if b.parked || b.gated then b
      else
        let w := leNat (b.rdRaw core p.pc 8)
        let b := if (b.core core).badAt p.pc 8 then b.fetchEcc core p else b
        if !vecOps.contains (viOp w) then b.vecInvalid core p
        else if viOp w == 0x3F then b.vecEnd core
        else b

end Sys2Proof.Machine
end

