-- ==== Sys2Proof/Machine/Harts.lean ====
section
/-! DEFINITION. The control processors: registers, CSRs and traps (R86 to R88, R253), the engine-dispatch extension (R87), the
launch and notification CSRs (R253, R262). -/

namespace Sys2Proof.Machine

/-! ### Registers, traps and stalls -/

def Hart.reg (h : Hart) (r : Nat) : Dword := if r == 0 then 0 else Tab.get 0 h.x r

/-- Register x0 discards writes. -/
def Hart.setReg (h : Hart) (r : Nat) (v : Dword) : Hart := if r == 0 then h else { h with x := Tab.set 0 h.x r v }

def Hart.csrGet (h : Hart) (n : Nat) : Dword := Tab.get 0 h.csr n
def Hart.csrSet (h : Hart) (n : Nat) (v : Dword) : Hart := { h with csr := Tab.set 0 h.csr n v }

/-- The next instruction; every row of the table is a 32-bit instruction (notes/assumptions/25.md). -/
def Hart.step4 (h : Hart) : Hart := { h with pc := h.pc + 4, stall := none }

/-- mstatus at a trap: MPP the mode left, MPIE the old MIE, MIE 0 (RISC-V; notes/assumptions/26.md). -/
def trapStatus (old : Nat) (machine : Bool) : Nat :=
  old - fld old 12 11 * 2048 - fld old 7 7 * 128 - fld old 3 3 * 8 + (if machine then 3 * 2048 else 0) + fld old 3 3 * 128

/-- A trap to machine mode: mepc, mcause, mtval and mstatus are written, and the hart goes on at mtvec. -/
def Hart.trap (h : Hart) (cause : Nat) (tval : Dword) : Hart :=
  let st := BitVec.ofNat 64 (trapStatus (h.csrGet 0x300).toNat h.machine)
  let h' := (((h.csrSet 0x341 h.pc).csrSet 0x342 (BitVec.ofNat 64 cause)).csrSet 0x343 tval).csrSet 0x300 st
  { h' with machine := true, stall := none, reservation := none, pc := h.csrGet 0x305 &&& ~~~(3 : Dword) }

/-- Exception causes of RISC-V that the block names. -/
def cIllegal : Nat := 2
def cFetchFault : Nat := 1
def cLoadFault : Nat := 5
def cStoreFault : Nat := 7

/-- The hart runs, or stands at the stall given, which the same instruction tries again. -/
def Hart.canRun (h : Hart) (retry : Stall → Bool) : Bool :=
  !h.halted && match h.stall with
    | none => true
    | some x => retry x

/-- The effect of one instruction on a hart that can run it. -/
def Block.onHart (b : Block) (core : Nat) (retry : Stall → Bool) (f : Hart → Block) : Block :=
  let h := (b.core core).hart
  if h.canRun retry && !b.gated then f h else b

/-- The queue of the hart's launch. -/
def Hart.launchQ (h : Hart) : Option Nat := h.launch.map (·.queue)

/-- Work from the hart's launch is suspended at the level in force (R402). -/
def Block.launchHeld (b : Block) (core : Nat) : Bool :=
  match (b.core core).hart.launchQ with
  | none => false
  | some q => b.suspended (b.core core).owner (b.queue q).cls

/-! ### Issue (R76, R85, R87) -/

/-- An engine issue that must wait: the queue is full, the launch is suspended, or a replay turn holds the unit. -/
def Block.issueWaits (b : Block) (core eng off ctx : Nat) : Bool :=
  16 ≤ (b.eng core eng).queue.length || b.launchHeld core || b.turnHeld core eng ctx (dAdapt (b.readDesc core off))

/-- A vector issue that must wait: the program queue holds 4 entries, or as above. -/
def Block.vecWaits (b : Block) (core ctx : Nat) : Bool :=
  4 ≤ (b.core core).vec.queue.length || b.launchHeld core || b.turnHeld core 4 ctx false

/-- The class label of work that a control processor issues (R264). -/
def Block.hartLabel (b : Block) (core : Nat) : Nat :=
  match (b.core core).hart.launchQ with
  | some q => (b.queue q).label
  | none => (b.ctx (b.core core).hart.zhCtx).label

/-- A vector program joins the program queue; the ticket is the next of unit 4. -/
def Block.vecJoin (b : Block) (core off : Nat) (h : Hart) : Block :=
  (b.touchCtx h.zhCtx).modVec core fun v =>
    { v with issued := v.issued + 1
             queue := v.queue ++ [{ ticket := (v.issued + 1).toNat, pc := off, ctx := h.zhCtx
                                    label := b.hartLabel core, codes := [] }] }

/-- vec.issue, and eng.issue on unit 4. -/
def Block.vecIssue (b : Block) (core rd off : Nat) (h : Hart) : Block :=
  if b.vecWaits core h.zhCtx then b.modHart core fun x => { x with stall := some (.issue 4) }
  else
    let t := BitVec.ofNat 64 ((b.core core).vec.issued + 1).toNat
    (b.vecJoin core off h).modHart core fun x => (x.setReg rd t).step4

/-- eng.issue. DESIGN CHOICE: the low 22 bits of rs1 are the scratchpad offset, taken as it is where it is misaligned; a byte
beyond the scratchpad reads zero (notes/assumptions/91.md). -/
def execEngIssue (core rd rs1 rs2 : Nat) (s : State) : Host.Outcome State Fault Refusal :=
  s.onBlock fun b =>
    let unit := dfld ((b.core core).hart.reg rs2) 2 0
    let off := dfld ((b.core core).hart.reg rs1) 21 0
    b.onHart core (fun x => x == .issue unit) fun h =>
      if 5 ≤ unit then b.modHart core fun x => x.trap cIllegal 0
      else if unit == 4 then b.vecIssue core rd off h
      else if b.issueWaits core unit off h.zhCtx then b.modHart core fun x => { x with stall := some (.issue unit) }
      else
        let t := BitVec.ofNat 64 ((b.eng core unit).issued + 1).toNat
        b.attemptOr core unit (b.hartLabel core) (fun b => b.modHart core fun x => { x with stall := some (.issue unit) }) fun b =>
          (b.acceptOp core unit off h.zhCtx (.hart h.launchQ) (b.hartLabel core)).modHart core fun x => (x.setReg rd t).step4

def execVecIssue (core rd rs1 : Nat) (s : State) : Host.Outcome State Fault Refusal :=
  s.onBlock fun b => b.onHart core (fun x => x == .issue 4) fun h => b.vecIssue core rd (dfld (h.reg rs1) 21 0) h

/-- DONE of a unit. -/
def Block.unitDone (b : Block) (core unit : Nat) : BitVec 16 :=
  if unit == 4 then (b.core core).vec.done else (b.eng core unit).done

def execEngWait (core rs1 rs2 : Nat) (s : State) : Host.Outcome State Fault Refusal :=
  s.onBlock fun b =>
    let unit := dfld ((b.core core).hart.reg rs2) 2 0
    let t := dfld ((b.core core).hart.reg rs1) 15 0
    b.onHart core (fun x => x == .ticket unit t) fun _ =>
      if 5 ≤ unit then b.modHart core fun x => x.trap cIllegal 0
      else if ticketDone (b.unitDone core unit) t then b.modHart core Hart.step4
      else b.modHart core fun x => { x with stall := some (.ticket unit t) }

/-- The status word of a unit (R87). -/
def Block.unitStat (b : Block) (core unit : Nat) : Dword :=
  if unit == 4 then (b.core core).vec.stat else (b.eng core unit).stat

def execEngStat (core rd rs2 : Nat) (s : State) : Host.Outcome State Fault Refusal :=
  s.onBlock fun b =>
    let unit := dfld ((b.core core).hart.reg rs2) 2 0
    b.onHart core (fun _ => false) fun _ =>
      if 5 ≤ unit then b.modHart core fun x => x.trap cIllegal 0
      else b.modHart core fun x => (x.setReg rd (b.unitStat core unit)).step4

/-- Line l of the scratchpad lies wholly within [a, a + n). -/
def lineWithin (a n l : Nat) : Bool := a ≤ 128 * l && 128 * l + 128 ≤ a + n

/-- tag.clr (R81, R87, R91): every line wholly covered reads as zero, and its poison ends. -/
def Core.tagClr (c : Core) (a n : Nat) : Core :=
  { c with scratch := c.scratch.filter (fun x => !lineWithin a n (x.1 / 128))
           tags := c.tags.filter (fun x => !lineWithin a n x.1)
           poison := c.poison.filter fun x => !lineWithin a n x.1 }

def execTagClr (core rs1 rs2 : Nat) (s : State) : Host.Outcome State Fault Refusal :=
  s.onBlock fun b => b.onHart core (fun _ => false) fun h =>
    (b.modCore core fun c => c.tagClr (h.reg rs1).toNat (h.reg rs2).toNat).modHart core Hart.step4

/-- Every op and program that the core's control processor issued has completed (R87, R253). -/
def Core.ownDone (c : Core) : Bool :=
  c.vec.run.isNone && c.vec.queue.isEmpty && c.vec.refused.isEmpty &&
    (List.range 4).all fun e =>
      (((c.eng e).queue ++ (c.eng e).active).all fun o => !o.issuer.isHart) &&
        !((c.eng e).refused.any fun t => (c.eng e).refusedHart.contains t)

def execFenceEng (core : Nat) (s : State) : Host.Outcome State Fault Refusal :=
  s.onBlock fun b => b.onHart core (fun x => x == .fence) fun _ =>
    if (b.core core).ownDone then b.modHart core Hart.step4
    else b.modHart core fun x => { x with stall := some .fence }

/-! ### CSRs (R88, R253, R262) -/

/-- zh.core: instance, cluster, core within the cluster and slice ID. -/
def Block.zhCore (b : Block) (core : Nat) : Nat :=
  b.start.inst * 8192 + core / 8 * 1024 + core % 8 * 128 + (b.core core).owner

/-- zh.launch as firmware reads it. -/
def Hart.launchWord (h : Hart) : Dword :=
  match h.launch with
  | none => 0
  | some l => BitVec.ofNat 64 ((if l.code.isNone then 2 ^ 63 else 0) + (if l.resetReq then 2 ^ 62 else 0) + l.queue * 2 ^ 40 +
      l.entry % 2 ^ 32)

/-- zh.fnote: the next notification, or 0. -/
def Hart.noteWord (h : Hart) : Dword :=
  match h.notes with
  | [] => 0
  | f :: _ => BitVec.ofNat 64 (2 ^ 63 + (if h.noteOverflow then 2 ^ 62 else 0) + f)

/-- What a CSR of the block reads; the standard CSRs as the hart holds them. -/
def Block.csrRead (b : Block) (core n : Nat) : Dword :=
  let h := (b.core core).hart
  match n with
  | 0xCC0 => b.stamp
  | 0xCC1 => BitVec.ofNat 64 h.zhCtx
  | 0xCC2 => BitVec.ofNat 64 (b.zhCore core)
  | 0xCC3 => (b.core core).roleGen.zeroExtend 64
  | 0xCC4 => h.launchWord
  | 0xCC5 => (h.launch.map (·.pc)).getD 0
  | 0xCC6 => (h.launch.map (·.arg)).getD 0
  | 0xCC7 => h.noteWord
  | n => h.csrGet n

/-- A CSR instruction may read, and write, the CSR in the hart's mode: the CSRs of R88 read in both modes, and only zh.ctx is
written, in machine mode; the others are machine mode's. -/
def csrAllowed (machine : Bool) (n : Nat) (writes : Bool) : Bool :=
  if 0xCC0 ≤ n && n ≤ 0xCC3 then !writes || (machine && n == 0xCC1)
  else machine && !(0xCC4 ≤ n && writes)

def csrNew (op : CsrOp) (old v : Dword) : Dword :=
  match op with
  | .write => v
  | .set => old ||| v
  | .clear => old &&& ~~~v

/-- A CSR takes a value: zh.ctx its 20 bits, a standard CSR all of them. PRESUMED: the CSR instructions of RISC-V, with every bit of
a standard CSR written (notes/assumptions/129.md). -/
def Hart.csrPut (h : Hart) (n : Nat) (v : Dword) : Hart :=
  if n == 0xCC1 then { h with zhCtx := dfld v 19 0 } else h.csrSet n v

/-- A CSR instruction: the old value goes to rd. One that is not allowed is an illegal instruction (R88). -/
def Block.csrAccess (b : Block) (core : Nat) (h : Hart) (rd n : Nat) (w : Option (CsrOp × Nat)) : Block :=
  if csrAllowed h.machine n w.isSome then
    let old := b.csrRead core n
    b.modHart core fun x =>
      let x := match w with
        | none => x
        | some (op, rs) => x.csrPut n (csrNew op old (h.reg rs))
      (x.setReg rd old).step4
  else b.modHart core fun x => x.trap cIllegal 0

/-- Firmware ends the launch (R253); in user mode the CSR does not exist. -/
def execZhLaunchWrite (core : Nat) (value : Dword) (s : State) : Host.Outcome State Fault Refusal :=
  s.onBlock fun b => b.onHart core (fun _ => false) fun h =>
    if !h.machine then b.modHart core fun x => x.trap cIllegal 0
    else b.modHart core fun x =>
      { x.step4 with launch := x.launch.map fun l => { l with code := some (l.code.getD (dfld value 7 0)) }, extIrq := false }

/-- A read of zh.fnote takes the notification (R262). -/
def execZhFnoteRead (core rd : Nat) (s : State) : Host.Outcome State Fault Refusal :=
  s.onBlock fun b => b.onHart core (fun _ => false) fun h =>
    b.modHart core fun x =>
      { (x.setReg rd h.noteWord).step4 with
        notes := h.notes.drop 1, noteOverflow := if h.notes.isEmpty then h.noteOverflow else false }

/-- The exception of an access that fails (R206). -/
def accessCause : AccessKind → Nat
  | .load => cLoadFault
  | .store => cStoreFault
  | .fetch => cFetchFault

/-- The translation of the context in zh.ctx fails for the access (R86, R206). -/
def Block.cpFails (b : Block) (core : Nat) (va : Nat) (write : Bool) : Bool :=
  scratchEnd ≤ va &&
    match (b.walk (b.core core).hart.zhCtx (va % 2 ^ 57) write).1 with
    | .fail _ _ _ => true
    | _ => false

def execCpAccessFault (core : Nat) (kind : AccessKind) (va : Dword) (s : State) : Host.Outcome State Fault Refusal :=
  s.onBlock fun b => b.onHart core (fun _ => false) fun _ =>
    if b.cpFails core va.toNat (kind == .store) then b.modHart core fun x => x.trap (accessCause kind) va else b

/-! ### Launches (R253) -/

/-- A launch starts on a core: zh.ctx, the launch CSRs and the machine external interrupt. -/
def Hart.begin (h : Hart) (l : Launch) : Hart := { h with launch := some l, zhCtx := l.ctx, extIrq := true }

/-- A launch joins the core's launches, which run one at a time in the order granted. -/
def Hart.addLaunch (h : Hart) (l : Launch) : Hart :=
  if h.launch.isNone then h.begin l else { h with waitingLaunches := h.waitingLaunches ++ [l] }

/-- The launch is over; the next one starts. -/
def Hart.endLaunch (h : Hart) : Hart :=
  match h.waitingLaunches with
  | [] => { h with launch := none }
  | l :: rest => { h with waitingLaunches := rest }.begin l

/-- A hart as a restart leaves it: machine mode at an entry point, or halted (R184, R190, R318). -/
def Hart.restart (h : Hart) (entry : Option Dword) : Hart :=
  match entry with
  | none => { h with halted := true, stall := none, reservation := none }
  | some pc => { Hart.reset with halted := false, pc := pc, machine := true, inbox := h.inbox }

end Sys2Proof.Machine
end

