-- ==== Sys2Proof/Machine/Xlat.lean ====
section
/-! DEFINITION. The translation unit's registers and engine: fault records and their ring (R211 to R215), invalidation (R216 to
R218), migration and advice (R219 to R221), SET_WINDOW (R208), the pool and the device-side allocator (R226 to R229). -/

namespace Sys2Proof.Machine

/-! ### The fault ring (R211 to R214) -/

def FaultRec.words (r : FaultRec) : List Nat :=
  [r.va / 65536 * 65536,
   r.cause * 2 ^ 60 + r.level * 2 ^ 57 + (if r.write then 2 ^ 56 else 0) + r.adv * 2 ^ 54 + r.queue * 2 ^ 40 +
     r.gen.toNat * 2 ^ 32 + r.agent * 2 ^ 24 + r.ctx, r.stamp.toNat, r.channel]

def FaultRec.bytes (r : FaultRec) : List Byte := r.words.flatMap (toLe 8)

/-- The fault ring is configured (R214). -/
def Block.ringReady (b : Block) (n : Nat) : Bool :=
  let x := (b.slice n).xlat
  4 ≤ x.faultSize && x.faultSize ≤ 12 && x.faultBase != 0 && x.faultBase.toNat % 128 == 0 &&
    b.ownRange n x.faultBase.toNat (32 * 2 ^ x.faultSize)

/-- The ring takes another record (R213). -/
def Block.ringRoom (b : Block) (n : Nat) : Bool :=
  let x := (b.slice n).xlat
  b.ringReady n && (x.faultHead - x.faultTail).toNat != 2 ^ x.faultSize

/-- Writes a record at HEAD, increments HEAD and raises TRANSLATION_FAULT (R213). -/
def Block.putFault (b : Block) (n : Nat) (r : FaultRec) : Block :=
  let x := (b.slice n).xlat
  let b := (b.wrOwn n (x.faultBase.toNat + 32 * (x.faultHead.toNat % 2 ^ x.faultSize)) r.bytes).modXlat n fun x =>
    { x with faultHead := x.faultHead + 1 }
  if (b.slice n).xlat.faultHead != (b.slice n).xlat.faultTail then b.irq n 1 else b

/-- Held faults are written in order while the ring has room. -/
def Block.drainFaults (n : Nat) : List FaultRec → Block → Block
  | [], b => b.modXlat n fun x => { x with held := [] }
  | r :: l, b => if b.ringRoom n then Block.drainFaults n l (b.putFault n r) else b.modXlat n fun x => { x with held := r :: l }

/-- A new fault: written, or held while the ring is full or unconfigured (R213, R214). -/
def Block.newFault (b : Block) (n : Nat) (r : FaultRec) : Block :=
  let held := (b.slice n).xlat.held
  let b := Block.drainFaults n (held ++ [r]) b
  if !b.ringReady n && held.isEmpty then b.irq n 1 else b

def execZhFaultTailWrite (slice : Nat) (v : Word) (s : State) : Host.Outcome State Fault Refusal :=
  s.onHost fun b =>
    if (b.slice slice).st == .none then b
    else
      let b := b.modXlat slice fun x => { x with faultTail := v }
      Block.drainFaults slice (b.slice slice).xlat.held b

/-- A write to ZH_FAULT_BASE or ZH_FAULT_SIZE, ignored while HEAD ≠ TAIL (R213). -/
def execFaultRingConfig (slice : Nat) (base : Option Dword) (size : Option Word) (s : State) :
    Host.Outcome State Fault Refusal :=
  s.onHost fun b =>
    let x := (b.slice slice).xlat
    if (b.slice slice).st == .none || x.faultHead != x.faultTail then b
    else
      let b := b.modXlat slice fun x =>
        { x with faultBase := base.getD x.faultBase, faultSize := (size.map fun v => fld v.toNat 3 0).getD x.faultSize }
      Block.drainFaults slice (b.slice slice).xlat.held b

/-! ### Invalidation (R216 to R218) -/

/-- An access range and a span intersect; length 0 is the whole address space. -/
def Inval.meets (i : Inval) (va len : Nat) : Bool := i.len == 0 || (va < i.va + i.len && i.va < va + len)

/-- The invalidation names context c of slice n. -/
def Block.invalHits (b : Block) (n : Nat) (i : Inval) (c : Nat) : Bool :=
  (b.ctx c).slice == n && (i.ctx.isNone || i.ctx == some c)

/-- The transfer has a request outstanding under a translation that the invalidation drops. -/
def Block.invalDma (b : Block) (n : Nat) (i : Inval) (d : Dma) : Bool :=
  d.fetch.isSome && b.invalHits n i d.ctx &&
    ([d.src + d.pos, d.dst + d.pos].any fun va => i.meets (va / 65536 * 65536) 65536)

/-- The window request is outstanding under a window that the invalidation revokes. -/
def Block.invalUse (b : Block) (n : Nat) (i : Inval) (u : RemoteUse) : Bool :=
  match u with
  | .window c va => b.invalHits n i c && i.meets va 128
  | .winRead _ _ c va => b.invalHits n i c && i.meets va 128
  | .winTake _ _ c va => b.invalHits n i c && i.meets va 128
  | _ => false

/-- Steps 2 to 4 of R216: cached entries are dropped, windows revoked, and what is outstanding under them is noted. -/
def Block.startInval (b : Block) (n : Nat) (i : Inval) : Block :=
  let hit (c : Nat) : Bool := i.ctx.isNone || i.ctx == some c
  let b := b.modXlat n fun x =>
    { x with tlb := x.tlb.filter (fun t => !(hit t.ctx && i.meets t.va (leafSpan t.level)))
             invalDmas := (b.dmas.filter (b.invalDma n i)).map fun d => (d.agent, d.channel, d.pos)
             invalTags := (b.ports.remote.filter fun u => b.invalUse n i u.2).map (·.1) }
  b.each ((b.ctxsOf n).filter hit) fun c b => b.each (List.range 8) fun w b =>
    let y := b.win c w
    if y.status == 1 && i.meets y.base y.len then b.setWinStatus c w 3 0 else b

/-- An invalidation joins the slice's engine, which serves one at a time in arrival order (R216). -/
def Block.addInval (b : Block) (n : Nat) (i : Inval) : Block :=
  let idle := (b.slice n).xlat.invals.isEmpty
  let b := b.modXlat n fun x => { x with invals := x.invals ++ [i] }
  if idle then b.startInval n i else b

/-- ZH_INVAL_CTRL written (R212, R216): a write of GO while GO reads 1 is ignored and sets OVERRUN. -/
def execInvalidation (slice : Nat) (ctrl : Word) (s : State) : Host.Outcome State Fault Refusal :=
  s.onHost fun b =>
    if (b.slice slice).st == .none then b
    else
      let b := if ctrl.getLsbD 30 then b.modXlat slice fun x => { x with overrun := false } else b
      let was := (b.slice slice).xlat.go
      if was && ctrl.getLsbD 31 then b.modXlat slice fun x => { x with overrun := true }
      else
        let b := b.modXlat slice fun x =>
          { x with genBump := ctrl.getLsbD 26, allCtx := ctrl.getLsbD 25, ctx := fld ctrl.toNat 19 0, go := was || ctrl.getLsbD 31 }
        let x := (b.slice slice).xlat
        if x.go && !was then
          b.addInval slice { ctx := if x.allCtx then none else some x.ctx, va := x.invalVa.toNat, len := x.invalLen.toNat
                             bump := x.genBump && !x.allCtx, use := .reg }
        else b

/-- Every access that was outstanding under a dropped translation or a revoked window has completed (step 4 of R216). -/
def Block.invalAcked (b : Block) (n : Nat) (i : Inval) : Bool :=
  let x := (b.slice n).xlat
  (x.invalDmas.all fun y => b.dmas.all fun d => (d.agent, d.channel, d.pos) != y || d.fetch.isNone) &&
    x.invalTags.all fun t => ((Tab.find b.ports.remote t).map fun u => !b.invalUse n i u).getD true

/-! ### The heap and the pool (R226 to R228) -/

def Block.heapBit (b : Block) (c i : Nat) : Bool :=
  ((b.rdOwn (b.ctx c).slice ((b.ctx c).heapMap + i / 8) 1).getD 0 0).getLsbD (i % 8)

/-- Sets or clears bits [first, first + n) of HEAP_MAP. -/
def Block.setHeap (b : Block) (c first n : Nat) (v : Bool) : Block :=
  b.each (List.range n) fun j b =>
    let a := (b.ctx c).heapMap + (first + j) / 8
    let y := (b.rdOwn (b.ctx c).slice a 1).getD 0 0
    b.wrOwn (b.ctx c).slice a [if v then bvSet y ((first + j) % 8) else bvClr y ((first + j) % 8)]

/-- The lowest run of `n` clear bits below `total`. -/
def lowestRun (used : Nat → Bool) (total n : Nat) : Option Nat :=
  (List.range (total + 1 - n)).find? fun s => s + n ≤ total && (List.range n).all fun j => !used (s + j)

/-- The place of entry i of the pool ring. -/
def XlatRegs.poolPlace (x : XlatRegs) (i : Nat) : Nat := x.poolBase.toNat + 8 * ((x.poolHead + i) % 2 ^ x.poolSize)

/-- The pool ring is placed (R212, R226). -/
def Block.poolReady (b : Block) (n : Nat) : Bool :=
  let x := (b.slice n).xlat
  10 ≤ x.poolSize && x.poolSize ≤ 24 && b.ownRange n x.poolBase.toNat (8 * 2 ^ x.poolSize)

/-- A page that the pool may hold: aligned and the slice's own (R226). -/
def Block.poolPage (b : Block) (n a : Nat) : Bool := a % 65536 == 0 && b.ownRange n a 65536

/-- Appends a page that passes R200 to the pool ring, while it has room (R229). -/
def Block.poolPut (b : Block) (n a : Nat) : Block :=
  let x := (b.slice n).xlat
  if b.poolPage n a && b.poolReady n && x.poolCount < 2 ^ x.poolSize then
    (b.wrOwn n (x.poolPlace x.poolCount) (toLe 8 a)).modXlat n fun x => { x with poolCount := x.poolCount + 1 }
  else b

def execZhPoolAdd (slice : Nat) (v : Dword) (s : State) : Host.Outcome State Fault Refusal :=
  s.onHost fun b =>
    let x := (b.slice slice).xlat
    if (b.slice slice).st == .none then b
    else if b.poolPage slice v.toNat && b.poolReady slice && x.poolCount < 2 ^ x.poolSize then b.poolPut slice v.toNat
    else b.modXlat slice fun x => { x with poolRefused := min 65535 (x.poolRefused + 1) }

/-- The place of the level-1 entry of a page, walking the context's tables from the level given. -/
def Block.leafPlaceFrom (b : Block) (n va : Nat) : Nat → Nat → Option Nat
  | 0, _ => none
  | 1, table => some (table + 8 * ptIndex 1 va)
  | level + 2, table =>
    let e := b.rdOwn64 n (table + 8 * ptIndex (level + 2) va)
    if (b.pteFault n (level + 2) e false).isSome || pteLeaf e then none else b.leafPlaceFrom n va (level + 1) (pteAddr e)

/-- The place of the level-1 entry of a page; none where a table is missing or a larger page is mapped. -/
def Block.leafPlace (b : Block) (c va : Nat) : Option Nat :=
  let x := b.ctx c
  if b.ownRange x.slice x.ptRoot 4096 && x.ptRoot % 4096 == 0 then b.leafPlaceFrom x.slice va 5 x.ptRoot else none

/-- A leaf of the allocator: V, W, LEAF, ADV 0 and the key (R227). -/
def heapLeaf (addr key : Nat) : Nat := key * 2 ^ 58 + addr + 13

/-! ### What follows an invalidation -/

/-- The free of R228, after its leaves are cleared and invalidated: bits cleared, pages to the pool. -/
def Block.freeDone (b : Block) (p : PendFree) (pages : List Nat) : Block :=
  let x := b.ctx p.ctx
  (b.setHeap p.ctx ((p.va - x.heapBase) / 65536) p.pages false).each pages fun a b => b.poolPut x.slice a

/-- Clears the leaves of a pending free; answers the pages they named. -/
def Block.clearLeaves (b : Block) (p : PendFree) : Block × List Nat :=
  (List.range p.pages).foldl (fun (b, l) i =>
    match b.leafPlace p.ctx (p.va + 65536 * i) with
    | none => (b, l)
    | some a =>
      let e := b.rdOwn64 (b.ctx p.ctx).slice a
      (b.wrOwn (b.ctx p.ctx).slice a (toLe 8 0), if pteV e && pteTarget e == 0 then l ++ [pteAddr e] else l)) (b, [])

/-- Marks a started command as done with its own work. -/
def Block.cmdDone (b : Block) (q k : Nat) : Block := b.modCmd q k fun c => { c with finished := true }

/-- Step 7 of R220, and the command's next page. -/
def Block.migrDone (b : Block) (n : Nat) (m : Migr) : Block :=
  let b := (b.wrOwn n m.listAt (toLe 8 (pteAddr m.leaf + 1))).modXlat n fun x => { x with migrating := none }
  b.modCmd m.q m.k fun c =>
    { c with progress := c.progress + 1, finished := c.finished || fld (c.w 5) 31 0 ≤ c.progress + 1 }

/-- The context's pending frees complete with its teardown (R218). -/
def Block.teardownFrees (b : Block) (n c : Nat) : Block :=
  let gone := (b.slice n).xlat.frees.filter fun p => p.ctx == c
  let b := b.modXlat n fun x => { x with frees := x.frees.filter fun p => p.ctx != c }
  gone.foldl (fun b p =>
    let (b, pages) := b.clearLeaves p
    b.freeDone p pages) b

/-- An invalidation of step 4 of R305: its context may have left the slice's range meanwhile (R300). -/
def InvalUse.isVi : InvalUse → Bool
  | .vi _ => true
  | _ => false

/-- Step 5 of R216, with what waited for the invalidation. -/
def Block.invalDone (b : Block) (n : Nat) (i : Inval) : Block :=
  let b := b.modXlat n fun x => { x with invalDone := x.invalDone + 1, go := x.go && i.use != .reg }
  let b := match i.ctx with
    | some c =>
      if i.bump && (b.ctxInRange n c || i.use.isVi) then
        let b := b.modCtx c fun x => { x with gen := x.gen + 1 }
        if i.len == 0 then b.teardownFrees n c else b
      else b
    | none => b
  match i.use with
  | .reg => b
  | .vi _ => b
  | .reconf => b
  | .advise q k => b.cmdDone q k
  | .free p pages => b.freeDone p pages
  | .migrate =>
    match (b.slice n).xlat.migrating with
    | none => b
    | some m => b.migrDone n m

def execInvalidationComplete (slice : Nat) (s : State) : Host.Outcome State Fault Refusal :=
  s.onCompute fun b =>
    match (b.slice slice).xlat.invals with
    | [] => b
    | i :: rest =>
      if b.invalAcked slice i then
        let b := (b.modXlat slice fun x => { x with invals := rest }).invalDone slice i
        match (b.slice slice).xlat.invals with
        | [] => b
        | j :: _ => b.startInval slice j
      else b

/-! ### The device-side allocator (R227, R228) -/

/-- The result word of a failed request. -/
def allocErr (code : Nat) : Dword := BitVec.ofNat 64 (2 ^ 63 + code)

/-- The places of the level-1 entries of a run of pages; none where one is missing. -/
def Block.leafPlaces (b : Block) (c va n : Nat) : Option (List Nat) :=
  (List.range n).foldr (fun i l =>
    match l, b.leafPlace c (va + 65536 * i) with
    | some l, some a => some (a :: l)
    | _, _ => none) (some [])

/-- The first `k` pages of the pool; none where one does not pass R200 (R229). -/
def Block.poolTake (b : Block) (n k : Nat) : Option (List Nat) :=
  let x := (b.slice n).xlat
  if b.poolReady n && k ≤ x.poolCount then
    let l := (List.range k).map fun i => b.rdOwn64 n (x.poolPlace i)
    if l.all (b.poolPage n) then some l else none
  else none

/-- ALLOC by context c: the result word. -/
def Block.allocPages (b : Block) (c r : Nat) : Block × Dword :=
  let x := b.ctx c
  let n := x.slice
  let pages := fld r 15 0
  let key := fld r 53 48
  if fld r 63 62 != 1 || fld r 61 54 != 0 || fld r 47 16 != 0 || pages == 0 || 4096 < pages then (b, allocErr 1)
  else if !b.holdsKey n key then (b, allocErr 4)
  else
    match lowestRun (b.heapBit c) x.heapPages pages with
    | none => (b, allocErr 3)
    | some first =>
      match b.poolTake n pages with
      | none => (b, allocErr 2)
      | some l =>
        let va := x.heapBase + 65536 * first
        match b.leafPlaces c va pages with
        | none => (b, allocErr 1)
        | some places =>
          let b := b.modXlat n fun x => { x with poolHead := (x.poolHead + pages) % 2 ^ x.poolSize, poolCount := x.poolCount - pages }
          let b := (places.zip l).foldl (fun b y => b.wrOwn n y.1 (toLe 8 (heapLeaf y.2 key))) b
          (b.setHeap c first pages true, BitVec.ofNat 64 va)

/-- Pending frees of a slice: those that wait for their points, and those in invalidation (ZH_POOL_QUAR). -/
def XlatRegs.quarantine (x : XlatRegs) : Nat :=
  x.frees.length + (x.invals.filter fun i => match i.use with | .free _ _ => true | _ => false).length

/-- FREE by context c: the free point is taken and the range stays mapped (R227, R228). -/
def Block.freePages (b : Block) (c r : Nat) : Block × Dword :=
  let x := b.ctx c
  let n := x.slice
  let pages := fld r 15 0
  let va := fld r 56 16 * 65536
  let first := (va - x.heapBase) / 65536
  if fld r 61 57 != 0 || pages == 0 || 4096 < pages then (b, allocErr 1)
  else if va < x.heapBase || x.heapPages < first + pages || !((List.range pages).all fun j => b.heapBit c (first + j)) then
    (b, allocErr 6)
  else if 1024 ≤ (b.slice n).xlat.quarantine then (b, allocErr 5)
  else
    let qs := (b.queuesOf n).filter fun q => (b.queue q).ctx == c
    let p : PendFree := { ctx := c, va := va, pages := pages, points := qs.map fun q => (q, (b.queue q).tail) }
    (b.modXlat n fun x => { x with frees := x.frees ++ [p] }, 0)

/-- The instruction amoswap.d to ALLOC_VA of the hart's context. -/
def Block.onAlloc (b : Block) (core rd rs2 : Nat) (free : Bool) (f : Nat → Nat → Block × Dword) : Block :=
  b.onHart core (fun _ => false) fun h =>
    let r := (h.reg rs2).toNat
    if (b.ctx h.zhCtx).allocVa != 0 && (fld r 63 62 == 2) == free then
      let (b, v) := f h.zhCtx r
      b.modHart core fun x => (x.setReg rd v).step4
    else b

def execAlloc (core rd rs2 : Nat) (s : State) : Host.Outcome State Fault Refusal :=
  s.onBlock fun b => b.onAlloc core rd rs2 false b.allocPages

def execFree (core rd rs2 : Nat) (s : State) : Host.Outcome State Fault Refusal :=
  s.onBlock fun b => b.onAlloc core rd rs2 true b.freePages

/-- Count v of a queue has passed (R251). -/
def countPassed (done v : Word) : Bool := (done - v).toNat < 2 ^ 31

/-- Every queue has passed the free's points. -/
def Block.pointsPassed (b : Block) (p : PendFree) : Bool := p.points.all fun x => countPassed (b.queue x.1).done x.2

/-- The oldest free whose points have all passed: its leaves are cleared and the range is invalidated (R228). -/
def execFreePointPassed (slice : Nat) (s : State) : Host.Outcome State Fault Refusal :=
  s.onCompute fun b =>
    match (b.slice slice).xlat.frees.find? b.pointsPassed with
    | none => b
    | some p =>
      let b := b.modXlat slice fun x => { x with frees := x.frees.erase p }
      let (b, pages) := b.clearLeaves p
      b.addInval slice { ctx := some p.ctx, va := p.va, len := 65536 * p.pages, bump := false, use := .free p pages }

/-! ### Windows, migration and advice as commands -/

/-- The level and entry of the leaf that serves an address. -/
def Block.leafOf (b : Block) (c va : Nat) (write : Bool) : Option (Nat × Nat) :=
  let x := b.ctx c
  match tlbLeaf (b.slice x.slice).xlat.tlb c x.gen va with
  | some t => some (t.level, t.pte.toNat)
  | none => (b.walk c va write).2.getLast?

/-- The pin of an address for a window, unless the window's pins cover it already. -/
def Ctx.pin1 (x : Ctx) (w va : Nat) (leaf : Option (Nat × Nat)) : Ctx :=
  match leaf with
  | none => x
  | some (lv, e) =>
    if x.pins.any fun p => p.win == w && p.level == lv && p.va / leafSpan lv == va / leafSpan lv then x
    else { x with pins := x.pins ++ [{ win := w, va := va, level := lv, pte := e }] }

/-- The check of a window: the cause of the first page that does not translate as R208 asks; the leaves met are pinned. -/
def Block.winCheck (b : Block) (c w va len : Nat) (write : Bool) : Block × Option Nat :=
  (List.range len).foldl (fun (b, r) i =>
    match r with
    | some x => (b, some x)
    | none =>
      let leaf := b.leafOf c (va + 65536 * i) write
      match b.translate c (va + 65536 * i) write with
      | (b, .fail cause _ _) => (b, some cause)
      | (b, .host _) => (b, some 8)
      | (b, .poison) => ({ b with draws := b.draws + 1 }, some (Config.freeNat b.draws % 16))
      | (b, _) => (b.modCtx c fun x => x.pin1 w (va + 65536 * i) leaf, none)) (b, none)

/-- Writes a window's whole entry. -/
def Block.putWin (b : Block) (c w va status cause : Nat) (write : Bool) (len : Nat) : Block :=
  let v := va + status * 4096 + cause * 256 + (if write then 4 else 0)
  b.wrOwn (b.ctx c).slice (b.winAddr c w) ([v, len, b.stamp.toNat, 0].flatMap (toLe 8))

/-- SET_WINDOW of context c with its body's first two words (R208). -/
def Block.setWindow (b : Block) (c w0 w1 : Nat) : Block :=
  let w := fld w0 63 61
  let va := fld w0 56 16 * 65536
  let write := bit w0 2
  let len := fld w1 31 0
  let b := b.unpin c w
  if !bit w0 0 then b.putWin c w 0 0 0 false 0
  else if len == 0 || 2 ^ 57 < va + 65536 * len then (b.putWin c w va 2 3 write len).ctxCode c cWindowRefused
  else
    match b.winCheck c w va len write with
    | (b, none) => b.putWin c w va 1 0 write len
    | (b, some cause) => ((b.unpin c w).putWin c w va 2 cause write len).ctxCode c cWindowRefused

/-- Reserved bits of a PREFETCH or ADVISE body and its DIR (R219). -/
def prefetchBad (w0 w1 w2 w3 : Nat) : Bool :=
  2 ≤ fld w0 1 0 || fld w0 63 57 != 0 || fld w0 15 2 != 0 || fld w1 63 32 != 0 || fld w2 63 57 != 0 || w3 != 0

def adviseBad (w0 w1 w2 w3 : Nat) : Bool :=
  fld w0 63 57 != 0 || fld w0 15 0 != 0 || fld w1 63 32 != 0 || fld w2 63 2 != 0 || w3 != 0

/-- ADV of one level-1 entry, valid or not (R221). -/
def Block.advisePage (b : Block) (c va adv : Nat) : Block :=
  match b.leafPlace c va with
  | none => b
  | some a =>
    let e := b.rdOwn64 (b.ctx c).slice a
    b.wrOwn (b.ctx c).slice a (toLe 8 (e - pteAdv e * 64 + adv * 64))

/-- The page of a PREFETCH that step 1 or 2 of R220 does not skip: its leaf's place, the leaf, and the list entry's value. -/
def Block.migrPage (b : Block) (c va listAt : Nat) (toHost : Bool) : Option (Nat × Nat × Nat) :=
  let n := (b.ctx c).slice
  match b.leafPlace c va with
  | none => none
  | some a =>
    let e := b.rdOwn64 n a
    let t := b.rdOwn64 n listAt
    if (b.pteFault n 1 e false).isSome || (pteTarget e == 1) == toHost || !b.ownRange n listAt 8 then none
    else if toHost then (if t % 65536 == 0 && t < 2 ^ 57 then some (a, e, t) else none)
    else if b.poolPage n t && b.holdsKey n (pteKey e) then some (a, e, t)
    else none

/-- Steps 5 and 6 of R220: the leaf takes its new place and target, and the page is invalidated. -/
def Block.migrLeaf (b : Block) (n : Nat) (m : Migr) : Block :=
  let e := m.leaf - pteAddr m.leaf - pteTarget m.leaf * 16 + m.target + (if m.toHost then 16 else 0)
  ((b.wrOwn n m.leafAt (toLe 8 e)).modXlat n fun x => { x with migrating := some { m with copied := true, waits := false } }).addInval n
    { ctx := some m.ctx, va := m.va, len := 65536, bump := false, use := .migrate }

/-- The generation of a command's virtual instance at its start (R304). -/
def Block.cmdGen (b : Block) (q k : Nat) : Option (Nat × Nat) := ((b.queue q).cmds.find? fun c => c.k == k).bind (·.gen)

/-- Asks for the next bytes of a page: the host on the way to the device, another instance on the way to the host. -/
def Block.migrAsk (b : Block) (n : Nat) (m : Migr) : Block :=
  let by_ : Maker := { label := m.label, point := 65 }
  if m.toHost then
    let old := (b.ports.remote.filter fun u => u.2 == .migrate n).map (·.1)
    ((old.foldl Block.dropTag b).remoteRead n by_ (.migrate n) (pteAddr m.leaf + m.off) 256).1
  else
    (b.staleHost (· == .migrate n)).sliceRead n by_ (b.cmdGen m.q m.k)
      { addr := pteAddr m.leaf + m.off, len := 256, pasid := (b.ctx m.ctx).pasid, use := .migrate n }

/-- Bytes of the migrating page that go to host memory; the transfer's place in the write stands for the migration. -/
def Block.migrWrite (b : Block) (n : Nat) (m : Migr) (bs : List Byte) : Block :=
  (b.hostWrite n { label := m.label, point := 65 } (b.cmdGen m.q m.k) (m.target + m.off) bs (b.ctx m.ctx).pasid (some (65, n))).modXlat n
    fun x => { x with migrating := some { m with off := m.off + bs.length, unsent := m.unsent + ceilDiv bs.length 256 } }

/-- The page is copied, and what it wrote to host memory has left the port: steps 5 and 6 follow (R220, R251). -/
def Block.migrCopied (b : Block) (n : Nat) (more : Block → Migr → Block) : Block :=
  match (b.slice n).xlat.migrating with
  | none => b
  | some m => if m.off < 65536 then more b m else if m.unsent == 0 && !m.copied then b.migrLeaf n m else b

/-- A write of the migrating page has left the host port. -/
def Block.migrLeft (b : Block) (n a : Nat) : Block :=
  match (b.slice n).xlat.migrating with
  | none => b
  | some m =>
    if m.toHost && m.target ≤ a && a < m.target + 65536 && 1 ≤ m.unsent then
      (b.modXlat n fun x => { x with migrating := some { m with unsent := m.unsent - 1 } }).migrCopied n fun b _ => b
    else b

/-- The page of a PREFETCH is passed over. -/
def Block.pageOver (b : Block) (q k : Nat) : Block :=
  b.modCmd q k fun y => { y with progress := y.progress + 1, finished := fld (y.w 5) 31 0 ≤ y.progress + 1 }

/-- A line of the migrating page is poisoned. DESIGN CHOICE: as for a DMA tile, the copy ends with ECC_UNCORR and the page stays
where it is (R298; notes/assumptions/98.md). -/
def Block.migrPoison (b : Block) (n : Nat) : Block :=
  match (b.slice n).xlat.migrating with
  | none => b
  | some m => ((b.modXlat n fun x => { x with migrating := none }).ctxCode m.ctx cEccUncorr).pageOver m.q m.k

/-- Steps 3 and 4 of R220 begin: a page of this block's memory is copied to host at once, another as its answers come. -/
def Block.migrStart (b : Block) (n : Nat) (m : Migr) : Block :=
  let b := b.modXlat n fun x => { x with migrating := some m }
  let a := pteAddr m.leaf
  if m.toHost && b.isOwn a then
    if (List.range 512).any fun i => b.poisoned (gaKey a + 128 * i) then b.migrPoison n
    else b.migrWrite n m (b.rdMem (b.keyGen (pteKey m.leaf)) (gaKey a) 65536)
  else b.migrAsk n m

/-- Bytes of the migrating page arrive, from the host or from another instance. -/
def Block.migrData (b : Block) (n : Nat) (toHost : Bool) (bs : List Byte) : Block :=
  match (b.slice n).xlat.migrating with
  | none => b
  | some m =>
    if m.copied || m.waits || m.toHost != toHost then b
    else
      let b := if toHost then b.migrWrite n m bs
        else (b.wrMem (b.keyGen (pteKey m.leaf)) (gaKey (m.target + m.off)) bs).modXlat n fun x =>
          { x with migrating := some { m with off := m.off + bs.length } }
      b.migrCopied n fun b m => b.migrAsk n m

/-- A read of the migrating page was refused, by the host (7) or by its instance (6): a record with QUEUE 0xFFF, and the copy
waits (R204, R211). -/
def Block.migrFails (b : Block) (n cause : Nat) : Block :=
  match (b.slice n).xlat.migrating with
  | none => b
  | some m =>
    (b.modXlat n fun x => { x with migrating := some { m with waits := true } }).newFault n
      { va := m.va, cause := cause, level := 0, write := false, adv := pteAdv m.leaf, queue := 0xFFF, gen := (b.ctx m.ctx).gen
        agent := 65, ctx := m.ctx, stamp := b.stamp, channel := 0 }

/-- The context's page is migrating: DMA and control processors wait (R220). -/
def Block.pageMoves (b : Block) (c va : Nat) : Bool :=
  match (b.slice (b.ctx c).slice).xlat.migrating with
  | none => false
  | some m => m.ctx == c && m.va / 65536 == va / 65536

end Sys2Proof.Machine
end

