-- ==== Sys2Proof/Machine/Fences.lean ====
section
/-! DEFINITION. Fences: their range, values, mirrors and notifications, local and remote signals (R254 to R262). -/

namespace Sys2Proof.Machine

/-- Fence f lies in slice n's range (R254). -/
def Block.fenceIn (b : Block) (n f : Nat) : Bool :=
  let r := (b.slice n).ctxr
  (b.slice n).st != .none && r.fenceFirst ≤ f && f < r.fenceFirst + r.fenceCount

/-- The slice whose range holds the fence. -/
def Block.fenceSlice (b : Block) (f : Nat) : Option Nat := b.live.find? fun n => b.fenceIn n f

/-- A value reached: (c − v) mod 2^64 < 2^63 (R256). -/
def fencePassed (c v : Dword) : Bool := (c - v).toNat < 2 ^ 63

/-- A started FENCE_WAIT of the fence is satisfied by its value (R256). -/
def Cmd.wakes (c : Cmd) (f : Nat) (v : Dword) : Bool :=
  c.started && c.opcode == 4 && fld (c.w 4) 15 0 == f && fencePassed v (BitVec.ofNat 64 (c.w 5))

/-- Started waits are evaluated after a change of the fence (R256). -/
def Block.wakeWaits (b : Block) (f : Nat) : Block :=
  let v := (b.fence f).value
  b.each (Tab.keys b.queues) fun q b =>
    if (b.queue q).cmds.any fun c => c.wakes f v then
      b.modQueue q fun x => { x with cmds := x.cmds.map fun c => if c.wakes f v then { c with finished := true } else c }
    else b

/-- What brings a signal: its class label and its virtual instance's generation. DESIGN CHOICE: class 0 where no command does
(R264; notes/assumptions/64.md). -/
structure Signaller where
  label : Nat
  gen : Option (Nat × Nat)

/-- A signal by a register or from another instance. -/
def noCmd : Signaller := { label := 0, gen := none }

/-- The new value goes to the mirror as one 8-byte write (R259). -/
def Block.writeMirror (b : Block) (n f : Nat) (y : Signaller) : Block :=
  let x := b.fence f
  let a := dfld x.mirror 56 0
  if x.mirror == 0 || a % 8 != 0 then b
  else if x.mirror.getLsbD 63 then
    b.hostWrite n { label := y.label, point := 64 } y.gen a (toLe 8 x.value.toNat) (b.ctx x.owner).pasid none
  else if b.ownRange n a 8 then b.wrOwn n a (toLe 8 x.value.toNat)
  else b

/-- A delivered notification enters the queue of 16 once (R262). -/
def Hart.note (h : Hart) (f : Nat) : Hart :=
  if h.notes.contains f then h
  else if 16 ≤ h.notes.length then { h with noteOverflow := true }
  else { h with notes := h.notes ++ [f] }

/-- The notification of a changed fence; one whose core has left, or plays another role, is dropped and counted (R189, R262). -/
def Block.notify (b : Block) (n f : Nat) : Block :=
  let x := b.fence f
  if !x.nvalid then b
  else
    match (b.sliceCore n x.ncore).filter fun core => (b.core core).roleGen == x.ngen with
    | some core => b.modHart core fun h => h.note f
    | none => b.modCtx x.owner fun c => { c with signalStale := (c.signalStale + 1) % 2 ^ 32 }

/-- What follows a change of a fence: the mirror, the notification and the waits (R256, R259, R262). -/
def Block.fenceChanged (b : Block) (f : Nat) (y : Signaller) : Block :=
  match b.fenceSlice f with
  | none => b.wakeWaits f
  | some n => ((b.writeMirror n f y).notify n f).wakeWaits f

/-- SR_SEED and SR_CTR of the contexts that a job's manifest lists (R344). -/
def Block.srState (b : Block) (m : Manifest) : List (Nat × Dword × Dword) := m.ctxs.map fun c => (c, (b.ctx c).srSeed, (b.ctx c).srCtr)

/-- The regions' bytes in manifest order. -/
def Block.regionBytes (b : Block) (m : Manifest) : List Byte := m.regions.flatMap fun r => b.rdMem (b.keyGen r.key) (gaKey r.addr) r.len

/-- The SR snapshot of every job whose STEP_FENCE is the fence (R344). -/
def Block.snapshots (b : Block) (f : Nat) : Block :=
  match b.fenceSlice f with
  | none => b
  | some n => b.each (List.range 8) fun j b =>
    match (b.job n j).armed with
    | none => b
    | some m =>
      if fld (b.job n j).armedFences.toNat 15 0 == f then
        b.modJob n j fun x => { x with snapshot := b.srState m, held := b.regionBytes m }
      else b

/-- A signal of value w (R255). -/
def Block.signal (b : Block) (f : Nat) (w : Dword) (y : Signaller) : Block :=
  let d := (w - (b.fence f).value).toNat
  if d == 0 then b
  else if d < 2 ^ 63 then ((b.modFence f fun x => { x with value := w }).snapshots f).fenceChanged f y
  else b.modCtx (b.fence f).owner fun c => { c with fenceLow := (c.fenceLow + 1) % 2 ^ 32 }

/-- A signal by a command of context c of slice n: FENCE_REFUSED outside the range or on a fence not set up (R244, R257). -/
def Block.cmdSignal (b : Block) (n c f : Nat) (w : Dword) (y : Signaller) : Block :=
  if b.fenceIn n f && (b.fence f).setUp then b.signal f w y else b.ctxCode c cFenceRefused

/-- A handle's fields (R261). -/
def hPackage (h : Dword) : Nat := dfld h 63 52
def hInstance (h : Dword) : Nat := dfld h 51 49
def hFence (h : Dword) : Nat := dfld h 47 32
def hKey (h : Dword) : Nat := dfld h 31 0

/-- A signal through a handle that names this instance: applied where the fence is exported and the key matches (R261). -/
def Block.handleSignal (b : Block) (h w : Dword) (y : Signaller) : Block × Bool :=
  let x := b.fence (hFence h)
  if (b.fenceSlice (hFence h)).isSome && x.exported && x.key.toNat == hKey h then (b.signal (hFence h) w y, true) else (b, false)

/-! ### ZH_FENCE_CTRL (R254, R257) -/

/-- The control register after an operation that ends at once. -/
def Block.fenceCtl (b : Block) (n op f : Nat) (exported : Bool) (result : Nat) : Block :=
  b.modCtxr n fun r => { r with fenceOp := op, fenceIdx := f, fenceExport := exported, fenceResult := result }

/-- A context is in a state, within the slice. -/
def Block.ctxIs (b : Block) (n c : Nat) (st : CtxSt) : Bool := b.ctxInRange n c && (b.ctx c).slice == n && (b.ctx c).st == st

/-- SETUP's new fence from the staged registers. -/
def Block.staged (b : Block) (n : Nat) (exported : Bool) : Fence :=
  let r := (b.slice n).ctxr
  let core := fld r.fenceNotify.toNat 29 24
  { value := r.fenceValue, setUp := true, owner := fld r.fenceNotify.toNat 19 0, nvalid := r.fenceNotify.getLsbD 31
    ncore := core, ngen := ((b.sliceCore n core).map fun c => (b.core c).roleGen).getD 0, mirror := r.fenceMirror
    key := r.fenceKey, exported := exported }

def execFenceSetup (slice fence : Nat) (exported : Bool) (s : State) : Host.Outcome State Fault Refusal :=
  s.onHost fun b =>
    let new := b.staged slice exported
    if (b.slice slice).st == .none then b
    else if !b.fenceIn slice fence then b.fenceCtl slice 1 fence exported 1
    else if !b.ctxIs slice new.owner .active then b.fenceCtl slice 1 fence exported 2
    else
      let changes := (b.fence fence).setUp || new.value != 0
      let b := (b.modFence fence fun _ => new).fenceCtl slice 1 fence exported 0
      if changes then b.fenceChanged fence noCmd else b

def execFenceCtrlSignal (slice fence : Nat) (s : State) : Host.Outcome State Fault Refusal :=
  s.onHost fun b =>
    let r := (b.slice slice).ctxr
    if (b.slice slice).st == .none then b
    else if !b.fenceIn slice fence then b.fenceCtl slice 2 fence r.fenceExport 1
    else if !(b.fence fence).setUp then b.fenceCtl slice 2 fence r.fenceExport 2
    else (b.signal fence r.fenceValue noCmd).fenceCtl slice 2 fence r.fenceExport 0

/-- A started FENCE_WAIT that has not completed names the fence. -/
def Block.waitNames (b : Block) (f : Nat) : Bool :=
  b.queues.any fun q => q.2.cmds.any fun c => c.started && !c.completed && c.opcode == 4 && fld (c.w 4) 15 0 == f

def execFenceRelease (slice fence : Nat) (s : State) : Host.Outcome State Fault Refusal :=
  s.onHost fun b =>
    let r := (b.slice slice).ctxr
    if (b.slice slice).st == .none then b
    else if !b.fenceIn slice fence then b.fenceCtl slice 3 fence r.fenceExport 1
    else if b.waitNames fence then b.fenceCtl slice 3 fence r.fenceExport 3
    else (b.modFence fence fun _ => Fence.reset).fenceCtl slice 3 fence r.fenceExport 0

end Sys2Proof.Machine
end

