-- ==== Sys2Proof/Machine/Contexts.lean ====
section
/-! DEFINITION. Contexts: control through ZH_CTX_CTRL, reset, FAULTED, and the context table (R230 to R237). -/

namespace Sys2Proof.Machine

/-! ### Ending a context's work (R234) -/

/-- Queues that name a context. -/
def Block.naming (b : Block) (c : Nat) : List Nat := (b.queuesOf (b.ctx c).slice).filter fun q => (b.queue q).ctx == c

/-- Stops fetching from a queue and drops its fetched commands that have not started (step 1). -/
def Queue.stop (q : Queue) : Queue :=
  { q with st := if q.enable then .stopped else .disabled, cmds := q.cmds.filter (·.started) }

/-- A grant for a command of a context lapses (R234). -/
def Block.dropCtxGrant (b : Block) (n c : Nat) : Block :=
  match (b.slice n).arb.granted with
  | some (q, k) =>
    if (b.queue q).cmds.any fun x => x.k == k && x.ctx == c then b.modSlice n fun x => { x with arb := { x.arb with granted := none } }
    else b
  | none => b

/-- A grant that names one of the queues lapses. -/
def Block.dropGrant (b : Block) (n : Nat) (qs : List Nat) : Block :=
  match (b.slice n).arb.granted with
  | some (q, k) =>
    if qs.contains q && !((b.queue q).cmds.any fun c => c.k == k) then
      b.modSlice n fun x => { x with arb := { x.arb with granted := none } }
    else b
  | none => b

def Block.stopQueues (b : Block) (c : Nat) : Block :=
  let qs := b.naming c
  (b.each qs fun q b => b.modQueue q Queue.stop).dropGrant (b.ctx c).slice qs

/-- Ops, programs and bindings of a context on one core end with the code (steps 2 and 4). -/
def Block.cancelOn (b : Block) (core c code : Nat) : Block :=
  let b := b.each (List.range 4) fun e b => (b.dropOps core e code fun o => o.ctx == c).dropArrivals core e code fun p => p.ctx == c
  (b.dropProgs core code fun p => p.ctx == c).endBindings core c

/-- Transfers that a choice names end with the code: their commands complete (R215, R234). -/
def Block.endDmas (b : Block) (code : Nat) (p : Dma → Bool) : Block :=
  let gone := b.dmas.filter p
  gone.foldl (fun b d => ((b.dropLines d.agent (8 + d.channel)).ctxCode d.ctx code).cmdDone d.queue d.k) { b with dmas := b.dmas.filter fun d => !p d }

/-- A launch is asked to end, in a management clock (R253). -/
def Hart.askReset (h : Hart) (mclk : Nat) (p : Launch → Bool) : Hart :=
  { h with launch := h.launch.map fun l => if p l && !l.resetReq then { l with resetReq := true, resetAt := mclk } else l
           waitingLaunches := h.waitingLaunches.filter fun l => !p l }

/-- A copy of a page that the context's PREFETCH has begun and not finished is given up; a held record of it stays (R213). -/
def Block.dropMigr (b : Block) (n c : Nat) : Block :=
  b.modXlat n fun x => { x with migrating := x.migrating.filter fun m => m.copied || m.ctx != c }

/-- Steps 1 to 5 of R234: STATE becomes RESETTING. -/
def Block.resetStart (b : Block) (c : Nat) (code : Nat) : Block :=
  let n := (b.ctx c).slice
  let b := ((b.setCtxSt c .resetting).dropCtxGrant n c).stopQueues c
  let b := b.each (b.coresOf n) fun core b => b.cancelOn core c code
  let b := (b.endDmas code fun d => d.ctx == c).dropMigr n c
  b.each (b.coresOf n) fun core b => b.modHart core fun h => h.askReset b.time.mclk fun l => l.ctx == c

/-- The launch of a hart has ended: the firmware's write and every op and program of it are done (R253). -/
def Core.launchOver (c : Core) : Bool :=
  match c.hart.launch with
  | none => false
  | some l => l.code.isSome && c.ownDone

/-- No launch of the context still runs (step 5). -/
def Block.launchesOver (b : Block) (c : Nat) : Bool :=
  (b.coresOf (b.ctx c).slice).all fun core =>
    match (b.core core).hart.launch with
    | none => true
    | some l => l.ctx != c || (b.core core).launchOver

/-- A command's virtual instance has another generation now (R304). -/
def Block.genStale (b : Block) (g : Option (Nat × Nat)) : Bool :=
  match g with
  | none => false
  | some (v, x) => (b.vi v).gen.toNat != x

/-- An effect discarded under R304. -/
def Block.dropEffect (b : Block) (g : Option (Nat × Nat)) : Block :=
  match g with
  | none => b
  | some (v, _) => b.modVi v fun x => { x with dropped := up32 x.dropped }

/-- The hart's launch is over, with LAUNCH_FAILED for a nonzero CODE; the end of one of another generation is discarded (R253,
R304). -/
def Block.closeLaunch (b : Block) (core : Nat) : Block :=
  match (b.core core).hart.launch with
  | none => b
  | some l =>
    let b :=
      if b.genStale l.gen then b.dropEffect l.gen
      else if l.code.getD 0 != 0 then b.ctxCode l.ctx cLaunchFailed
      else b
    b.modHart core Hart.endLaunch

/-- HEAD and DONE go to TAIL: every pending entry counts as complete and signals no fence (step 6). -/
def Queue.drained (q : Queue) : Queue :=
  { q with head := q.tail, done := q.tail, cmds := [], inline := [], pending := false, st := if q.enable then .idle else .disabled }

/-- Commands under way whose virtual instance has another generation now complete for entries already counted: each completion is
discarded (R304). -/
def Block.lateEnds (b : Block) (q : Nat) : Block :=
  ((b.queue q).cmds.filter fun c => c.started && !c.completed && b.genStale c.gen).foldl (fun b c => b.dropEffect c.gen) b

/-- The context's entries leave a queue that names another context now (R238). -/
def Queue.dropCtx (q : Queue) (c : Nat) : Queue := { q with cmds := q.cmds.filter fun x => x.ctx != c }

/-- SUSPECT's code (R317). -/
def cLadder : Nat := 0x37

/-- The virtual instances whose R305 is in its step 3, with context c among its contexts. -/
def Block.viResets (b : Block) (c : Nat) : List Nat := (b.vis.filter fun x => x.2.step == 3 && x.2.ctxs.contains c).map (·.1)

/-- Step 4 of R305 once step 3 has ended for every context: an invalidation of all of each, with a new generation. -/
def Block.viInval (b : Block) (v : Nat) : Block :=
  let cs := (b.vi v).ctxs
  if (b.vi v).step != 3 || cs.any fun c => (b.ctx c).st == .resetting then b
  else
    cs.foldl (fun b c => b.addInval (b.ctx c).slice { ctx := some c, va := 0, len := 0, bump := true, use := .vi v })
      (b.modVi v fun x => { x with step := 4 })

/-- Steps 6 and 7 of R234; SUSPECT in place of ACTIVE where a rung reset the context (R317). -/
def Block.resetEnd (b : Block) (c : Nat) : Block :=
  let n := (b.ctx c).slice
  let b := b.each (b.coresOf n) fun core b =>
    if ((b.core core).hart.launch.map fun l => l.ctx == c).getD false then b.closeLaunch core else b
  let b := b.each (b.naming c) fun q b => (b.lateEnds q).modQueue q Queue.drained
  let b := b.each ((b.queuesOf n).filter fun q => (b.queue q).cmds.any fun x => x.ctx == c) fun q b => b.modQueue q fun x => x.dropCtx c
  let b :=
    if (b.ctx c).toSuspect then
      (((b.ctxCode c cLadder).modCtx c fun x => { x with toSuspect := false }).setCtxSt c .suspect).stopQueues c
    else b.setCtxSt c .active
  ((b.viResets c).foldl Block.viInval b).modCtxr n fun r => if r.ctrlGo && r.ctrlCtx == c then { r with ctrlGo := false, ctrlResult := 0 } else r

/-- A context enters FAULTED (R235). -/
def Block.toFaulted (b : Block) (c code : Nat) : Block :=
  let n := (b.ctx c).slice
  if (b.ctx c).st == .active || (b.ctx c).st == .suspect then
    ((((b.ctxCode c code).stopQueues c).setCtxSt c .faulted).modCtxr n fun r => { r with faultAny := true, lastFaulted := c }).irq n 0
  else b

/-- A SUSPECT context becomes ACTIVE: its queues run again (R326). -/
def Block.toActive (b : Block) (c : Nat) : Block :=
  let b := b.setCtxSt c .active
  b.each (b.naming c) fun q b => b.modQueue q fun x =>
    if x.enable then { x with st := if x.pending || x.head != x.tail then .running else .idle, pending := x.pending || x.head != x.tail } else x

/-- FAULTED_COUNT of ZH_CTX_FAULT (R233). -/
def Block.faultedCount (b : Block) (n : Nat) : Nat := ((b.ctxsOf n).filter fun c => (b.ctx c).st == .faulted).length

/-! ### ZH_CTX_CTRL (R233) -/

/-- The control register after an operation that ended. -/
def Block.ctxCtl (b : Block) (n op c result : Nat) : Block :=
  b.modCtxr n fun r => { r with ctrlOp := op, ctrlCtx := c, ctrlResult := result }

/-- An operation of ZH_CTX_CTRL: ignored while GO reads 1; RESULT 1 outside the range; else what its own rule gives, as the
block and a RESULT. -/
def Block.ctxOp (b : Block) (n op c : Nat) (f : Block → Block × Nat) : Block :=
  if (b.slice n).st == .none || (b.slice n).ctxr.ctrlGo then b
  else if !b.ctxInRange n c then b.ctxCtl n op c 1
  else
    let (b, r) := f b
    b.ctxCtl n op c r

/-- Pinned descriptors of a slice. -/
def Block.pins (b : Block) (n : Nat) : Nat := ((b.ctxsOf n).filter fun d => (b.ctx d).pinned).length

/-- CREATE on a FREE context: the descriptor is read, checked and taken (R233, R237). -/
def Block.ctxMake (b : Block) (n c : Nat) : Block × Nat :=
  let r := (b.slice n).ctxr
  let a := r.table.toNat + 128 * (c - r.first)
  if r.table == 0 || !b.ownRange n a 128 then (b, 3)
  else
    let w := (dwordsOf (b.rdOwn n a 128) 16).map (·.toNat)
    let x := (b.ctx c).ofWords w
    if b.ownRange n x.ptRoot 4096 && b.ownRange n x.winTable 256 && b.ownRange n x.heapMap (max 1 (ceilDiv x.heapPages 8)) then
      let pin := x.pin && 2 * (b.pins n + 1) ≤ 16 * (b.inForce n).ccache
      let b := b.modCtx c fun _ =>
        { x with st := .active, slice := n, sticky := 0, firstCode := 0, lastCode := 0, errCount := 0, firstStamp := 0
                 fenceLow := 0, signalStale := 0, pinned := pin, cached := none, toSuspect := false }
      (b.ctxWriteBack c, 0)
    else (b, 3)

def execCtxCreate (slice ctx : Nat) (s : State) : Host.Outcome State Fault Refusal :=
  s.onHost fun b => b.ctxOp slice 1 ctx fun b =>
    if (b.ctx ctx).st == .free then b.ctxMake slice ctx else (b, 2)

/-- The first rung (R313): the block reports it (R329). DESIGN CHOICE: with CAUSE 9, which R314 gives a written request
(notes/assumptions/119.md). -/
def execCtxReset (slice ctx : Nat) (s : State) : Host.Outcome State Fault Refusal :=
  s.onHost fun b => b.ctxOp slice 2 ctx fun b =>
    if (b.ctx ctx).st == .active || (b.ctx ctx).st == .faulted then
      (((b.resetStart ctx cCancelled).modCtxr slice fun r => { r with ctrlGo := true }).ladderReport b.stamp [slice] 1 9 7 0, 0)
    else (b, 2)

/-- Step 5 is over. A context that leaves its slice ends with the stage; but for one of a virtual instance that is removed (R305).
-/
def execCtxResetComplete (slice ctx : Nat) (s : State) : Host.Outcome State Fault Refusal :=
  s.onCompute fun b =>
    if (b.ctx ctx).slice == slice && (b.ctx ctx).st == .resetting && (b.ctxInRange slice ctx || !(b.viResets ctx).isEmpty) &&
        b.launchesOver ctx then b.resetEnd ctx
    else b

/-- A command of the context runs: one that has started and not completed, or a launch. -/
def Block.ctxBusy (b : Block) (c : Nat) : Bool :=
  ((b.queuesOf (b.ctx c).slice).any fun q => (b.queue q).cmds.any fun k => k.ctx == c && k.started && !k.completed) ||
    !b.launchesOver c

def execCtxDestroy (slice ctx : Nat) (s : State) : Host.Outcome State Fault Refusal :=
  s.onHost fun b => b.ctxOp slice 3 ctx fun b =>
    if (b.ctx ctx).st != .active then (b, 2)
    else if (b.naming ctx).any fun q => (b.queue q).enable then (b, 4)
    else if b.ctxBusy ctx then (b, 2)
    else ((b.setCtxSt ctx .free).modCtx ctx fun x => { x with cached := none, pinned := false }, 0)

def execCtxClearFault (slice ctx : Nat) (s : State) : Host.Outcome State Fault Refusal :=
  s.onHost fun b => b.ctxOp slice 4 ctx fun b =>
    if (b.ctx ctx).st == .active then
      (b.modCtx ctx fun x => { x with sticky := 0, firstCode := 0, lastCode := 0, errCount := 0, firstStamp := 0 }, 0)
    else (b, 2)

def execCtxSync (slice ctx : Nat) (s : State) : Host.Outcome State Fault Refusal :=
  s.onHost fun b => b.ctxOp slice 5 ctx fun b =>
    if (b.ctx ctx).st == .active || (b.ctx ctx).st == .faulted || (b.ctx ctx).st == .suspect then (b.ctxWriteBack ctx, 0)
    else (b, 2)

/-- A write of ZH_CTX_TABLE: aligned, the slice's own, and every context FREE; the context-cache partition is dropped (R233). -/
def execZhCtxTableWrite (slice : Nat) (v : Dword) (s : State) : Host.Outcome State Fault Refusal :=
  s.onHost fun b =>
    if (b.slice slice).st != .none && v.toNat % 4096 == 0 && b.ownRange slice v.toNat (128 * (b.slice slice).ctxr.count) &&
        (b.ctxsOf slice).isEmpty then
      b.modCtxr slice fun r => { r with table := v }
    else b

end Sys2Proof.Machine
end

