-- ==== Sys2Proof/Machine/Queues.lean ====
section
/-! DEFINITION. Queues: doorbells, the ring lane, the slice's arbiter, the commands of the ring and their completion (R238 to
R263). -/

namespace Sys2Proof.Machine

/-! ### Configuration (R238, R303) -/

/-- ENABLE may be set: the queue is the slice's, its ring and class are valid, its context is ACTIVE, and its virtual instance,
if any, allows it (R238, R303). -/
def Block.mayEnable (b : Block) (q : Nat) : Bool :=
  let x := b.queue q
  let n := b.queueOwner q
  (b.slice n).st != .none && b.ownRange n x.ringBase (64 * 2 ^ x.ringLog2) && 4 ≤ x.ringLog2 && x.ringLog2 ≤ 20 && x.cls ≤ 2 &&
    b.ctxIs n x.ctx .active &&
    match x.vi with
    | none => true
    | some v =>
      (b.vi v).st == .active && (b.ctx x.ctx).pasid == (b.vi v).pasid &&
        b.queues.all fun y => !(y.2.enable && y.2.vi.isSome && y.2.vi != some v && y.2.ctx == x.ctx)

/-- The fields of ZH_Q_CFG but ENABLE. -/
def Queue.setCfg (q : Queue) (cfg : Nat) : Queue :=
  { q with cls := fld cfg 62 61, label := fld cfg 59 56, wdogScale := fld cfg 51 48, wdogTicks := fld cfg 47 32
           ctx := fld cfg 19 0, named := true }

/-- Enabling a queue sets its TAIL, HEAD and DONE to 0; commands started before a disable still complete (R238). -/
def execQueueEnable (q : Nat) (cfg : Dword) (s : State) : Host.Outcome State Fault Refusal :=
  s.onHost fun b =>
    if (b.queue q).enable then b
    else
      let b := b.modQueue q fun x => x.setCfg cfg.toNat
      if cfg.getLsbD 63 && b.mayEnable q then
        b.modQueue q fun x =>
          { x with enable := true, st := .idle, head := 0, tail := 0, done := 0, pending := false, inline := []
                   cmds := x.cmds.filter (·.started), epoch := x.epoch + 1 }
      else b

/-- Clearing ENABLE: fetching stops, and commands already started complete (R238). -/
def Queue.off (q : Queue) : Queue := { q with enable := false, st := .disabled }

def execQueueDisable (q : Nat) (s : State) : Host.Outcome State Fault Refusal :=
  s.onHost fun b => if (b.queue q).enable then b.modQueue q Queue.off else b

/-! ### Doorbells (R246 to R249) -/

def Queue.refuse (q : Queue) : Queue := { q with refused := if q.refused == BitVec.allOnes 32 then q.refused else q.refused + 1 }

/-- R247. -/
def Queue.takes (q : Queue) (v : Word) : Bool :=
  q.enable && (v - q.tail).toNat < 2 ^ 31 && (v - q.done).toNat ≤ 2 ^ q.ringLog2

/-- An accepted doorbell sets PENDING, and an idle queue runs again (R249). -/
def Queue.pend (q : Queue) : Queue := { q with pending := true, st := if q.st == .idle then .running else q.st }

/-- A doorbell as it takes effect here: the host's, or one forwarded over FED. -/
def Block.ring (b : Block) (q : Nat) (v : Word) : Block :=
  if (b.queue q).takes v && !b.start.leadLost then
    (b.touchCtx (b.queue q).ctx).modQueue q fun x => { x.pend with tail := v }
  else b.modQueue q Queue.refuse

/-- R248. -/
def Block.ringInline (b : Block) (q : Nat) (w : List Dword) : Block :=
  let x := b.queue q
  if w.length == 8 && x.enable && (x.tail + 1 - x.done).toNat ≤ 2 ^ x.ringLog2 && !b.start.leadLost then
    let a := x.ringBase + 64 * (x.tail.toNat % 2 ^ x.ringLog2)
    ((b.touchCtx x.ctx).wrOwn (b.queueOwner q) a (w.flatMap fun d => toLe 8 d.toNat)).modQueue q fun x =>
      { x.pend with tail := x.tail + 1, inline := x.inline ++ [(x.tail.toNat, w)] }
  else b.modQueue q Queue.refuse

/-- The instance whose queue a doorbell names, and the queue there. DESIGN CHOICE: the spec gives the lead's host no address for
another instance's queue; here queue q of instance i is 4096 × i + q (R28; notes/assumptions/95.md). -/
def Block.queueAt (b : Block) (q : Nat) : Nat × Nat := (if q < 4096 then b.start.inst else q / 4096, q % 4096)

/-- The lead passes a doorbell for another instance's queue on (R28, R444); one for an instance that is not there, or lost, goes
nowhere. -/
def Block.passDoorbell (b : Block) (q : Nat) (payload : List Byte) (here : Block → Block) : Block :=
  let (i, k) := b.queueAt q
  if i == b.start.inst then here b
  else if b.start.lead && b.otherInsts.contains i then
    b.emitOwn (b.fedTo i) (.flit (b.fedTo i) { b.ownFlit 0x18 0 0 (toLe 2 k ++ payload) with fed := some (i, b.start.inst, false) })
  else b

def execDoorbell (q : Nat) (v : Word) (s : State) : Host.Outcome State Fault Refusal :=
  s.onHost fun b => b.passDoorbell q (toLe 4 v.toNat) fun b => b.ring (q % 4096) v

def execDoorbellInline (q : Nat) (entry : List Dword) (s : State) : Host.Outcome State Fault Refusal :=
  s.onHost fun b => b.passDoorbell q (entry.flatMap fun d => toLe 8 d.toNat) fun b => b.ringInline (q % 4096) entry

/-- The words of entry k, from an inline doorbell or the ring (R241, R248). -/
def Block.entryWords (b : Block) (q k : Nat) : List Dword :=
  let x := b.queue q
  match x.inline.find? fun y => y.1 == k with
  | some y => y.2
  | none => dwordsOf (b.rdOwn (b.queueOwner q) (x.ringBase + 64 * (k % 2 ^ x.ringLog2)) 64) 8

/-- A command as it is fetched from its queue. -/
def Queue.fetched (q : Queue) (k : Nat) (w : List Dword) : Cmd :=
  { k := 2 ^ 32 * q.epoch + k, ctx := q.ctx, label := q.label, words := w, started := false, finished := false
    completed := false, placed := 0, tickets := [], gen := none, progress := 0 }

/-- The lane takes `n` entries from HEAD on. -/
def Block.takeEntries (q : Nat) : Nat → Block → Block
  | 0, b => b
  | n + 1, b =>
    let k := (b.queue q).head.toNat
    let w := b.entryWords q k
    Block.takeEntries q n (b.modQueue q fun x =>
      { x with head := x.head + 1, cmds := x.cmds ++ [x.fetched k w], inline := x.inline.filter fun y => y.1 != k })

/-- One pass of the lane's loop (R249): PENDING is cleared, entries up to TAIL are taken, and the lane goes idle. -/
def Block.ringFetch (b : Block) (q : Nat) : Block :=
  let x := b.queue q
  if x.pending && (x.st == .idle || x.st == .running) then
    let b := b.modQueue q fun x => { x with pending := false, st := .running }
    (Block.takeEntries q (x.tail - x.head).toNat b).modQueue q fun x => { x with st := .idle }
  else b

def execRingFetch (q : Nat) (s : State) : Host.Outcome State Fault Refusal := s.onCompute fun b => b.ringFetch q

/-! ### The arbiter (R239, R243) -/

/-- What an OPS placement names, where R244 lets it proceed: core, engine and descriptor. -/
def Block.placement (b : Block) (n w : Nat) : Option (Nat × Nat × Nat) :=
  if plDesc w % 128 != 0 || 0x2FFFFF < plDesc w then none
  else (b.sliceCore n (plCore w)).map fun c => (c, plEngine w, plDesc w)

/-- The first place from `i` on that an OPS still has to make. -/
def Block.nextPlace (b : Block) (n : Nat) (c : Cmd) : Option Nat :=
  ([0, 1, 2, 3].filter (c.placed ≤ ·)).find? fun i => plValid (c.w (4 + i)) && (b.placement n (c.w (4 + i))).isSome

/-- The front end's DMA agent, or that of a core of the slice (R242). -/
def Block.dmaAgent (b : Block) (n : Nat) (c : Cmd) : Option Nat :=
  if bit (c.w 6) 63 then b.sliceCore n (fld (c.w 6) 61 56) else some 64

/-- A host or remote request of a transfer slot awaits its answer. -/
def Block.slotAwaits (b : Block) (agent ch : Nat) : Bool :=
  let host (r : HostRead) : Bool := r.use == .dma agent ch
  (b.ports.waiting.any fun x => match x.what with
    | .read r => host r
    | .write _ _ _ dma => dma == some (agent, ch)
    | _ => false) || (b.ports.hostReads.any fun x => host x.2) || b.ports.remote.any fun x =>
    x.2 == .dma agent ch false || x.2 == .dma agent ch true

/-- A free transfer slot of an agent, of 8 (R210). -/
def Block.dmaSlot (b : Block) (agent : Nat) : Option Nat :=
  (List.range 8).find? fun i => !(b.dmas.any fun d => d.agent == agent && d.channel == i) && !b.slotAwaits agent i

/-- A command may start, with the commands before it (R243); a transfer needs a free slot of its agent (R210), and an OPS waits
for an earlier SET_WINDOW, whose window its ops use (R208). -/
def Block.mayStartCmd (b : Block) (n : Nat) (before : List Cmd) (c : Cmd) : Bool :=
  (before.filter fun x => x.started && !x.completed).length < 8 &&
    (if c.overlap then before.all fun x => x.opcode != 4 || x.completed else before.all (·.completed)) &&
    (c.opcode != 1 || before.all fun x => x.opcode != 6 || x.finished) &&
    (c.opcode != 3 || match b.dmaAgent n c with
      | none => true
      | some a => (b.dmaSlot a).isSome)

/-- A placement of slice n that goes to a unit held for another context's turn (R327). -/
def Block.placeHeld (b : Block) (n w ctx : Nat) : Bool :=
  match b.placement n w with
  | none => false
  | some (core, eng, desc) => b.turnHeld core eng ctx (dAdapt (b.readDesc core desc))

/-- The next placement of an OPS is held by a turn. -/
def Block.opsHeld (b : Block) (n : Nat) (c : Cmd) : Bool :=
  c.started && !c.finished && c.opcode == 1 && ((b.nextPlace n c).map fun i => b.placeHeld n (c.w (4 + i)) c.ctx).getD false

/-- A placement of the queue, still to be made or on its way, is held by a turn: it holds the queue at that entry (R327). -/
def Block.queueHeld (b : Block) (n q : Nat) : Bool :=
  (b.slice n).ladder.replay.isSome &&
    (((b.queue q).cmds.any fun c => b.opsHeld n c) ||
      (b.coresOf n).any fun core => (List.range 4).any fun e => (b.eng core e).arrivals.any fun p =>
        (match p.issuer with
          | .queue q' _ _ => q' == q
          | .hart _ => false) && b.turnHeld core e p.ctx (dAdapt (b.readDesc core p.desc)))

/-- The command of a queue that the arbiter may grant: an OPS with placements to make, else the next to start. -/
def Block.grantable (b : Block) (n q : Nat) : Option Nat :=
  let x := b.queue q
  if b.suspended n x.cls || b.gated || b.queueHeld n q then none
  else
    match x.cmds.find? fun c => c.started && !c.finished && c.opcode == 1 && (b.ctx c.ctx).st != .resetting &&
        (b.nextPlace n c).isSome with
    | some c => some c.k
    | none =>
      match x.cmds.span (·.started) with
      | (before, c :: _) =>
        if x.enable && (b.ctx x.ctx).st == .active && b.mayStartCmd n before c then some c.k else none
      | (_, []) => none

/-- Round-robin in ascending queue number, from `next` on. -/
def roundRobin (next : Nat) (l : List Nat) : Option Nat :=
  match l.find? (next ≤ ·) with
  | some q => some q
  | none => l.head?

/-- The class and queue that the next grant serves (R239). -/
def Block.pick (b : Block) (n : Nat) : Option (Nat × Nat) :=
  let a := (b.slice n).arb
  let elig (cls : Nat) : List Nat := (b.queuesOf n).filter fun q => (b.queue q).cls == cls && (b.grantable n q).isSome
  match roundRobin a.nextRt (elig 0) with
  | some q => some (0, q)
  | none =>
    match roundRobin a.nextStd (elig 1), roundRobin a.nextBulk (elig 2) with
    | some s, some k => if 15 ≤ a.bulkWait then some (2, k) else some (1, s)
    | some s, none => some (1, s)
    | none, some k => some (2, k)
    | none, none => none

/-- The arbiter's memory after a grant to a class. -/
def Arbiter.served (a : Arbiter) (cls q : Nat) (bulk : Bool) : Arbiter :=
  match cls with
  | 0 => { a with nextRt := q + 1, bulkWait := 0 }
  | 1 => { a with nextStd := q + 1, bulkWait := if bulk then a.bulkWait + 1 else 0 }
  | _ => { a with nextBulk := q + 1, bulkWait := 0 }

def Block.cmdOf (b : Block) (q k : Nat) : Option Cmd := (b.queue q).cmds.find? fun c => c.k == k

/-- The generation of a queue's virtual instance that a command takes at its start (R304). -/
def Block.startGen (b : Block) (q : Nat) : Option (Nat × Nat) := (b.queue q).vi.map fun v => (v, (b.vi v).gen.toNat)

/-- A command starts, with its virtual instance's generation (R304); the watchdog restarts (R263). -/
def Block.startCmd (b : Block) (q k : Nat) : Block :=
  let g := b.startGen q
  ((b.touchCtx (b.queue q).ctx).modCmd q k fun c => { c with started := true, gen := g }).modQueue q fun x => { x with wdog := 0 }

/-- The grant not yet taken up, while its command stands. -/
def Block.granted (b : Block) (n : Nat) : Option (Nat × Nat) :=
  (b.slice n).arb.granted.filter fun g => (b.cmdOf g.1 g.2).isSome

/-- The fences a command names, which must lie in the slice's range (R244). -/
def Cmd.fences (c : Cmd) : List Nat :=
  (if c.fsig then [c.fsigFence] else []) ++
    (if c.opcode == 4 || (c.opcode == 5 && !bit (c.w 4) 63) then [fld (c.w 4) 15 0] else [])

/-- A fence of the command lies outside the slice's range. -/
def Block.fenceOut (b : Block) (n : Nat) (c : Cmd) : Bool := c.fences.any fun i => !b.fenceIn n i

/-- A command with an OPCODE of no row of R242 starts and completes with OP_INVALID, and with FENCE_REFUSED where its FSIG names
a fence outside the range (R244). -/
def Block.grant (b : Block) (n : Nat) : Block :=
  match b.granted n, b.pick n with
  | none, some (cls, q) =>
    let bulk := (b.queuesOf n).any fun p => (b.queue p).cls == 2 && (b.grantable n p).isSome
    match b.grantable n q with
    | none => b
    | some k =>
      let b := b.modSlice n fun x => { x with arb := x.arb.served cls q bulk }
      if 9 < ((b.cmdOf q k).map (·.opcode)).getD 0 then
        let codes := cOpInvalid :: if ((b.cmdOf q k).map (b.fenceOut n)).getD false then [cFenceRefused] else []
        ((b.startCmd q k).ctxCodes (b.queue q).ctx codes).cmdDone q k
      else b.modSlice n fun x => { x with arb := { x.arb with granted := some (q, k) } }
  | _, _ => b

def execArbiterGrant (slice : Nat) (s : State) : Host.Outcome State Fault Refusal := s.onCompute fun b => b.grant slice

/-! ### The commands (R242, R244) -/

/-- The granted command of a queue, of the opcode given, runs: it starts unless it has, a fence outside the range completes it
with FENCE_REFUSED, and else `f` gives its effect. While shedding suspends the queue, the grant waits (R402). -/
def Block.onGrant (b : Block) (q opcode : Nat) (f : Nat → Cmd → Block → Block) : Block :=
  let n := b.queueOwner q
  match (b.slice n).arb.granted with
  | none => b
  | some (p, k) =>
    match b.cmdOf q k with
    | none => b
    | some c =>
      if p != q || c.opcode != opcode || b.suspended n (b.queue q).cls then b
      else
        let b := b.modSlice n fun x => { x with arb := { x.arb with granted := none } }
        if c.started then f n c b
        else
          let b := b.startCmd q k
          if b.fenceOut n c then (b.ctxCode c.ctx cFenceRefused).cmdDone q k else f n c b

def execNop (q : Nat) (s : State) : Host.Outcome State Fault Refusal :=
  s.onCompute fun b => b.onGrant q 0 fun _ c b => b.cmdDone q c.k

/-- One placement goes to its engine, unless a turn holds it (R327); at the start each placement that R244 refuses gives
OP_INVALID. -/
def Block.placeOp (b : Block) (n q : Nat) (c : Cmd) : Block :=
  let bad := [0, 1, 2, 3].filter fun i => plValid (c.w (4 + i)) && (b.placement n (c.w (4 + i))).isNone
  let b := if c.started then b else b.ctxCodes c.ctx (bad.map fun _ => cOpInvalid)
  match b.nextPlace n c with
  | none => b.modCmd q c.k fun y => { y with placed := 4 }
  | some i =>
    match b.placement n (c.w (4 + i)) with
    | none => b
    | some (core, eng, desc) =>
      if b.placeHeld n (c.w (4 + i)) c.ctx then b
      else (b.modEng core eng fun e =>
        { e with arrivals := e.arrivals ++ [{ desc := desc, ctx := c.ctx, issuer := .queue q c.k i, label := c.label
                                              gen := (b.core core).roleGen }] }).modCmd q c.k fun y => { y with placed := i + 1 }

def execOps (q : Nat) (s : State) : Host.Outcome State Fault Refusal :=
  s.onCompute fun b => b.onGrant q 1 fun n c b => b.placeOp n q c

/-- A launch joins its core (R253). A CORE that the slice has not is a malformed command, whose result is unpredictable (R244).
DESIGN CHOICE: it does nothing and completes (notes/assumptions/27.md). -/
def Block.launchCmd (b : Block) (n q : Nat) (c : Cmd) : Block :=
  match b.sliceCore n (fld (c.w 4) 61 56) with
  | none => b.cmdDone q c.k
  | some core =>
    let l : Launch :=
      { queue := q, entry := c.k, pc := BitVec.ofNat 64 (fld (c.w 5) 56 0), arg := BitVec.ofNat 64 (c.w 6), ctx := c.ctx
        resetReq := false, resetAt := 0, code := none, gen := b.startGen q }
    b.modHart core fun h => h.addLaunch l

def execLaunch (q : Nat) (s : State) : Host.Outcome State Fault Refusal :=
  s.onCompute fun b => b.onGrant q 2 fun n c b => b.launchCmd n q c

/-- A transfer takes a slot of its agent (R210, R242); one for a core that the slice has not does nothing and completes, as a
LAUNCH does. -/
def Block.dmaCmd (b : Block) (n q : Nat) (c : Cmd) : Block :=
  match b.dmaAgent n c with
  | none => b.cmdDone q c.k
  | some agent =>
    match b.dmaSlot agent with
    | none => b
    | some ch =>
      if fld (c.w 6) 31 0 == 0 then b.cmdDone q c.k
      else
        { b with dmas := b.dmas ++ [{ agent := agent, channel := ch, queue := q, k := c.k, ctx := c.ctx, label := c.label
                                      gen := b.startGen q, src := fld (c.w 4) 56 0
                                      dst := fld (c.w 5) 56 0, bytes := fld (c.w 6) 31 0, pos := 0, waits := none, fetch := none, skip := 0, data := [] }] }

/-- The granted transfer finds a slot of its agent; without one it waits with its grant. -/
def Block.dmaRoom (b : Block) (q : Nat) : Bool :=
  let n := b.queueOwner q
  match (b.granted n).bind fun g => if g.1 == q then b.cmdOf q g.2 else none with
  | none => true
  | some c => ((b.dmaAgent n c).map fun a => (b.dmaSlot a).isSome).getD true

def execDma (q : Nat) (s : State) : Host.Outcome State Fault Refusal :=
  s.onCompute fun b => if b.dmaRoom q then b.onGrant q 3 fun n c b => b.dmaCmd n q c else b

/-- R256, R257. -/
def execFenceWait (q : Nat) (s : State) : Host.Outcome State Fault Refusal :=
  s.onCompute fun b => b.onGrant q 4 fun _ c b =>
    let x := b.fence (fld (c.w 4) 15 0)
    if !x.setUp then (b.ctxCode c.ctx cFenceRefused).cmdDone q c.k
    else if fencePassed x.value (BitVec.ofNat 64 (c.w 5)) then b.cmdDone q c.k
    else b

/-- A command as it signals. -/
def Cmd.signaller (c : Cmd) : Signaller := { label := c.label, gen := c.gen }

/-- The FENCE_SIGNAL at the head of its queue takes effect: every earlier command has completed (R243, R255, R261). -/
def Block.sendSignal (b : Block) (q : Nat) : Block :=
  let x := b.queue q
  let n := b.queueOwner q
  match x.cmds with
  | [] => b
  | c :: _ =>
    let w := BitVec.ofNat 64 (c.w 5)
    let h := BitVec.ofNat 64 (c.w 6)
    if !c.started || c.finished || c.opcode != 5 || c.progress != 0 || (b.ctx c.ctx).st == .resetting then b
    else if b.genStale c.gen then (b.dropEffect c.gen).cmdDone q c.k
    else if !bit (c.w 4) 63 then (b.cmdSignal n c.ctx (fld (c.w 4) 15 0) w c.signaller).cmdDone q c.k
    else if hPackage h == b.dict.package && hInstance h == b.start.inst then
      let (b, ok) := b.handleSignal h w c.signaller
      (if ok then b else b.ctxCode c.ctx cFenceRefused).cmdDone q c.k
    else
      let a := hPackage h * 2 ^ 45 + hInstance h * 2 ^ 42
      let (b, tag) := (b.modCmd q c.k fun y => { y with progress := 1 }).takeTag (.fence q c.k) (b.portTo n a)
      b.sendFlit n { label := c.label, point := 64 } (b.portTo n a) a (b.sliceFlit n 0x07 tag (toLe 8 h.toNat ++ toLe 8 w.toNat))

def execFenceSignal (q : Nat) (s : State) : Host.Outcome State Fault Refusal :=
  s.onCompute fun b => (b.onGrant q 5 fun _ _ b => b).sendSignal q

/-- The first SET_WINDOW of a queue that has started and not taken effect does so once every earlier OPS is complete, whose ops
use the old window (R208). -/
def Block.nextWindow (b : Block) (q : Nat) : Block :=
  match (b.queue q).cmds.span fun c => !(c.started && !c.finished && c.opcode == 6) with
  | (before, c :: _) =>
    if before.all fun x => x.opcode != 1 || x.completed then (b.setWindow c.ctx (c.w 4) (c.w 5)).cmdDone q c.k else b
  | (_, []) => b

def execSetWindow (q : Nat) (s : State) : Host.Outcome State Fault Refusal :=
  s.onCompute fun b => (b.onGrant q 6 fun _ _ b => b).nextWindow q

/-- The PREFETCH or ADVISE of a queue that the translation unit serves: the first that has started and not finished (R219). -/
def Queue.xlatCmd (q : Queue) (opcode : Nat) : Option Cmd :=
  (q.cmds.find? fun c => c.started && !c.finished && (c.opcode == 7 || c.opcode == 8)).filter fun c => c.opcode == opcode

/-- The next page of the queue's PREFETCH: skipped, or moved (R220). -/
def Block.nextPage (b : Block) (q : Nat) : Block :=
  let n := b.queueOwner q
  match (b.queue q).xlatCmd 7 with
  | none => b
  | some c =>
    if (b.slice n).xlat.migrating.isSome then b
    else
      let va := fld (c.w 4) 56 16 * 65536 + 65536 * c.progress
      let at_ := fld (c.w 6) 56 0 + 8 * c.progress
      let toHost := fld (c.w 4) 1 0 == 1
      match b.migrPage c.ctx va at_ toHost with
      | none => b.pageOver q c.k
      | some (leafAt, leaf, target) =>
        b.migrStart n { q := q, k := c.k, ctx := c.ctx, va := va, leafAt := leafAt, leaf := leaf, listAt := at_, target := target
                        toHost := toHost, label := c.label, off := 0, unsent := 0, waits := false, copied := false }

def execPrefetch (q : Nat) (s : State) : Host.Outcome State Fault Refusal :=
  s.onCompute fun b =>
    (b.onGrant q 7 fun _ c b =>
      if prefetchBad (c.w 4) (c.w 5) (c.w 6) (c.w 7) then (b.ctxCode c.ctx cOpInvalid).cmdDone q c.k
      else if fld (c.w 5) 31 0 == 0 then b.cmdDone q c.k
      else b).nextPage q

/-- The queue's ADVISE, in its turn: ADV is written, and the range invalidated (R221). -/
def Block.nextAdvice (b : Block) (q : Nat) : Block :=
  match (b.queue q).xlatCmd 8 with
  | none => b
  | some c =>
    let va := fld (c.w 4) 56 16 * 65536
    let pages := fld (c.w 5) 31 0
    if c.progress != 0 then b
    else
      ((b.modCmd q c.k fun y => { y with progress := 1 }).each (List.range pages) fun i b =>
        b.advisePage c.ctx (va + 65536 * i) (fld (c.w 6) 1 0)).addInval (b.queueOwner q)
          { ctx := some c.ctx, va := va, len := 65536 * pages, bump := false, use := .advise q c.k }

def execAdvise (q : Nat) (s : State) : Host.Outcome State Fault Refusal :=
  s.onCompute fun b =>
    (b.onGrant q 8 fun _ c b =>
      if adviseBad (c.w 4) (c.w 5) (c.w 6) (c.w 7) then (b.ctxCode c.ctx cOpInvalid).cmdDone q c.k
      else if fld (c.w 5) 31 0 == 0 then b.cmdDone q c.k
      else b).nextAdvice q

def execStamp (q : Nat) (s : State) : Host.Outcome State Fault Refusal :=
  s.onCompute fun b => b.onGrant q 9 fun n c b =>
    let a := fld (c.w 4) 56 0
    (if a % 8 == 0 && b.ownRange n a 8 then b.wrOwn n a (toLe 8 b.stamp.toNat) else b).cmdDone q c.k

/-! ### Completion (R243, R251, R253) -/

/-- No placement of the command is still on its way. -/
def Block.allAccepted (b : Block) (n q k : Nat) : Bool :=
  (b.coresOf n).all fun core => (List.range 4).all fun e => (b.eng core e).arrivals.all fun p =>
    match p.issuer with
    | .queue q' k' _ => !(q' == q && k' == k)
    | .hart _ => true

/-- Every remote write of the context's windows has been answered (R251). -/
def Block.windowsQuiet (b : Block) (c : Nat) : Bool := b.ports.remote.all fun u => match u.2 with
  | .window d _ => d != c
  | _ => true

/-- No host write of a core's control processor waits at the host port (R251). -/
def Block.hostQuiet (b : Block) (core : Nat) : Bool := b.ports.waiting.all fun x => match x.what with
  | .write _ _ _ none => x.by_.point != core
  | _ => true

/-- The core whose running launch is the command's, with the launch over. -/
def Block.launchCore (b : Block) (n q k : Nat) : Option Nat :=
  (b.coresOf n).find? fun core =>
    match (b.core core).hart.launch with
    | none => false
    | some l => l.queue == q && l.entry == k && (b.core core).launchOver

/-- The command's own completion holds (the last column of R242). -/
def Block.cmdOver (b : Block) (n q : Nat) (c : Cmd) : Bool :=
  c.started && !c.completed &&
    (c.finished || match c.opcode with
      | 1 => (b.nextPlace n c).isNone && b.allAccepted n q c.k && (c.tickets.all fun t => ticketDone (b.eng t.1 t.2.1).done t.2.2) &&
          b.windowsQuiet c.ctx
      | 2 => ((b.launchCore n q c.k).map b.hostQuiet).getD false && b.windowsQuiet c.ctx
      | _ => false)

/-- DONE passes the completed entries at the front, those of the queue's present enabling, and each one's FSIG takes effect; an
effect of another generation is discarded (R243, R251, R304). -/
def Block.passDone (n q : Nat) : Nat → Block → Block
  | 0, b => b
  | fuel + 1, b =>
    match (b.queue q).cmds with
    | [] => b
    | c :: _ =>
      if !c.completed then b
      else
        let b := b.modQueue q fun x => { x with cmds := x.cmds.drop 1 }
        if b.genStale c.gen then
          Block.passDone n q fuel (if c.fsig then (b.dropEffect c.gen).dropEffect c.gen else b.dropEffect c.gen)
        else
          let b := b.modQueue q fun x =>
            if c.k / 2 ^ 32 == x.epoch then { x with done := x.done + 1, wdog := 0 } else x
          let b := if c.fsig && b.fenceIn n c.fsigFence then b.cmdSignal n c.ctx c.fsigFence c.fsigValue c.signaller else b
          Block.passDone n q fuel b

/-- The command that completes for entry number k: of those fetched under it, the first that is over. -/
def Block.overOf (b : Block) (n q k : Nat) : Nat :=
  (((b.queue q).cmds.find? fun c => c.k % 2 ^ 32 == k % 2 ^ 32 && b.cmdOver n q c).map (·.k)).getD k

/-- A command of the queue completes; not one whose context is in RESET, which ends it without a signal (R234). -/
def Block.completeCmd (b : Block) (q k : Nat) : Block :=
  let n := b.queueOwner q
  match b.cmdOf q k with
  | none => b
  | some c =>
    if !b.cmdOver n q c || (b.ctx c.ctx).st == .resetting then b
    else
      let b :=
        if c.opcode == 2 then
          match b.launchCore n q k with
          | none => b
          | some core => b.closeLaunch core
        else b
      let b := b.modCmd q k fun y => { y with completed := true, finished := true }
      Block.passDone n q (b.queue q).cmds.length b

def execCommandComplete (q k : Nat) (s : State) : Host.Outcome State Fault Refusal :=
  s.onCompute fun b => b.completeCmd q (b.overOf (b.queueOwner q) q k)

/-- The queue's watchdog runs: a command has started and not completed, and neither a rung, a turn nor shedding holds it (R263,
R317, R327, R403). -/
def Block.queueWatched (b : Block) (q : Nat) : Bool :=
  let x := b.queue q
  let st := (b.ctx x.ctx).st
  (x.cmds.any fun c => c.started && !c.completed) && (st == .active || st == .faulted) &&
    !b.suspended (b.queueOwner q) x.cls && !b.parked && !b.gated && !b.queueHeld (b.queueOwner q) q

/-- What a phase tick adds to the watchdogs that run. -/
def Block.queueTick (b : Block) : Block :=
  b.each ((Tab.keys b.queues).filter b.queueWatched) fun q b => b.modQueue q fun x => { x with wdog := x.wdog + 1 }

/-- (WDOG_TICKS + 1) × 2^WDOG_SCALE phase ticks have passed (R263). -/
def Queue.expired (q : Queue) : Bool := (q.wdogTicks + 1) * 2 ^ q.wdogScale ≤ q.wdog

def execQueueWatchdog (q : Nat) (s : State) : Host.Outcome State Fault Refusal :=
  s.onCompute fun b => if b.queueWatched q && (b.queue q).expired then b.toFaulted (b.queue q).ctx cWatchdog else b

end Sys2Proof.Machine
end

