-- ==== Sys2Proof/Machine/Coherence.lean ====
section
/-! DEFINITION. Coherence in the control plane: the messages of a domain as commands, forward progress, and dead agents (R284 to
R299). -/

namespace Sys2Proof.Machine

/-! ### The rows -/

def execRds (agent : Agent) (line : Nat) (s : State) : Host.Outcome State Fault Refusal :=
  s.onCompute fun b => (b.request agent line (b.lineKey (agentSlice agent) line) .rds false).settleReq line

def execRdx (agent : Agent) (line : Nat) (s : State) : Host.Outcome State Fault Refusal :=
  s.onCompute fun b => (b.request agent line (b.lineKey (agentSlice agent) line) .rdx false).settleReq line

def execWrline (agent : Agent) (line : Nat) (alloc : Bool) (bytes : List Byte) (s : State) : Host.Outcome State Fault Refusal :=
  s.onCompute fun b =>
    (b.request agent line (b.lineKey (agentSlice agent) line) (.wrline (alloc && !agentUncached agent) (bytesLine bytes)) false).settleReq line

def execUncrd (agent : Agent) (line : Nat) (s : State) : Host.Outcome State Fault Refusal :=
  s.onCompute fun b => (b.request agent line (b.lineKey (agentSlice agent) line) .uncrd false).settleReq line

def execUncwr (agent : Agent) (line off : Nat) (bytes : List Byte) (s : State) : Host.Outcome State Fault Refusal :=
  s.onCompute fun b => (b.request agent line (b.lineKey (agentSlice agent) line) (.uncwr off bytes) false).settleReq line

def execAtomicHome (agent : Agent) (line off : Nat) (op : AtomicOp) (a b : Dword) (s : State) : Host.Outcome State Fault Refusal :=
  s.onCompute fun k => (k.request agent line (k.lineKey (agentSlice agent) line) (.atomic off op a b) false).settleReq line

/-- An agent's M line leaves it, or waits in its write-back buffer already. -/
def Block.beginWb (b : Block) (a : Agent) (line : Nat) : Block :=
  match b.coh.lineOf a line with
  | some l => if l.st == .m && !b.lineHeld a line then b.evictCopy l else b
  | none => b

def execWb (agent : Agent) (line : Nat) (s : State) : Host.Outcome State Fault Refusal :=
  s.onCompute fun b => (b.beginWb agent line).acceptWb agent line

def execSnps (agent : Agent) (line : Nat) (s : State) : Host.Outcome State Fault Refusal :=
  s.onCompute fun b => b.deliverSnoop agent line .shared

def execSnpx (agent : Agent) (line : Nat) (s : State) : Host.Outcome State Fault Refusal :=
  s.onCompute fun b => b.deliverSnoop agent line .own

def execSnpcur (agent : Agent) (line : Nat) (s : State) : Host.Outcome State Fault Refusal :=
  s.onCompute fun b => b.deliverSnoop agent line .cur

def execData (agent : Agent) (line : Nat) (s : State) : Host.Outcome State Fault Refusal :=
  s.onCompute fun b => b.takeData agent line

def execRsp (agent : Agent) (line : Nat) (s : State) : Host.Outcome State Fault Refusal :=
  s.onCompute fun b => b.takeRsp agent line

def execNack (agent : Agent) (line : Nat) (s : State) : Host.Outcome State Fault Refusal :=
  s.onCompute fun b => b.takeNack agent line

def execCohAck (agent : Agent) (line : Nat) (s : State) : Host.Outcome State Fault Refusal :=
  s.onCompute fun b => b.takeAck agent line

/-- The agent's oldest accepted write-back of the line leaves its buffer. -/
def execCmpwb (agent : Agent) (line : Nat) (s : State) : Host.Outcome State Fault Refusal :=
  s.onCompute fun b =>
    match b.takeMsg fun m => m == .cmpwb agent line with
    | none => b
    | some (_, b') => b'.modCoh fun c =>
        match c.wbuf.find? fun w => w.agent == agent && w.line == line && w.accepted with
        | none => c
        | some w => { c with wbuf := c.wbuf.erase w }

/-- A requester receives Poison: its request is over (R298). -/
def execCohPoison (agent : Agent) (line : Nat) (s : State) : Host.Outcome State Fault Refusal :=
  s.onCompute fun b =>
    match b.takeMsg fun m => m == .poison agent line with
    | none => b
    | some (_, b') => b'.modCoh fun c => c.dropWant agent line fun _ => true

/-- HOLD_CLK after the install, or 64 clocks after an LR, are over (R291, R292). -/
def execHoldEnd (agent : Agent) (line : Nat) (s : State) : Host.Outcome State Fault Refusal :=
  s.onCompute fun b => if b.lineHeld agent line then b else b.holdEnds agent line

/-- 256 clocks after the line became free its reservation lapses: the next Nacked request, or the request queue, takes its turn
(R289). -/
def execRetryReservationLapse (line : Nat) (s : State) : Host.Outcome State Fault Refusal :=
  s.onCompute fun b =>
    match b.coh.reserved.find? fun r => r.1 == line && r.2.2 ≤ b.time.clk with
    | none => b
    | some r =>
      let b := b.modCoh fun c =>
        { c with reserved := c.reserved.filter fun x => x.1 != line
                 retry := Tab.set [] c.retry line ((Tab.get [] c.retry line).filter fun a => a != r.2.1) }
      if Tab.has b.coh.busy line then b else (b.freeLine line).1.settleReq line

/-- The delay of a Nacked request is over (R290). -/
def execRetryDelayExpiry (agent : Agent) (line : Nat) (s : State) : Host.Outcome State Fault Refusal :=
  s.onCompute fun b =>
    match b.coh.waiting.find? fun w => w.agent == agent && w.line == line && w.retryAt.any (· ≤ b.time.clk) with
    | none => b
    | some w =>
      let r := { w with retryAt := none, st := .sent }
      ((b.modCoh fun c => c.setWant w r).handleReq r).settleReq line

/-! ### Dead agents (R295 to R297) -/

/-- The line is of a home of the slice. -/
def Block.ofSlice (b : Block) (n line : Nat) : Bool := b.groupOwner (homeOf line) == n

/-- Every control processor of a slice halts. -/
def Block.haltAll (b : Block) (n : Nat) : Block :=
  b.each (b.coresOf n) fun core b => b.modHart core fun h => { h with halted := true, stall := none, reservation := none }

/-- The home still works: its shim has not failed, and it is not the home that let a request wait. -/
def Block.liveHome (b : Block) (dead : Option Nat) (line : Nat) : Bool :=
  dead != some (homeOf line) && !Tab.get false b.power.failed (80 + b.recon.shimOf (homeOf line))

/-- Dirty lines of the slice in privileged agents, and in their write-back buffers, go to live homes. -/
def Block.storePriv (b : Block) (n : Nat) (dead : Option Nat) : Block :=
  let mine (a : Agent) (line : Nat) : Bool := agentPriv a && agentSlice a == n && b.liveHome dead line
  let b := (b.coh.wbuf.filter fun w => mine w.agent w.line && !w.taken).foldl (fun b w => b.storeLine w.line w.key w.data) b
  (b.coh.lines.filter fun l => mine l.agent l.line && l.st == .m).foldl (fun b l => b.storeLine l.line l.key l.data) b

/-- The agent that a message comes from or goes to. -/
def CohMsg.agent : CohMsg → Agent
  | .snoop d _ _ _ => d
  | .rsp d _ _ _ _ _ => d
  | .data d _ _ _ _ => d
  | .nack d _ => d
  | .ack d _ => d
  | .cmpwb d _ => d
  | .poison d _ => d

def CohMsg.line : CohMsg → Nat
  | .snoop _ l _ _ => l
  | .rsp _ l _ _ _ _ => l
  | .data _ l _ _ _ => l
  | .nack _ l => l
  | .ack _ l => l
  | .cmpwb _ l => l
  | .poison _ l => l

/-- No copy, message or transaction of the slice's domain remains; every request whose requester waits ends with Poison (R296). -/
def Block.clearDomain (b : Block) (n : Nat) : Block :=
  let ends := b.coh.waiting.filter fun w => agentSlice w.agent == n
  b.modCoh fun c =>
    { c with
      lines := c.lines.filter fun l => agentSlice l.agent != n
      filter := c.filter.filter fun x => !b.ofSlice n x.1
      busy := c.busy.filter fun x => !b.ofSlice n x.1
      msgs := c.msgs.filter (fun m => agentSlice m.agent != n) ++ ends.map fun w => .poison w.agent w.line
      wbuf := c.wbuf.filter fun w => agentSlice w.agent != n
      parks := c.parks.filter fun p => agentSlice p.1 != n
      waiting := c.waiting.filter fun w => agentSlice w.agent != n
      uncQueue := c.uncQueue.filter fun w => agentSlice w.agent != n
      retry := c.retry.filter fun x => !b.ofSlice n x.1
      reserved := c.reserved.filter fun r => agentSlice r.2.1 != n
      dcache := c.dcache.filter fun x => (b.core x.1).owner != n }

/-- The slice's coherent domain is lost; a slice rung with CAUSE 5 follows (R296, R314). -/
def Block.loseDomain (b : Block) (n : Nat) (dead : Option Nat) : Block :=
  (((((b.haltAll n).storePriv n dead).clearDomain n).irq n 4).tallyUp 0x8010 0x0C).askSlice n 5 |>.modLad n fun l => { l with lost := true }

/-- A recall goes on without the agent, as if it had answered that it holds nothing (R282, R297). -/
def Block.recallWithout (b : Block) (a : Agent) (line : Nat) : Block :=
  let b := (b.modCoh fun c =>
    { (c.dropLine a line) with
      msgs := (c.msgs.filter fun m => match m with
        | .snoop d l _ _ => !(d == a && l == line)
        | .rsp d l _ _ _ _ => !(d == a && l == line)
        | _ => true)
      parks := c.parks.filter fun p => !(p.1 == a && p.2.1 == line) }).modTxn line fun t => { t with snoops := t.snoops.filter (· != a) }
  if ((Tab.find b.coh.busy line).map fun t => t.snoops.isEmpty).getD false then (b.resolve line).settleTxn line else b

/-- A privileged agent does not answer: the line is poisoned and the waiting request ends with Poison (R297). A transaction that
only frees the line's filter entry has nobody who waits for it, and waits for the other agents (R282). -/
def Block.poisonLine (b : Block) (a : Agent) (line : Nat) (t : Txn) : Block :=
  let n := agentSlice a
  let b := (b.storeLine line t.key (b.memLine t.key line)).setPoison line true
  if t.req == .evict then
    ((b.modCnt n fun c => { c with cohPoisoned := up32 c.cohPoisoned }).tallyUp 0x8010 0x0D).recallWithout a line
  else
  let b := b.modCoh fun c =>
    { (c.dropLine a line) with
      msgs := (c.msgs.filter fun m => match m with
        | .snoop _ l _ _ => l != line
        | .rsp _ l _ _ _ _ => l != line
        | .data _ l _ _ _ => l != line
        | _ => true) ++ if t.requester == recaller (agentSlice t.requester) then [] else [.poison t.requester line]
      parks := c.parks.filter fun p => p.2.1 != line
      filter := if (c.filt line).any fun f => f.owner == some a then Tab.erase c.filter line else c.filter }
  let b := b.modTxn line fun t => { t with snoops := [], acked := true }
  ((b.modCnt n fun c => { c with cohPoisoned := up32 c.cohPoisoned }).tallyUp 0x8010 0x0D).settleTxn line

/-- A response has not come COH_SNOOP_TIMEOUT after its snoop was sent (R295). -/
def execSnoopTimeout (agent : Agent) (line : Nat) (s : State) : Host.Outcome State Fault Refusal :=
  s.onCompute fun b =>
    match Tab.find b.coh.busy line with
    | none => b
    | some t =>
      if t.snoops.contains agent && t.since + b.ladder.cohSnoopTimeout ≤ b.time.clk then
        if agentPriv agent then b.poisonLine agent line t else b.loseDomain (agentSlice agent) none
      else b

/-- A grant has not come COH_REQ_TIMEOUT after the request's first try (R295). -/
def execReqTimeout (agent : Agent) (line : Nat) (s : State) : Host.Outcome State Fault Refusal :=
  s.onCompute fun b =>
    if b.coh.waiting.any fun w => w.agent == agent && w.line == line && w.since + b.ladder.cohReqTimeout ≤ b.time.clk then
      b.loseDomain (agentSlice agent) (some (homeOf line))
    else b

end Sys2Proof.Machine
end

