-- ==== Sys2Proof/Machine/Access.lean ====
section
/-! DEFINITION. Control-processor accesses: the scratchpad, the data caches and cluster caches, LR/SC and AMO, host and remote
memory (R86, R206, R276 to R294, R298), and messages between cores (R189). -/

namespace Sys2Proof.Machine

/-! ### Values -/

/-- A loaded value: zero- or sign-extended to 64 bits. -/
def extend (n : Nat) (uns : Bool) (v : Nat) : Dword := if uns then BitVec.ofNat 64 v else BitVec.ofInt 64 (signed (8 * n) v)

/-- The result of an AMO on 4 bytes is sign-extended (RISC-V). -/
def amoResult (op : AtomicOp) (old : Nat) : Dword := extend (atomicBytes op) false old

/-- The register effect of a load that completes. -/
def Hart.loaded (h : Hart) (rd : Nat) (v : Dword) : Hart := (h.setReg rd v).step4

/-- The hart of the access waits for it, and the access ends so. -/
def Block.endAccess (b : Block) (core : Nat) (f : Hart → Hart) : Block :=
  if (b.core core).hart.stall == some .access then b.modHart core f else b

/-! ### Accesses -/

/-- The address that a base register and an offset give. -/
def effAddr (h : Hart) (rs1 : Nat) (off : Int) : Dword := h.reg rs1 + BitVec.ofInt 64 off

/-- The line of a scratchpad address, as a reservation names it. -/
def scratchLine (a : Nat) : Nat := 2 ^ 40 + a / 128

/-- The access crosses a line, or an LR, SC or AMO is not naturally aligned: a misaligned-address exception. -/
def misaligned (a n : Nat) (strict : Bool) : Bool := if strict then a % n != 0 else 128 < a % 128 + n

def cLoadMisaligned : Nat := 4
def cStoreMisaligned : Nat := 6

/-- Access kinds by what they do: whether the access writes, its width, and whether it must be aligned. -/
def accWrites : CpAccess → Bool
  | .load _ _ _ _ _ => false
  | .lr _ _ _ => false
  | _ => true

def accBytes : CpAccess → Nat
  | .load _ _ l _ _ => 2 ^ l
  | .store _ _ l _ => 2 ^ l
  | .lr _ _ l => 2 ^ l
  | .sc _ _ _ l => 2 ^ l
  | .amo op _ _ _ => atomicBytes op

def accStrict : CpAccess → Bool
  | .load _ _ _ _ _ => false
  | .store _ _ _ _ => false
  | _ => true

def accAddr (h : Hart) : CpAccess → Dword
  | .load _ r _ _ o => effAddr h r o
  | .store r _ _ o => effAddr h r o
  | .lr _ r _ => h.reg r
  | .sc _ r _ _ => h.reg r
  | .amo _ _ r _ => h.reg r

/-- An access to the scratchpad (R86). -/
def Block.scratchAccess (b : Block) (core : Nat) (h : Hart) (acc : CpAccess) (a : Nat) : Block :=
  let n := accBytes acc
  let c := b.core core
  let old := leNat (c.rdSN a n)
  let bad := Tab.get false c.poison (a / 128)
  let fault := b.modHart core fun x => x.trap cLoadFault (BitVec.ofNat 64 a)
  let put (v : Nat) : Block := b.modCore core fun c => c.wrS a (toLe n v)
  match acc with
  | .load rd _ _ uns _ => if bad then fault else b.modHart core fun x => x.loaded rd (extend n uns old)
  | .store _ rs2 _ _ => (put (h.reg rs2).toNat).modHart core Hart.step4
  | .lr rd _ _ =>
    if bad then fault
    else b.modHart core fun x => { x.loaded rd (extend n false old) with reservation := some (scratchLine a) }
  | .sc rd _ rs2 _ =>
    let ok := h.reservation == some (scratchLine a)
    (if ok then put (h.reg rs2).toNat else b).modHart core fun x =>
      { x.loaded rd (if ok then 0 else 1) with reservation := none }
  | .amo op rd _ rs2 =>
    if bad then fault
    else (put (atomicNew op old (h.reg rs2).toNat 0)).modHart core fun x => x.loaded rd (amoResult op old)

/-- The line of a load: in the core's cluster cache, or the home's answer where that may take no line (R89). -/
def Block.hartLine (b : Block) (core : Nat) (a : Agent) (line key : Nat) : LineRes :=
  if (b.coh.lineOf a line).isNone && b.noWays a then
    match b.cacheRead a core key (128 * line) 1 with
    | (b, none) => .wait b
    | (b, some (.data bs)) => .ok b { agent := a, line := line, st := .s, data := bytesLine bs, key := key, way := 16, age := 0, holdTo := 0 }
    | (b, some _) => .bad b
  else b.readLine a line key

/-- The data cache takes a line that its cluster cache has. -/
def Block.copyFill (b : Block) (a : Agent) (core line : Nat) : Block :=
  if (b.coh.lineOf a line).isSome then b.dcacheFill core line .s else b

/-- An access to coherent memory of the block's own instance, at place k under a key generation: through the core's cluster cache,
or an AMO at the line's home. It waits while the line is busy or held; Poison raises a load access fault (R276, R281, R292, R293,
R298). -/
def Block.coherentAccess (b : Block) (core : Nat) (h : Hart) (acc : CpAccess) (k key : Nat) (va : Dword) : Block :=
  let line := k / 128
  let off := k % 128
  let n := accBytes acc
  let a := b.clusterOf core
  let value (l : CLine) : Nat := leNat (((lineBytes l.data).drop off).take n)
  let bad (b : Block) : Block := b.modHart core fun x => x.trap cLoadFault va
  let put (b : Block) (l : CLine) (v : Dword) : Block := (b.storeIn l off (toLe n v.toNat) (some core)).dcacheFill core line .m
  match acc with
  | .load rd _ _ uns _ =>
    match b.hartLine core a line key with
    | .wait b => b
    | .bad b => bad b
    | .ok b l => (b.copyFill a core line).modHart core fun x => x.loaded rd (extend n uns (value l))
  | .lr rd _ _ =>
    match b.hartLine core a line key with
    | .wait b => b
    | .bad b => bad b
    | .ok b l =>
      if (b.coh.lineOf a line).isNone then b.modHart core fun x => x.loaded rd (extend n false (value l)) else
      ((b.dcacheFill core line .s).modCoh fun c =>
        { c with lines := c.lines.map fun x =>
            if x.agent == a && x.line == line then { x with holdTo := max x.holdTo (b.time.clk + 64) } else x }).modHart core fun x =>
          { x.loaded rd (extend n false (value l)) with reservation := some line }
  | .store _ rs2 _ _ =>
    if b.writesPast a line 0 then
      match b.cacheWrite a core key k 1 (toLe n (h.reg rs2).toNat) with
      | (b, false) => b
      | (b, true) => b.modHart core Hart.step4
    else
      match b.ownLine a line key with
      | .wait b => b
      | .bad b => bad b
      | .ok b l => (put b l (h.reg rs2)).modHart core Hart.step4
  | .sc rd _ rs2 _ =>
    if h.reservation == some line && b.coh.dcache.any (fun x => x.1 == core && x.2.1 == line) then
      match b.ownLine a line key with
      | .wait b => b
      | .bad b => bad b
      | .ok b l => (put b l (h.reg rs2)).modHart core fun x => { x.loaded rd 0 with reservation := none }
    else b.modHart core fun x => { x.loaded rd 1 with reservation := none }
  | .amo op rd _ rs2 =>
    match b.homeTurn a line true with
    | (b, false) => b
    | (b, true) =>
      match b.whole a line key (.atomic off op (h.reg rs2) 0) with
      | (b, .poison) => bad b
      | (b, .value d) => b.modHart core fun x => x.loaded rd (amoResult op d.toNat)
      | (b, .nothing) => b

/-- A control processor's own accesses: the label of its context, the core's request port (R264, R266). -/
def Block.hartMaker (b : Block) (core : Nat) (h : Hart) : Maker := { label := (b.ctx h.zhCtx).label, point := core }

/-- An access to host memory: made at the host port; an atomic raises an access fault (R277, R293). -/
def Block.hostAccess (b : Block) (core : Nat) (h : Hart) (acc : CpAccess) (a : Nat) (va : Dword) : Block :=
  let pasid := (b.ctx h.zhCtx).pasid
  let n := (b.core core).owner
  let by_ := b.hartMaker core h
  match acc with
  | .load rd _ l uns _ =>
    (b.sliceRead n by_ none { addr := a, len := 2 ^ l, pasid := pasid, use := .load core rd l uns va.toNat }).modHart core fun x =>
      { x with stall := some .access }
  | .store _ rs2 l _ => (b.hostWrite n by_ none a (toLe (2 ^ l) (h.reg rs2).toNat) pasid none).modHart core Hart.step4
  | _ => b.modHart core fun x => x.trap (if accWrites acc then cStoreFault else cLoadFault) va

/-- The operation of a remote ATOMIC that an AMO is: 8-byte swap and add (R442). -/
def remoteOp : AtomicOp → Option Nat
  | .swap true => some 1
  | .add true => some 2
  | _ => none

/-- An access to another instance's memory; an atomic that the link cannot carry raises an access fault (R225, R442). -/
def Block.remoteAccess (b : Block) (core : Nat) (h : Hart) (acc : CpAccess) (a : Nat) (va : Dword) : Block :=
  let n := (b.core core).owner
  let stalled (b : Block) : Block := b.modHart core fun x => { x with stall := some .access }
  let fault : Block := b.modHart core fun x => x.trap (if accWrites acc then cStoreFault else cLoadFault) va
  match acc with
  | .load rd _ l uns _ => stalled (b.remoteRead n (b.hartMaker core h) (.load core rd l uns (a % 128) va.toNat) a (2 ^ l)).1
  | .store _ rs2 l _ => stalled (b.remoteWrite n (b.hartMaker core h) (.store core va.toNat) a (toLe (2 ^ l) (h.reg rs2).toNat))
  | .amo op rd _ rs2 =>
    match remoteOp op with
    | none => fault
    | some k =>
      let (b, tag) := b.takeTag (.atomic core rd va.toNat) (b.portTo n a)
      stalled (b.sendFlit n (b.hartMaker core h) (b.portTo n a) a (b.sliceFlit n 0x05 tag
        (toLe 8 a ++ toLe 8 k ++ toLe 8 (h.reg rs2).toNat ++ toLe 8 0)))
  | _ => fault

/-- The AMO is a call of the allocator (R227). -/
def allocCall (acc : CpAccess) (a allocVa : Nat) : Option (Nat × Nat) :=
  match acc with
  | .amo (.swap true) rd _ rs2 => if allocVa != 0 && a == allocVa then some (rd, rs2) else none
  | _ => none

/-- The access makes no request to a home: the cluster cache has the line, or owns it for a store, or an SC has lost its
reservation. -/
def Block.servedHere (b : Block) (core : Nat) (h : Hart) (acc : CpAccess) (line : Nat) : Bool :=
  let a := b.clusterOf core
  match acc with
  | .load _ _ _ _ _ => (b.coh.lineOf a line).isSome
  | .lr _ _ _ => (b.coh.lineOf a line).isSome
  | .store _ _ _ _ => b.ownsLine a line
  | .sc _ _ _ _ => b.ownsLine a line || h.reservation != some line
  | .amo _ _ _ _ => false

/-- An access that has ended gives up what its requests brought; one that still waits keeps it. -/
def Block.accessOver (b : Block) (core : Nat) (h : Hart) : Block := if (b.core core).hart == h then b else b.dropLines core 7

/-- An access beyond the scratchpad, at context address a: its page is walked and its line asked for where they must be (R205,
R265). -/
def Block.memAccess (b : Block) (core : Nat) (h : Hart) (acc : CpAccess) (a : Nat) (va : Dword) : Block :=
  let n := (b.core core).owner
  let w := accWrites acc
  if b.pageMoves h.zhCtx a then b
  else if b.mustWalk core 7 h.zhCtx a then b.askWalk n (b.hartMaker core h) 7 h.zhCtx (a / 65536 * 65536)
  else
    match b.translate h.zhCtx a w with
    | (b, .fail _ _ _) => b.modHart core fun x => x.trap (if w then cStoreFault else cLoadFault) va
    | (b, .poison) => b.modHart core fun x => x.trap cLoadFault va
    | (b, .host p) => b.hostAccess core h acc p va
    | (b, .remote p) => b.remoteAccess core h acc p va
    | (b, .dev p key _) =>
      if b.servedHere core h acc (gaKey p / 128) || b.hasPassed core h.zhCtx a then b.coherentAccess core h acc (gaKey p) (b.keyGen key) va
      else b.askMem n (b.hartMaker core h) 7 h.zhCtx (a / 128 * 128) (gaKey p / 128)

/-- One data access of a control processor (R86, R206, R294). -/
def Block.cpAccess (b : Block) (core : Nat) (acc : CpAccess) (h : Hart) : Block :=
  let va := accAddr h acc
  let a := va.toNat % 2 ^ 57
  let w := accWrites acc
  let allocVa := (b.ctx h.zhCtx).allocVa
  if scratchEnd ≤ va.toNat && allocVa != 0 && a / 65536 == allocVa / 65536 && (allocCall acc a allocVa).isNone then
    b.modHart core fun x => x.trap (if w then cStoreFault else cLoadFault) va
  else if misaligned a (accBytes acc) (accStrict acc) then
    b.modHart core fun x => x.trap (if w then cStoreMisaligned else cLoadMisaligned) va
  else if va.toNat < scratchEnd then b.scratchAccess core h acc va.toNat
  else
    match allocCall acc a (b.ctx h.zhCtx).allocVa with
    | some (rd, rs2) =>
      let r := (h.reg rs2).toNat
      let (b, v) := if fld r 63 62 == 2 then b.freePages h.zhCtx r else b.allocPages h.zhCtx r
      b.modHart core fun x => x.loaded rd v
    | none => (b.memAccess core h acc a va).accessOver core h

/-- A data access, a CSR instruction, or a custom-0 instruction that R87 does not list, which is an illegal instruction. -/
def execControlProcessorAccess (core : Nat) (op : CpOp) (s : State) : Host.Outcome State Fault Refusal :=
  s.onBlock fun b => b.onHart core (fun _ => false) fun h =>
    match op with
    | .access acc => (b.newAccess core).cpAccess core acc h
    | .csr rd n w => b.csrAccess core h rd n w
    | .custom _ _ => b.modHart core fun x => x.trap cIllegal 0

/-! ### Messages between cores (R189) -/

/-- The core that a TARGET in the zh.core layout names, with the slice it names. -/
def targetCore (t : Nat) : Nat := fld t 12 10 * 8 + fld t 9 7

/-- The target of a message still plays the role that its sender meant. -/
def Block.roleMatches (b : Block) (n : Nat) (target : Dword) : Bool :=
  let t := dfld target 15 0
  fld t 15 13 == b.start.inst && (b.core (targetCore t)).owner == n && fld t 4 0 == n &&
    (b.core (targetCore t)).roleGen.toNat == dfld target 63 32

/-- The address that mtval takes for a message store, which the spec does not give. -/
def Block.freeDword (b : Block) : Dword × Block :=
  (Config.freeWord b.draws ++ Config.freeWord (b.draws + 1), { b with draws := b.draws + 2 })

def execCoreMessage (src : Nat) (target : Dword) (body : List Byte) (s : State) : Host.Outcome State Fault Refusal :=
  s.onBlock fun b => b.onHart src (fun _ => false) fun h =>
    let b := b.newAccess src
    let i := fld (dfld target 15 0) 15 13
    if i != b.start.inst && i < b.start.instCount then
      let a := b.dict.package * 2 ^ 45 + i * 2 ^ 42
      let port := b.portTo (b.core src).owner a
      let (b, tag) := b.takeTag (.message src) port
      (b.sendFlit (b.core src).owner (b.hartMaker src h) port a (b.sliceFlit (b.core src).owner 0x06 tag
        (toLe 8 target.toNat ++ body))).modHart src fun x =>
        { x with stall := some .access }
    else if b.roleMatches (b.core src).owner target then
      (b.modHart src Hart.step4).modHart (targetCore (dfld target 15 0)) fun x => { x with inbox := x.inbox ++ [body] }
    else
      let (v, b) := (b.ctxCode h.zhCtx cStaleRole).freeDword
      b.modHart src fun x => x.trap cStoreFault v

end Sys2Proof.Machine
end

