-- ==== Sys2Proof/Machine/Dma.lean ====
section
/-! DEFINITION. DMA transfers: their tiles, faults, resumption and abortion (R210 to R215, R242). -/

namespace Sys2Proof.Machine

/-- DMA agents stop after their current 256-byte request from level 4 on (R402). -/
def Block.dmaParked (b : Block) : Bool := 4 ≤ b.power.level || b.gated

def Block.dmaAt (b : Block) (agent ch : Nat) : Option Dma := b.dmas.find? fun d => d.agent == agent && d.channel == ch

def Block.modDma (b : Block) (agent ch : Nat) (f : Dma → Dma) : Block :=
  { b with dmas := b.dmas.map fun d => if d.agent == agent && d.channel == ch then f d else d }

/-- End of the tile under way: tiles of at most 64 KiB. -/
def Dma.tileEnd (d : Dma) : Nat := min d.bytes ((d.pos / 65536 + 1) * 65536)

/-- The transfer stops at a page: its record is written or held, and it waits (R210, R211). -/
def Block.dmaFault (b : Block) (d : Dma) (va cause level adv : Nat) (write : Bool) : Block :=
  ((b.dropLines d.agent (8 + d.channel)).modDma d.agent d.channel fun x => { x with waits := some (va / 65536), fetch := none }).newFault (b.ctx d.ctx).slice
    { va := va / 65536 * 65536, cause := cause, level := level, write := write, adv := adv, queue := d.queue
      gen := (b.ctx d.ctx).gen, agent := d.agent, ctx := d.ctx, stamp := b.stamp, channel := d.channel }

/-- The next `n` bytes are moved; a transfer of all its bytes ends, and so does its command's own work. -/
def Block.dmaMoved (b : Block) (d : Dma) (n : Nat) : Block :=
  let b := b.dropLines d.agent (8 + d.channel)
  if d.bytes ≤ d.pos + n then
    { b with dmas := b.dmas.filter fun x => !(x.agent == d.agent && x.channel == d.channel) }.cmdDone d.queue d.k
  else b.modDma d.agent d.channel fun x => { x with pos := x.pos + n, fetch := none, data := [] }

/-- An uncorrectable error at the source ends the tile: ECC_UNCORR (R75, R298). -/
def Block.dmaBad (b : Block) (d : Dma) : Block := (b.ctxCode d.ctx cEccUncorr).dmaMoved d (d.tileEnd - d.pos)

/-- The transfer as it makes requests (R264, R266). -/
def Dma.maker (d : Dma) : Maker := { label := d.label, point := d.agent }

/-- Bytes of the next request: within the tile, both pages, and the source's line or 256-byte block. -/
def Dma.chunk (d : Dma) (a block : Nat) : Nat :=
  min (min (d.tileEnd - d.pos) (block - a % block)) (min (65536 - (d.src + d.pos) % 65536) (65536 - (d.dst + d.pos) % 65536))

/-- The cluster cache of a transfer: that of its core; for the front end's agent, which the spec puts in no cluster, that of the
slice's first core (DESIGN CHOICE, notes/assumptions/100.md). -/
def Block.dmaCluster (b : Block) (d : Dma) : Agent :=
  let n := (b.ctx d.ctx).slice
  .cluster n ((if d.agent < 64 then d.agent else (b.sliceCore n 0).getD 0) / 8)

/-- A source line, which must pass the regulation points where the cluster cache has it not: only a read of a read-mostly page (ADV
3) fills the cluster cache (R221, R265); none while it waits, or the line is busy or held. -/
def Block.dmaLine (b : Block) (d : Dma) (va key k adv : Nat) : Block × Option LineAns :=
  if (b.coh.lineOf (b.dmaCluster d) (k / 128)).isNone && !b.hasPassed d.agent d.ctx va then
    (b.askMem (b.ctx d.ctx).slice d.maker (8 + d.channel) d.ctx (va / 128 * 128) (k / 128), none)
  else
    b.cacheRead (b.dmaCluster d) d.agent key k (if adv == 3 then 0 else 1)

/-- An address of a transfer as translated; none while its walk has to wait for the walker slot (R205, R265). -/
def Block.dmaTr (b : Block) (d : Dma) (va : Nat) (write : Bool) : Block × Option Tr :=
  if b.mustWalk d.agent (8 + d.channel) d.ctx va then
    (b.askWalk (b.ctx d.ctx).slice d.maker (8 + d.channel) d.ctx (va / 65536 * 65536), none)
  else
    let (b, r) := b.translate d.ctx va write
    (b, some r)

/-- A destination line of the block's own memory takes the bytes that lie in it, as the cluster cache holds it or past the cache;
the others wait for theirs (R276, R287, R291). -/
def Block.dmaWrite (b : Block) (d : Dma) (a key : Nat) (bs : List Byte) : Block :=
  let piece := bs.take (128 - gaKey a % 128)
  let waits (b : Block) : Block := b.modDma d.agent d.channel fun x => { x with fetch := none, data := bs }
  if !b.ownsLine (b.dmaCluster d) (gaKey a / 128) && !b.hasPassed d.agent d.ctx (d.dst + d.pos) then
    (waits b).askMem (b.ctx d.ctx).slice d.maker (8 + d.channel) d.ctx ((d.dst + d.pos) / 128 * 128) (gaKey a / 128)
  else
    match b.cacheWrite (b.dmaCluster d) d.agent key (gaKey a) 1 piece with
    | (b, false) => waits b
    | (b, true) => (b.dmaMoved d piece.length).modDma d.agent d.channel fun x => { x with data := bs.drop piece.length }

/-- Bytes read from the source go to the destination; those for host or remote memory are on their way until they have left or
are acknowledged. While the destination's page migrates they wait (R220). -/
def Block.dmaPut (b : Block) (d : Dma) (bs : List Byte) : Block :=
  let waits (b : Block) : Block := b.modDma d.agent d.channel fun x => { x with fetch := none, data := bs }
  if b.pageMoves d.ctx (d.dst + d.pos) then waits b
  else
    match b.dmaTr d (d.dst + d.pos) true with
    | (b, none) => waits b
    | (b, some (.fail cause level adv)) => b.dmaFault d (d.dst + d.pos) cause level adv true
    | (b, some (.dev a key _)) => b.dmaWrite d a (b.keyGen key) bs
    | (b, some (.host a)) =>
      (b.hostWrite (b.ctx d.ctx).slice d.maker d.gen a bs (b.ctx d.ctx).pasid (some (d.agent, d.channel))).modDma d.agent d.channel fun x =>
        { x with fetch := some bs.length, data := [] }
    | (b, some .poison) => b.dmaBad d
    | (b, some (.remote a)) =>
      (b.remoteWrite (b.ctx d.ctx).slice d.maker (.dma d.agent d.channel true) a bs).modDma d.agent d.channel fun x =>
        { x with fetch := some bs.length, data := [] }

def Tr.isHost : Tr → Bool
  | .host _ => true
  | _ => false

/-- The bytes of the next request from the block's own memory: those in the source's line, or, for host memory, in two lines of its
256-byte block. -/
def Block.dmaFromMemory (b : Block) (d : Dma) (a key adv : Nat) (toHost : Bool) : Block :=
  let va := d.src + d.pos
  let first := gaKey a / 128 * 128
  let n := d.chunk a (if toHost then 256 else 128)
  let (b, x) := b.dmaLine d va key (gaKey a) adv
  let (b, y) := if 128 < gaKey a % 128 + n then b.dmaLine d (va / 128 * 128 + 128) key (first + 128) adv else (b, some (.data []))
  match x, y with
  | some (.data bs), some (.data more) => b.dmaPut d (((bs ++ more).drop (gaKey a % 128)).take n)
  | none, _ => b
  | _, none => b
  | _, _ => b.dmaBad d

/-- One request of a transfer: the source page is translated, then the destination page, before the first byte that touches
it (R210). DESIGN CHOICE: both addresses of a transfer are context addresses, which go through the context's translation; none names
a scratchpad (notes/assumptions/109.md). -/
def Block.dmaRequest (b : Block) (d : Dma) : Block :=
  if !d.data.isEmpty then b.dmaPut d d.data else
  match b.dmaTr d (d.src + d.pos) false with
  | (b, none) => b
  | (b, some (.fail cause level adv)) => b.dmaFault d (d.src + d.pos) cause level adv false
  | (b, some src) =>
    match b.dmaTr d (d.dst + d.pos) true with
    | (b, none) => b
    | (b, some (.fail cause level adv)) => b.dmaFault d (d.dst + d.pos) cause level adv true
    | (b, some dst) =>
      match src with
      | .dev a key adv => b.dmaFromMemory d a (b.keyGen key) adv dst.isHost
      | .host a =>
        let n := d.chunk a 256
        (b.modDma d.agent d.channel fun x => { x with fetch := some n }).sliceRead (b.ctx d.ctx).slice d.maker d.gen
            { addr := a, len := n, pasid := (b.ctx d.ctx).pasid, use := .dma d.agent d.channel }
      | .remote a =>
        let n := d.chunk a 256
        ((b.modDma d.agent d.channel fun x => { x with fetch := some n, skip := a % 128 }).remoteRead (b.ctx d.ctx).slice d.maker
          (.dma d.agent d.channel false) a n).1
      | .poison => b.dmaBad d
      | .fail _ _ _ => b

/-- The transfer can go on: it waits for no page, no answer and no migration (R210, R220). -/
def Block.dmaReady (b : Block) (d : Dma) : Bool :=
  d.waits.isNone && d.fetch.isNone && !b.dmaParked && !b.pageMoves d.ctx (d.src + d.pos) && !b.pageMoves d.ctx (d.dst + d.pos)

/-- The tile that ends at `tileEnd` moves on, a request at a time, at most `fuel` of them. -/
def Block.dmaGo (agent ch tileEnd : Nat) : Nat → Block → Block
  | 0, b => b
  | fuel + 1, b =>
    match b.dmaAt agent ch with
    | none => b
    | some d =>
      if d.pos < tileEnd && b.dmaReady d then
        let b := b.dmaRequest d
        if b.dmaAt agent ch == some d then b else Block.dmaGo agent ch tileEnd fuel b
      else b

/-- The transfer's tile under way, or its next one. -/
def Block.dmaTile (b : Block) (agent ch : Nat) : Block :=
  match b.dmaAt agent ch with
  | none => b
  | some d => Block.dmaGo agent ch d.tileEnd (d.tileEnd - d.pos) b

def execDmaTile (agent channel : Nat) (s : State) : Host.Outcome State Fault Refusal := s.onBlock fun b => b.dmaTile agent channel

/-- What an answer to a transfer's outstanding request does, while that transfer stands; its tile then goes on. -/
def Block.onDma (b : Block) (agent ch : Nat) (f : Dma → Nat → Block → Block) : Block :=
  match b.dmaAt agent ch with
  | none => b
  | some d =>
    match d.fetch with
    | none => b
    | some n =>
      let tileEnd := d.tileEnd
      Block.dmaGo agent ch tileEnd (tileEnd - d.pos) (f d n (b.modDma agent ch fun x => { x with fetch := none }))

/-- Bytes of a host or remote read: of a remote one, those from the line that holds the first byte on. -/
def Block.dmaData (b : Block) (agent ch : Nat) (remote : Bool) (bs : List Byte) : Block :=
  b.onDma agent ch fun d n b =>
    b.dmaPut d ((bs.drop (if remote then d.skip else 0)).take n)

/-- ADV of the leaf that an address walks to; 0 where there is none (R211). -/
def Block.advOf (b : Block) (c va : Nat) (write : Bool) : Nat :=
  let x := b.ctx c
  match tlbLeaf (b.slice x.slice).xlat.tlb c x.gen va with
  | some t => pteAdv t.pte.toNat
  | none => ((b.walk c va write).2.getLast?.map fun e => pteAdv e.2).getD 0

/-- HOST_REFUSED (7) or REMOTE_REFUSED (6) of R204, at the page of the source or the destination. -/
def Block.dmaRefused (b : Block) (agent ch cause : Nat) (write : Bool) : Block :=
  b.onDma agent ch fun d _ b =>
    let va := (if write then d.dst else d.src) + d.pos
    b.dmaFault d va cause 0 (b.advOf d.ctx va write) write

/-- A remote write was acknowledged. -/
def Block.dmaAck (b : Block) (agent ch : Nat) : Block := b.onDma agent ch fun d n b => b.dmaMoved d n

/-- A remote line was poisoned (R298). -/
def Block.dmaPoison (b : Block) (agent ch : Nat) : Block := b.onDma agent ch fun d _ b => b.dmaBad d

/-! ### Resumption (R215) -/

/-- A held record of the page leaves the held count while the ring is unconfigured (R214). -/
def Block.dropHeld (b : Block) (n c page : Nat) : Block :=
  if b.ringReady n then b
  else b.modXlat n fun x => { x with held := x.held.filter fun r => !(r.ctx == c && r.va / 65536 == page) }

/-- A write to ZH_RESUME_VA acts only with the ABORT and the generation of ZH_RESUME_CTRL that its row names (R215). -/
def Block.onResume (b : Block) (n : Nat) (abort : Bool) (f : Nat → Block → Block) : Block :=
  let x := (b.slice n).xlat
  if x.resumeAbort == abort && b.ctxInRange n x.resumeCtx && (b.ctx x.resumeCtx).slice == n &&
      (b.ctx x.resumeCtx).gen == x.resumeGen then f x.resumeCtx b else b

/-- The migration of the page waits on a fault. -/
def Block.migrWaits (b : Block) (n c page : Nat) : Option Migr :=
  (b.slice n).xlat.migrating.filter fun m => m.waits && m.ctx == c && m.va / 65536 == page

def Block.resumePage (b : Block) (n c page : Nat) : Block :=
  let go := b.dmas.filter fun d => d.ctx == c && d.waits == some page
  let b := ({ b with dmas := b.dmas.map fun (d : Dma) =>
    if d.ctx == c && d.waits == some page then { d with waits := none } else d } : Block).dropHeld n c page
  let b := match b.migrWaits n c page with
    | none => b
    | some m => (b.modXlat n fun x => { x with migrating := some { m with waits := false } }).migrAsk n m
  go.foldl (fun b d => b.dmaTile d.agent d.channel) b

def execDmaResume (slice : Nat) (va : Dword) (s : State) : Host.Outcome State Fault Refusal :=
  s.onHost fun b => b.onResume slice false fun c b => b.resumePage slice c (dfld va 56 16)

def Block.abortPage (b : Block) (n c page : Nat) : Block :=
  let b := (b.endDmas cDmaAborted fun d => d.ctx == c && d.waits == some page).dropHeld n c page
  match b.migrWaits n c page with
  | none => b
  | some m => ((b.modXlat n fun x => { x with migrating := none }).ctxCode c cDmaAborted).cmdDone m.q m.k

def execDmaAborted (slice : Nat) (va : Dword) (s : State) : Host.Outcome State Fault Refusal :=
  s.onHost fun b => b.onResume slice true fun c b => b.abortPage slice c (dfld va 56 16)

end Sys2Proof.Machine
end

