-- ==== Sys2Proof/Machine/Ledger.lean ====
section
/-! DEFINITION. The ledger and its signature (R191 to R193, R371, R372), key selectors (R223), and the fixed delay of answers to
mediators (R194). -/

namespace Sys2Proof.Machine

/-! ### The ledger -/

/-- The state code reported: FIELD-DEBUG over FIELD while a session is open (R354, R380). -/
def Block.lcsCode (b : Block) : Nat := if b.life.debugOpen then 5 else b.life.lcs

/-- ZH_VERSION (R1). -/
def zhVersion : Nat := 0x00030001

/-- ZH_BEHAVIOUR: LEVEL_MAX 1, the level in force, and no refinement (R431). -/
def Block.behaviour (b : Block) : Nat := 0x01000000 + b.start.level * 65536

/-- A signature by the attestation key, 96 bytes; zero where there is no key (R371, R372). -/
def Block.sign (b : Block) (msg : List Byte) : List Byte :=
  match b.life.aliasKey with
  | none => List.replicate 96 0
  | some key =>
    let x := Config.sign key msg
    (List.range 96).map fun i => x.getD i 0

/-- Armed jobs of a slice, in ascending number. -/
def Block.armedJobs (b : Block) (n : Nat) : List Nat := (List.range 8).filter fun j => (b.job n j).st == .armed || (b.job n j).st == .copying

/-- FEED_STATUS, PARTNER and PARTNER_FEED of the ledger (R341). -/
def Block.feedStatus (b : Block) (n : Nat) : Nat :=
  let l := (b.armedJobs n).map fun j => (b.job n j).pair % 4
  if l.contains 2 then 2 else if l.contains 1 then 1 else 0

def Block.ledgerPartner (b : Block) (n : Nat) : Nat × Nat :=
  match (b.armedJobs n).find? fun j => (b.job n j).partner != 0 with
  | none => (0, 0)
  | some j => ((b.job n j).partner.toNat, (b.job n j).partnerFeed)

/-- FLAGS of the ledger. -/
def Block.ledgerFlags (b : Block) (n : Nat) : Nat :=
  (if (b.slice n).groupsPending != 0 then 1 else 0) + (if (b.slice n).pendingStride != 0 then 2 else 0) +
    if b.life.debugOpen then 4 else 0

def digestBytes (d : BitVec 384) : List Byte := toLe 48 d.toNat

/-- Bytes 0 to 383 of a ledger (R191). -/
def Block.ledgerBody (b : Block) (n : Nat) (nonce : List Byte) : List Byte :=
  let x := b.slice n
  let h := x.hold
  let (partner, feed) := b.ledgerPartner n
  toLe 2 1 ++ toLe 2 480 ++ toLe 4 zhVersion ++ toLe 8 b.start.serial.toNat ++ toLe 1 (b.pkgSlice n) ++ toLe 1 (b.feedStatus n) ++
    toLe 2 (b.ledgerFlags n) ++ toLe 4 b.behaviour ++ toLe 8 x.ledgerSeq ++ toLe 8 b.stamp.toNat ++ toLe 8 h.cores.toNat ++
    toLe 16 h.ways.toNat ++ toLe 4 h.groups.toNat ++ toLe 4 x.groupsPending.toNat ++ toLe 1 h.ccache ++ toLe 1 h.rtShare ++
    toLe 2 h.qFirst ++ toLe 2 h.qCount ++ toLe 1 b.lcsCode ++ toLe 1 0 ++ toLe 4 h.contexts ++ toLe 4 h.fences ++
    toLe 8 h.reserv.toNat ++ toLe 8 partner ++ toLe 2 b.dict.feedGroup ++ toLe 2 feed ++ toLe 4 0 ++
    digestBytes b.start.configDigest ++ digestBytes b.parade.map.commonsDigest ++ digestBytes b.parade.map.digest ++
    digestBytes x.sec.fwDigest ++ digestBytes x.sec.adapterDigest ++ (List.range 32).map fun i => nonce.getD i 0

def Block.ledgerOf (b : Block) (n : Nat) (nonce : List Byte) : List Byte :=
  let x := b.ledgerBody n nonce
  x ++ b.sign x

/-- Regenerates a slice's ledger: LEDGER_SEQ rises by one and NONCE is zero (R192). -/
def Block.regen (b : Block) (n : Nat) : Block :=
  if (b.slice n).st == .none then b
  else
    let b := b.modSlice n fun x => { x with ledgerSeq := x.ledgerSeq + 1 }
    b.modSlice n fun x => { x with ledger := b.ledgerOf n [] }

def Block.regenAll (b : Block) : Block := b.each b.live fun n b => b.regen n

/-- The partner or feed fields of the ledger: regenerated where a change of the block moved them (R192, R341). -/
def Block.regenFeed (b : Block) (n : Nat) (f : Block → Block) : Block :=
  let b' := f b
  if b'.feedStatus n != b.feedStatus n || b'.ledgerPartner n != b.ledgerPartner n then b'.regen n else b'

def execNonce (slice eid : Nat) (tag : Byte) (value : List Byte) (s : State) : Host.Outcome State Fault Refusal :=
  s.onBlock fun b => b.dictWrite eid tag (0x2200 + slice) 2 value fun b =>
    .done (b.modSlice slice fun x =>
      { x with nonce := value, nonceAt := if x.nonceStatus == 1 then x.nonceAt else b.time.mclk, nonceStatus := 1 })

/-- The first phase zero stamped at least 100 ms after the write (R193). -/
def Block.nonceDue (b : Block) (n : Nat) : Bool :=
  (b.slice n).nonceStatus == 1 && b.time.started && (b.slice n).nonceAt + 100000 * usClk ≤ b.time.zeroAt

def execNonceLedgerReady (slice : Nat) (s : State) : Host.Outcome State Fault Refusal :=
  s.onBlock fun b =>
    if b.nonceDue slice then
      b.modSlice slice fun x => { x with nonceLedger := b.ledgerOf slice x.nonce, nonceStatus := 2 }
    else b

/-- The first answer that waits for a mediator leaves, 1 ms after its request's stamp (R194). -/
def execMedAnswer (eid : Nat) (s : State) : Host.Outcome State Fault Refusal :=
  s.onBlock fun b =>
    match b.dict.med.find? fun x => x.1 == eid with
    | none => b
    | some x => if x.2.1 ≤ b.time.mclk then (b.modDict fun d => { d with med := d.med.erase x }).emit x.2.2 else b

/-! ### Key selectors (R223) -/

/-- A fresh key pair behind a selector, with its holder (0: none). -/
def Block.freshKey (b : Block) (sel holder : Nat) : Block :=
  { b with keyGens := b.keyGens + 1, keys := Tab.put b.keys sel { holder := holder, gen := b.keyGens + 1 } }

/-- A selector that a slice gives up: its key pair is replaced, and the aperture closes where it was the aperture's (R446). DESIGN
CHOICE: while no draw succeeds the selector is left without a key pair (R373; notes/assumptions/124.md). -/
def Block.dropKey (b : Block) (n sel : Nat) : Block :=
  (if b.life.rngFault then { b with keys := Tab.erase b.keys sel } else b.freshKey sel 0).modSlice n fun x => if x.aptKey == sel then { x with aptValid := false } else x

def Block.keysHeld (b : Block) (n : Nat) : List Nat := (List.range 63).filter fun k => (b.key k).holder == n

def execKeyRequest (slice eid : Nat) (tag : Byte) (value : Byte) (s : State) : Host.Outcome State Fault Refusal :=
  s.onBlock fun b => b.dictWrite eid tag (0x6100 + slice) 2 [value] fun b =>
    if value != 1 then .refused 1 b
    else
      match if b.life.rngFault then none else (List.range 63).find? fun k => (b.key k).holder == 0 with
      | none => .done (b.modSec slice fun x => { x with keyLast := 0xFF })
      | some k => .done ((b.freshKey k slice).modSec slice fun x => { x with keyLast := k })

def execKeyRelease (slice eid : Nat) (tag : Byte) (value : Byte) (s : State) : Host.Outcome State Fault Refusal :=
  s.onBlock fun b => b.dictWrite eid tag (0x6100 + slice) 4 [value] fun b =>
    if b.holdsKey slice value.toNat then .done ((b.dropKey slice value.toNat).keep (0x6100 + slice) 4 value.toNat)
    else .refused 1 b

end Sys2Proof.Machine
end

