-- ==== Sys2Proof/Machine/Securing.lean ====
section
/-! DEFINITION. Securing jobs: manifests, arming, copies and restores, and the holding side of their streams (R337 to R351). -/

namespace Sys2Proof.Machine

/-! ### Manifests (R338, R340) -/

def manifestRegion (bs : List Byte) (r : Nat) : Region :=
  let w := leNat ((bs.drop (272 + 16 * r)).take 8)
  { key := fld w 63 58, addr := fld w 56 0, len := leNat ((bs.drop (280 + 16 * r)).take 8) }

def manifestOf (bs : List Byte) : Manifest :=
  { ctxs := (List.range (leNat ((bs.drop 4).take 1))).map fun i => fld (leNat ((bs.drop (16 + 4 * i)).take 4)) 19 0
    regions := (List.range (leNat ((bs.drop 2).take 2))).map (manifestRegion bs) }

/-- FORMAT, REGIONS or CONTEXTS out of range, or a reserved field that is not zero. -/
def manifestBad (bs : List Byte) : Bool :=
  let regions := leNat ((bs.drop 2).take 2)
  let ctxs := leNat ((bs.drop 4).take 1)
  leNat (bs.take 2) != 1 || regions == 0 || 256 < regions || 64 < ctxs || ((bs.drop 5).take 11).any (· != 0) ||
    ((List.range 64).any fun i =>
      let e := leNat ((bs.drop (16 + 4 * i)).take 4)
      2 ^ 20 ≤ e || (ctxs ≤ i && e != 0)) ||
    (List.range regions).any fun r => bit (leNat ((bs.drop (272 + 16 * r)).take 8)) 57

/-- Condition 4 of R340. -/
def Block.regionBad (b : Block) (n : Nat) (r : Region) : Bool :=
  r.addr % 128 != 0 || r.len == 0 || r.len % 128 != 0 || 2 ^ 40 ≤ r.len || !b.ownRange n r.addr r.len || !b.holdsKey n r.key

def Manifest.bytes (m : Manifest) : Nat := (m.regions.map (·.len)).foldl (· + ·) 0

/-- BODY_BYTES of R343. -/
def Manifest.body (m : Manifest) : Nat := 2048 + m.bytes

/-- BANK_BYTES of R343. -/
def Manifest.bank (m : Manifest) : Nat := 65536 * ((2176 + m.bytes + 65535) / 65536)

/-- The layout digest of R338. -/
def Manifest.layout (m : Manifest) : BitVec 384 :=
  Config.sha384 (toLe 2 m.regions.length ++ toLe 1 m.ctxs.length ++ m.regions.flatMap fun r => toLe 8 r.len)

/-- The manifest of a job, and the first of conditions 2 to 5 of R340 that it breaks. -/
def Block.readManifest (b : Block) (n : Nat) (a : Nat) : Manifest × Option Nat :=
  let head := b.rdOwn n a 272
  let bs := b.rdOwn n a (272 + 16 * min 256 (leNat ((head.drop 2).take 2)))
  let m := manifestOf bs
  (m,
    if a % 128 != 0 || !b.ownRange n a 272 || (m.regions.length ≤ 256 && !b.ownRange n a bs.length) then some 2
    else if manifestBad bs then some 3
    else if m.regions.any (b.regionBad n) then some 4
    else if m.ctxs.any fun c => !b.ctxInRange n c then some 5
    else none)

def stepFence (w : Word) : Nat := fld w.toNat 15 0
def doneFence (w : Word) : Nat := fld w.toNat 31 16

/-- Condition 6 of R340. -/
def Block.fencesBad (b : Block) (n : Nat) (w : Word) : Bool :=
  !b.fenceIn n (stepFence w) || !b.fenceIn n (doneFence w) || stepFence w == doneFence w

/-! ### The end of an attempt (R347) -/

/-- What results 3 to 10 do. -/
def Block.secureEvent (b : Block) (n j result : Nat) : Block :=
  let quiet := (b.slice n).secureIrq == 0
  let b := (b.modJob n j fun x => { x with failed := up32 x.failed }).modSlice n fun x => { x with secureIrq := bvSet x.secureIrq j }
  (if quiet then b.irq n 7 else b).report 2 (b.pkgSlice n) (j + 256 * result) (b.job n j).lastStep.toNat

/-- A signal of one of the job's own fences. -/
def Block.jobSignal (b : Block) (n f : Nat) (w : Dword) : Block :=
  if b.fenceIn n f && (b.fence f).setUp then b.signal f w noCmd else b

/-- RESULT of an attempt for step f, what follows from it, and DONE_FENCE. -/
def Block.secureResult (b : Block) (n j result : Nat) (f : Dword) : Block :=
  let b := b.modJob n j fun x => { x with result := result }
  (if 3 ≤ result && result ≤ 10 then b.secureEvent n j result else b).jobSignal n (doneFence (b.job n j).armedFences) f

/-- A copy in progress ends with a result (R345, R348). -/
def Block.endCopy (b : Block) (n j result : Nat) : Block :=
  match (b.job n j).copy with
  | none => b
  | some c =>
    b.regenFeed n fun b =>
      ((b.dropTag c.tag).modJob n j fun x =>
        { x with copy := none, st := if x.st == .copying then .armed else x.st, valid := x.valid && !x.clearValid
                 clearValid := false }).secureResult n j result c.start.step

/-- Refill exposure ends with the first complete copy after each restore (R351). -/
def Block.exposureEnd (b : Block) (n j : Nat) : Block :=
  let b' := b.modJob n j fun x => { x with exposed := [] }
  (b.job n j).exposed.foldl (fun b t =>
    let secs := (b.time.mclk - t) / 750000000
    let b := b.tallyAdd (0x8400 + n) 3 secs
    b.tallyAdd (0x8400 + n) 4 (secs - b.tallyGet (0x8400 + n) 4)) b'

/-- A complete copy. -/
def Block.copyDone (b : Block) (n j : Nat) (c : Copy) : Block :=
  let forced := (b.job n j).pair % 4 == 2
  let b := b.modJob n j fun x =>
    { x with lastStep := c.start.step, bank := c.bank, valid := true, lastStride := c.start.stride, copies := up32 x.copies }
  let b := if forced then b.tallyUp 0x8010 0x0E else b
  (b.exposureEnd n j).endCopy n j 1

/-- The port of a job's streams towards an address. -/
def Block.jobPort (b : Block) (n j a : Nat) : Nat :=
  if (b.job n j).port < 4 then (b.job n j).port
  else if gaPackage a == b.dict.package then b.portTo n a else 4

/-- A copy is abandoned: its bank is left with a zero trailer, and one whose trailer is acknowledged was complete (R345, R348). -/
def Block.abandonCopy (b : Block) (n j : Nat) : Block :=
  match (b.job n j).copy with
  | none => b
  | some c =>
    match c.ph with
    | .acked => b.copyDone n j c
    | .opening | .trailer =>
      let port := b.jobPort n j (dfld (b.job n j).partner 56 0)
      (b.endCopy n j 8).emitOwn port (.flit port (b.sliceFlit n 0x0A c.tag (List.replicate 128 0)))
    | .zeroing | .body => b.endCopy n j 8

/-- Every copy of a slice is abandoned (R348). -/
def Block.abandonCopies (b : Block) (n : Nat) : Block := b.each (List.range 8) fun j b => b.abandonCopy n j

/-! ### Arming (R340) -/

def Block.armReason (b : Block) (n j : Nat) : Manifest × Nat :=
  let x := b.job n j
  let (m, bad) := b.readManifest n (dfld x.manifestAddr 56 0)
  (m,
    if x.st == .copying || x.st == .restoring then 1
    else
      match bad with
      | some r => r
      | none =>
        if b.fencesBad n x.fences then 6
        else if (winRefusal x.window).isSome || 1024 < winPeriod x.window then 7
        else 0)

/-- The snapshot that an ARM leaves: of the last signal of a step fence that the job keeps, for what the manifest listed then; the
rest as it stands now. DESIGN CHOICE (notes/assumptions/52.md). -/
def Block.keepSnapshot (b : Block) (m : Manifest) (x : Job) : Job :=
  let same := x.armed.isSome && stepFence x.armedFences == stepFence x.fences
  let kept := if same then x.snapshot else []
  { x with snapshot := (b.srState m).map fun e => (kept.find? fun y => y.1 == e.1).getD e
           held := if same && x.armed.map (·.regions) == some m.regions then x.held else b.regionBytes m }

def jobIndex (n j : Nat) : Nat := 0x5100 + 8 * n + j

def execArm (slice job eid : Nat) (tag : Byte) (s : State) : Host.Outcome State Fault Refusal :=
  s.onBlock fun b => b.dictWrite eid tag (jobIndex slice job) 2 [1] fun b =>
    match b.armReason slice job with
    | (m, 0) => .done (b.regenFeed slice fun b => b.modJob slice job fun x =>
        { b.keepSnapshot m x with
          st := .armed, armed := some m, armedFences := x.fences, armedWindow := x.window, armedAddr := x.manifestAddr })
    | (_, r) => .refused r b

/-- A restore in progress is given up. -/
def Block.dropRestore (b : Block) (n j : Nat) : Block :=
  match (b.job n j).restore with
  | none => b
  | some r => (b.dropTag r.tag).modJob n j fun x => { x with restore := none }

def execDisarm (slice job eid : Nat) (tag : Byte) (s : State) : Host.Outcome State Fault Refusal :=
  s.onBlock fun b => b.dictWrite eid tag (jobIndex slice job) 2 [2] fun b =>
    .done (b.regenFeed slice fun b =>
      ((b.abandonCopy slice job).dropRestore slice job).modJob slice job fun x => { x with st := .off })

def execPartnerWrite (slice job eid : Nat) (tag : Byte) (value : Dword) (s : State) : Host.Outcome State Fault Refusal :=
  s.onBlock fun b => b.dictWrite eid tag (jobIndex slice job) 6 (toLe 8 value.toNat) fun b =>
    .done (b.regenFeed slice fun b => b.modJob slice job fun x =>
      if x.copy.isSome then { x with partner := value, clearValid := true } else { x with partner := value, valid := false })

/-! ### Streams out (R341 to R346) -/

/-- A flit of a job's stream: data and trailer in the slice's positions, in the job's CLASS, what opens or addresses it in a block
position (R346). -/
def Block.streamFlit (b : Block) (n j a kind tag : Nat) (body : List Byte) : Block :=
  let f := b.sliceFlit n kind tag body
  if kind == 0x0A || kind == 0x0B then b.sendFlit n { label := (b.job n j).cls, point := 64 } (b.jobPort n j a) a f
  else b.emitOwn (b.jobPort n j a) (.flit (b.jobPort n j a) f)

/-- STREAM_OPEN to a holding area's bank. -/
def Block.openStream (b : Block) (n j a bank : Nat) (reading : Bool) : Block × Nat :=
  let (b, tag) := b.takeTag (.stream n j) (b.jobPort n j a)
  (b.streamFlit n j a 0x09 tag
    (toLe 8 a ++ toLe 1 bank ++ toLe 1 j ++ toLe 2 b.dict.package ++ toLe 1 (b.pkgSlice n) ++ [if reading then 1 else 0]), tag)

/-- The SR block of R343 from a snapshot. -/
def srBlock (l : List (Nat × Dword × Dword)) : List Byte :=
  let es := l.flatMap fun x => toLe 4 x.1 ++ toLe 4 0 ++ toLe 8 x.2.1.toNat ++ toLe 8 x.2.2.toNat ++ toLe 8 0
  es ++ List.replicate (2048 - es.length) 0

/-- The partner word's address. -/
def Job.partnerAt (x : Job) : Nat := dfld x.partner 56 0

/-- An attempt begins (R345): f, s and what R347 judges at START are those of the clock (s, START). -/
def Block.copyBegin (b : Block) (n j : Nat) (st : CopyStart) : Block :=
  let x := b.job n j
  let f := st.step
  let d := (f - x.lastStep).toNat
  if st.verdict != 0 then b.secureResult n j st.verdict f
  else if x.st != .armed then b
  else if 4 ≤ b.power.level then b.secureResult n j 10 f
  else if x.valid && !(1 ≤ d && d < 2 ^ 63) then b.secureResult n j 2 f
  else if x.partnerAt == 0 then b.secureResult n j 4 f
  else if b.isOwn x.partnerAt then
    b.regenFeed n fun b =>
      (b.modJob n j fun x => { x with pair := 3, partnerFeed := b.dict.feedGroup }).secureResult n j 5 f
  else
    let bank := if x.valid then 1 - x.bank else 0
    let (b, tag) := b.openStream n j x.partnerAt bank false
    b.modJob n j fun x =>
      { x with st := .copying
               copy := some { tag := tag, ph := .opening, start := st, bank := bank, sent := [], heardAt := b.time.mclk } }

def Block.copyStart (b : Block) (n j : Nat) : Block :=
  match (b.job n j).startDue with
  | none => b
  | some st => (b.modJob n j fun x => { x with startDue := none }).copyBegin n j st

/-- A lower job of the slice started in the same clock and has not ended: the later job begins at its end (R345). -/
def Block.copyWaits (b : Block) (n j : Nat) : Bool :=
  match (b.job n j).startDue with
  | none => false
  | some st =>
    st.verdict == 0 && (List.range j).any fun i =>
      ((b.job n i).copy.any fun c => c.start.clk == st.clk) || (b.job n i).startDue.any fun y => y.clk == st.clk

/-- The attempt of a job whose window has opened begins now. -/
def Block.copyGoes (b : Block) (n j : Nat) : Bool := (b.job n j).startDue.isSome && !b.copyWaits n j

def Block.modCopy (b : Block) (n j : Nat) (f : Copy → Copy) : Block := b.modJob n j fun x => { x with copy := x.copy.map f }

/-- The answer to STREAM_OPEN carries the holding instance's feed group (R341); the zero trailer is written next. -/
def Block.copyOpened (b : Block) (n j : Nat) (c : Copy) (feed : Nat) : Block :=
  let x := b.job n j
  let same := feed == b.dict.feedGroup
  let status := if !same then 1 else if x.force then 2 else 3
  let b := b.regenFeed n fun b => b.modJob n j fun x => { x with pair := status, partnerFeed := feed }
  if status == 3 then b.endCopy n j 5
  else
    match x.armed with
    | none => b
    | some m =>
      if m.regions.any (b.regionBad n) then b.endCopy n j 9
      else
        (b.streamFlit n j x.partnerAt 0x0A c.tag (List.replicate 128 0)).modCopy n j fun c =>
          { c with ph := .zeroing }

/-- The trailer of R343. -/
def Block.trailerOf (b : Block) (n j : Nat) (c : Copy) (m : Manifest) (digest : BitVec 384) : List Byte :=
  toLe 2 1 ++ toLe 1 j ++ toLe 1 (b.pkgSlice n) ++ toLe 2 b.dict.package ++ toLe 2 0 ++ toLe 8 c.start.step.toNat ++
    toLe 8 c.start.stride.toNat ++ toLe 8 m.body ++ digestBytes digest ++ digestBytes m.layout

/-- The next bytes of a copy's body, of those that the copy still has to stream: the SR snapshot, then the regions as they stand.
Where the regions no longer hold what they held at the signal, the program has broken R344, and what is copied is a free value
(notes/assumptions/52.md). -/
def Block.copyBytes (b : Block) (m : Manifest) (c : Copy) : List Byte :=
  let regions := b.regionBytes m
  let bs := ((srBlock c.start.sr ++ regions).drop c.sent.length).take 256
  if regions == c.start.held then bs else (List.range bs.length).map fun i => b.openByte (c.sent.length + i)

/-- The flits of a copy's body that wait at its port. -/
def Block.copyQueued (b : Block) (c : Copy) : Nat :=
  (b.ports.waiting.filter fun x => match x.what with
    | .flit f => f.tag == c.tag
    | _ => false).length

/-- The stream of a copy goes on: the next bytes join the port's queue while fewer than four flits of it wait there. -/
def Block.copyStream (b : Block) (n j : Nat) : Block :=
  match (b.job n j).copy, (b.job n j).armed with
  | some c, some m =>
    if c.ph == .body && c.sent.length < m.body && b.copyQueued c < 4 then
      let bs := b.copyBytes m c
      (b.streamFlit n j (b.job n j).partnerAt 0x0B c.tag bs).modCopy n j fun c => { c with sent := c.sent ++ bs }
    else b
  | _, _ => b

/-- A compute clock of every copy's stream. -/
def Block.copyTick (b : Block) : Block :=
  b.each b.live fun n b =>
    if (b.slice n).jobs.any fun x => x.2.copy.isSome then
      b.each (List.range 8) fun j b => b.each (List.range 4) fun _ b => b.copyStream n j
    else b

/-- A response of the holding instance has arrived: SECURE_TIMEOUT counts from here (R339, R347). -/
def Block.heard (b : Block) (n j : Nat) : Block :=
  b.modJob n j fun x =>
    { x with copy := x.copy.map fun c => { c with heardAt := b.time.mclk }
             restore := x.restore.map fun r => { r with heardAt := b.time.mclk } }

/-- An acknowledgement of a copy's stream: `value` holds FEED_GROUP at the opening, and the bytes written after it. -/
def Block.copyAck (b : Block) (n j : Nat) (value : Dword) : Block :=
  match (b.job n j).copy with
  | none => b
  | some c =>
    match c.ph with
    | .opening => b.copyOpened n j c (dfld value 15 0)
    | .zeroing => b.modCopy n j fun c => { c with ph := .body }
    | .body =>
      match (b.job n j).armed with
      | none => b
      | some m =>
        if m.body ≤ value.toNat && m.body ≤ c.sent.length then
          (b.streamFlit n j (b.job n j).partnerAt 0x0A c.tag (b.trailerOf n j c m (Config.sha384 c.sent))).modCopy n j fun c =>
            { c with ph := .trailer }
        else b
    | .trailer => b.modCopy n j fun c => { c with ph := .acked }
    | .acked => b

def execSecureCopyComplete (slice job : Nat) (s : State) : Host.Outcome State Fault Refusal :=
  s.onBlock fun b =>
    match (b.job slice job).copy with
    | none => b
    | some c => if c.ph == .acked then b.copyDone slice job c else b

/-! ### Restores (R349) -/

def Block.modRestore (b : Block) (n j : Nat) (f : Restore → Restore) : Block :=
  b.modJob n j fun x => { x with restore := x.restore.map f }

def Job.fromAt (x : Job) : Nat := dfld x.restoreFrom 56 0

/-- The manifest's address and the fences in force: of an armed job those of its ARM, of one that is OFF those written
(notes/assumptions/52.md). -/
def Job.manifestNow (x : Job) : Nat := dfld (if x.st == .off then x.manifestAddr else x.armedAddr) 56 0
def Job.fencesNow (x : Job) (st : JobSt) : Word := if st == .off then x.fences else x.armedFences

/-- Why a RESTORE is refused (0: it is not). -/
def Block.restoreReason (b : Block) (n j : Nat) : Manifest × Nat :=
  let x := b.job n j
  let (m, bad) := b.readManifest n x.manifestNow
  (m,
    if !(x.st == .off || x.st == .armed) || x.copy.isSome then 1
    else
      match bad with
      | some r => r
      | none =>
        if m.ctxs.any fun c => !(b.ctxIs n c .active || b.ctxIs n c .faulted || b.ctxIs n c .suspect) then 5
        else 0)

/-- Opens a read stream to a bank, for its trailer or its body. -/
def Block.restoreOpen (b : Block) (n j : Nat) (r : Restore) (bank : Nat) (forBody : Bool) : Block :=
  let (b, tag) := (b.dropTag r.tag).openStream n j (b.job n j).fromAt bank true
  b.modJob n j fun x =>
    { x with restore := some { r with tag := tag, ph := .opening bank forBody, bytes := [] } }

def execRestore (slice job eid : Nat) (tag : Byte) (s : State) : Host.Outcome State Fault Refusal :=
  s.onBlock fun b => b.dictWrite eid tag (jobIndex slice job) 2 [3] fun b =>
    match b.restoreReason slice job with
    | (m, 0) =>
      .done (b.regenFeed slice fun b =>
        let (b, t) := b.openStream slice job (b.job slice job).fromAt 0 true
        b.modJob slice job fun x =>
          { x with st := .restoring, before := x.st, exposed := x.exposed ++ [b.time.mclk]
                   restore := some { tag := t, ph := .opening 0 false, manifest := m, trailers := [], left := [], bytes := [],
                                      heardAt := b.time.mclk } })
    | (_, r) => .refused r b

/-- The opening is acknowledged: the trailer, or the body, of the bank is read. -/
def Block.restoreAck (b : Block) (n j : Nat) : Block :=
  match (b.job n j).restore with
  | none => b
  | some r =>
    let ask (bank : Nat) (body : Bool) : Block :=
      (b.streamFlit n j (b.job n j).fromAt 0x0C r.tag
        (toLe 8 (if body then 128 else 0) ++ toLe 8 (if body then r.manifest.body else 128))).modRestore n j fun r =>
          { r with ph := if body then .body bank else .trailer bank, bytes := [] }
    match r.ph with
    | .opening bank body => ask bank body
    | _ => b

def trailerStep (t : List Byte) : Dword := BitVec.ofNat 64 (leNat ((t.drop 8).take 8))
def trailerDigest (t : List Byte) : Nat := leNat ((t.drop 32).take 48)

/-- The candidate banks, the greater STEP under serial comparison first (steps 2 and 3). -/
def candidates (m : Manifest) (ts : List (List Byte)) : List Nat :=
  let ok (k : Nat) : Bool :=
    leNat ((ts.getD k []).take 2) == 1 && leNat (((ts.getD k []).drop 80).take 48) == m.layout.toNat
  let newer := let d := (trailerStep (ts.getD 1 []) - trailerStep (ts.getD 0 [])).toNat; decide (0 < d ∧ d < 2 ^ 63)
  (if newer then [1, 0] else [0, 1]).filter ok

/-- The next candidate's body is read, or the restore has found no bank to use. -/
def Block.restoreNext (b : Block) (n j : Nat) (r : Restore) : Block :=
  match r.left with
  | [] => b.modRestore n j fun r => { r with ph := .ended 12 }
  | k :: rest => b.restoreOpen n j { r with left := rest } k true

/-- The regions and the SR entries take the bytes of a bank's body that have arrived beyond the first `off` (step 3): `bs` is all
that has arrived. An SR entry goes to its context with its last byte. -/
def Block.restoreBody (b : Block) (m : Manifest) (off : Nat) (bs : List Byte) : Block :=
  let b := (m.ctxs.zipIdx).foldl (fun b x =>
    let e := (bs.drop (32 * x.2)).take 32
    if off < 32 * (x.2 + 1) && e.length == 32 then
      b.modCtx x.1 fun c => { c with srSeed := BitVec.ofNat 64 (leNat ((e.drop 8).take 8))
                                     srCtr := BitVec.ofNat 64 (leNat ((e.drop 16).take 8)) }
    else b) b
  (m.regions.foldl (fun (b, rest, skip) g =>
    (b.wrMem (b.keyGen g.key) (gaKey g.addr + min skip g.len) ((rest.take g.len).drop (min skip g.len)), rest.drop g.len, skip - g.len))
    (b, bs.drop 2048, off - 2048)).1

/-- Bytes of a bank arrive. -/
def Block.restoreData (b : Block) (n j : Nat) (bs : List Byte) : Block :=
  match (b.job n j).restore with
  | none => b
  | some r =>
    let got := r.bytes ++ bs
    let b := b.modRestore n j fun r => { r with bytes := got }
    match r.ph with
    | .trailer k =>
      if got.length < 128 then b
      else
        let r := { r with trailers := r.trailers ++ [got.take 128] }
        if k == 0 then b.restoreOpen n j r 1 false
        else b.restoreNext n j { r with left := candidates r.manifest r.trailers }
    | .body k =>
      let body := got.take r.manifest.body
      let b := b.restoreBody r.manifest r.bytes.length body
      if got.length < r.manifest.body then b
      else
        if (Config.sha384 body).toNat == trailerDigest (r.trailers.getD k []) then
          b.modJob n j fun x => { x with restore := some { r with ph := .ended 11, left := [k], bytes := [] } }
        else b.restoreNext n j r
    | _ => b

/-- A restore ends with its result (R349, R350). -/
def Block.endRestore (b : Block) (n j result : Nat) : Block :=
  match (b.job n j).restore with
  | none => b
  | some r =>
    let bank := r.left.headD 0
    let step := trailerStep (r.trailers.getD bank [])
    let fences := (b.job n j).fencesNow (b.job n j).before
    let b := b.dropRestore n j
    if result == 11 then
      b.regenFeed n fun b =>
        ((((b.modJob n j fun x =>
          { x with st := x.before, lastStep := step, bank := bank, valid := true, result := 11, restores := up32 x.restores }).tallyUp
            (0x8400 + n) 2).jobSignal n (stepFence fences) step).jobSignal n (doneFence fences) step)
    else
      let b := b.modJob n j fun x => { x with st := .restoreFailed, result := result }
      if 3 ≤ result && result ≤ 10 then b.secureEvent n j result else b

def execRestoreComplete (slice job : Nat) (s : State) : Host.Outcome State Fault Refusal :=
  s.onBlock fun b =>
    match (b.job slice job).restore with
    | none => b
    | some r =>
      match r.ph with
      | .ended result => b.endRestore slice job result
      | _ => b

/-- A response that was due has not arrived within SECURE_TIMEOUT of a clock. -/
def Block.secureLate (b : Block) (t : Nat) : Bool := t + b.dict.secureTimeout * (1000 * usClk) ≤ b.time.mclk

/-- No response within SECURE_TIMEOUT: TIMEOUT for a copy, SOURCE_LOST for a restore (R347). -/
def execSecureTimeout (slice job : Nat) (s : State) : Host.Outcome State Fault Refusal :=
  s.onBlock fun b =>
    match (b.job slice job).copy, (b.job slice job).restore with
    | some c, _ => if c.ph == .acked || !b.secureLate c.heardAt then b else b.endCopy slice job 7
    | none, some r =>
      match r.ph with
      | .ended _ => b
      | _ => if b.secureLate r.heardAt then b.endRestore slice job 13 else b
    | none, none => b

/-- The holding instance refused the stream of a job (R347). -/
def Block.streamRefused (b : Block) (n j : Nat) : Block :=
  match (b.job n j).copy with
  | some _ => b.endCopy n j 6
  | none => b.endRestore n j 6

/-- An acknowledgement for a job's stream. -/
def Block.streamAck (b : Block) (n j : Nat) (value : Dword) : Block :=
  let b := b.heard n j
  match (b.job n j).copy with
  | some _ => b.copyAck n j value
  | none => b.restoreAck n j

/-! ### Grants and the holding side (R225, R342) -/

/-- A grant as its entry holds it: base, length in bytes, owner, rights, source package and slice. -/
structure Grant where
  base : Nat
  len : Nat
  owner : Nat
  rights : Nat
  package : Nat
  slice : Nat
  deriving DecidableEq, Repr

def grantOf (bs : List Byte) : Grant :=
  let f (i n : Nat) : Nat := leNat ((bs.drop i).take n)
  { base := fld (f 0 8) 56 0, len := 65536 * f 8 4, owner := f 12 1, rights := f 13 1, package := f 14 2, slice := f 16 1 }

/-- A grant in force that covers [a, a + len) with every right of the mask, for a source; its slice. -/
def Block.granted? (b : Block) (package slice a len rights : Nat) : Option Nat :=
  (b.dict.grants.findSome? fun x =>
    let g := grantOf x.2
    if g.base ≤ a && a + len ≤ g.base + g.len && g.rights &&& rights == rights && (g.package == 0xFFFF || g.package == package) &&
        (g.slice == 0xFF || g.slice == slice) && b.ownRange g.owner g.base g.len then some g.owner
    else none)

/-- A holding area's fields: base, length, key, job, source package and slice. -/
def areaOf (bs : List Byte) : Nat × Nat × Nat × Nat × Nat × Nat :=
  let f (i n : Nat) : Nat := leNat ((bs.drop i).take n)
  (fld (f 0 8) 56 0, 65536 * f 8 4, f 12 1, f 13 1, f 14 2, f 16 1)

/-- BANK_BYTES of a source's job at the instance that holds its area (R343): no message carries the sum of the lengths, so its
number of 64 KiB units is a free value (notes/assumptions/33.md). -/
def bankBytes (base job package slice : Nat) : Nat := 65536 * (1 + Config.bankUnits base job package slice)

/-- The holding area in force that an opening message matches, which holds two banks: its slice and key (R342). -/
def Block.areaFor (b : Block) (base job package slice : Nat) : Option (Nat × Nat) :=
  b.live.findSome? fun n => (List.range 9).findSome? fun k =>
    let (a, len, key, j, p, sl) := areaOf (Tab.get [] (b.slice n).holdAreas k)
    if a == base && j == job && p == package && sl == slice && 2 * bankBytes base job package slice ≤ len && b.holdsKey n key && b.ownRange n a len &&
        b.granted? package slice a len 3 == some n then some (n, key)
    else none

/-- An answer on the port that a request came by. -/
def Block.respond (b : Block) (n port tag kind : Nat) (body : List Byte) : Block := b.emit (.flit port (b.sliceFlit n kind tag body))

/-- A refusal, counted where no grant covers the access (R225, R423, R442). -/
def Block.refuse (b : Block) (port tag cause : Nat) : Block :=
  let b := if cause == 6 then b.modPorts fun p => { p with remoteRefused := Tab.upd 0 p.remoteRefused (min port 4) up32 } else b
  b.emit (.flit port (b.ownFlit 0x12 1 tag (toLe 1 cause)))

def execStreamOpen (port : Nat) (src : FlitSrc) (base : Dword) (bank job srcPackage srcSlice : Nat) (reading : Bool) (s : State) :
    Host.Outcome State Fault Refusal :=
  s.onBlock fun b => b.arrives port fun b =>
    match b.areaFor (dfld base 56 0) job srcPackage srcSlice with
    | none => b.refuse port src.tag 6
    | some (n, key) =>
      if 2 ≤ bank then b.refuse port src.tag 3
      else
        let size := bankBytes (dfld base 56 0) job srcPackage srcSlice
        let st : InStream :=
          { port := port, package := src.package, slice := src.slice, tag := src.tag, addr := dfld base 56 0 + bank * size
            key := key, len := size, pos := 0, reading := reading }
        (b.modPorts fun p =>
          { p with refills := p.refills.filter (fun x => !(x.port == port && x.src == src))
                   inStreams := (p.inStreams.filter fun x =>
              !(x.port == port && x.package == src.package && x.slice == src.slice && x.tag == src.tag)) ++ [st] }).respond n port
          src.tag 0x11 (toLe 8 b.dict.feedGroup)

def Block.inStream (b : Block) (port : Nat) (src : FlitSrc) : Option InStream :=
  b.ports.inStreams.find? fun x => x.port == port && x.package == src.package && x.slice == src.slice && x.tag == src.tag

/-- The slice that still holds a stream's bank, under a grant still in force. -/
def Block.streamOwner (b : Block) (st : InStream) : Option Nat := b.granted? st.package st.slice st.addr st.len 3

/-- An access to a stream held here, of the direction given. -/
def Block.onStream (b : Block) (port : Nat) (src : FlitSrc) (reading : Bool) (f : InStream → Nat → Block → Block) : Block :=
  match b.inStream port src with
  | none => b.refuse port src.tag 6
  | some st =>
    if st.reading != reading then b.refuse port src.tag 3
    else
      match b.streamOwner st with
      | none => b.refuse port src.tag 6
      | some n => if b.holdsKey n st.key then f st n b else b.refuse port src.tag 6

def execStreamMark (port : Nat) (src : FlitSrc) (trailer : List Byte) (s : State) : Host.Outcome State Fault Refusal :=
  s.onBlock fun b => b.arrives port fun b => b.onStream port src false fun st n b =>
    (b.wrMem (b.keyGen st.key) (gaKey st.addr) ((List.range 128).map fun i => trailer.getD i 0)).respond n port src.tag 0x11 (toLe 8 st.pos)

/-- Stream bytes appended to a bank held here: the SR block starts at offset 128 (R343). -/
def Block.streamAppend (b : Block) (port : Nat) (src : FlitSrc) (bytes : List Byte) : Block :=
  b.onStream port src false fun st n b =>
    if st.len < 128 + st.pos + bytes.length then b.refuse port src.tag 3
    else
      let pos := st.pos + bytes.length
      ((b.wrMem (b.keyGen st.key) (gaKey (st.addr + 128 + st.pos)) bytes).modPorts fun p =>
        { p with inStreams := p.inStreams.map fun x => if x == st then { x with pos := pos } else x }).respond n port src.tag 0x11 (toLe 8 pos)

/-- The job of this block whose restore a tag belongs to. -/
def Block.restoreTag (b : Block) (tag : Nat) : Option (Nat × Nat) :=
  match Tab.find b.ports.remote tag with
  | some (.stream n j) => if ((b.job n j).restore.map fun r => r.tag == tag).getD false then some (n, j) else none
  | _ => none

def execStreamData (port : Nat) (src : FlitSrc) (bytes : List Byte) (s : State) : Host.Outcome State Fault Refusal :=
  s.onBlock fun b => b.arrives port fun b =>
    match b.inStream port src, b.restoreTag src.tag with
    | none, some (n, j) => (b.heard n j).restoreData n j bytes
    | _, _ => b.streamAppend port src bytes

/-- The bank's bytes go out at the restore rate (R350). -/
def execStreamRead (port : Nat) (src : FlitSrc) (off bytes : Nat) (s : State) : Host.Outcome State Fault Refusal :=
  s.onBlock fun b => b.arrives port fun b => b.onStream port src true fun st n b =>
    if st.len < off + bytes then b.refuse port src.tag 3
    else
      (flitChunks (bytes + 1) (b.rdMem (b.keyGen st.key) (gaKey (st.addr + off)) bytes)).foldl
        (fun b c => b.modPorts fun p => { p with refills := p.refills ++ [{ port := port, src := src, flit := b.sliceFlit n 0x0B src.tag c }] }) b

/-! ### Restore data on its way (R350) -/

/-- The flit of restore data that goes next on a port: of the restore opened first that has any. -/
def Ports.nextRefill (p : Ports) (port : Nat) : Option Refill :=
  (p.inStreams.filter fun st => st.reading && st.port == port).findSome? fun st =>
    p.refills.find? fun r => r.port == port && r.src.package == st.package && r.src.slice == st.slice && r.src.tag == st.tag

/-- A management clock of REFILL_MBPS on a port, in bytes ÷ 750 (R350): restore data leaves as the rate allows, while the link is
up. -/
def Block.refillPort (b : Block) (port : Nat) : Block :=
  match b.ports.nextRefill port with
  | none => b.modPorts fun p => { p with refillPart := Tab.erase p.refillPart port }
  | some r =>
    let part := Tab.get 0 b.ports.refillPart port + b.dict.refillMbps
    let need := 750 * r.flit.body.length
    if part < need || (b.ports.link port).st != .up || (b.ports.link port).rspCredits == 0 then
      b.modPorts fun p => { p with refillPart := Tab.put p.refillPart port (min part need) }
    else
      (b.modPorts fun p => { p with refills := p.refills.erase r, refillPart := Tab.put p.refillPart port (part - need) }).emit
        (.flit port r.flit)

def Block.refillTick (b : Block) : Block :=
  if b.gated || b.ports.refills.isEmpty then b else b.each (List.range 6) fun i b => b.refillPort i

end Sys2Proof.Machine
end

