-- ==== Sys2Proof/Machine/Links.lean ====
section
/-! DEFINITION. Links and messages: the report of a rung (R329), link states and replay (R443), remote requests, their answers
(R225, R261, R442), federation (R444), interrupts (R448), the aperture (R446) and memory ports (R437 to R439). -/

namespace Sys2Proof.Machine

/-! ### Ends of outstanding remote requests (R442) -/

/-- The request's command still stands. -/
def Block.hasCmd (b : Block) (q k : Nat) : Bool := (b.queue q).cmds.any fun c => c.k == k && c.opcode == 5 && c.started

/-- A request ends as refused. -/
def Block.endRefused (b : Block) (tag : Nat) : Block :=
  match Tab.find b.ports.remote tag with
  | none => b
  | some u =>
    let b := b.dropTag tag
    match u with
    | .dma ag ch w => b.dmaRefused ag ch 6 w
    | .fence q k => if b.hasCmd q k then (b.ctxCode (b.queue q).ctx cFenceRefused).cmdDone q k else b
    | .message core => b.endAccess core fun h => h.trap cStoreFault 0
    | .stream n j => b.streamRefused n j
    | .window c _ => b.ctxCode c cRemoteRefused
    | .winTake core unit c va => b.gotLine core unit c va (.taken va 0 cRemoteRefused)
    | .winRead core unit c va => b.gotLine core unit c va .refused
    | .migrate n => b.migrFails n 6
    | .load core _ _ _ _ va => b.endAccess core fun h => h.trap cLoadFault (BitVec.ofNat 64 va)
    | .store core va => b.endAccess core fun h => h.trap cStoreFault (BitVec.ofNat 64 va)
    | .atomic core _ va => b.endAccess core fun h => h.trap cStoreFault (BitVec.ofNat 64 va)

/-- A request is acknowledged; a stream's tag holds for the life of the stream. -/
def Block.endAcked (b : Block) (tag : Nat) (value : Dword) : Block :=
  match Tab.find b.ports.remote tag with
  | none => b
  | some (.dma ag ch true) => (b.dropTag tag).dmaAck ag ch
  | some (.fence q k) => if b.hasCmd q k then (b.dropTag tag).cmdDone q k else b.dropTag tag
  | some (.message core) => (b.dropTag tag).endAccess core Hart.step4
  | some (.stream n j) => b.streamAck n j value
  | some (.window _ _) => b.dropTag tag
  | some (.store core _) => (b.dropTag tag).endAccess core Hart.step4
  | some _ => b

/-- Read data returns. -/
def Block.endRead (b : Block) (tag : Nat) (bs : List Byte) : Block :=
  match Tab.find b.ports.remote tag with
  | some (.dma ag ch false) => (b.dropTag tag).dmaData ag ch true bs
  | some (.winRead core unit c va) => (b.dropTag tag).gotLine core unit c va (.data bs)
  | some (.migrate n) => (b.dropTag tag).migrData n true bs
  | some (.load core rd l uns i _) =>
    (b.dropTag tag).endAccess core fun h => h.loaded rd (extend (2 ^ l) uns (leNat ((bs.drop i).take (2 ^ l))))
  | _ => b

/-- A request met a poisoned line (R298). -/
def Block.endPoison (b : Block) (tag : Nat) : Block :=
  match Tab.find b.ports.remote tag with
  | some (.dma ag ch _) => (b.dropTag tag).dmaPoison ag ch
  | some (.load core _ _ _ _ va) => (b.dropTag tag).endAccess core fun h => h.trap cLoadFault (BitVec.ofNat 64 va)
  | some (.atomic core _ va) => (b.dropTag tag).endAccess core fun h => h.trap cLoadFault (BitVec.ofNat 64 va)
  | some (.store core _) => (b.dropTag tag).endAccess core Hart.step4
  | some (.window _ _) => b.dropTag tag
  | some (.winTake core unit c va) => (b.dropTag tag).gotLine core unit c va (.taken va (leNat ((List.range 8).map b.openByte)) cEccUncorr)
  | some (.winRead core unit c va) => (b.dropTag tag).gotLine core unit c va .poison
  | some (.migrate n) => (b.dropTag tag).migrPoison n
  | _ => b

def execRdData (port : Nat) (src : FlitSrc) (bytes : List Byte) (s : State) : Host.Outcome State Fault Refusal :=
  s.onBlock fun b => b.arrives port fun b => b.endRead src.tag bytes

def execAck (port : Nat) (src : FlitSrc) (value : Dword) (s : State) : Host.Outcome State Fault Refusal :=
  s.onBlock fun b => b.arrives port fun b => b.endAcked src.tag value

/-- The cause in the message is the target's; the requester's code or cause is REMOTE_REFUSED whatever it is (R204, R209). -/
def execRefused (port : Nat) (src : FlitSrc) (_cause : Nat) (s : State) : Host.Outcome State Fault Refusal :=
  s.onBlock fun b => b.arrives port fun b => b.endRefused src.tag

def execPoison (port : Nat) (src : FlitSrc) (_line : Dword) (s : State) : Host.Outcome State Fault Refusal :=
  s.onBlock fun b => b.arrives port fun b => b.endPoison src.tag

/-- STALE_ROLE for a message that a core sent to another instance: as for one within the slice (R189). -/
def Block.endStale (b : Block) (tag : Nat) : Block :=
  match Tab.find b.ports.remote tag with
  | some (.message core) =>
    let b := b.dropTag tag
    if (b.core core).hart.stall == some .access then
      let (v, b) := (b.ctxCode (b.core core).hart.zhCtx cStaleRole).freeDword
      b.modHart core fun h => h.trap cStoreFault v
    else b
  | _ => b

def execStaleRole (port : Nat) (src : FlitSrc) (s : State) : Host.Outcome State Fault Refusal :=
  s.onBlock fun b => b.arrives port fun b => b.endStale src.tag

def execAtomicRsp (port : Nat) (src : FlitSrc) (old : Dword) (s : State) : Host.Outcome State Fault Refusal :=
  s.onBlock fun b => b.arrives port fun b =>
    match Tab.find b.ports.remote src.tag with
    | some (.atomic core rd _) => (b.dropTag src.tag).endAccess core fun h => h.loaded rd old
    | some (.window _ _) => b.dropTag src.tag
    | some (.winTake core unit c va) => (b.dropTag src.tag).gotLine core unit c va (.taken va old.toNat 0)
    | _ => b

/-! ### Link states and replay (R423, R443) -/

/-- The power domain of a link's port (R393). -/
def portDomain (port : Nat) : Nat := if port < 4 then 112 + port else 116

/-- The slices that a failed port reaches: those with a reservation on it, or every one for FED (R24). -/
def Block.portSlices (b : Block) (port : Nat) : List Nat :=
  if port < 4 then b.live.filter fun n => b.reservByte n (port + 1) != 0 else b.live

/-- Every request outstanding on a link ends as if REFUSED had been answered, and the failure is reported (R443). -/
def Block.linkLost (b : Block) (port : Nat) (st : LinkSt) : Block :=
  let tags := (b.ports.tagPort.filter fun x => x.2 == port).map (·.1)
  let b := (b.modLink port fun l => { l with st := st, replay := [] }).modPorts fun p =>
    { p with waiting := p.waiting.filter (fun x => x.path != port), own := p.own.filter fun x => x.1 != port }
  (b.each tags fun t b => b.endRefused t).ladderReport b.stamp (b.portSlices port) 0 11 7 0

/-- Training begins, and this side sends TRAIN. -/
def Block.train (b : Block) (port : Nat) : Block :=
  (b.modLink port fun l => { l with st := .training, trainAt := b.time.mclk }).emitOwn port (.link port 1 0)

/-- A retrain; the fourth within 1 s fails the link. -/
def Block.retrain (b : Block) (port : Nat) : Block :=
  let recent := (b.ports.link port).retrainAt.filter fun t => b.time.mclk < t + 750000000
  let b := (b.modPorts fun p => { p with retrains := Tab.upd 0 p.retrains (min port 4) up32 }).modLink port fun l =>
    { l with retrainAt := recent ++ [b.time.mclk] }
  if 3 ≤ recent.length then b.linkLost port .failed else b.train port

/-- A link whose power domain is on and whose PHY is up leaves DOWN with a fresh sequence; each receiver has room for 1,024 flits
of each class. -/
def Block.linkWake (b : Block) (port : Nat) : Block :=
  let l := b.ports.link port
  if l.st == .down && l.phy && Tab.get false b.power.on (portDomain port) then
    (b.modLink port fun l => { l with seqTx := 0, seqRx := 0, replay := [], retrainAt := [], reqCredits := 1024, rspCredits := 1024 }).train
      port
  else b

def execPhyUpRise (port : Nat) (s : State) : Host.Outcome State Fault Refusal :=
  s.onBlock fun b =>
    if (b.ports.link port).phy then b
    else
      let b := b.modLink port fun l => { l with phy := true }
      if (b.ports.link port).st == .up then b.retrain port else b.linkWake port

def execPhyUpFall (port : Nat) (s : State) : Host.Outcome State Fault Refusal :=
  s.onBlock fun b => b.modLink port fun l => { l with phy := false, st := if l.st == .failed then .down else l.st }

/-- Both sides have exchanged TRAIN. -/
def execLinkTrain (port : Nat) (s : State) : Host.Outcome State Fault Refusal :=
  s.onBlock fun b =>
    if (b.ports.link port).st == .training then b.modLink port fun l => { l with st := .up }
    else b

/-- Training has not ended in 10 ms. -/
def execTrainingTimeout (port : Nat) (s : State) : Host.Outcome State Fault Refusal :=
  s.onBlock fun b =>
    if (b.ports.link port).st == .training && (b.ports.link port).trainAt + 10000 * usClk ≤ b.time.mclk then b.linkLost port .failed else b

/-- Credits come back, up to the receiver's 1,024 flits of each class. -/
def execNull (port : Nat) (_src : FlitSrc) (reqCredits rspCredits : Nat) (s : State) : Host.Outcome State Fault Refusal :=
  s.onBlock fun b => (b.rx port).modLink port fun l =>
    { l with reqCredits := min 1024 (l.reqCredits + reqCredits), rspCredits := min 1024 (l.rspCredits + rspCredits) }

/-- The receiver names the first flit that it lacks. -/
def execRxBad (port : Nat) (s : State) : Host.Outcome State Fault Refusal :=
  s.onBlock fun b => b.emitOwn port (.link port 2 (b.ports.link port).seqRx)

/-- The flits from the one named on, whose arrival is not known. -/
def Link.from (l : Link) (seq : Nat) : List (Nat × Nat × Flit) := l.replay.dropWhile fun x => x.1 != seq

/-- The sender frees what came before the flit named and replays from it; a flit replayed 8 times retrains the link. -/
def Block.nak (b : Block) (port seq : Nat) : Block :=
  let again := ((b.ports.link port).from seq).map fun x => (x.1, x.2.1 + 1, x.2.2)
  if again.isEmpty then b
  else if again.any fun x => 8 ≤ x.2.1 then
    (b.modLink port fun l => { l with replay := again.map fun x => (x.1, 0, x.2.2) }).retrain port
  else
    again.foldl (fun b x => b.modPorts fun p => { p with out := .flit port x.2.2 :: p.out })
      (b.modLink port fun l => { l with replay := again })

def execLinkNak (port seq : Nat) (s : State) : Host.Outcome State Fault Refusal := s.onBlock fun b => b.nak port seq

/-- A flit of unknown kind or broken body is discarded and answered REFUSED with cause FORMAT (R442). -/
def execFlitUnknownKind (port : Nat) (src : FlitSrc) (s : State) : Host.Outcome State Fault Refusal :=
  s.onBlock fun b => b.arrives port fun b => b.refuse port src.tag 3

/-! ### Requests that arrive (R225, R442, R444) -/

/-- The link by which a federation flit from an instance arrives: the one away from the way it travels. -/
def Block.fedFrom (b : Block) (src : Nat) : Nat :=
  let k := max 1 b.start.instCount
  if 2 * ((b.start.inst + k - src) % k) ≤ k then 5 else 4

/-- An access that arrives for another instance of the package goes on over FED with its fields as they came (R443). -/
def Block.forward (b : Block) (inst : Nat) (src : FlitSrc) (kind : Nat) (body : List Byte) : Block :=
  (b.emit (.flit (b.fedTo inst) { fed := some (inst, b.start.inst, true), kind := kind, cls := 0, package := src.package
                                  slice := src.slice, tag := src.tag, body := body })).modPorts
    fun p => { p with forwarded := p.forwarded + 1 }

/-- The address lies on another instance of the package. -/
def Block.elsewhere (b : Block) (a : Nat) : Bool :=
  gaPackage a == b.dict.package && gaInstance a != b.start.inst && gaInstance a < b.start.instCount

/-- The first poisoned line that holds a byte of [a, a + n). -/
def Block.poisonIn (b : Block) (a n : Nat) : Option Nat := (linesOf (gaKey a) n).find? fun l => b.poisonedNow (128 * l)

def badBytes (n : Nat) : Bool := n < 128 || 4096 < n || n % 128 != 0

/-- A read that a grant covers returns its bytes, or POISON with the line's address (R225, R298, R442). -/
def Block.serveRd (b : Block) (port : Nat) (src : FlitSrc) (a bytes : Nat) : Block :=
  match b.granted? src.package src.slice a bytes 1 with
  | none => b.refuse port src.tag 6
  | some n =>
    match b.poisonIn a bytes with
    | some l => b.respond n port src.tag 0x13 (toLe 8 (b.gaOf (128 * l)))
    | none => (flitChunks (bytes + 1) (b.rdOwn n a bytes)).foldl (fun b c => b.respond n port src.tag 0x10 c) b

/-- The lines of this instance that an uncached request touches, and whether it writes. -/
def HomeUse.lines : HomeUse → List Nat
  | .rd _ _ a n => linesOf (gaKey a) n
  | .wr _ _ w bs => linesOf (gaKey w.addr) bs.length
  | .atomic _ _ a _ _ _ => linesOf (gaKey a) 8
  | .aperture off len none => linesOf off len
  | .aperture off _ (some bs) => linesOf off bs.length

def HomeUse.writes : HomeUse → Bool
  | .rd _ _ _ _ => false
  | .aperture _ _ none => false
  | _ => true

/-- The requester that a request is at its homes, by the port that it came through; 6 is the host's. -/
def HomeUse.port : HomeUse → Nat
  | .rd port _ _ _ => port
  | .wr port _ _ _ => port
  | .atomic port _ _ _ _ _ => port
  | .aperture _ _ _ => 6

/-- A request waits behind another: for a line that both touch, or as later data of one write. -/
def HomeUse.behind (u x : HomeUse) : Bool :=
  x.lines.any u.lines.contains || (match u, x with
    | .wr p s _ _, .wr p' s' _ _ => p == p' && s == s'
    | _, _ => false)

/-- An uncached request is served when its lines are free for it and none before it waits for one of them; else it waits at its
homes (R287, R289, R291, R292). -/
def Block.atHomes (b : Block) (u : HomeUse) (f : Block → Block) : Block :=
  let after := b.ports.atHome.any u.behind
  let n := b.groupOwner (homeOf (u.lines.headD 0))
  match if after then (b, false) else b.homeTurns (.uncached n (4097 + u.port)) u.lines u.writes with
  | (b, true) => f b
  | (b, false) => b.modPorts fun p => { p with atHome := p.atHome ++ [u] }

def execRd (port : Nat) (src : FlitSrc) (addr : Dword) (bytes : Nat) (s : State) : Host.Outcome State Fault Refusal :=
  s.onBlock fun b => b.arrives port fun b =>
    let a := dfld addr 56 0
    if badBytes bytes then b.refuse port src.tag 3
    else if b.elsewhere a then b.forward (gaInstance a) src 0x02 (toLe 8 addr.toNat ++ toLe 4 bytes)
    else if (b.granted? src.package src.slice a bytes 1).isNone then b.refuse port src.tag 6
    else b.atHomes (.rd port src a bytes) fun b => b.serveRd port src a bytes

/-- The write whose data a tag brings. -/
def Block.inWrite (b : Block) (port : Nat) (src : FlitSrc) : Option InWrite :=
  b.ports.inWrites.find? fun w => w.port == port && w.src == src

def Block.dropWrite (b : Block) (port : Nat) (src : FlitSrc) : Block :=
  b.modPorts fun p => { p with inWrites := p.inWrites.filter fun w => !(w.port == port && w.src == src) }

def execWr (port : Nat) (src : FlitSrc) (addr : Dword) (bytes : Nat) (s : State) : Host.Outcome State Fault Refusal :=
  s.onBlock fun b => b.arrives port fun b =>
    let b := b.dropWrite port src
    let a := dfld addr 56 0
    let open_ (b : Block) : Block :=
      b.modPorts fun p => { p with inWrites := p.inWrites ++ [{ port := port, src := src, addr := a, left := bytes }] }
    if badBytes bytes then b.refuse port src.tag 3
    else if b.elsewhere a then open_ (b.forward (gaInstance a) src 0x03 (toLe 8 addr.toNat ++ toLe 4 bytes))
    else if (b.granted? src.package src.slice a bytes 2).isSome then open_ b
    else b.refuse port src.tag 6

/-- Data of an accepted write reach their homes, while its grant stands; the last of it is acknowledged. -/
def Block.serveData (b : Block) (port : Nat) (src : FlitSrc) (w : InWrite) (bs : List Byte) : Block :=
  match b.granted? src.package src.slice w.addr w.left 2 with
  | none => (b.dropWrite port src).refuse port src.tag 6
  | some n =>
    let b := b.wrOwn n w.addr bs
    if w.left ≤ bs.length then b.respond n port src.tag 0x11 (toLe 8 0) else b

/-- Data of an accepted write arrive. -/
def Block.dataArrives (b : Block) (port : Nat) (src : FlitSrc) (w : InWrite) (bs : List Byte) : Block :=
  let left := w.left - bs.length
  let b := b.dropWrite port src
  let b := if left == 0 then b
    else b.modPorts fun p => { p with inWrites := p.inWrites ++ [{ w with addr := w.addr + bs.length, left := left }] }
  if b.elsewhere w.addr then b.forward (gaInstance w.addr) src 0x04 bs
  else if (b.granted? src.package src.slice w.addr w.left 2).isNone then (b.dropWrite port src).refuse port src.tag 6
  else b.atHomes (.wr port src w bs) fun b => b.serveData port src w bs

def execWrData (port : Nat) (src : FlitSrc) (bytes : List Byte) (s : State) : Host.Outcome State Fault Refusal :=
  s.onBlock fun b => b.arrives port fun b =>
    match b.inWrite port src with
    | none => b
    | some w => b.dataArrives port src w (bytes.take w.left)

/-- The operation that ATOMIC names. -/
def atomicOf : Nat → Option AtomicOp
  | 1 => some (.swap true)
  | 2 => some (.add true)
  | 3 => some .gradAdd
  | 4 => some .fpMax
  | 5 => some .cas
  | _ => none

/-- A remote atomic executes at the home of its line (R293). -/
def Block.serveAtomic (b : Block) (port : Nat) (src : FlitSrc) (a : Nat) (op : AtomicOp) (x y : Dword) : Block :=
  match b.granted? src.package src.slice a 8 4 with
  | none => b.refuse port src.tag 6
  | some n =>
    match b.homeAtomic (b.ownGen n) (gaKey a + (if op == .gradAdd then y.toNat / 4 % 2 * 4 else 0)) op x y with
    | (b, none) => b.respond n port src.tag 0x13 (toLe 8 (a / 128 * 128))
    | (b, some old) => b.respond n port src.tag 0x15 (toLe 8 old)

def execAtomic (port : Nat) (src : FlitSrc) (addr : Dword) (op : Nat) (x y : Dword) (s : State) : Host.Outcome State Fault Refusal :=
  s.onBlock fun b => b.arrives port fun b =>
    let a := dfld addr 56 0
    match atomicOf op with
    | none => b.refuse port src.tag 3
    | some o =>
      if a % 8 != 0 then b.refuse port src.tag 3
      else if b.elsewhere a then
        b.forward (gaInstance a) src 0x05 (toLe 8 addr.toNat ++ toLe 8 op ++ toLe 8 x.toNat ++ toLe 8 y.toNat)
      else if (b.granted? src.package src.slice a 8 4).isNone then b.refuse port src.tag 6
      else b.atHomes (.atomic port src a o x y) fun b => b.serveAtomic port src a o x y

/-- A message reaches its core while the target still plays the role that the sender meant (R189). -/
def execMsg (port : Nat) (src : FlitSrc) (target : Dword) (body : List Byte) (s : State) : Host.Outcome State Fault Refusal :=
  s.onBlock fun b => b.arrives port fun b =>
    let t := dfld target 15 0
    let i := fld t 15 13
    let n := fld t 4 0
    if i != b.start.inst && i < b.start.instCount then b.forward i src 0x06 (toLe 8 target.toNat ++ body)
    else if n != 0 && b.roleMatches n target then
      (b.modHart (targetCore t) fun h => { h with inbox := h.inbox ++ [body] }).respond n port src.tag 0x11 (toLe 8 0)
    else
      (b.modPorts fun p => { p with staleRole := Tab.upd 0 p.staleRole (min port 4) up32 }).emit
        (.flit port (b.ownFlit 0x14 1 src.tag []))

/-- A remote fence signal (R261); a refusal here is not one of R225 and is not counted there. -/
def execFence (port : Nat) (src : FlitSrc) (handle value : Dword) (s : State) : Host.Outcome State Fault Refusal :=
  s.onBlock fun b => b.arrives port fun b =>
    let i := hInstance handle
    if hPackage handle == b.dict.package && i != b.start.inst && i < b.start.instCount then
      b.forward i src 0x07 (toLe 8 handle.toNat ++ toLe 8 value.toNat)
    else if hPackage handle == b.dict.package && i == b.start.inst then
      let (b, ok) := b.handleSignal handle value noCmd
      b.emit (.flit port (if ok then b.ownFlit 0x11 1 src.tag (toLe 8 0) else b.ownFlit 0x12 1 src.tag (toLe 1 6)))
    else b.emit (.flit port (b.ownFlit 0x12 1 src.tag (toLe 1 6)))

/-! ### Federation (R30, R432, R444) -/

/-- A doorbell that the lead forwards takes effect here. -/
def execDoorbellFwd (q : Nat) (payload : List Dword) (s : State) : Host.Outcome State Fault Refusal :=
  s.onBlock fun b => b.arrives (b.fedFrom 0) fun b =>
    match payload with
    | [v] => b.ring q (v.setWidth 32)
    | w => if w.length == 8 then b.ringInline q w else b

/-- Commons-copy data reach an instance that is not the lead: the first of them begin its load (R110). -/
def Block.fedCommons (b : Block) (bs : List Byte) : Block :=
  let b := if b.parade.load.isNone && (b.parade.st == .empty || b.parade.st == .fault) && !b.life.rngFault then
      b.beginLoad 0 true
    else b
  b.commonsAppend bs

/-- Staged-map data reach an instance that is not the lead: the switch stride, then map bytes; without bytes a new staged load
begins (R119; notes/assumptions/94.md). -/
def Block.fedStaged (b : Block) (payload : List Byte) : Block :=
  let sw := BitVec.ofNat 64 (leNat (payload.take 8))
  if payload.length ≤ 8 then b.newStaged sw 0
  else b.modStaged fun st => { st with bytes := st.bytes ++ payload.drop 8 }

def execFedCtrl (op src : Nat) (payload : List Byte) (s : State) : Host.Outcome State Fault Refusal :=
  s.onBlock fun b =>
    match op with
    | 1 => b.arrives (b.fedFrom src) fun b => if b.start.lead then b else b.fedCommons payload
    | 2 => b.arrives (b.fedFrom src) fun b => if b.start.lead then b else b.fedStaged payload
    | 3 => (b.rx (b.fedFrom src)).modStart fun t => { t with levelMax := Tab.put t.levelMax src (leNat (payload.take 1)) }
    | _ => b.rx (b.fedFrom src)

/-- A flit for another instance passes, on the link of its direction (R28, R444). -/
def execFedForward (east : Bool) (dst src kind : Nat) (origin : FlitSrc) (body : List Byte) (s : State) :
    Host.Outcome State Fault Refusal :=
  s.onBlock fun b =>
    ((b.rx (if east then 5 else 4)).emit (.flit (if east then 4 else 5)
      { fed := some (dst, src, true), kind := kind, cls := if 0x10 ≤ kind && kind ≤ 0x15 then 1 else 0
        package := origin.package, slice := origin.slice, tag := origin.tag, body := body })).modPorts fun p => { p with forwarded := p.forwarded + 1 }

/-- The lead reports every slice ID of a lost instance as faulted. DESIGN CHOICE: as the LADDER event of rung 0 with CAUSE 11 (R30;
notes/assumptions/96.md). -/
def Block.reportLost (b : Block) (i : Nat) : Block :=
  if b.start.lead then b.each ((List.range 28).map (· + 1)) fun n b => b.report 1 (32 * i + n) (256 * 11 + 65536 * 7) 0 else b

/-- An instance is lost; with the lead goes the host port, and no new submission is accepted (R30). -/
def execInstanceLost (i : Nat) (s : State) : Host.Outcome State Fault Refusal :=
  s.onBlock fun b =>
    if i == b.start.inst || b.start.instCount ≤ i || b.start.lost.contains i then b
    else (b.modStart fun t => { t with lost := t.lost ++ [i], leadLost := t.leadLost || i == 0 }).reportLost i

/-! ### Interrupts, the aperture and memory ports -/

/-- The lowest pending vector leaves (R448). -/
def execIrqSend (s : State) : Host.Outcome State Fault Refusal :=
  s.onBlock fun b =>
    match b.ports.irq with
    | [] => b
    | (v, _) :: rest => (b.modPorts fun p => { p with irq := rest }).emit (.irq v)

/-- The slice and key generation of an aperture access that is performed (R446). -/
def Block.apertureKey (b : Block) (off len : Nat) : Option Nat :=
  let n := b.groupOwner (fld off 41 37)
  if 1 ≤ n && n ≤ 28 && (b.slice n).aptValid && fld off 36 0 + len ≤ b.groupBytes (fld off 41 37) && off < 2 ^ 42 then
    some (b.keyGen (b.slice n).aptKey)
  else none

/-- Bytes that the spec leaves open. -/
def Block.freeBytes (b : Block) (n : Nat) : List Byte × Block :=
  ((List.range n).map fun i => (Config.freeWord (b.draws + i)).setWidth 8, { b with draws := b.draws + n })

/-- An aperture access at its homes (R446). A poisoned line is answered with Poison (R298). -/
def Block.serveAperture (b : Block) (off len : Nat) (wdata : Option (List Byte)) : Block :=
  match wdata with
  | some bs =>
    match b.apertureKey off bs.length with
    | none => b
    | some g => b.wrMem g off bs
  | none =>
    match b.apertureKey off len with
    | none => b.emit (.aperture none)
    | some g =>
      if (b.poisonIn off len).isSome then b.emit .aperturePoison
      else b.emit (.aperture (some (b.rdMem g off len)))

/-- R446; HTI_READY is low before release and at level 5 (R445). -/
def execApertureAccess (off : Dword) (len : Nat) (wdata : Option (List Byte)) (s : State) : Host.Outcome State Fault Refusal :=
  s.onBlock fun b =>
    let n := match wdata with
      | none => len
      | some bs => bs.length
    if b.gated then b
    else if (b.apertureKey off.toNat n).isNone then b.serveAperture off.toNat len wdata
    else b.atHomes (.aperture off.toNat len wdata) fun b => b.serveAperture off.toNat len wdata

/-- An uncached request whose lines have come free is served. -/
def Block.serveHome (b : Block) (u : HomeUse) : Block :=
  b.atHomes u fun b => match u with
    | .rd port src a n => b.serveRd port src a n
    | .wr port src w bs => b.serveData port src w bs
    | .atomic port src a op x y => b.serveAtomic port src a op x y
    | .aperture off len wdata => b.serveAperture off len wdata

/-- A clock for the requests that wait at their homes (R287). -/
def Block.homesTick (b : Block) : Block :=
  if b.ports.atHome.isEmpty then b else b.ports.atHome.foldl Block.serveHome (b.modPorts fun p => { p with atHome := [] })

def execZhAptKeyWrite (slice : Nat) (value : Word) (s : State) : Host.Outcome State Fault Refusal :=
  s.onHost fun b =>
    if (b.slice slice).st != .none && b.holdsKey slice (fld value.toNat 5 0) then
      b.modSlice slice fun x => { x with aptValid := value.getLsbD 31, aptKey := fld value.toNat 5 0 }
    else b

/-- The logical group behind a shim (R333). -/
def Block.groupBehind (b : Block) (shim : Nat) : Option Nat := (List.range 32).find? fun g => b.recon.shimOf g == shim

/-- A read returns. One of the commons brings its line to the lookahead buffer (R121); one of another group, with RD_ERR, leaves a
line that the shim treats as uncorrectable (R437, R439). The commons keep no record of a failure (R111). -/
def execMcpReadReturn (port line : Nat) (err : Bool) (s : State) : Host.Outcome State Fault Refusal :=
  s.onCompute fun b =>
    match b.groupBehind (port / 4) with
    | none => b
    | some g =>
      if b.groupOwner g == 31 then b.commonsReturn g (port % 4) line err
      else if err then b.setPoison (g * 2 ^ 30 + 4 * line + port % 4) true
      else b

end Sys2Proof.Machine
end

