-- ==== Sys2Proof/Machine/Power.lean ====
section
/-! DEFINITION. Power domains (R393 to R396), shedding (R399 to R405) and the orderly shutdown (R398). -/

namespace Sys2Proof.Machine

/-! ### Copies under a sequence number (R387) -/

/-- X is newer than Y as 32-bit serial numbers. -/
def serialNewer (x y : Nat) : Bool := 1 ≤ (x + 2 ^ 32 - y % 2 ^ 32) % 2 ^ 32 && (x + 2 ^ 32 - y % 2 ^ 32) % 2 ^ 32 < 2 ^ 31

/-- Of two copies, the valid one with the higher sequence number (R387): the second only where the flag is set. -/
def inForce {α : Type} (seq : α → Nat) : Option α → Option α → Option (Bool × α)
  | none, none => none
  | some x, none => some (false, x)
  | none, some y => some (true, y)
  | some x, some y => if serialNewer (seq y) (seq x) then some (true, y) else some (false, x)

/-- The copy that the next write goes to, the second where the flag is set, and its sequence number (R387). -/
def nextCopy {α : Type} (seq : α → Nat) (x y : Option α) : Bool × Nat :=
  match inForce seq x y with
  | none => (false, 0)
  | some (second, z) => (!second, (seq z + 1) % 2 ^ 32)

/-- The retirement list in force; a blank flash holds none, and nothing is retired (R330). -/
def Flash.retired (f : Flash) : RetCopy :=
  ((inForce RetCopy.seq f.retA f.retB).map (·.2)).getD { seq := 0, cores := 0, groups := 0, ways := 0, banks := 0 }

/-! ### Repair entries (R386, R394) -/

/-- The repair entries of the macros of the domains chosen are loaded: the column groups that each macro's spare replaces. Where a
macro lies is a free value. -/
def Block.loadRepairs (b : Block) (here : Nat → Bool) : Block :=
  b.modPower fun p =>
    { p with repaired := (b.start.repairs.filter fun x => here (Config.macroDomain x.1)).foldl (fun t x =>
        Tab.put t x.1 ((Tab.get [] t x.1).filter (· != x.2) ++ [x.2])) p.repaired }

/-- What a domain's macros were loaded with goes with its power. -/
def Block.dropRepairs (b : Block) (d : Nat) : Block :=
  b.modPower fun p => { p with repaired := p.repaired.filter fun x => Config.macroDomain x.1 != d }

/-! ### Requests for a domain (R394, R395) -/

/-- A number joins an ascending list once. -/
def insertNat (d : Nat) : List Nat → List Nat
  | [] => [d]
  | x :: l => if d < x then d :: x :: l else if d = x then x :: l else x :: insertNat d l

def Power.isReq (p : Power) (d : Nat) : Bool := Tab.get false p.req d
def Power.isAck (p : Power) (d : Nat) : Bool := Tab.get false p.ack d
def Power.isOn (p : Power) (d : Nat) : Bool := Tab.get false p.on d
def Power.isFailed (p : Power) (d : Nat) : Bool := Tab.get false p.failed d

/-- A domain is to be on: one that waits to go off goes off first (R22, R184). -/
def Power.wantUp (p : Power) (d : Nat) : Power :=
  { p with upWait := if p.isReq d && !p.downWait.contains d then p.upWait else insertNat d p.upWait }

/-- A domain is to be off. -/
def Power.wantDown (p : Power) (d : Nat) : Power :=
  { p with upWait := p.upWait.filter (· != d), downWait := if p.isReq d then insertNat d p.downWait else p.downWait }

/-- A domain is to go off and come on again; one that is off comes on. -/
def Power.cycle (p : Power) (d : Nat) : Power :=
  { p with upWait := insertNat d p.upWait, downWait := if p.isReq d then insertNat d p.downWait else p.downWait }

/-- A domain is on, and nothing is to switch it. -/
def Power.settledOn (p : Power) (d : Nat) : Bool := p.isOn d && !p.downWait.contains d && !p.upWait.contains d

/-- Domains switching: PD_REQ and PD_ACK differ, or a power-up has not ended. -/
def Power.switching (p : Power) : Nat := ((List.range 118).filter fun d => p.isReq d != p.isAck d || (p.isReq d && !p.isOn d)).length

/-- The lowest domain whose request may be served: a power-up waits at level 2 and above, and until PD_ACK has fallen; every
power-down waits at level 5 (R394, R402, R404). The front end goes first (R391). -/
def Power.nextServed (p : Power) : Option Nat :=
  (117 :: List.range 117).find? fun d =>
    (p.upWait.contains d && !p.isAck d && p.level < 2) || (p.downWait.contains d && p.level < 5)

/-- Domain d may switch now. -/
def Power.mayServe (p : Power) (d : Nat) : Bool := p.nextServed == some d && p.switching < p.pdWave

/-- The block raises PD_REQ. -/
def execPdReqRaise (d : Nat) (s : State) : Host.Outcome State Fault Refusal :=
  s.onBlock fun b =>
    if b.power.mayServe d && b.power.upWait.contains d && !b.power.isReq d && !b.power.isAck d then
      b.modPower fun p =>
        { p with req := Tab.set false p.req d true, upWait := p.upWait.filter (· != d), reqAt := Tab.put p.reqAt d b.time.mclk }
    else b

/-- The lines that a cluster cache holds go with its power, unwritten. -/
def Block.clearCluster (b : Block) (cl : Nat) : Block :=
  b.modCoh fun c => { c with lines := c.lines.filter fun l => match l.agent with
    | .cluster _ k => k != cl
    | _ => true }

/-- A unit's state as its domain comes up or goes down (R81, R90, R394). -/
def Block.unitClear (b : Block) (d : Nat) : Block :=
  if d < 64 then b.modCore d Core.powerUp else if d < 72 then b.clearCluster (d - 64) else b

/-- PD_ACK rises: two clocks later the block sees it, 64 later it loads the repair entries, and then reset and isolation end (R394,
R452). How long the loading takes is a free value. -/
def execPdAckRise (d : Nat) (s : State) : Host.Outcome State Fault Refusal :=
  s.onBlock fun b =>
    let rising := b.power.isReq d && !b.power.isAck d && !b.power.isOn d
    let b := b.modPower fun p => { p with ack := Tab.set false p.ack d true }
    if rising then
      { b with draws := b.draws + 1 }.modPower fun p =>
        { p with upAt := Tab.put p.upAt d (b.time.mclk + 66 + Config.freeNat b.draws) }
    else b

/-- Reset and isolation of a domain end: it is on. -/
def Block.domainUp (b : Block) (d : Nat) : Block :=
  let b := ((b.unitClear d).loadRepairs (· == d)).modPower fun p =>
    { p with on := Tab.set false p.on d true, upAt := Tab.erase p.upAt d, onAt := Tab.put p.onAt d b.time.mclk }
  if 112 ≤ d && d < 116 then b.linkWake (d - 112) else if d == 116 then (b.linkWake 4).linkWake 5 else b

/-- Power-ups that end in this management clock. -/
def Block.powerTick (b : Block) : Block :=
  b.each ((b.power.upAt.filter fun x => x.2 ≤ b.time.mclk).map (·.1)) fun d b => b.domainUp d

/-- PD_ON: a domain that goes down counts as off when its PD_ACK falls (R394). -/
def Power.shownOn (p : Power) (d : Nat) : Bool := p.isOn d || (!p.isReq d && p.isAck d)

/-- A domain is isolated and PD_REQ falls. -/
def Block.powerDown (b : Block) (d : Nat) : Block :=
  ((b.unitClear d).dropRepairs d).modPower fun p =>
    { p with req := Tab.set false p.req d false, on := Tab.set false p.on d false, upAt := Tab.erase p.upAt d,
             downWait := p.downWait.filter (· != d) }

def execPdPowerDown (d : Nat) (s : State) : Host.Outcome State Fault Refusal :=
  s.onBlock fun b => if b.power.mayServe d && b.power.downWait.contains d then b.powerDown d else b

/-! ### Failures (R396) -/

/-- Start-up stops (R392). -/
def Block.startStops (b : Block) (fault : Nat) : Block := b.modStart fun t => { t with stage := 15, fault := fault }

/-- The slices that hold a core in a cluster. -/
def Block.slicesIn (b : Block) (cl : Nat) : List Nat :=
  b.live.filter fun n => (b.coresOf n).any fun c => c / 8 == cl

/-- A cluster cache or ring stop is lost: rung 3 on every slice with a core there, and the cluster is refused. -/
def Block.clusterFails (b : Block) (cl : Nat) : Block :=
  (b.each (b.slicesIn cl) fun n b => b.askSlice n 8).modLadder fun l => { l with refusedClusters := bvSet l.refusedClusters cl }

/-- A shim is lost. -/
def Block.shimFails (b : Block) (shim : Nat) : Block :=
  let g := (b.groupBehind shim).getD shim
  if b.start.commons.contains g then
    if b.start.stage == 4 then
      b.modParade fun p => { p with failedGroups := if p.failedGroups.contains g then p.failedGroups else p.failedGroups ++ [g] }
    else b.startStops 5
  else b.modLadder fun l => { l with retGroups := bvSet l.retGroups shim }

/-- The effect of a failed domain on its unit. -/
def Block.unitFails (b : Block) (d : Nat) : Block :=
  if d < 64 then
    let b := b.modLadder fun l => { l with retCores := bvSet l.retCores d }
    if (b.core d).owner == 0 then b else b.askSlice (b.core d).owner 8
  else if d < 80 then b.clusterFails (d % 8)
  else if d < 112 then b.shimFails (d - 80)
  else if d < 116 then b.linkLost (d - 112) .down
  else if d == 116 then
    let tags := (b.ports.tagPort.filter fun x => x.2 == 5).map (·.1)
    ((b.modLink 5 fun l => { l with st := .down, replay := [] }).each tags fun t b => b.endRefused t).linkLost 4 .down
  else if b.start.stage == 4 then b.askBlock 7
  else b.startStops 5

/-- A power-up that failed, or a rail that fell while PD_REQ was held. -/
def Block.domainFails (b : Block) (d : Nat) : Block :=
  (((b.powerDown d).modPower fun p => { p with failed := Tab.set false p.failed d true, upWait := p.upWait.filter (· != d) }).tallyUp 0x8010
    9).unitFails d

/-- The retirement list in the flash takes up what the block has retired, in the copy not in force (R330, R387). -/
def Flash.retire (f : Flash) (l : Ladder) : Flash :=
  let r := f.retired
  let r' := { r with cores := r.cores ||| l.retCores, groups := r.groups ||| l.retGroups, ways := r.ways ||| l.usedWays
                     banks := r.banks ||| l.usedBanks }
  if r' == r then f
  else
    match nextCopy RetCopy.seq f.retA f.retB with
    | (true, q) => { f with retB := some { r' with seq := q } }
    | (false, q) => { f with retA := some { r' with seq := q } }

/-- A command that may retire units: what it retires is stored in the flash. -/
def State.onRetire (s : State) (f : Block → Block) : Host.Outcome State Fault Refusal :=
  s.onFlash fun fl b => (fl.retire (f b).ladder, f b)

def execPdAckFall (d : Nat) (s : State) : Host.Outcome State Fault Refusal :=
  s.onRetire fun b =>
    let held := b.power.isReq d && b.power.isAck d
    let b := b.modPower fun p => { p with ack := Tab.set false p.ack d false }
    if held then b.domainFails d else b

/-- PD_TIMEOUT has passed since PD_REQ rose (R396). -/
def Power.ackLate (p : Power) (d mclk : Nat) : Bool := Tab.get 0 p.reqAt d + p.pdTimeout * usClk ≤ mclk

def execPdTimeout (d : Nat) (s : State) : Host.Outcome State Fault Refusal :=
  s.onRetire fun b => if b.power.isReq d && !b.power.isAck d && b.power.ackLate d b.time.mclk then b.domainFails d else b

/-! ### Shedding (R399 to R405) -/

/-- The droop depth of monitor i in mV (R399). -/
def Block.depth (b : Block) (i : Nat) : Nat :=
  5 * (min 63 (max 0 ((b.power.codes.getD i 0 : Int) + b.start.droopCal.getD i 0))).toNat

/-- The block's droop D: the largest depth among the enabled monitors. -/
def Block.droop (b : Block) : Nat :=
  ((List.range 8).filter fun i => b.power.dmEnable.getLsbD i).foldl (fun m i => max m (b.depth i)) 0

/-- The highest level whose entry condition holds, with its cause (R400). -/
def Block.entryLevel (b : Block) : Nat × Nat :=
  let p := b.power
  let byDroop := ((List.range 5).filter fun i => p.shedMv.getD i 0 ≤ b.droop).foldl (fun m i => max m (i + 1)) 0
  if p.shutdown then (5, 3)
  else if byDroop == 5 then (5, 0)
  else if p.warnHalted then (5, 2)
  else if byDroop == 4 then (4, 0)
  else if p.warn then (4, 1)
  else (byDroop, 0)

/-- The exit condition of level l holds (R401). -/
def Block.exitHolds (b : Block) (l : Nat) : Bool :=
  let p := b.power
  1 ≤ l && b.droop + p.hystMv < p.shedMv.getD (l - 1) 0 && !(l == 4 && p.warn) && !(l == 5 && (p.warnHalted || p.shutdown))

/-- Clocks of one resident tile of an op, at the level in force (R58, R402). -/
def Block.tileClocks (b : Block) (o : EOp) : Nat := max (o.onRows.length * b.rowClocks o) (loadClocks (dRfmt o.desc))

/-- The end of the rows of a running op with a scratchpad or window operand moves. -/
def Engine.retime (e : Engine) (f : EOp → Nat → Nat) : Engine :=
  { e with active := e.active.map fun o =>
      if dOpcode o.desc == 1 && !dRsrc o.desc && (o.phase == .running || o.phase == .baseDone) then
        { o with baseAt := f o (o.baseAt + 1 - dLatency o.desc) + dLatency o.desc - 1 }
      else o }

def Block.retime (b : Block) (f : EOp → Nat → Nat) : Block :=
  b.each (Tab.keys b.cores) fun c b => b.each (List.range 4) fun e b => b.modEng c e fun x => x.retime f

/-- What a change of level does to the rows of ops under way (R402): alternate clocks at level 1 and above for bulk sources, and no
further row at level 4 and above; the rows left go on at the new rate. `b'` is the block at the new level. -/
def Block.rowsAt (b b' : Block) : Block :=
  let clk := b.time.clk
  let b2 :=
    if (b.power.level == 0) == (b'.power.level == 0) then b'
    else b'.retime fun o rows => if rows ≤ clk then rows else clk + ceilDiv ((rows - clk) * b'.tileClocks o) (max 1 (b.tileClocks o))
  if (4 ≤ b.power.level) == (4 ≤ b'.power.level : Bool) then b2
  else if b.power.level < 4 then b2.modPower fun p => { p with parkedAt := some clk }
  else
    match b2.power.parkedAt with
    | none => b2
    | some t => (b2.retime fun _ rows => if rows ≤ t then rows else rows + (clk - t)).modPower fun p => { p with parkedAt := none }

/-- A change of level: stamp, registers, interrupts, tally and event, and what the last level does (R126, R348, R402, R405). -/
def Block.setLevel (b : Block) (l : Nat) (cause : Option Nat) : Block :=
  let old := b.power.level
  let mgmt := !b.start.released || old == 5 || l == 5
  let t : Dword := if mgmt then b.time.mgmtNow else b.time.now
  let b := b.rowsAt (b.modPower fun p =>
    { p with level := l, cause := cause.getD p.cause, mgmtStamp := mgmt, time := t, changes := min 65535 (p.changes + 1)
             exitFrom := none })
  let b := (List.range 5).foldl (fun b i => if old < i + 1 && i + 1 ≤ l then b.tallyUp 0x8010 (4 + i) else b) b
  let b := (b.irqAll 8).report 3 0xFF (l + 256 * b.power.cause) 0
  if l == 5 && old != 5 then b.paradeStop.each b.live fun n b => b.abandonCopies n
  else if l != 5 && old == 5 then b.paradeResume
  else b

/-- The levels are judged again: a rise at once, and the start of the exit condition noted (R400, R401). -/
def Block.judge (b : Block) : Block :=
  if b.start.stage == 0 then b
  else
    let (l, cause) := b.entryLevel
    let b := if b.power.level < l then b.setLevel l (some cause) else b
    b.modPower fun p => { p with exitFrom := if b.exitHolds p.level then some (p.exitFrom.getD b.time.mclk) else none }

/-- POWER_WARN as it is seen in a management clock. -/
def Power.sees (p : Power) (warn : Bool) (mclk : Nat) : Power :=
  if warn == p.warn then p else { p with warn := warn, warnAt := mclk, warnHalted := false }

def execDroopSample (codes : List Nat) (warn : Bool) (s : State) : Host.Outcome State Fault Refusal :=
  s.onBlock fun b =>
    let b := b.modPower fun p => { p.sees warn b.time.mclk with codes := (List.range 8).map fun i => codes.getD i 0 % 64 }
    (b.modPower fun p => { p with maxDroop := (List.range 8).map fun i => max (p.maxDroop.getD i 0) (b.depth i) }).judge

def execPowerWarnRise (s : State) : Host.Outcome State Fault Refusal :=
  s.onBlock fun b => (b.modPower fun p => p.sees true b.time.mclk).judge

/-- POWER_WARN has been asserted for WARN_HALT. -/
def execWarnHaltExpiry (s : State) : Host.Outcome State Fault Refusal :=
  s.onBlock fun b =>
    if b.power.warn && b.power.warnAt + b.power.warnHalt * usClk ≤ b.time.mclk then (b.modPower fun p => { p with warnHalted := true }).judge
    else b

/-- The exit condition has held for EXIT_HOLD. -/
def Power.exitDue (p : Power) (mclk : Nat) : Bool := (p.exitFrom.map fun t => decide (t + p.exitHold * usClk ≤ mclk)).getD false

/-- The exit condition has held for EXIT_HOLD: one level down. Where the level was 5 the compute-clock gates open. -/
def execExitHoldExpiry (s : State) : Host.Outcome State Fault Refusal :=
  s.onBlock fun b =>
    if b.power.exitDue b.time.mclk && 1 ≤ b.power.level && !b.power.shutdown then
      let b := if b.power.level == 5 then b.gatesOpen else b
      (b.setLevel (b.power.level - 1) none).judge
    else b

/-! ### Shutdown (R398) -/

/-- A save of the tallies is triggered; triggers that meet merge (R429). -/
def Block.saveDue (b : Block) : Block := { b with tally := { b.tally with savePending := true } }

def execShutdown (eid : Nat) (tag : Byte) (value : Byte) (s : State) : Host.Outcome State Fault Refusal :=
  s.onBlock fun b => b.dictWrite eid tag 0x7003 1 [value] fun b =>
    if value != 1 then .refused 1 b
    else if b.power.shutdown then .done b
    else
      let b := (b.modPower fun p => { p with shutdown := true }).judge
      .done (b.each b.live fun n b => b.abandonCopies n).saveDue

/-- The tallies and the retirement list are in the flash. -/
def execShutdownReady (s : State) : Host.Outcome State Fault Refusal :=
  s.onFlash fun f b =>
    if b.power.shutdown && b.tally.saving.isNone && !b.tally.savePending then
      (f.retire b.ladder, b.modPower fun p => { p with shutdownReady := true })
    else (f, b)

end Sys2Proof.Machine
end

