-- ==== Sys2Proof/Machine/Instances.lean ====
section
/-! DEFINITION. Virtual instances: activation, binding, reset and removal with work in flight (R300 to R307). -/

namespace Sys2Proof.Machine

/-- The slice whose VI_RANGE holds v (R300). -/
def Block.viSlice (b : Block) (v : Nat) : Option Nat :=
  b.live.find? fun n =>
    let r := (b.slice n).viRange.toNat
    fld r 26 16 ≤ v && v < fld r 26 16 + fld r 11 0

/-- The virtual instances in a slice's range that are listed. -/
def Block.visOf (b : Block) (n : Nat) : List Nat := (Tab.keys b.vis).filter fun v => b.viSlice v == some n

/-- The queues bound to v. -/
def Block.boundTo (b : Block) (v : Nat) : List Nat := (Tab.keys b.queues).filter fun q => (b.queue q).vi == some v

/-- The contexts of slice n that bound queues name, each once. -/
def Block.viCtxs (b : Block) (v n : Nat) : List Nat :=
  (((b.boundTo v).filter fun q => (b.queue q).named).map fun q => (b.queue q).ctx).dedup.filter fun c =>
    (b.ctx c).slice == n && (b.ctx c).st != .free

/-- A write to a control page counts only while its v lies in a slice's range (R301). -/
def Block.onVi (b : Block) (v : Nat) (f : Nat → Block → Block) : Block :=
  match b.viSlice v with
  | none => b
  | some n => f n b

/-- An operation of ZH_VI_CTRL, ignored while GO reads 1: its RESULT where it ends at once. -/
def Block.viOp (b : Block) (v op : Nat) (f : Nat → Block → Block × Nat) : Block :=
  b.onVi v fun n b =>
    if (b.vi v).go then b
    else
      let (b, r) := f n b
      b.modVi v fun x => { x with op := op, result := r }

/-- ACTIVATE leaves GEN as it stands (R302). -/
def execViActivate (v : Nat) (s : State) : Host.Outcome State Fault Refusal :=
  s.onHost fun b => b.viOp v 1 fun _ b =>
    if (b.vi v).st != .free then (b, 2)
    else if b.vis.any fun x => x.1 != v && x.2.st == .active && x.2.pasid == (b.vi v).pasid then (b, 3)
    else (b.modVi v fun x => { x with st := .active }, 0)

/-- Steps 1 to 3 of R305: the new generation, the bound queues off, and the contexts that they name reset; step 4 follows when those
resets have ended. -/
def Block.viStart (b : Block) (v n : Nat) (st : ViSt) : Block :=
  let b := b.modVi v fun x => { x with st := st, gen := x.gen + 1, step := 3, ctxs := b.viCtxs v n }
  let b := b.each (b.boundTo v) fun q b => b.modQueue q Queue.off
  (b.each ((b.vi v).ctxs.filter fun c => (b.ctx c).st != .resetting) fun c b => b.resetStart c cCancelled).viInval v

/-- An action on slice n is in progress, one on every slice included (R307). -/
def Block.inAction (b : Block) (n : Nat) : Bool := (b.slice n).st == .changing || b.recon.run.any fun r => r.req.slice == 0

/-- RESET or REMOVE; it waits for an action on the slice to end (R307). -/
def Block.viBegin (b : Block) (v : Nat) (st : ViSt) (n : Nat) : Block × Nat :=
  if (b.vi v).st != .active then (b, 2)
  else
    let b := b.modVi v fun x => { x with go := true }
    (if b.inAction n then b else b.viStart v n st, 0)

def execViReset (v : Nat) (s : State) : Host.Outcome State Fault Refusal :=
  s.onHost fun b => b.viOp v 2 fun n b => b.viBegin v .resetting n

def execViRemove (v : Nat) (s : State) : Host.Outcome State Fault Refusal :=
  s.onHost fun b => b.viOp v 3 fun n b => b.viBegin v .removing n

/-- The operations that waited for an action on slice n to end (R307). -/
def Block.viResume (b : Block) (n : Nat) : Block :=
  b.each ((b.visOf n).filter fun v => (b.vi v).go && (b.vi v).st == .active) fun v b =>
    b.viStart v n (if (b.vi v).op == 3 then .removing else .resetting)

/-- An R305 of the slice is in progress. -/
def Block.viBusy (b : Block) (n : Nat) : Bool := (b.visOf n).any fun v => (b.vi v).st == .resetting || (b.vi v).st == .removing

/-- Steps 6 and 7 of R305. -/
def Block.viEnd (b : Block) (v : Nat) : Block :=
  let gone := (b.vi v).st == .removing
  let b := b.each (b.boundTo v) fun q b => b.modQueue q fun x =>
    { x with tail := 0, head := 0, done := 0, pending := false, inline := [], cmds := [], vi := if gone then none else x.vi }
  b.modVi v fun x =>
    { x with st := if gone then .free else .active, qcount := if gone then 0 else x.qcount, go := false, result := 0, step := 0, ctxs := [] }

/-- Step 4 has ended, and no request of the old generation waits at the host port: step 5 has ended. -/
def Block.viDrained (b : Block) (v n : Nat) : Bool :=
  (b.vi v).step == 4 && (b.slice n).xlat.invals.all (fun i => i.use != .vi v) &&
    b.ports.waiting.all fun x => x.gen.all fun g => g.1 != v || g.2 == (b.vi v).gen.toNat

def execViDrainComplete (v : Nat) (s : State) : Host.Outcome State Fault Refusal :=
  s.onCompute fun b => b.onVi v fun n b =>
    if ((b.vi v).st == .resetting || (b.vi v).st == .removing) && b.viDrained v n then b.viEnd v else b

/-- A bind or unbind ends at once with a RESULT (R303). -/
def Block.viQueue (b : Block) (v q : Nat) (unbind : Bool) (f : Block → Block × Nat) : Block :=
  b.onVi v fun n b =>
    let (b, r) := if b.queueOwner q != n then (b, 1) else f b
    b.modVi v fun x => { x with qbUnbind := unbind, qbQueue := q, qbResult := r }

def execViBind (v q : Nat) (s : State) : Host.Outcome State Fault Refusal :=
  s.onHost fun b => b.viQueue v q false fun b =>
    if (b.queue q).enable then (b, 2)
    else if (b.queue q).vi.isSome && (b.queue q).vi != some v then (b, 3)
    else if (b.vi v).st != .active then (b, 4)
    else if (b.queue q).vi == some v then (b, 0)
    else ((b.modQueue q fun x => { x with vi := some v }).modVi v fun x => { x with qcount := x.qcount + 1 }, 0)

/-- A queue leaves its virtual instance. -/
def Block.unbindQueue (b : Block) (q : Nat) : Block :=
  match (b.queue q).vi with
  | none => b
  | some v => (b.modQueue q fun x => { x with vi := none }).modVi v fun x => { x with qcount := x.qcount - 1 }

def execViUnbind (v q : Nat) (s : State) : Host.Outcome State Fault Refusal :=
  s.onHost fun b => b.viQueue v q true fun b =>
    if (b.queue q).enable || (b.queue q).cmds.any fun c => c.started && !c.completed then (b, 2)
    else if (b.queue q).vi != some v then (b, 3)
    else if (b.vi v).st != .active then (b, 4)
    else (b.unbindQueue q, 0)

/-- A write is ignored unless STATE is FREE. -/
def execZhViPasidWrite (v : Nat) (value : Word) (s : State) : Host.Outcome State Fault Refusal :=
  s.onHost fun b => b.onVi v fun _ b =>
    if (b.vi v).st == .free then b.modVi v fun x => { x with pasid := fld value.toNat 19 0 } else b

end Sys2Proof.Machine
end

