-- ==== Sys2Proof/Machine/Requests.lean ====
section
/-! DEFINITION. Slice requests: the staged entries, the checks at the commit, and what an accepted request sets (R178 to R183,
R360), the slice map (R188), and when an action may begin (R181, R182, R307, R316). -/

namespace Sys2Proof.Machine

/-! ### Holdings as they will stand (R179, R180) -/

/-- The holdings of slice m after every earlier accepted request; none where it will not exist. Groups still being scrubbed
for it count as held. -/
def Block.projected (b : Block) (m : Nat) : Option Holdings :=
  let x := b.slice m
  let now : Option Holdings := if x.st == .none then none else some { x.hold with groups := x.hold.groups ||| x.groupsPending }
  ((b.recon.run.toList.map (·.req)) ++ b.recon.pend).foldl (fun h r => r.apply m h) now

/-- What the other slices will hold. -/
def Block.others (b : Block) (n : Nat) : List Holdings := ((List.range 29).filter fun m => 1 ≤ m && m != n).filterMap b.projected

def clusterCores (h : Holdings) (cl : Nat) : Nat := fld h.cores.toNat (8 * cl + 7) (8 * cl)
def clusterWays (h : Holdings) (cl : Nat) : Nat := fld h.ways.toNat (16 * cl + 15) (16 * cl)
def reservOf (h : Holdings) (i : Nat) : Nat := fld h.reserv.toNat (8 * i + 7) (8 * i)

/-- A core may be named: its cluster is enabled and not refused, and it is not retired (R180, R330, R396). -/
def Block.coreUsable (b : Block) (c : Nat) : Bool :=
  b.start.clusterEn.getLsbD (c / 8) && !b.ladder.refusedClusters.getLsbD (c / 8) && !b.ladder.retCores.getLsbD c

/-- A group has memory: its shim has and is not retired, and no other logical group has taken it (R330, R333). -/
def Block.groupUsable (b : Block) (g : Nat) : Bool :=
  let shim := b.recon.shimOf g
  b.groupBytes g != 0 && !b.ladder.retGroups.getLsbD shim && b.recon.shims.all fun x => x.1 == g || x.2 != shim + 1

/-- The most positions of a path that tenants may hold in all (R272). -/
def frameLimit (i : Nat) : Nat := if 1 ≤ i && i ≤ 4 then 62 else 60

def Block.reservBad (b : Block) (n : Nat) (h : Holdings) : Bool :=
  reservOf h 0 == 0 ||
    (List.range 7).any fun i => frameLimit i < ((b.others n).map fun o => reservOf o i).foldl (· + ·) (reservOf h i)

/-- Two ranges meet. -/
def rangesMeet (a n c m : Nat) : Bool := a < c + m && c < a + n

/-- Reasons 3 to 12 and 14 of R180 for the new holdings of a CREATE or RESIZE (0: none). DESIGN CHOICE: a queue count of 0 is
refused with reason 9, and a context or fence quota of 0 with reason 10 (notes/assumptions/115.md). -/
def Block.holdReason (b : Block) (n : Nat) (h : Holdings) : Nat :=
  let o := b.others n
  let sum (f : Holdings → Nat) : Nat := (o.map f).foldl (· + ·) (f h)
  if (setBits h.cores).any fun c => !b.coreUsable c || o.any fun x => x.cores.getLsbD c then 3
  else if (setBits h.groups).any fun g => b.start.commons.contains g || !b.groupUsable g || o.any fun x => x.groups.getLsbD g then 4
  else if h.cores == 0 || h.groups == 0 then 5
  else if (List.range 8).any fun cl => (clusterCores h cl != 0) != (clusterWays h cl != 0) then 6
  else if o.any fun x => x.ways &&& h.ways != 0 then 7
  else if h.ccache == 0 || 256 < sum (·.ccache) then 8
  else if h.qCount == 0 || 4096 < h.qFirst + h.qCount || o.any fun x => rangesMeet x.qFirst x.qCount h.qFirst h.qCount then 9
  else if h.contexts == 0 || h.fences == 0 || 2 ^ 20 < sum (·.contexts) || 65536 < sum (·.fences) then 10
  else if 50 < h.rtShare then 11
  else if b.reservBad n h then 12
  else if reservOf h 7 != 0 then 14
  else 0

/-- Unsigned code may run in slice n (R355, R367, R368). -/
def Block.unsignedOk (b : Block) (n : Nat) : Bool :=
  b.life.lcs == 1 || b.life.lcs == 2 || b.life.lcs == 6 ||
    (b.life.debugOpen && b.life.rights.getLsbD 1 && b.life.dslices.getLsbD n && (b.slice n).sec.consent)

/-- The image's SIG_STATE is unsigned where unsigned code may not run (R180 reason 13, R365); an image that cannot be read is
left to the action. -/
def Block.sigForbidden (b : Block) (n a : Nat) : Bool :=
  b.ownRange n a 320 && (b.rdOwn n (a + 2) 1).getD 0 0 == 0 && !b.unsignedOk n

/-- Accepted requests that count toward the 8 of R179. -/
def Recon.counted (r : Recon) : Nat := (r.pend.filter fun x => !x.ahead).length

def actionOf : Nat → Option Action
  | 1 => some .create
  | 2 => some .resize
  | 3 => some .remove
  | 4 => some .firmware
  | _ => none

/-- The first reason of R180 that applies to a request (0: none); the instance refuses a CREATE while PARADE_STATE is FAULT
(R110), as reason 1. -/
def Block.reqReason (b : Block) (act n : Nat) (h : Holdings) (fw : Dword) : Nat :=
  let exist := (b.projected n).isSome
  match actionOf act with
  | none => 1
  | some a =>
    if b.start.stage != 4 || 8 ≤ b.recon.counted || (a == .create && b.parade.st == .fault) then 1
    else if n == 0 || b.start.maxSlices < n || (a == .create) == exist then 2
    else
      match a with
      | .create => b.holdReason n h
      | .resize => b.holdReason n h
      | .remove => 0
      | .firmware => if b.sigForbidden n (dfld fw 56 0) then 13 else 0

/-! ### The slice map (R188) -/

def Block.mapHeader (b : Block) (n : Nat) : Nat := (b.slice n).pendingStride.toNat * 65536 + (b.coresOf n).length

/-- The header of the slice map is written. -/
def Block.writeHeader (b : Block) (n : Nat) : Block :=
  if (b.slice n).mapAddr == 0 then b else b.wrOwn n (b.slice n).mapAddr.toNat (toLe 8 (b.mapHeader n))

/-- The whole slice map is written, each entry as one access. -/
def Block.writeMap (b : Block) (n : Nat) : Block :=
  let a := (b.slice n).mapAddr.toNat
  if a == 0 then b
  else
    (List.range 64).foldl (fun b' k =>
      let e := match (b.coresOf n)[k]? with
        | none => 0
        | some c => (b.core c).roleGen.toNat * 2 ^ 32 + b.zhCore c
      b'.wrOwn n (a + 8 + 8 * k) (toLe 8 e)) (b.writeHeader n)

def execSliceMapAddr (slice eid : Nat) (tag : Byte) (value : Dword) (s : State) : Host.Outcome State Fault Refusal :=
  s.onBlock fun b => b.dictWrite eid tag (0x2100 + slice) 0x0C (toLe 8 value.toNat) fun b =>
    let a := value.toNat
    if a == 0 then .done (b.modSlice slice fun x => { x with mapAddr := 0 })
    else if a % 128 == 0 && a < 2 ^ 57 && b.ownRange slice a 520 then
      .done ((b.modSlice slice fun x => { x with mapAddr := value }).writeMap slice)
    else .refused 1 b

/-! ### The commit (R179, R183) -/

/-- The first stride at or after `s` in which a window descriptor is active (R106, R181). -/
def nextActive (w : Dword) (s : Nat) : Nat :=
  let p := max 1 (winPeriod w)
  s + (winOffset w + p - s % p) % p

/-- PENDING_STRIDE of slice n: the stride of the first accepted request that names it. -/
def Block.setPending (b : Block) (n : Nat) : Block :=
  let s := ((b.recon.pend.find? fun r => r.slice == n && !r.ahead).map (·.stride)).getD 0
  (b.modSlice n fun x => { x with pendingStride := BitVec.ofNat 64 s }).writeHeader n

/-- An accepted request. -/
def Block.acceptReq (b : Block) (a : Action) (n : Nat) (h : Holdings) (fw : Dword) : Block :=
  let stride := nextActive b.recon.window (dfld b.stamp 63 16 + b.recon.notice)
  let ticket := (b.recon.ticket + 1) % 65536
  let b := b.modRecon fun r =>
    { r with ticket := ticket, status := 1, refusal := 0, actionStride := stride
             pend := r.pend ++ [{ act := a, slice := n, hold := h, fw := fw, ticket := ticket, stride := stride, ahead := false,
                                  subst := none }] }
  let b := if a == .firmware then b.modSec n fun x => { x with fwAddr := some fw } else b
  b.setPending n

/-- The commit of the staged request. -/
def Block.commitStaged (b : Block) : WriteRes :=
  let r := b.recon
  match b.reqReason r.reqAction r.reqSlice r.reqHold r.reqFw, actionOf r.reqAction with
  | 0, some a => .done (b.acceptReq a r.reqSlice r.reqHold r.reqFw)
  | x, _ => .refused x (b.modRecon fun r => { r with status := 2, refusal := x })

/-- A permanent transition is in progress. -/
def Life.inTransition (l : Life) : Bool := l.burn.contains .restart

/-- A commit with what it stages first; during a life-cycle transition it is answered, and checked, when that ends (R360). -/
def Block.commitReq (b : Block) (eid : Nat) (tag : Byte) (stage : Recon → Recon) : Block :=
  if !b.life.inTransition || (b.writeCheck eid 0x2001 0x10 [1]).isSome then
    b.dictWrite eid tag 0x2001 0x10 [1] fun b => (b.modRecon stage).commitStaged
  else b.modRecon fun r => { stage r with heldCommits := r.heldCommits ++ [(eid, tag)] }

/-- The commits that waited for a transition (R360). -/
def Block.releaseCommits (b : Block) : Block :=
  let l := b.recon.heldCommits
  l.foldl (fun b x => b.dictWrite x.1 x.2 0x2001 0x10 [1] Block.commitStaged) (b.modRecon fun r => { r with heldCommits := [] })

def execReqCommit (eid : Nat) (tag : Byte) (value : Byte) (s : State) : Host.Outcome State Fault Refusal :=
  s.onBlock fun b =>
    if value == 1 then b.commitReq eid tag id
    else b.dictWrite eid tag 0x2001 0x10 [value] fun b => .refused 1 b

def execCreate (eid : Nat) (tag : Byte) (slice : Nat) (h : Holdings) (s : State) : Host.Outcome State Fault Refusal :=
  s.onBlock fun b => b.commitReq eid tag fun r => { r with reqAction := 1, reqSlice := slice, reqHold := h }

def execResize (eid : Nat) (tag : Byte) (slice : Nat) (h : Holdings) (s : State) : Host.Outcome State Fault Refusal :=
  s.onBlock fun b => b.commitReq eid tag fun r => { r with reqAction := 2, reqSlice := slice, reqHold := h }

def execRemove (eid : Nat) (tag : Byte) (slice : Nat) (s : State) : Host.Outcome State Fault Refusal :=
  s.onBlock fun b => b.commitReq eid tag fun r => { r with reqAction := 3, reqSlice := slice }

def execFirmware (eid : Nat) (tag : Byte) (slice : Nat) (addr : Dword) (s : State) : Host.Outcome State Fault Refusal :=
  s.onBlock fun b => b.commitReq eid tag fun r => { r with reqAction := 4, reqSlice := slice, reqFw := addr }

/-! ### A rung in progress (R182, R315, R316) -/

/-- A context of the slice is in reset. -/
def Block.resetting (b : Block) (n : Nat) : Bool := (b.ctxsOf n).any fun c => (b.ctx c).st == .resetting

/-- A domain of the slice's cores is not on, or still has to go off for its power cycle, and has not failed. -/
def Block.coresOff (b : Block) (n : Nat) : Bool :=
  (b.coresOf n).any fun c => (!b.power.isOn c || b.power.downWait.contains c) && !b.power.isFailed c

/-- The last rung begun on slice n has done its steps. -/
def Block.rungDone (b : Block) (n : Nat) : Bool :=
  match (b.slice n).ladder.busy with
  | none => true
  | some (2, _) => (b.slice n).ladder.sampling.isNone && (b.slice n).ladder.engRung.isNone
  | some _ => (b.slice n).ladder.sampling.isNone && !b.resetting n && !b.coresOff n

/-- A rung, its replay included, is in progress on slice n (R316). -/
def Block.rungOn (b : Block) (n : Nat) : Bool :=
  let l := (b.slice n).ladder
  !b.rungDone n || l.replay.isSome || !l.waitingReplays.isEmpty || b.ladder.dueUnit.any (fun u => (b.core u.1).owner == n) ||
    b.ladder.dueSlice.any (fun u => u.1 == n) || b.ladder.dueBlock.isSome || b.ladder.blockBusy.isSome

end Sys2Proof.Machine
end

