-- ==== Sys2Proof/Machine/Slices.lean ====
section
/-! DEFINITION. Actions on slices: when one begins, its stages, the scrub of a group, firmware and Farrier's substitutions
(R181 to R190, R223, R229, R230, R273, R333, R364, R365, R412). -/

namespace Sys2Proof.Machine

def cSubstituted : Nat := 0x36

/-! ### Stage 1: stop -/

/-- Everything that runs or waits on a core ends with a code; its launches' commands complete. -/
def Block.coreStops (b : Block) (core code : Nat) : Block :=
  let b := b.each (List.range 4) fun e b => (b.dropOps core e code fun _ => true).dropArrivals core e code fun _ => true
  let b := (b.dropProgs core code fun _ => true).endDmas code fun d => d.agent == core
  let b := b.each (List.range 8) fun u b => b.dropLines core u
  b.modAdapter core fun a => { a with steps := [], fires := [] }

/-- The launches of a core are taken from it. -/
def Block.launchesEnd (b : Block) (core code : Nat) : Block :=
  let h := (b.core core).hart
  let b := (h.launch.toList ++ h.waitingLaunches).foldl (fun b l => (b.ctxCode l.ctx code).cmdDone l.queue l.entry) b
  b.modHart core fun h => { h with launch := none, waitingLaunches := [] }

def Hart.halt (h : Hart) : Hart := { h with halted := true, stall := none, reservation := none }

/-- A core leaves slice n: owner tag 0 and a new role generation (R184, R189). -/
def Block.coreLeaves (b : Block) (n core : Nat) : Block :=
  let b := (b.coreStops core cReclaimed).launchesEnd core cReclaimed
  let b := b.each (b.queuesOf n) fun q b => b.modQueue q fun x =>
    { x with cmds := x.cmds.map fun c => { c with tickets := c.tickets.filter fun t => t.1 != core } }
  b.modCore core fun x => { x with hart := x.hart.halt, owner := 0, roleGen := x.roleGen + 1, place := none }

/-- A launch whose queue is gone leaves its hart. -/
def Hart.dropQueue (h : Hart) (q : Nat) : Hart :=
  let h := { h with waitingLaunches := h.waitingLaunches.filter fun l => l.queue != q }
  if h.launchQ == some q then h.endLaunch else h

/-- A queue that the slice loses: its entries are dropped with RECLAIMED, and what it started ends so. -/
def Block.queueStops (b : Block) (n q : Nat) : Block :=
  let x := b.queue q
  let b := if x.head != x.tail || !x.cmds.isEmpty || !x.inline.isEmpty then b.ctxCode x.ctx cReclaimed else b
  let b := b.endDmas cReclaimed fun d => d.queue == q
  let b := b.each (b.coresOf n) fun core b =>
    (b.each (List.range 4) fun e b => b.dropArrivals core e cReclaimed fun p => match p.issuer with
      | .queue q' _ _ => q' == q
      | .hart _ => false).modHart core fun h => h.dropQueue q
  (b.modQueue q fun x => { x.stop.off with inline := [], pending := false }).dropGrant n [q]

/-- The queue is the slice's no more, and no grant of it stands. -/
def Block.queueGoes (b : Block) (q : Nat) : Block :=
  let b := (b.unbindQueue q).modSlice (b.queueOwner q) fun x =>
    if (x.arb.granted.map (·.1)) == some q then { x with arb := { x.arb with granted := none } } else x
  { b with queues := Tab.erase b.queues q, recon := { b.recon with queueOwner := Tab.erase b.recon.queueOwner q } }

/-- The virtual instance is in an R305 of its own. -/
def Block.viMoves (b : Block) (v : Nat) : Bool := (b.vi v).st == .resetting || (b.vi v).st == .removing

/-- Every virtual instance of a removed slice goes through REMOVE (R300, R305). -/
def Block.visLeave (b : Block) (n : Nat) : Block :=
  b.each ((b.visOf n).filter fun v => (b.vi v).st == .active) fun v b =>
    (b.modVi v fun x => { x with op := 3, go := true }).viStart v n .removing

/-- Queues that leave in stage 1: one bound to a virtual instance that is being removed goes when that has ended. -/
def Block.queuesLeave (b : Block) (n : Nat) (qs : List Nat) : Block :=
  b.each (qs.filter fun q => b.queueOwner q == n && !((b.queue q).vi.any b.viMoves)) fun q b => b.queueGoes q

/-- Contexts of the slice outside its range, which the action frees (R230). -/
def Block.ctxsOut (b : Block) (n : Nat) : List Nat := (b.ctxsOf n).filter fun c => !b.ctxInRange n c

/-- Quotas that go down do so at once: contexts above the new end are reset, fences leave (R230, R254). -/
def Block.quotasFall (b : Block) (n : Nat) (h : Holdings) : Block :=
  let old := (b.slice n).ctxr
  let b := b.modCtxr n fun r => { r with count := min r.count h.contexts, fenceCount := min r.fenceCount h.fences }
  let b := { b with fences := b.fences.filter fun x => !(old.fenceFirst + min old.fenceCount h.fences ≤ x.1 &&
    x.1 < old.fenceFirst + old.fenceCount) }
  b.each ((b.ctxsOut n).filter fun c => (b.ctx c).st != .resetting) fun c b => b.resetStart c cReclaimed

def Block.stopStage (b : Block) (r : Running) : Block :=
  let n := r.req.slice
  let b := b.abandonCopies n
  match r.req.subst with
  | some (true, core, _) => (b.coreStops core cSubstituted).modHart core Hart.halt
  | some (false, _, _) => b
  | none =>
    if r.isFirmware then b.haltAll n
    else
      let b := b.each r.coresOut fun c b => b.coreLeaves n c
      let b := b.each r.queuesOut fun q b => b.queueStops n q
      let b := (if r.isRemove then b.visLeave n else b).queuesLeave n r.queuesOut
      b.quotasFall n r.target

/-- A context above the new end is free: RECLAIMED, and no queue that names it runs. -/
def Block.ctxLeaves (b : Block) (c : Nat) : Block :=
  let b := ((b.modCtx c fun x => { x with toSuspect := false }).resetEnd c).ctxCode c cReclaimed
  ((b.teardownFrees (b.ctx c).slice c).stopQueues c |>.setCtxSt c .free).modCtx c fun x => { x with cached := none, pinned := false }

/-! ### Stage 2: write back, and the firmware of R190 -/

/-- The lines of a cluster cache of slice n, in the ways chosen, go to memory and leave it (R90). -/
def Block.flushCluster (b : Block) (n cl : Nat) (way : Nat → Bool) : Block :=
  let ls := b.coh.lines.filter fun l => l.agent == .cluster n cl && way l.way
  let b := ls.foldl (fun b l => (if l.st == .m then b.storeLine l.line l.key l.data else b).dropCopy l.agent l.line) b
  b.modCoh fun c => { c with filter := c.filter.filter fun x => !(ls.any fun l => l.line == x.1) || c.lines.any fun l => l.line == x.1 }

/-- Data caches of cores give their lines back; the data stands in their cluster caches. -/
def Block.dropDcache (b : Block) (cores : List Nat) : Block :=
  (b.each cores fun core b => b.modHart core fun h => { h with reservation := none }).modCoh fun c =>
    { c with dcache := c.dcache.filter fun x => !cores.contains x.1 }

/-- A slice firmware image as read: its 320-byte header and its body (R364). -/
def Block.firmwareAt (b : Block) (n a : Nat) : List Byte × List Byte :=
  let h := b.rdOwn n a 320
  let len := leNat ((h.drop 8).take 8)
  (h, if 4 ≤ len && len ≤ 262144 && len % 4 == 0 && b.ownRange n a (320 + len) then b.rdOwn n (a + 320) len else [])

def vendorKey (fuse : BitVec 4096) : BitVec 384 := fuse.extractLsb' 608 384
def integratorKey (fuse : BitVec 4096) : BitVec 384 := fuse.extractLsb' 992 384

/-- A signature of the fuse keys: the key's digest, and the signature over the bytes (R365). -/
def signedBy (fuse : BitVec 4096) (state : Nat) (key bytes sig : List Byte) : Bool :=
  (state == 1 || state == 2) && Config.sha384 key == (if state == 1 then integratorKey fuse else vendorKey fuse) &&
    Config.ecdsaOk key bytes sig

/-- The image passes R365 in slice n. -/
def Block.firmwarePasses (b : Block) (fuse : BitVec 4096) (n a : Nat) (h body : List Byte) : Bool :=
  let sig := leNat ((h.drop 2).take 1)
  !body.isEmpty && ((linesOf (gaKey a) (320 + body.length)).all fun l => !b.poisoned (128 * l)) &&
    leNat (h.take 2) == 1 && leNat ((h.drop 16).take 8) < body.length &&
    (Config.sha384 body).toNat == leNat ((h.drop 24).take 48) && b.life.svn ≤ leNat ((h.drop 3).take 1) &&
    (if sig == 0 then b.unsignedOk n else signedBy fuse sig ((h.drop 72).take 97) (h.take 224) ((h.drop 224).take 96))

/-- Every control processor of the slice restarts with a new role generation (R189, R190, R364). DESIGN CHOICE: a launch in progress
or waiting on it ends, its command completes and its context receives RECLAIMED (notes/assumptions/116.md). -/
def Block.restartCores (b : Block) (n : Nat) (body : List Byte) (entry : Nat) : Block :=
  b.each (b.coresOf n) fun core b =>
    (b.launchesEnd core cReclaimed).modCore core fun x =>
      { (x.wrS 0x2C0000 body) with roleGen := x.roleGen + 1, hart := x.hart.restart (some (BitVec.ofNat 64 (0x2C0000 + entry))) }

/-- The firmware part of stage 2. -/
def Block.firmwareStage (b : Block) (fuse : BitVec 4096) (n : Nat) (fw : Dword) : Block :=
  let b := b.dropDcache (b.coresOf n)
  let a := dfld fw 56 0
  let (h, body) := b.firmwareAt n a
  if b.firmwarePasses fuse n a h body then
    (b.restartCores n body (leNat ((h.drop 16).take 8))).modSec n fun x =>
      { x with fwDigest := Config.sha384 (h.take 224), fwUnsigned := leNat ((h.drop 2).take 1) == 0 }
  else b.modSec n fun x => { x with fwDigest := 0, fwUnsigned := false }

def Block.writeBackStage (b : Block) (fuse : BitVec 4096) (r : Running) : Block :=
  let n := r.req.slice
  if r.isFirmware then b.firmwareStage fuse n r.req.fw
  else
    let b := b.dropDcache (r.coresOut ++ match r.req.subst with
      | some (true, core, _) => [core]
      | _ => [])
    let b := b.each ((r.waysOut.map (· / 16)).dedup) fun cl b => b.flushCluster n cl fun w => r.waysOut.contains (16 * cl + w)
    if r.moves && r.target.ccache < r.old.ccache then
      b.each ((b.ctxsOf n).filter fun c => (b.ctx c).cached.isSome) fun c b => b.ctxWriteBack c
    else b

/-! ### Stages 3 to 5: translation, coherence, release -/

/-- An address in one of the groups. -/
def Block.inGroups (b : Block) (gs : List Nat) (a : Nat) : Bool := b.isOwn a && gs.contains (gaGroup a)

/-- A page of the window resolves into one of the groups, as its pins hold it (R208). -/
def Block.winInGroups (b : Block) (gs : List Nat) (c w : Nat) : Bool :=
  let y := b.win c w
  y.status == 1 && (List.range (y.len / 65536)).any fun i => match b.winTr c w (y.base + 65536 * i) false with
    | .dev a _ _ => b.inGroups gs a
    | _ => false

/-- The pages of leaving groups leave the pool ring and the pending frees (R229). -/
def Block.poolLeaves (b : Block) (n : Nat) (gs : List Nat) : Block :=
  let x := (b.slice n).xlat
  let pages := if b.poolReady n then (List.range x.poolCount).map fun i => b.rdOwn64 n (x.poolPlace i) else []
  let kept := pages.filter fun a => !b.inGroups gs a
  let gone (p : PendFree) : Bool := (List.range p.pages).any fun i => match b.leafPlace p.ctx (p.va + 65536 * i) with
    | none => false
    | some a => let e := b.rdOwn64 n a; pteV e && b.inGroups gs (pteAddr e)
  let b := b.modXlat n fun x =>
    { x with
      poolCount := 0, frees := x.frees.filter fun p => !gone p
      invals := x.invals.map fun i => match i.use with
        | .free p l => { i with use := .free p (l.filter fun a => !b.inGroups gs a) }
        | _ => i }
  b.each kept fun a b => b.poolPut n a

/-- Ranges of the slice's mappings that resolve into leaving groups: cached entries, windows, and pages that transfers touch
now. -/
def Block.rangesOut (b : Block) (n : Nat) (gs : List Nat) : List (Nat × Nat × Nat) :=
  let page (c va : Nat) (w : Bool) : List (Nat × Nat × Nat) := match (b.walk c va w).1 with
    | .dev a _ _ => if b.inGroups gs a then [(c, va / 65536 * 65536, 65536)] else []
    | _ => []
  (((b.slice n).xlat.tlb.filter fun t => b.inGroups gs (pteAddr t.pte.toNat)).map (fun t => (t.ctx, t.va, leafSpan t.level)) ++
    (b.ctxsOf n).flatMap (fun c => (List.range 8).filterMap fun w =>
      if b.winInGroups gs c w then some (c, (b.win c w).base, (b.win c w).len) else none) ++
    (b.dmas.filter fun d => d.fetch.isSome && (b.ctx d.ctx).slice == n).flatMap fun d =>
      page d.ctx (d.src + d.pos) false ++ page d.ctx (d.dst + d.pos) true).eraseDups

/-- Stage 3 (R184, R216, R229): windows into leaving groups are cleared, and each range joins the invalidation engine. -/
def Block.translateStage (b : Block) (r : Running) : Block :=
  let n := r.req.slice
  let gs := r.groupsOut
  if gs.isEmpty then b
  else
    let out := b.rangesOut n gs
    let hit := (b.ctxsOf n).flatMap fun c => ((List.range 8).filter fun w => b.winInGroups gs c w).map fun w => (c, w)
    let b := hit.foldl (fun b x => (b.putWin x.1 x.2 0 0 0 false 0).ctxCode x.1 cReclaimed) b
    let b := out.foldl (fun b x => b.addInval n { ctx := some x.1, va := x.2.1, len := x.2.2, bump := false, use := .reconf }) b
    let b := if b.inGroups gs (b.slice n).mapAddr.toNat then b.modSlice n fun x => { x with mapAddr := 0 } else b
    b.poolLeaves n gs

/-- Lines and transactions of leaving homes go unwritten; requests to them end with Poison (R184, R280). -/
def Block.homesLeave (b : Block) (gs : List Nat) : Block :=
  let at_ (line : Nat) : Bool := gs.contains (homeOf line)
  let lines := (b.coh.lines.map (·.line)).filter at_
  let b := b.each lines fun l b => b.loseCopies l fun _ => true
  let ends := b.coh.waiting.filter fun w => at_ w.line
  b.modCoh fun c =>
    { c with
      lines := c.lines.filter fun l => !at_ l.line
      filter := c.filter.filter fun x => !at_ x.1
      busy := c.busy.filter fun x => !at_ x.1
      msgs := (c.msgs.filter fun m => match m with
        | .snoop _ l _ _ => !at_ l
        | .rsp _ l _ _ _ _ => !at_ l
        | .data _ l _ _ _ => !at_ l
        | .nack _ l => !at_ l
        | .ack _ l => !at_ l
        | .cmpwb _ l => !at_ l
        | .poison _ l => !at_ l) ++ ends.map fun w => .poison w.agent w.line
      wbuf := c.wbuf.filter fun w => !at_ w.line
      parks := c.parks.filter fun p => !at_ p.2.1
      waiting := c.waiting.filter fun w => !at_ w.line
      uncQueue := c.uncQueue.filter fun w => !at_ w.line
      retry := c.retry.filter fun x => !at_ x.1
      reserved := c.reserved.filter fun x => !at_ x.1 }

/-- Stage 4: clusters where the slice holds no core any more leave its membership, what is left in their caches going to memory,
and the homes leave (R184, R280). -/
def Block.coherenceStage (b : Block) (r : Running) : Block :=
  let n := r.req.slice
  let gone := ((r.coresOut.map (· / 8)).dedup).filter fun c => !(b.memberClusters n).contains c
  let b := b.each gone fun c b => b.flushCluster n c fun _ => true
  if r.groupsOut.isEmpty then b else b.homesLeave r.groupsOut

/-- No slice owns a core or a way of the cluster (R22). -/
def Block.clusterIdle (b : Block) (cl : Nat) : Bool :=
  ((List.range 8).all fun k => (b.core (8 * cl + k)).owner == 0) && (List.range 16).all fun w => b.wayOwner cl w == 0

/-- A group leaves its owner, and its scrub begins (R186). -/
def Block.groupLeaves (b : Block) (g : Nat) : Block :=
  b.modRecon fun x => { x with groupOwner := Tab.erase x.groupOwner g, scrubbing := insertNat g x.scrubbing }

/-- Groups granted and not joined that the new holdings leave out; one already scrubbed goes off (R186). -/
def Block.pendingLeaves (b : Block) (n : Nat) (groups : BitVec 32) : Block :=
  let gone := (setBits ((b.slice n).groupsPending &&& ~~~groups)).filter fun g => !b.recon.scrubbing.contains g
  (b.modPower fun p => gone.foldl (fun p g => p.wantDown (80 + b.recon.shimOf g)) p).modSlice n fun x =>
    { x with groupsPending := x.groupsPending &&& groups }

def Block.releaseStage (b : Block) (r : Running) : Block :=
  let n := r.req.slice
  let b := b.modRecon fun x => { x with wayOwner := r.waysOut.foldl (fun t w => Tab.erase t w) x.wayOwner }
  let b := if r.moves && r.target.ccache < r.old.ccache then
      (b.each ((b.ctxsOf n).filter fun c => !(b.ctx c).pinned) fun c b => b.modCtx c fun x => { x with cached := none }).modXlat n fun x =>
        { x with tlb := x.tlb.take (32 * r.target.ccache) }
    else b
  let b := b.modPower fun p => r.coresOut.foldl (fun p c => p.wantDown c) p
  let idle := ((r.coresOut.map (· / 8)) ++ r.waysOut.map (· / 16)).dedup.filter b.clusterIdle
  let b := b.modPower fun p => idle.foldl (fun p cl => p.wantDown (64 + cl)) p
  let b := b.each r.groupsOut fun g b => b.groupLeaves g
  let b := if r.moves && !r.isFirmware then b.pendingLeaves n r.target.groups else b
  if r.isRemove then b.each (b.keysHeld n) fun k b => b.dropKey n k else b

/-! ### Stage 6: join -/

/-- Domains that the stage asks for. -/
def Block.domainsIn (b : Block) (r : Running) : List Nat :=
  let cores := if r.req.slice == 0 then b.live.flatMap b.coresOf else match r.req.subst with
    | some (true, _, new) => [new]
    | _ => r.coresIn
  let groups := if r.req.slice == 0 then b.live.flatMap fun n => (List.range 32).filter fun g => b.groupOwner g == n
    else r.groupsIn.filter fun g => !b.recon.scrubbing.contains g
  cores ++ ((cores.map (· / 8)) ++ r.waysIn.map (· / 16)).dedup.map (64 + ·) ++ (groups.map fun g => 80 + b.recon.shimOf g) ++
    match r.req.subst with
    | some (false, _, spare) => [80 + spare]
    | _ => []

/-- The estimators of a core's measurement point start at zero, and each priority at what that gives (R267). -/
def Block.pointZero (b : Block) (n core : Nat) : Block :=
  b.modSlice n fun x =>
    { x with rein := { x.rein with est := x.rein.est.filter (fun y => y.1 / 16 != core)
                                   prio := x.rein.prio.filter fun y => y.1 / 16 != core } }

/-- A core joins slice n (R184, R189). -/
def Block.coreJoins (b : Block) (n core : Nat) : Block :=
  (b.modCore core fun x => { x with owner := n, roleGen := x.roleGen + 1 }).pointZero n core

/-- The place of a range of `want` IDs among the other ranges: the lowest-numbered free run (R230). -/
def placeRange (others : List (Nat × Nat)) (total want : Nat) : Option Nat :=
  ((0 :: others.map fun x => x.1 + x.2).filter fun a =>
    a + want ≤ total && others.all fun x => !rangesMeet x.1 x.2 a want).foldl (fun r a => some (min a (r.getD a))) none

/-- A range of IDs as an action leaves it: placed at a CREATE, else kept with its start, and raised only up to the next one. -/
def rangeIn (others : List (Nat × Nat)) (total want first : Nat) (create : Bool) : Nat × Nat :=
  if create then
    match placeRange others total want with
    | none => (0, 0)
    | some a => (a, want)
  else (first, min want ((others.filter fun x => first < x.1 && x.2 != 0).foldl (fun m x => min m (x.1 - first)) (total - first)))

def Block.rangesIn (b : Block) (n : Nat) (h : Holdings) (create : Bool) : Block :=
  let others (f : CtxRegs →
    Nat × Nat) : List (Nat × Nat) := ((b.live.filter (· != n)).map fun m => f (b.slice m).ctxr).filter fun x => x.2 != 0
  let r := (b.slice n).ctxr
  let (c, k) := rangeIn (others fun x => (x.first, x.count)) (2 ^ 20) h.contexts r.first create
  let (f, l) := rangeIn (others fun x => (x.fenceFirst, x.fenceCount)) 65536 h.fences r.fenceFirst create
  b.modCtxr n fun r => { r with first := c, count := k, fenceFirst := f, fenceCount := l }

/-- Positions that the block holds on a path (R272). -/
def blockPositions (i : Nat) : List Nat := if 1 ≤ i && i ≤ 4 then [0, 32] else [0, 16, 32, 48]

/-- The positions of a slice on a path after an action: the highest ones released, or the lowest free ones taken (R273). -/
def positionsIn (mine used : List Nat) (want : Nat) : List Nat :=
  if want ≤ mine.length then mine.take want
  else mine ++ (((List.range 64).filter fun p => !used.contains p && !mine.contains p).take (want - mine.length))

def maskOf (l : List Nat) : Nat := ((List.range 64).filter l.contains).foldl (fun m i => m + 2 ^ i) 0

def Block.positionsJoin (b : Block) (n : Nat) (h : Holdings) : Block :=
  b.each (List.range 7) fun i b =>
    let at_ (m : Nat) : List Nat := setBits (Tab.get (0 : Dword) (b.slice m).rein.positions i)
    let new := positionsIn (at_ n) (blockPositions i ++ (b.live.filter (· != n)).flatMap at_) (reservOf h i)
    b.modSlice n fun x => { x with rein := { x.rein with positions := Tab.set 0 x.rein.positions i (BitVec.ofNat 64 (maskOf new)) } }

/-- A group joins slice n, or waits for its scrub (R186). -/
def Block.groupJoins (b : Block) (n g : Nat) : Block :=
  if b.recon.scrubbing.contains g then b.modSlice n fun x => { x with groupsPending := bvSet x.groupsPending g }
  else
    let b := b.modSlice n fun x => { x with groupsPending := bvClr x.groupsPending g }
    if b.power.isFailed (80 + b.recon.shimOf g) then b
    else b.modRecon fun x => { x with groupOwner := Tab.put x.groupOwner g n }

/-- Farrier's spare takes a core's place: its memory, adapter stores and hart, under a new role generation; the core is retired
(R189, R330, R333). -/
def Block.coreMoves (b : Block) (n old new : Nat) : Block :=
  let x := b.core old
  let h := { x.hart with halted := false, pc := x.hart.csrGet 0x341, stall := none, reservation := none }
  let b := b.modCore new fun y =>
    { y with owner := n, roleGen := y.roleGen + 1, place := some (x.place.getD old), scratch := x.scratch, tags := x.tags
             poison := x.poison, hart := h
             adapter := { y.adapter with slots := x.adapter.slots, frames := x.adapter.frames, u := x.adapter.u } }
  let b := b.pointZero n new
  let b := b.modCore old fun y => { y with owner := 0, roleGen := y.roleGen + 1, place := none, hart := y.hart.halt }
  ((b.modLadder fun l => { l with retCores := bvSet l.retCores old }).modPower fun p => p.wantDown old).tallyUp 0x8010 0x10

/-- The spare's shim serves the logical group; the old shim is retired (R333). -/
def Block.groupMoves (b : Block) (g spare : Nat) : Block :=
  let old := b.recon.shimOf g
  let b := b.modRecon fun x => { x with shims := Tab.put x.shims g (spare + 1) }
  ((b.modLadder fun l => { l with retGroups := bvSet l.retGroups old }).modPower fun p => p.wantDown (80 + old)).tallyUp 0x8010 0x13

/-- What joins once every domain asked for is on or has failed; a core whose power-up failed is left out (R396). -/
def Block.joinStage (b : Block) (r : Running) : Block :=
  let n := r.req.slice
  let on (c : Nat) : Bool := !b.power.isFailed c
  let b := b.each (if n == 0 then b.live else [n]) fun m b => b.modSlice m fun x => { x with cohProgress := x.cohNext, holdClk := x.holdNext }
  match r.req.subst with
  | some (true, old, new) => if on new then b.coreMoves n old new else b
  | some (false, g, spare) => if on (80 + spare) then b.groupMoves g spare else b
  | none =>
    if n == 0 then b.each ((b.live.flatMap b.coresOf).filter on) fun c b => b.modCore c fun x => { x with roleGen := x.roleGen + 1 }
    else if r.joinOnly.isSome then b.each r.groupsIn fun g b => b.groupJoins n g
    else if !r.moves || r.isRemove || r.isFirmware then b
    else
      let h := r.target
      let b := b.each (r.coresIn.filter on) fun c b => b.coreJoins n c
      let b := b.modRecon fun x => { x with wayOwner := r.waysIn.foldl (fun t w => Tab.put t w n) x.wayOwner }
      let b := b.each (queueRange h) fun q b =>
        if b.queueOwner q == n then b
        else { b with queues := Tab.erase b.queues q, recon := { b.recon with queueOwner := Tab.put b.recon.queueOwner q n } }
      let b := (b.rangesIn n h (r.req.act == .create)).positionsJoin n h
      let b := b.modSlice n fun x =>
        { x with groupsPending := x.groupsPending &&& h.groups }
      b.each r.groupsIn fun g b => b.groupJoins n g

/-! ### Stage 7: publish -/

/-- The holdings as the tags stand. -/
def Block.heldNow (b : Block) (n : Nat) (h : Holdings) : Holdings :=
  { h with cores := BitVec.ofNat 64 (maskOf (b.coresOf n))
           groups := BitVec.ofNat 32 (maskOf ((List.range 32).filter fun g => b.groupOwner g == n)) }

/-- A removed slice leaves every MED binding; a binding left with none becomes unused (R412). -/
def Dict.unbindSlice (d : Dict) (n : Nat) : Dict :=
  let l := d.bindings.map fun x => if x.2.role == 3 then (x.1, { x.2 with slices := bvClr x.2.slices n }) else x
  { d with bindings := l.filter fun x => !(x.2.role == 3 && x.2.slices == 0) }

/-- The kept values of slice n's entries are gone (R455). -/
def Dict.unkept (d : Dict) (n : Nat) : Tab Nat :=
  Tab.erase (Tab.erase d.held (256 * (0x6100 + n) + 4)) (256 * (0x6200 + n) + 2)

/-- The last commit's request has been applied. -/
def Recon.applied (x : Recon) (r : Request) : Recon :=
  if !r.ahead && x.ticket == r.ticket && x.status == 1 then { x with status := 3 } else x

def Block.publishStage (b : Block) (r : Running) : Block :=
  let n := r.req.slice
  let b := b.modRecon fun x => { x.applied r.req with run := none }
  if n == 0 then (b.each b.live fun m b => ((b.writeMap m).regen m).viResume m).blockRungEnds
  else if r.isRemove then
    let b := b.modPorts fun p => { p with waiting := p.waiting.filter fun x => x.slice != n }
    (Block.modDict { b with slices := Tab.erase b.slices n } fun d =>
      { (d.unbindSlice n) with held := Dict.unkept d n }).setPending n
  else
    let b := b.modSlice n fun x => { x with st := .active, hold := b.heldNow n r.target }
    let b := if r.req.act == .create && r.moves then b.modDict fun d => { d with held := Dict.unkept d n } else b
    (((b.setPending n).writeMap n).regen n).viResume n

/-! ### The course of an action -/

def Block.enterStage (b : Block) (fuse : BitVec 4096) (r : Running) : Block :=
  let b := b.modRecon fun x => { x with run := some r }
  match r.stage with
  | 1 => b.stopStage r
  | 2 => b.writeBackStage fuse r
  | 3 => b.translateStage r
  | 4 => b.coherenceStage r
  | 5 => b.releaseStage r
  | 6 => b.modPower fun p => (b.domainsIn r).foldl (fun p d => p.wantUp d) p
  | _ => b

/-- The stage has finished for every resource of the action. -/
def Block.stageOver (b : Block) (r : Running) : Bool :=
  match r.stage with
  | 1 => (b.ctxsOut r.req.slice).all b.launchesOver && !(r.isRemove && b.viBusy r.req.slice)
  | 3 => (b.slice r.req.slice).xlat.invals.all fun i => i.use != .reconf
  | 6 => (b.domainsIn r).all (fun d => b.power.settledOn d || b.power.isFailed d) && !(r.req.subst.isSome && 2 ≤ b.power.level)
  | _ => true

/-- What the end of a stage brings. -/
def Block.leaveStage (b : Block) (r : Running) : Block :=
  match r.stage with
  | 1 =>
    let n := r.req.slice
    let b := b.queuesLeave n r.queuesOut
    (if r.isRemove then b.modSlice n fun x => { x with viRange := 0 } else b).each (b.ctxsOut n) fun c b => b.ctxLeaves c
  | 6 => b.joinStage r
  | 7 => b.publishStage r
  | _ => b

def Block.stageEnds (b : Block) (fuse : BitVec 4096) : Block :=
  match b.recon.run with
  | none => b
  | some r =>
    let b := if r.stage == 1 && r.isRemove then b.visLeave r.req.slice else b
    if b.power.level == 5 || !b.stageOver r then b
    else if 7 ≤ r.stage then b.leaveStage r
    else (b.leaveStage r).enterStage fuse { r with stage := r.stage + 1 }

/-- What an action retires goes to the flash (R330). -/
def execReconfStageEnd (s : State) : Host.Outcome State Fault Refusal := s.onRetire fun b => b.stageEnds s.fuse

/-- An action begins, with its stage. -/
def Block.beginAction (b : Block) (fuse : BitVec 4096) (r : Request) (joinOnly : Option (BitVec 32)) (w : Nat) : Block :=
  let n := r.slice
  let old := (b.slice n).hold
  let b :=
    if n == 0 then b
    else if r.act == .create && r.subst.isNone && joinOnly.isNone then
      { b with slices := Tab.put b.slices n { Slice.reset with st := .changing, pendingStride := (b.slice n).pendingStride } }
    else b.modSlice n fun x => { x with st := .changing }
  b.enterStage fuse { req := r, stage := if joinOnly.isSome then 6 else 1, old := old, joinOnly := joinOnly, win := w }

/-- The holdings with the groups still granted. -/
def Slice.wholeHold (x : Slice) : Holdings := { x.hold with groups := x.hold.groups ||| x.groupsPending }

/-- Granted groups of slice n that may join in window w: those whose scrub was over when it opened (R186). -/
def Block.joining (b : Block) (n w : Nat) : List Nat :=
  (setBits (b.slice n).groupsPending).filter fun g => !b.recon.scrubbing.contains g && !b.recon.joinLater.contains (g, w)

/-- The groups join in no action of window w. -/
def Block.joinsLater (b : Block) (w : Nat) (gs : List Nat) : Block :=
  b.modRecon fun r => { r with joinLater := (r.joinLater.filter fun x => x.2 == w) ++ gs.map fun g => (g, w) }

/-- A rung in progress defers the joins of its slice to a later window (R182). -/
def Block.rungsDefer (b : Block) (w : Nat) : Block :=
  b.joinsLater w ((b.live.filter b.rungOn).flatMap fun n => b.joining n w)

/-- The first slice with a group that joins in window w, and those groups (R186). -/
def Block.joinable (b : Block) (w : Nat) : Option (Nat × BitVec 32) :=
  b.live.findSome? fun n =>
    let gs := b.joining n w
    if gs.isEmpty || b.viBusy n then none else some (n, BitVec.ofNat 32 (maskOf gs))

def Block.deferAction (b : Block) (w : Nat) : Block := b.modRecon fun x => { x with deferred := some w }

/-- The head of the requests begins where it is due and nothing defers it (R181, R182, R307). -/
def Block.headAction (b : Block) (fuse : BitVec 4096) (w : Nat) : Block :=
  match b.recon.pend with
  | [] => b
  | r :: rest =>
    if !r.ahead && w < r.stride then b
    else if r.slice != 0 && b.rungOn r.slice then b.deferAction w
    else if (if r.slice == 0 then b.live else [r.slice]).any b.viBusy then b
    else
      (b.modRecon fun x => { x with pend := rest }).beginAction fuse r (if r.slice == 0 then some 0 else none) w

/-- The reconfiguration window that is open, by the stride it opened in. -/
def Block.reconfWindow (b : Block) : Option Nat :=
  (b.time.windows.find? fun x => x.1 == .reconf && b.windowNow .reconf).map (·.2)

def Block.actionStarts (b : Block) (fuse : BitVec 4096) : Block :=
  match b.reconfWindow with
  | none => b
  | some w =>
    match b.recon.run with
    | some r => if r.win == w then b else b.deferAction w
    | none =>
      if b.recon.deferred == some w then b
      else if 2 ≤ b.power.level then b.deferAction w
      else
        let b := b.rungsDefer w
        match b.joinable w with
        | some (n, gs) =>
          b.beginAction fuse { act := .resize, slice := n, hold := (b.slice n).wholeHold, fw := 0, ticket := 0, stride := w, ahead := true
                               subst := none } (some gs) w
        | none => b.headAction fuse w

/-! ### The scrub (R186, R22) -/

/-- A slice waits for the group. -/
def Block.groupAwaited (b : Block) (g : Nat) : Bool := b.live.any fun n => (b.slice n).groupsPending.getLsbD g

/-- The group's scrub ends; in an open reconfiguration window the group joins in the next one (R186). -/
def execScrubComplete (g : Nat) (s : State) : Host.Outcome State Fault Refusal :=
  s.onBlock fun b =>
    if b.recon.scrubbing.contains g && b.power.level != 5 then
      let b := (b.scrubGroup g).modRecon fun x => { x with scrubbing := x.scrubbing.filter (· != g) }
      let b := match b.reconfWindow with
        | none => b
        | some w => b.joinsLater w [g]
      if b.groupAwaited g then b else b.modPower fun p => p.wantDown (80 + b.recon.shimOf g)
    else b

end Sys2Proof.Machine
end

