-- ==== Sys2Proof/Machine/Rein.lean ====
section
/-! DEFINITION. Rein: samples and estimators, the accounting window with its roll-over (R266 to R271), and the grants of the ports'
positions (R265, R268, R272). -/

namespace Sys2Proof.Machine

/-- The estimator after a sample: floor toward minus infinity (R267). -/
def estNext (l x : Nat) : Nat := ((l : Int) + Int.fdiv ((x : Int) - l) 16).toNat

/-- The priority that an estimator gives under a setting (R267). -/
def estPrio (w : Dword) (l : Nat) : Nat :=
  let t := clsTarget w
  let r := if t == 0 || 2 * l < t then 0 else min 7 (8 * (2 * l - t) / t)
  max (clsBase w) r

/-- A sample at a measurement point. -/
def Rein.sample (r : Rein) (point c x bytes : Nat) : Rein :=
  let x := min x (2 ^ 24 - 1)
  let w := r.setting c
  let k := 16 * point + c
  let l := estNext (Tab.get 0 r.est k) x
  let y := r.class c
  let y := { y with n := y.n + 1, m := if clsTarget w < x then y.m + 1 else y.m, largest := max y.largest x, bytes := y.bytes + bytes }
  { r with est := Tab.set 0 r.est k l, prio := Tab.put r.prio k (estPrio w l), win := Tab.set ReinWin.reset r.win c y }

/-- The slice's measurement points: its cores' request ports, the front-end DMA agent and the walker slot (R266). -/
def Block.measures (b : Block) (n point : Nat) : Bool := point == 64 || point == 65 || (point < 64 && (b.core point).owner == n)

def execReinSample (slice point cls x bytes : Nat) (s : State) : Host.Outcome State Fault Refusal :=
  s.onCompute fun b =>
    if (b.slice slice).st != .none && cls < 16 && b.measures slice point then
      b.modSlice slice fun y => { y with rein := y.rein.sample point cls x bytes }
    else b

/-- A class missed its guarantee in the window (R270). -/
def Rein.missedBy (r : Rein) (c : Nat) : Bool :=
  let w := r.setting c
  let y := r.class c
  clsTarget w != 0 && 1 ≤ y.n && clsPermille w * y.n < 1000 * y.m

/-- The roll-over: the records of the window that ended, and staged settings take effect (R269 to R271). -/
def Rein.roll (r : Rein) (ended : BitVec 48) : Rein :=
  let missed := (List.range 16).filter r.missedBy
  let r := if missed.isEmpty then r
    else { r with missed := BitVec.ofNat 16 (maskOf missed), missStride := ended, pending := true, missWindows := up32 r.missWindows }
  { r with records := r.win, win := [], settings := r.staged.foldl (fun t x => Tab.set 0 t x.1 x.2) r.settings, staged := [] }

/-- The roll-over of slice n with its tally and interrupt. -/
def Block.reinRoll (b : Block) (n : Nat) (ended : BitVec 48) : Block :=
  let r := (b.slice n).rein
  let b := b.modSlice n fun x => { x with rein := r.roll ended }
  if (List.range 16).any r.missedBy then
    let b := b.tallyUp (0x8400 + n) 1
    if r.pending then b else b.irq n 2
  else b

/-! ### Grants at the regulation points (R265, R268, R272, R304) -/

/-- An access to memory has passed its regulation points, or its walk the walker slot; a transfer goes on at once. -/
def Block.passes (b : Block) (point unit c va : Nat) (ans : LineAns) : Block :=
  let b := b.gotLine point unit c va ans
  if 8 ≤ unit then b.dmaTile point (unit - 8) else b

/-- A request leaves its regulation point, one at a ring stop for the shim's queue. One to a host address whose queue's virtual
instance has another generation now is discarded there, and its transfer goes on without it (R304). -/
def Block.leavesPort (b : Block) (x : PortReq) : Block :=
  let b := b.modPorts fun p => { p with waiting := p.waiting.erase x }
  let moved (b : Block) (dma : Option (Nat × Nat)) : Block := match dma with
    | some (65, n) => b.migrLeft n x.addr
    | some (ag, ch) => b.dmaAck ag ch
    | none => b
  match x.what with
  | .flit f => b.emit (.flit x.path f)
  | .read r =>
    if b.genStale x.gen then
      moved (b.dropEffect x.gen) (match r.use with
        | .dma ag ch => some (ag, ch)
        | _ => none)
    else b.hostRead r
  | .write a bs pasid dma => moved (if b.genStale x.gen then b.dropEffect x.gen else b.emit (.hostWrite a bs pasid)) dma
  | .mem unit c va =>
    if 40 ≤ x.path then
      b.modPorts fun p => { p with waiting := p.waiting ++ [{ x with path := 8 + homeOf x.addr, at_ := b.time.clk }] }
    else b.passes x.by_.point unit c va .passed
  | .walk unit c page =>
    match b.homeTurns (.uncached x.slice x.by_.point) (b.tableLines c page) false with
    | (b, false) => b.modPorts fun p => { p with waiting := p.waiting ++ [x] }
    | (b, true) => b.passes x.by_.point unit c page .walked

/-- The holder of a position sends up to as many requests as the position takes. -/
def Block.positionSends (path n : Nat) : Nat → Block → Block
  | 0, b => b
  | k + 1, b =>
    match b.nextReq path n with
    | none => b
    | some x => Block.positionSends path n k (b.leavesPort x)

/-- The first flit of the block's own that waits at a port leaves. -/
def Block.ownSends (b : Block) (path : Nat) : Block :=
  match b.ports.own.find? fun x => x.1 == path with
  | none => b
  | some x => (b.modPorts fun p => { p with own := p.own.erase x }).emit x.2

/-- At shedding level 4 a copy that runs takes every block position of its port but position 0 (R348): the first flit of it that
waits there leaves; with several copies, that of the one whose flit came first. -/
def Block.copyFlit (b : Block) (path : Nat) : Option PortReq :=
  b.ports.waiting.find? fun x => x.path == path && match x.what with
    | .flit f => f.cls == 0 && (f.kind == 0x0A || f.kind == 0x0B)
    | _ => false

def Block.copyTakes (b : Block) (path pos : Nat) : Bool :=
  b.power.level == 4 && pos != 0 && (blockPositions (pathByte path)).contains pos && (b.copyFlit path).isSome

/-- The block's own positions at the links (R272, R443). DESIGN CHOICE: while the compute clock stands, each management clock is one
(notes/assumptions/54.md). -/
def Block.ownTick (b : Block) : Block :=
  if b.ports.own.isEmpty then b
  else b.each (List.range 6) fun path b =>
    if b.gated || (b.positionsNow path).any fun pos => (blockPositions (pathByte path)).contains pos && !b.copyTakes path pos then
      b.ownSends path
    else b

/-- The positions that begin at a port or a ring stop: each is its holder's, and one with nothing waiting stays idle (R272). -/
def Block.positionsTick (b : Block) (path : Nat) : Block :=
  b.each (b.positionsNow path) fun pos b =>
    match b.holderAt path pos with
    | none =>
      match (b.copyFlit path).filter fun x => b.copyTakes path pos && b.mayLeave x with
      | none => b
      | some x => b.leavesPort x
    | some n => Block.positionSends path n (slotSends path) b

/-- A compute clock at the regulation points: each slice's walker slot and each shim takes a request, and the positions of the ring
stops and the ports begin (R265). DESIGN CHOICE: a shim and a walker slot take one in each compute clock (notes/assumptions/64.md).
-/
def Block.portTick (b : Block) : Block :=
  if b.gated || b.ports.waiting.isEmpty then b
  else
    let b := b.each b.live fun n b => Block.positionSends 7 n 1 b
    let b := b.each (List.range 32) fun g b => Block.positionSends (8 + g) (b.groupOwner g) 1 b
    b.each (List.range 7 ++ (List.range 10).map (40 + ·)) fun path b => b.positionsTick path

end Sys2Proof.Machine
end

