-- ==== Sys2Proof/Machine/Tallies.lean ====
section
/-! DEFINITION. Tallies and histograms, and their saving to the tally store (R107, R397, R424 to R430). -/

namespace Sys2Proof.Machine

/-! ### The record (R429) -/

/-- Every tally as index, subindex and size, in ascending order (R425 to R428). -/
def tallyKeys : List (Nat × Nat × Nat) :=
  let row (i n size : Nat) : List (Nat × Nat × Nat) := (List.range n).map fun s => (i, s + 1, size)
  row 0x8000 5 4 ++ row 0x8010 0x15 4 ++ row 0x8020 6 4 ++ ((List.range 11).map fun s => (0x8020, s + 0x11, 4)) ++
    ((List.range 8).flatMap fun i => row (0x8100 + i) 16 8) ++ ((List.range 8).flatMap fun i => row (0x8110 + i) 16 4) ++
    ((List.range 16).flatMap fun i => row (0x8200 + i) 128 4) ++ ((List.range 16).flatMap fun i => row (0x8300 + i) 128 4) ++
    (List.range 28).flatMap fun i => [(0x8401 + i, 1, 4), (0x8401 + i, 2, 4), (0x8401 + i, 3, 8), (0x8401 + i, 4, 4), (0x8401 + i, 5, 4)]

/-- Bytes 0 to 32,719 of a record of save `seq`. -/
def Block.tallyBody (b : Block) (seq : Nat) : List Byte :=
  let x := toLe 2 1 ++ toLe 2 0 ++ toLe 4 seq ++ toLe 8 b.start.serial.toNat ++
    tallyKeys.flatMap fun k => toLe k.2.2 (b.tallyGet k.1 k.2.1)
  x ++ List.replicate (32720 - x.length) 0

def Block.tallyRecord (b : Block) (seq : Nat) : List Byte :=
  let x := b.tallyBody seq
  x ++ digestBytes (Config.sha384 x)

def recordSeq (r : List Byte) : Nat := leNat ((r.drop 4).take 4)

/-- The flash offset of the position of save `seq` (R387, R429). -/
def recordAt (seq : Nat) : Nat := 0x1010000 + seq % 2 * 0x40000 + seq % 16 / 2 * 32768

def recordValid (serial : Nat) (r : List Byte) : Bool :=
  leNat (r.take 2) == 1 && leNat ((r.drop 8).take 8) == serial && leNat ((r.drop 32720).take 48) == (Config.sha384 (r.take 32720)).toNat

/-- The valid record with the highest SEQ. -/
def Flash.newestRecord (f : Flash) (serial : Nat) : Option (List Byte) :=
  (((List.range 16).map fun k => f.bytes.readN (recordAt k) 32768).filter (recordValid serial)).foldl (fun best r =>
    match best with
    | none => some r
    | some x => if serialNewer (recordSeq r) (recordSeq x) then some r else some x) none

/-- Adds a record's tallies to those counted since the fuse stage. -/
def Block.addRecord (b : Block) (r : List Byte) : Block :=
  (tallyKeys.foldl (fun (x : Block × Nat) k =>
    (x.1.tallyAdd k.1 k.2.1 (leNat ((r.drop x.2).take k.2.2)), x.2 + k.2.2)) (b, 16)).1

def Block.setTally (b : Block) (i sub v : Nat) : Block :=
  { b with tally := { b.tally with t := Tab.set 0 b.tally.t (256 * i + sub) v } }

/-- Start-up loads the newest valid record, which is the last complete save (R429). -/
def Block.loadTallies (b : Block) (f : Flash) : Block :=
  match f.newestRecord b.start.serial.toNat with
  | none => b
  | some r =>
    let b := ((b.addRecord r).setTally 0x8000 1 (recordSeq r)).setTally 0x8000 5 (leNat ((r.drop 20).take 4))
    { b with tally := { b.tally with saveSeq := recordSeq r } }

/-! ### Saves (R429, R430) -/

/-- N of R107: strides between checkpoints. -/
def TimeBase.checkpointEvery (t : TimeBase) : Nat := ceilDiv 600000000000 t.lenNs

/-- Management clocks of a time in milliseconds. -/
def msClks (ms : Nat) : Nat := ms * 750000

/-- While the stride is UNLOCKED, every 600 s, from the last save that this triggered. -/
def execTallyUnlockedTimer (s : State) : Host.Outcome State Fault Refusal :=
  s.onBlock fun b => if b.start.stage != 0 && b.time.lock == .unlocked && b.tally.unlockedAt + msClks 600000 ≤ b.time.mclk then
      { b with tally := { b.tally with unlockedAt := b.time.mclk } }.saveDue
    else b

/-- The snapshot of every tally; the record is then written. -/
def execTallySave (s : State) : Host.Outcome State Fault Refusal :=
  s.onBlock fun b =>
    if b.tally.savePending && b.tally.saving.isNone then
      let seq := (b.tally.saveSeq + 1) % 2 ^ 32
      { b with tally := { b.tally with saveSeq := seq, saving := some (b.tallyRecord seq), savePending := false } }
    else b

/-- The record is in the flash. -/
def Block.saved (b : Block) (r : List Byte) : Block :=
  let b := (b.setTally 0x8000 1 (recordSeq r)).setTally 0x8000 5 (b.tallyGet 0x8000 2)
  { b with tally := { b.tally with saving := none, lastSaveAt := some b.time.mclk } }

/-- A write that met a flash error leaves its position with content that the spec does not give. -/
def Block.saveFailed (b : Block) : Block :=
  let b := b.tallyUp 0x8000 4
  { b with tally := { b.tally with saving := none }, draws := b.draws + 32768 }

def execTallySaveComplete (ok : Bool) (s : State) : Host.Outcome State Fault Refusal :=
  s.onFlash fun f b =>
    match b.tally.saving with
    | none => (f, b)
    | some r =>
      let at_ := recordAt (recordSeq r)
      if ok then ({ f with bytes := f.bytes.writeN at_ r }, b.saved r)
      else
        ({ f with bytes := f.bytes.writeN at_ ((List.range 32768).map fun i => (Config.freeWord (b.draws + i)).setWidth 8) },
          b.saveFailed)

def execSaveNow (eid : Nat) (tag : Byte) (value : Byte) (s : State) : Host.Outcome State Fault Refusal :=
  s.onBlock fun b => b.dictWrite eid tag 0x8000 7 [value] fun b =>
    let soon := match b.tally.lastSaveAt with
      | none => false
      | some t => b.time.mclk < t + 60 * 750000000
    if value != 1 || soon then .refused 1 b else .done b.saveDue

def execTallyClear (eid : Nat) (tag : Byte) (value : Byte) (s : State) : Host.Outcome State Fault Refusal :=
  s.onBlock fun b => b.dictWrite eid tag 0x8000 6 [value] fun b =>
    if value == 1 && (b.life.lcs == 1 || b.life.lcs == 2) then .done { b with tally := { b.tally with t := [] } }
    else .refused 1 b

/-! ### Counting intervals (R425, R426) -/

def droopBin (mv : Nat) : Nat := min 15 (mv / 10)

def tempBin (c : Int) : Nat := if c < 0 then 0 else min 15 (c.toNat / 8 + 1)

/-- A 1 ms interval ends: the largest depth of each enabled monitor, and the next interval begins with the present depth. -/
def Block.droopInterval (b : Block) : Block :=
  let b := b.each ((List.range 8).filter fun i => b.power.dmEnable.getLsbD i) fun i b =>
    b.tallyUp (0x8100 + i) (droopBin (b.power.maxDroop.getD i 0) + 1)
  b.modPower fun p => { p with maxDroop := (List.range 8).map b.depth }

/-- A 1 s interval ends with these readings of the sensors. -/
def Block.tempInterval (b : Block) (l : List Int) : Block :=
  b.each (List.range 8) fun i b => b.tallyUp (0x8110 + i) (tempBin (l.getD i 0 + b.start.thermTrim.getD i 0) + 1)

/-- The 1 ms interval of the droop histograms, or the 1 s interval of the temperature histograms, ends once it has passed. -/
def execHistogramInterval (temps : Option (List Int)) (s : State) : Host.Outcome State Fault Refusal :=
  s.onBlock fun b =>
    match temps with
    | none =>
      if b.start.stage == 0 || b.time.mclk < b.tally.droopAt + msClks 1 then b
      else { b with tally := { b.tally with droopAt := b.tally.droopAt + msClks 1 } }.droopInterval
    | some l =>
      if b.start.stage == 0 || b.time.mclk < b.tally.tempAt + msClks 1000 then b
      else { b with tally := { b.tally with tempAt := b.tally.tempAt + msClks 1000 } }.tempInterval l

/-- A minute of management clock has passed. -/
def execPowerOnMinute (s : State) : Host.Outcome State Fault Refusal :=
  s.onBlock fun b =>
    if b.start.stage == 0 || b.time.mclk < b.tally.minuteAt + msClks 60000 then b
    else { b with tally := { b.tally with minuteAt := b.tally.minuteAt + msClks 60000 } }.tallyUp 0x8000 2

end Sys2Proof.Machine
end

