-- ==== Sys2Proof/Machine/StartUp.lean ====
section
/-! DEFINITION. Start-up: the fuses, the configuration image, the release and the loss of power (R358, R359, R384 to R392, R432),
and the writing of a new image (R390). -/

namespace Sys2Proof.Machine

/-! ### The fuse stage (R357 to R359, R385, R386) -/

/-- The segments in ascending order: first bit and pattern (R357, R358). -/
def segTest : Nat × BitVec 64 := (0, 0x5A5AA5A53C3CC3C3)
def segProv : Nat × BitVec 64 := (64, 0x696996960FF0F00F)
def segField : Nat × BitVec 64 := (128, 0x3333CCCC5555AAAA)
def segAnalysis : Nat × BitVec 64 := (192, 0x0F0FF0F066669999)
def segScrap : Nat × BitVec 64 := (256, 0xFFFFFFFF00000000)

def segments : List (Nat × BitVec 64) := [segTest, segProv, segField, segAnalysis, segScrap]

def segValue (fuse : BitVec 4096) (s : Nat × BitVec 64) : BitVec 64 := fuse.extractLsb' s.1 64
def segBurnt (fuse : BitVec 4096) (s : Nat × BitVec 64) : Bool := segValue fuse s == s.2
def segPartial (fuse : BitVec 4096) (s : Nat × BitVec 64) : Bool := segValue fuse s != 0 && segValue fuse s != s.2

/-- The life-cycle state that the fuses decode to, as a code of R354 (R359). -/
def lcsOf (fuse : BitVec 4096) : Nat :=
  let t := segBurnt fuse segTest
  let p := segBurnt fuse segProv
  if segments.any (segPartial fuse) then 15
  else if segBurnt fuse segScrap then 7
  else if segBurnt fuse segAnalysis then 6
  else if segBurnt fuse segField && t && p then 4
  else if p && t then 3
  else if t then 2
  else if segments.all fun s => segValue fuse s == 0 then 1
  else 15

/-- The fuse SVN: consecutive ones from bit 1824 (R357). -/
def svnFrom (fuse : BitVec 4096) : Nat → Nat → Nat
  | 0, _ => 0
  | n + 1, i => if fuse.getLsbD i then 1 + svnFrom fuse n (i + 1) else 0

def svnOf (fuse : BitVec 4096) : Nat := svnFrom fuse 128 1824

def rootOf (fuse : BitVec 4096) : List Byte := toLe 32 (fuse.extractLsb' 320 256).toNat

/-- `n` signed fields of 4 bits from a bit on (R386). -/
def signed4 (fuse : BitVec 4096) (at_ : Nat) : List Int := (List.range 8).map fun i => (fuse.extractLsb' (at_ + 4 * i) 4).toInt

/-- MAX_SLICES from SLICE_LIM (R386). -/
def maxSlicesOf (fuse : BitVec 4096) : Nat :=
  let l := (fuse.extractLsb' 1960 5).toNat
  if l ≤ 27 then 28 - l else 1

/-- The valid entries of REPAIR: SRAM macro and column group (R386). -/
def repairsOf (fuse : BitVec 4096) : List (Nat × Nat) :=
  ((List.range 128).map fun i => (fuse.extractLsb' (2048 + 16 * i) 16).toNat).filterMap fun e =>
    if bit e 15 then some (fld e 14 4, fld e 3 0) else none

/-- `n` bytes drawn from the random source (R373). -/
def Block.draw (b : Block) (n : Nat) : List Byte × Block :=
  ((List.range n).map fun i => Config.randomByte (b.draws + i), { b with draws := b.draws + n })

/-- A new CHALLENGE, which can be drawn while the random source is sound (R366, R373). -/
def Block.newChallenge (b : Block) : Block :=
  if b.life.rngFault then b
  else
    let (c, b) := b.draw 32
    b.modLife fun l => { l with challenge := c }

/-- What the management domain and every other domain hold after a loss of power: nothing (R384). External memory, the model's
own counters and the record of what was driven are not the block's to lose. -/
def Block.powerless (b : Block) : Block :=
  { Block.reset with
    draws := b.draws, upsets := b.upsets, keyGens := b.keyGens, mem := { b.mem with poison := [] }
    coh := { Coh.reset with draws := b.coh.draws }, ports := { Ports.reset with out := b.ports.out } }

/-- The fuse stage on a block without state. -/
def Block.fuseStage (b : Block) (fuse : BitVec 4096) (fuseOk : Bool) : Block :=
  if !fuseOk then b.startStops 2
  else
    let lcs := lcsOf fuse
    let b := b.modLife fun l => { l with lcs := lcs, svn := svnOf fuse }
    let b := b.modStart fun t =>
      { t with stage := 1, clusterEn := ~~~(fuse.extractLsb' 1952 8), maxSlices := maxSlicesOf fuse, serial := fuse.extractLsb' 1760 64
               droopCal := signed4 fuse 1968, thermTrim := signed4 fuse 2000, repairs := repairsOf fuse }
    let b := b.loadRepairs (118 ≤ ·)
    let b := b.tallyUp 0x8000 3
    if lcs == 7 || lcs == 15 then b.startStops 1 else b.newChallenge

/-- A management clock after MGT_RST_N has risen: CFG_RST_N stays low for 10 µs (R450). -/
def StartUp.clock (t : StartUp) : StartUp :=
  { t with rstClks := min (10 * usClk) (t.rstClks + 1), cfgRstN := 10 * usClk ≤ t.rstClks + 1 }

def execMgtRstNDeassert (fuseOk : Bool) (s : State) : Host.Outcome State Fault Refusal :=
  s.onBlock fun b => if b.start.stage == 0 then b.fuseStage s.fuse fuseOk else b

/-- The copies of a sealed record, and the index of the one that the next write of the record goes to, with its sequence number
(R374, R387, R430). -/
def Flash.sealCopy (f : Flash) (r : Nat) : Option SealCopy := (inForce SealCopy.seq (Tab.find f.sealed r) (Tab.find f.sealed (r + 224))).map (·.2)
def Flash.sealNext (f : Flash) (r : Nat) : Nat × Nat :=
  let x := nextCopy SealCopy.seq (Tab.find f.sealed r) (Tab.find f.sealed (r + 224))
  (if x.1 then r + 224 else r, x.2)

/-- Records of the sealed store that no flash write has ended are lost, each write leaving its copy torn, and with them the block's
count of the time since each was last written (R374, R384, R416, R430). -/
def Flash.powerless (f : Flash) : Flash :=
  { f with sealed := (Tab.keys f.held).foldl (fun t r => Tab.erase t (f.sealNext r).1) f.sealed, held := [], sealAt := [] }

def execLossOfPower (s : State) : Host.Outcome State Fault Refusal :=
  s.onFlash fun f b => (f.powerless, b.powerless)

/-- A new start-up ends a permanent transition (R360); MGT_RST_N stays high. -/
def Block.restart (b : Block) (fuse : BitVec 4096) : Block :=
  (b.powerless.fuseStage fuse true).modStart fun t => { t with rstClks := b.start.rstClks, cfgRstN := b.start.cfgRstN }

/-! ### The configuration image (R387 to R390) -/

def slotAt (slot : Nat) : Nat := slot * 0x800000

/-- The sections of an image body: type, offset and length. -/
def sectionsOf (body : List Byte) (n : Nat) : List (Nat × Nat × Nat) :=
  (List.range n).map fun i =>
    let e := (body.drop (16 * i)).take 16
    (leNat (e.take 2), leNat ((e.drop 4).take 4), leNat ((e.drop 8).take 4))

/-- A directory entry with a nonzero other byte, a misaligned offset, or a section outside the body. -/
def sectionBad (body : List Byte) (i : Nat) : Bool :=
  let e := (body.drop (16 * i)).take 16
  leNat ((e.drop 2).take 2) != 0 || leNat ((e.drop 12).take 4) != 0 || leNat ((e.drop 4).take 4) % 128 != 0 ||
    body.length < leNat ((e.drop 4).take 4) + leNat ((e.drop 8).take 4)

/-- A section of an image, where it stands exactly once. -/
def sectionOf (body : List Byte) (n t : Nat) : Option (List Byte) :=
  match (sectionsOf body n).filter fun x => x.1 == t with
  | [x] => some ((body.drop x.2.1).take x.2.2)
  | _ => none

/-- A binding from its 8 bytes (R411). -/
def bindingOf (bs : List Byte) : EidBinding :=
  { eid := leNat (bs.take 1), role := leNat ((bs.drop 1).take 1), slices := BitVec.ofNat 32 (leNat ((bs.drop 4).take 4)) }

/-- The first of the conditions 1 to 3 of R411 that a binding breaks among the others (0: none). -/
def bindingBad (bs : List Byte) (others : List EidBinding) : Nat :=
  let x := bindingOf bs
  let masks := (others.filter fun o => o.role == 3).map (·.slices)
  if x.role == 0 then (if leNat ((bs.drop 2).take 2) != 0 || x.slices != 0 then 1 else 0)
  else if leNat ((bs.drop 2).take 2) != 0 || (x.role != 3 && x.slices != 0) || x.slices &&& 0xE0000001 != 0 || 4 < x.role then 1
  else if x.eid < 8 || 254 < x.eid || others.any fun o => o.role != 0 && o.eid == x.eid then 2
  else if x.role == 3 && (x.slices == 0 || masks.any fun m => m &&& x.slices != 0 && m != x.slices) then 3
  else 0

/-- SETTINGS is whole entries of 16 bytes, with zeros in bytes 3 to 7 of each (R389). -/
def settingsForm (bs : List Byte) : Bool :=
  bs.length % 16 == 0 && (List.range (bs.length / 16)).all fun i => (((bs.drop (16 * i)).drop 3).take 5).all (· == 0)

/-- The settings that the SETTINGS section gives, each as its last entry has it: index, subindex, value (R389). -/
def settingsOf (bs : List Byte) : List (Nat × Nat × Nat) :=
  (List.range (bs.length / 16)).map fun i =>
    let e := (bs.drop (16 * i)).take 16
    (leNat (e.take 2), leNat ((e.drop 2).take 1), leNat ((e.drop 8).take 8))

def settingOf (l : List (Nat × Nat × Nat)) (i s : Nat) : Option Nat := ((l.reverse.find? fun x => x.1 == i && x.2.1 == s).map (·.2.2))

/-- An entry is given, with a value in its range. -/
def settingOk (l : List (Nat × Nat × Nat)) (i s : Nat) (ok : Nat → Bool) : Bool := ((settingOf l i s).map ok).getD false

/-- The bindings of an image, a FAC binding of an image applied in FIELD as unused (R411). -/
def imageBindings (lcs : Nat) (l : List (Nat × Nat × Nat)) : List (Nat × List Byte) :=
  (List.range 32).filterMap fun k =>
    match settingOf l 0x1020 (k + 1) with
    | none => none
    | some v =>
      let x := bindingOf (toLe 8 v)
      if x.role == 4 && lcs == 4 then none else if v == 0 then none else some (k, toLe 8 v)

def bindingsOk (l : List (Nat × List Byte)) : Bool :=
  (l.all fun x => bindingBad x.2 ((l.filter fun y => y.1 != x.1).map fun y => bindingOf y.2) == 0) &&
    l.any fun x => (bindingOf x.2).role == 1

/-- RECONF_WINDOW of an image: a descriptor that R106 accepts, of PERIOD 1 (R178). -/
def reconfOk (v : Nat) : Bool := (winRefusal (BitVec.ofNat 64 v)).isNone && winPeriod (BitVec.ofNat 64 v) == 1

/-- The SETTINGS section leaves every entry of default Image that no other section sets with a valid value (R389, R410). -/
def settingsOk (lcs : Nat) (l : List (Nat × Nat × Nat)) : Bool :=
  settingOk l 0x1000 0x0A (· < 2 ^ 32) && settingOk l 0x2000 2 reconfOk && settingOk l 0x4001 5 (fun v => 1 ≤ v && v ≤ 255) &&
    settingOk l 0x5000 1 (· < 65536) && settingOk l 0xA000 1 (· < 4096) && bindingsOk (imageBindings lcs l)

/-- An image as read from a slot or from host memory: header, body, and the parts that the block applies. -/
structure Image where
  header : List Byte
  body : List Byte
  firmware : List Byte
  map : SweepMap
  memory : List Nat
  commons : List Nat
  fed : List Byte
  settings : List (Nat × Nat × Nat)
  deriving DecidableEq, Repr

/-- The sections of a body that passes R389. -/
def imageParts (lcs : Nat) (h body : List Byte) : Option Image :=
  let n := leNat ((h.drop 169).take 1)
  if n == 0 || 32 < n || (List.range n).any (sectionBad body) then none
  else
    match sectionOf body n 1, sectionOf body n 2, sectionOf body n 3, sectionOf body n 4, sectionOf body n 5, sectionOf body n 6 with
    | some fw, some sm, some me, some co, some fe, some se =>
      let g := leNat (co.take 1)
      let commons := (List.range g).map fun i => leNat ((co.drop (i + 1)).take 1)
      let memory := (List.range 32).map fun i => leNat ((me.drop (4 * i)).take 4)
      let count := (memory.filter (· != 0)).length
      let (m, rule) := mapOf g sm
      let l := settingsOf se
      let inst := leNat (fe.take 1)
      if rule == 0 && 128 ≤ me.length && 5 ≤ count && 4 ≤ g && g ≤ 16 && g < count && g + 1 ≤ co.length && commons.dedup.length == g &&
          (commons.all fun x => x < 32 && memory.getD x 0 != 0) && 3 ≤ fe.length && inst < leNat ((fe.drop 1).take 1) &&
          2 ≤ leNat ((fe.drop 1).take 1) && leNat ((fe.drop 1).take 1) ≤ 8 && leNat ((fe.drop 2).take 1) == (if inst == 0 then 1 else 0) && settingsForm se &&
          settingsOk lcs l then
        some { header := h, body := body, firmware := fw, map := m, memory := memory, commons := commons, fed := fe, settings := l }
      else none
    | _, _, _, _, _, _ => none

/-- The body of an image. -/
def imageBody (bs : List Byte) : List Byte := (bs.drop 320).take (leNat ((bs.drop 8).take 8))

/-- The header and the body's digest pass R365 with R388. -/
def imageSound (fuse : BitVec 4096) (lcs svn : Nat) (bs : List Byte) : Bool :=
  let h := bs.take 320
  let len := leNat ((h.drop 8).take 8)
  let body := imageBody bs
  let sig := leNat ((h.drop 2).take 1)
  h.length == 320 && leNat (h.take 2) == 1 && 4 ≤ len && len ≤ 8388288 && len % 4 == 0 && body.length == len &&
    leNat ((h.drop 16).take 8) == 0 && (Config.sha384 body).toNat == leNat ((h.drop 24).take 48) && svn ≤ leNat ((h.drop 3).take 1) &&
    leNat ((h.drop 3).take 1) ≤ 128 &&
    (if sig == 0 then lcs == 1 || lcs == 2 || lcs == 6
      else signedBy fuse sig ((h.drop 72).take 97) (h.take 224) ((h.drop 224).take 96))

/-- The image that bytes hold, where they pass R365 with R388 and R389. -/
def imageOf (fuse : BitVec 4096) (lcs svn : Nat) (bs : List Byte) : Option Image :=
  if imageSound fuse lcs svn bs then imageParts lcs (bs.take 320) (imageBody bs) else none

/-- The rule of R118 that the sweep map of a sound image breaks (0: none, or the image is refused before its map is judged). -/
def imageMapRule (fuse : BitVec 4096) (lcs svn : Nat) (bs : List Byte) : Nat :=
  let n := leNat ((bs.drop 169).take 1)
  if !imageSound fuse lcs svn bs || n == 0 || 32 < n || (List.range n).any (sectionBad (imageBody bs)) then 0
  else
    match sectionOf (imageBody bs) n 2, sectionOf (imageBody bs) n 4 with
    | some sm, some co => (mapOf (leNat (co.take 1)) sm).2
    | _, _ => 0

/-- A slot's bytes as far as its header gives its length. -/
def Flash.slotBytes (f : Flash) (slot : Nat) : List Byte :=
  let h := f.bytes.readN (slotAt slot) 320
  h ++ f.bytes.readN (slotAt slot + 320) (min 8388288 (leNat ((h.drop 8).take 8)))

def Flash.slotImage (f : Flash) (fuse : BitVec 4096) (b : Block) (slot : Nat) : Option Image :=
  imageOf fuse b.life.lcs b.life.svn (f.slotBytes slot)

/-- The rule of R118 that a slot's map breaks. -/
def Flash.slotRule (f : Flash) (fuse : BitVec 4096) (b : Block) (slot : Nat) : Nat :=
  imageMapRule fuse b.life.lcs b.life.svn (f.slotBytes slot)

/-- A refused map's rule is recorded (R118). -/
def Block.noteRule (b : Block) (rule : Nat) : Block :=
  if rule == 0 then b else b.modParade fun p => { p with mapRefusal := rule }

/-- A slot's header can be read. DEDUCED: one whose FORMAT is not that of an image cannot (notes/assumptions/128.md). -/
def Flash.headed (f : Flash) (slot : Nat) : Bool := leNat (f.bytes.readN (slotAt slot) 2) == 1

/-- The slot tried first; one whose header cannot be read is tried last (R390). -/
def Flash.firstSlot (f : Flash) : Nat :=
  if f.headed 0 != f.headed 1 then (if f.headed 1 then 1 else 0)
  else if serialNewer (leNat (f.bytes.readN (slotAt 1 + 4) 4)) (leNat (f.bytes.readN (slotAt 0 + 4) 4)) then 1 else 0

def imageDigest (x : Image) : BitVec 384 := Config.sha384 (x.header.take 224)

/-! ### The key ladder (R371) -/

/-- HMAC-SHA-384 (RFC 2104) with a key of at most a block of 128 bytes. -/
def hmac (key msg : List Byte) : List Byte :=
  let k := key ++ List.replicate (128 - key.length) 0
  digestBytes (Config.sha384 (k.map (· ^^^ 0x5C) ++ digestBytes (Config.sha384 (k.map (· ^^^ 0x36) ++ msg))))

/-- Output number `i` of HKDF (RFC 5869) over ROOT with an empty salt: the counter ends the info string. DESIGN CHOICE: it is
little-endian (notes/assumptions/126.md). -/
def hkdf (fuse : BitVec 4096) (info : List Byte) (i : Nat) : List Byte :=
  hmac (hmac (List.replicate 48 0) (rootOf fuse)) (info ++ toLe 4 i ++ [1])

/-- The order of the group of P-384. -/
def p384Order : Nat :=
  0xFFFFFFFFFFFFFFFFFFFFFFFFFFFFFFFFFFFFFFFFFFFFFFFFC7634D81F4372DDF581A0DB248B0A77AECEC196ACCC52973

/-- The first output, read big-endian, that lies in [1, n - 1], of the outputs from number `i` on; the last of 256 where none does,
which no part meets (notes/assumptions/126.md). -/
def ecdsaKey (fuse : BitVec 4096) (info : List Byte) : Nat → Nat → List Byte
  | 0, i => hkdf fuse info i
  | n + 1, i =>
    let k := leNat (hkdf fuse info i).reverse
    if 1 ≤ k && k < p384Order then hkdf fuse info i else ecdsaKey fuse info n (i + 1)

/-- "ZH-DEVID", "ZH-ALIAS" and "ZH-SEAL". -/
def infoDevid : List Byte := [0x5A, 0x48, 0x2D, 0x44, 0x45, 0x56, 0x49, 0x44]
def infoAlias : List Byte := [0x5A, 0x48, 0x2D, 0x41, 0x4C, 0x49, 0x41, 0x53]
def infoSeal : List Byte := [0x5A, 0x48, 0x2D, 0x53, 0x45, 0x41, 0x4C]

def deviceKey (fuse : BitVec 4096) : List Byte := ecdsaKey fuse (infoDevid ++ toLe 8 (fuse.extractLsb' 1760 64).toNat) 255 0
def Block.aliasKeyOf (b : Block) (fuse : BitVec 4096) : List Byte :=
  ecdsaKey fuse (infoAlias ++ digestBytes b.start.configDigest ++ toLe 1 b.life.svn) 255 0
/-- The sealing key of a tag: an AES-256 key. -/
def sealKey (fuse : BitVec 4096) (tag : List Byte) : List Byte := (hkdf fuse (infoSeal ++ tag) 0).take 32

/-- Measurement 5 (R376). -/
def Block.measState (b : Block) : List Byte :=
  toLe 1 b.lcsCode ++ toLe 1 b.life.svn ++ toLe 4 b.behaviour ++ toLe 4 b.life.rights.toNat ++ toLe 4 b.life.dslices.toNat ++ toLe 2 0

/-- The alias key and its certificate, signed by a key (R375). -/
def Block.setAlias (b : Block) (key signer : List Byte) : Block :=
  let c := Config.aliasCert (Config.publicKey key) (digestBytes b.start.configDigest) (digestBytes b.start.mgmtFwDigest) b.measState
  b.modLife fun l => { l with aliasKey := some key, aliasCert := c ++ Config.sign signer c }

/-- The alias key: drawn in TEST and self-signed, from ROOT in PROVISIONED and FIELD, none in BLANK and ANALYSIS (R371 to R373). -/
def Block.deriveKeys (b : Block) (fuse : BitVec 4096) : Block :=
  if b.life.lcs == 2 then
    let (k, b) := b.draw 48
    if b.life.rngFault then b else b.setAlias k k
  else if b.life.lcs == 3 || b.life.lcs == 4 then b.setAlias (b.aliasKeyOf fuse) (deviceKey fuse)
  else b

/-- The settings of an image in force. -/
def Block.applySettings (b : Block) (x : Image) : Block :=
  let v (i s : Nat) : Nat := (settingOf x.settings i s).getD 0
  let b := b.modDict fun d =>
    { d with vendorIana := v 0x1000 0x0A, hostSlotClk := v 0x4001 5, feedGroup := v 0x5000 1, package := v 0xA000 1
             bindings := (imageBindings b.life.lcs x.settings).map fun y => (y.1, bindingOf y.2) }
  b.modRecon fun r => { r with window := BitVec.ofNat 64 (v 0x2000 2) }

/-- The image is in force (R385, R389); its commons groups carry owner tag 31 (R21). -/
def Block.applyImage (b : Block) (x : Image) : Block :=
  let b := b.modParade fun p => { p with map := x.map }
  let b := b.modRecon fun r => { r with groupOwner := x.commons.foldl (fun t g => Tab.put t g 31) r.groupOwner }
  let b := b.modStart fun t =>
    { t with configDigest := imageDigest x, mgmtFwDigest := Config.sha384 x.firmware, imageSvn := leNat ((x.header.drop 3).take 1)
             memMib := ((List.range 32).map fun g => (g, x.memory.getD g 0)).filter fun y => y.2 != 0
             commons := x.commons, inst := leNat (x.fed.take 1), instCount := leNat ((x.fed.drop 1).take 1)
             lead := leNat ((x.fed.drop 2).take 1) == 1 }
  b.applySettings x

/-- The retirement list comes from the flash (R330). -/
def Block.loadRetired (b : Block) (f : Flash) : Block :=
  b.modLadder fun l =>
    { l with retCores := f.retired.cores, retGroups := f.retired.groups, usedWays := f.retired.ways, usedBanks := f.retired.banks }

/-- The image stage with the slot that passed. -/
def Block.imageStage (b : Block) (fuse : BitVec 4096) (f : Flash) : Block :=
  let first := f.firstSlot
  let other := 1 - first
  let go (slot : Nat) (fell : Bool) (x : Image) : Block :=
    let b := (b.applyImage x).modStart fun t => { t with stage := 2, slot := slot, fellBack := fell }
    let b := ((b.loadRetired f).loadTallies f).deriveKeys fuse
    let b := if b.life.rngFault then b else b.freshKey 63 0
    if fell then b.tallyUp 0x8010 0x14 else b
  match f.slotImage fuse b first with
  | some x => go first false x
  | none =>
    let rule := f.slotRule fuse b first
    match f.slotImage fuse b other with
    | some x => (go other true x).noteRule rule
    | none => (((b.noteRule rule).noteRule (f.slotRule fuse b other)).startStops 3).modStart fun t => { t with fellBack := true }

/-- The flash can be read once CFG_RST_N is high (R450). -/
def execImageStage (flashOk : Bool) (s : State) : Host.Outcome State Fault Refusal :=
  s.onBlock fun b =>
    if b.start.stage != 1 || !b.start.cfgRstN then b else if flashOk then b.imageStage s.fuse s.flash else b.startStops 4

/-! ### Release and running (R385, R391, R392, R432) -/

/-- The release domains. -/
def Block.releaseDomains (b : Block) : List Nat :=
  117 :: (((List.range 8).filter fun c => b.start.clusterEn.getLsbD c).map (72 + ·) ++ (b.start.commons.map (80 + ·)) ++ [112, 113, 114, 115, 116])

/-- The memory ports of the commons groups (R437). -/
def Block.commonsPorts (b : Block) : List Nat := b.start.commons.flatMap fun g => [4 * g, 4 * g + 1, 4 * g + 2, 4 * g + 3]

def Block.releaseBegins (b : Block) : Block :=
  let b := (b.modStart fun t => { t with stage := 3 }).modPower fun p => b.releaseDomains.foldl (fun p d => p.wantUp d) p
  b.each b.otherInsts fun i b => b.fedCtrl i 3 [1]

/-- Every release domain is on or has failed, and the commons ports are ready. -/
def Block.releaseReady (b : Block) : Bool :=
  (b.releaseDomains.all fun d => b.power.isOn d || b.power.isFailed d) && b.commonsPorts.all fun p => Tab.get false b.start.mcpInit p

/-- LEVEL = min(BEHAVIOUR_REQ, every LEVEL_MAX) (R432). -/
def StartUp.levelNow (t : StartUp) : Nat := (t.levelMax.map (·.2)).foldl min (min t.behaviourReq 1)

/-- The compute-clock gates open, and PARADE_STATE is EMPTY. -/
def Block.releaseEnds (b : Block) : Block :=
  (b.gatesOpen.modStart fun t => { t with released := true, level := t.levelNow }).modParade fun p => { p with st := .empty }

def execReleaseStage (s : State) : Host.Outcome State Fault Refusal :=
  s.onBlock fun b =>
    if b.start.stage == 2 && b.power.level < 2 then b.releaseBegins
    else if b.start.stage == 3 && !b.start.released && b.releaseReady then b.releaseEnds
    else b

def execRunningStage (s : State) : Host.Outcome State Fault Refusal :=
  s.onBlock fun b => if b.start.stage == 3 && b.start.released then b.modStart fun t => { t with stage := 4 } else b

def execMcpInitDone (port : Nat) (s : State) : Host.Outcome State Fault Refusal :=
  s.onBlock fun b => b.modStart fun t => { t with mcpInit := Tab.set false t.mcpInit port true }

/-- The port's shim came on 100 ms ago (R439). -/
def Block.memoryLate (b : Block) (port : Nat) : Bool :=
  ((Tab.find b.power.onAt (80 + b.recon.shimOf (port / 4))).map fun t => decide (t + 100000 * usClk ≤ b.time.mclk)).getD false

def execMcpInitTimeout (port : Nat) (s : State) : Host.Outcome State Fault Refusal :=
  s.onBlock fun b =>
    if b.start.stage == 3 && !b.start.released && b.commonsPorts.contains port && !Tab.get false b.start.mcpInit port &&
        b.memoryLate port then b.startStops 6
    else b

/-! ### Writing a new image (R390) -/

def execImageCtrl (eid : Nat) (tag : Byte) (value : Byte) (s : State) : Host.Outcome State Fault Refusal :=
  s.onBlock fun b => b.dictWrite eid tag 0x1010 1 [value] fun b =>
    if value != 1 || b.start.imageStatus == 1 then .refused 1 b
    else
      let n := b.start.imageCount
      let b := (b.modStart fun t => { t with imageStatus := 1, imageLeft := n, imageBytes := [] }).keep 0x1010 1 1
      .done (if n == 0 then b.modStart fun t => { t with imageStatus := 2 } else b.fetchList .imageList b.start.imageList n n)

/-- The write ends as failed. -/
def Block.imageFails (b : Block) : Block := b.modStart fun t => { t with imageStatus := 2, imageLeft := 0, imageBytes := [] }

/-- The last bytes have arrived: the image is checked before the slot is erased. -/
def Block.imageArrived (b : Block) (fuse : BitVec 4096) : Block :=
  let x := b.start.imageBytes
  if (imageOf fuse b.life.lcs b.life.svn x).isSome then b else (b.noteRule (imageMapRule fuse b.life.lcs b.life.svn x)).imageFails

/-- The next list entry of the image, or its end. -/
def Block.imageNext (b : Block) (fuse : BitVec 4096) : Block :=
  if b.start.imageLeft == 0 then b.imageArrived fuse else b.fetchList .imageList b.start.imageList b.start.imageCount b.start.imageLeft

/-- A list entry has arrived. -/
def Block.imageEntry (b : Block) (fuse : BitVec 4096) (bs : List Byte) : Block :=
  let len := leNat ((bs.drop 8).take 4)
  let b := b.modStart fun t => { t with imageLeft := t.imageLeft - 1 }
  if len == 0 then b.imageNext fuse
  else b.hostRead { addr := leNat (bs.take 8), len := readChunk len, pasid := 0, use := .imageData len (leNat (bs.take 8)) }

/-- Bytes of an entry have arrived; an image longer than a slot fails. -/
def Block.imageData (b : Block) (fuse : BitVec 4096) (len addr : Nat) (bs : List Byte) : Block :=
  let b := b.modStart fun t => { t with imageBytes := t.imageBytes ++ bs }
  if 0x800000 < b.start.imageBytes.length then b.imageFails
  else if bs.length < len then
    b.hostRead { addr := addr + bs.length, len := readChunk (len - bs.length), pasid := 0
                 use := .imageData (len - bs.length) (addr + bs.length) }
  else b.imageNext fuse

/-- No part of the image is still on its way. -/
def Block.imageWhole (b : Block) : Bool :=
  let mine (r : HostRead) : Bool := match r.use with
    | .imageList => true
    | .imageData _ _ => true
    | _ => false
  b.start.imageLeft == 0 && !(b.ports.hostReads.any fun x => mine x.2) && !b.ports.hostWait.any mine

/-- The flash write into the slot not in use ends. -/
def execImageWriteComplete (ok : Bool) (s : State) : Host.Outcome State Fault Refusal :=
  s.onFlash fun f b =>
    if b.start.imageStatus == 1 && b.imageWhole then
      if ok then
        ({ f with bytes := f.bytes.writeN (slotAt (1 - b.start.slot)) b.start.imageBytes },
          b.modStart fun t => { t with imageStatus := 0, imageBytes := [] })
      else (f, b.imageFails)
    else (f, b)

end Sys2Proof.Machine
end

