-- ==== Sys2Proof/Machine/Life.lean ====
section
/-! DEFINITION. The life cycle: transitions and the burning of fuses (R360 to R363, R451), debug sessions and readout (R355, R366 to
R370), the tenant-sealed store (R374, R416, R430), measurements (R376, R377) and SPDM (R375). -/

namespace Sys2Proof.Machine

/-! ### Certificates (R366) -/

/-- The slice is being created: its bit of SLICES_ACTIVE is not yet set (R184). -/
def Block.beingMade (b : Block) (n : Nat) : Bool :=
  (b.recon.run.map fun r => r.req.slice == n && r.req.act == .create && r.moves).getD false

/-- SLICES_ACTIVE (R178). -/
def Block.slicesActive (b : Block) : Nat := maskOf (b.live.filter fun n => !b.beingMade n)

/-- A certificate as its entry holds it: the reserved bytes 54, 55 and 153 to 159 stay zero (R8, R366). -/
def certClean (c : List Byte) : List Byte :=
  c.zipIdx.map fun x => if x.2 == 54 || x.2 == 55 || (153 ≤ x.2 && x.2 < 160) then 0 else x.1

/-- What TRANS_REQUEST holds after a write: a transition certificate, or a provisioning request, which has no reserved field (R362).
-/
def reqClean (c : List Byte) : List Byte := if c.getD 2 0 == 2 then certClean c else c

/-- Bytes [i, i + n) of a request entry of 256 bytes as a number. -/
def reqField (c : List Byte) (i n : Nat) : Nat := leNat ((List.range n).map fun k => c.getD (i + k) 0)

def debugKey (fuse : BitVec 4096) : BitVec 384 := fuse.extractLsb' 1376 384

/-- Format of a certificate of a KIND: RIGHTS as R367 defines them, TARGET, SLICES and DURATION as the KIND has them. -/
def certFormatBad (c : List Byte) (kind : Nat) : Bool :=
  reqField c 0 2 != 1 || reqField c 2 1 != kind ||
    (if kind == 1 then reqField c 3 1 != 5 || 63 < reqField c 4 4 || reqField c 52 2 == 0
      else (reqField c 3 1 != 6 && reqField c 3 1 != 7) || reqField c 4 4 != 0 || reqField c 52 2 != 0) ||
    (BitVec.ofNat 32 (reqField c 48 4)) &&& 0xE0000001 != 0

def certBytes (c : List Byte) (i n : Nat) : List Byte := (List.range n).map fun k => c.getD (i + k) 0

/-- The first thing wrong with a certificate: 1 format, 2 SERIAL, 3 CHALLENGE, 4 key digest, 5 signature (0: none). -/
def Block.certBad (b : Block) (fuse : BitVec 4096) (c : List Byte) (kind : Nat) : Nat :=
  if certFormatBad c kind then 1
  else if reqField c 8 8 != b.start.serial.toNat then 2
  else if b.life.rngFault || certBytes c 16 32 != b.life.challenge then 3
  else if Config.sha384 (certBytes c 56 97) != debugKey fuse then 4
  else if !Config.ecdsaOk (certBytes c 56 97) (certBytes c 0 160) (certBytes c 160 96) then 5
  else 0

/-! ### A debug session (R367 to R370) -/

/-- Harts of a slice that runs unsigned firmware halt, and its FIRMWARE_DIGEST becomes zero (R369). -/
def Block.stopUnsigned (b : Block) (n : Nat) : Block :=
  if (b.slice n).sec.fwUnsigned then (b.haltAll n).modSec n fun x => { x with fwDigest := 0, fwUnsigned := false } else b

/-- FIELD-DEBUG closes. -/
def Block.closeDebug (b : Block) : Block :=
  if b.life.debugOpen then
    let arg := b.life.rights.toNat + 2 ^ 32 * b.life.dslices.toNat
    let b := b.modLife fun l => { l with debugOpen := false, rights := 0, dslices := 0, closeStride := 0 }
    ((b.each b.live fun n b => b.stopUnsigned n).regenAll).report 4 0xFF 0 arg
  else b

/-- FIELD-DEBUG opens with a certificate that passed. -/
def Block.openDebug (b : Block) (c : List Byte) : Block :=
  let b := b.modLife fun l =>
    { l with debugOpen := true, rights := BitVec.ofNat 32 (reqField c 4 4), dslices := BitVec.ofNat 32 (reqField c 48 4)
             closeStride := BitVec.ofNat 64 (dfld b.stamp 63 16 + reqField c 52 2) }
  (b.regenAll.tallyUp 0x8010 0x0F).report 4 0xFF 1 (reqField c 4 4 + 2 ^ 32 * reqField c 48 4)

def Block.debugRefused (b : Block) (r : Nat) : WriteRes := .refused 1 (b.modLife fun l => { l with debugResult := r })

/-- The certificate in DEBUG_CERT is checked, and a new CHALLENGE is drawn, whatever the outcome (R366, R370). -/
def Block.tryDebug (b : Block) (fuse : BitVec 4096) : WriteRes :=
  let c := b.life.cert
  if b.life.debugOpen then b.debugRefused 7
  else
    match b.certBad fuse c 1 with
    | 0 =>
      let b := b.newChallenge
      if b.life.lcs == 4 && !b.life.inTransition then .done ((b.modLife fun l => { l with debugResult := 0 }).openDebug c)
      else b.debugRefused 6
    | r => b.newChallenge.debugRefused r

def execDebugOpen (eid : Nat) (tag : Byte) (s : State) : Host.Outcome State Fault Refusal :=
  s.onBlock fun b => b.dictWrite eid tag 0x6001 3 [1] fun b => b.tryDebug s.fuse

def execDebugClose (eid : Nat) (tag : Byte) (s : State) : Host.Outcome State Fault Refusal :=
  s.onBlock fun b => b.dictWrite eid tag 0x6001 3 [2] fun b => .done (b.closeDebug.modLife fun l => { l with debugResult := 0 })

/-- Consent of a slice is set or withdrawn; a withdrawal acts as a close on that slice alone (R369). -/
def Block.setConsent (b : Block) (n : Nat) (v : Bool) : Block :=
  let b := b.modSec n fun x => { x with consent := v }
  if b.life.debugOpen && !v then (b.stopUnsigned n).regen n else b

def execDebugConsent (slice eid : Nat) (tag : Byte) (value : Byte) (s : State) : Host.Outcome State Fault Refusal :=
  s.onBlock fun b => b.dictWrite eid tag (0x6200 + slice) 1 [value] fun b => .done (b.setConsent slice (value != 0))

/-! ### Debug readout (R355, R367, R368) -/

/-- A right of the session acts on slice n. -/
def Block.rightOn (b : Block) (r n : Nat) : Bool :=
  b.life.debugOpen && b.life.rights.getLsbD r && b.life.dslices.getLsbD n && (b.slice n).sec.consent && n != 0

/-- The range touches ROOT or ROOT_CHECK, bytes 40 to 75 of the array. -/
def touchesRoot (off n : Nat) : Bool := off < 76 && 40 < off + n

/-- The readout is allowed. -/
def Block.readoutOk (b : Block) (t : DebugTarget) (off n : Nat) : Bool :=
  let open_ := b.life.lcs == 1 || b.life.lcs == 2 || b.life.lcs == 6
  match t with
  | .fuses => !touchesRoot off n && (open_ || (b.life.debugOpen && b.life.rights.getLsbD 5))
  | .management => open_ || (b.life.debugOpen && b.life.rights.getLsbD 0)
  | .memory g => open_ || b.rightOn 3 (b.groupOwner g)
  | .scratchpad c => open_ || b.rightOn 2 (b.core c).owner
  | .registers c => open_ || b.rightOn 2 (b.core c).owner
  | .adapterStore c => open_ || b.rightOn 2 (b.core c).owner
  | .clusterWay cl w => open_ || b.rightOn 2 (b.wayOwner cl w)
  | .accumulator _ _ _ => open_
  | .scan _ => open_ || (b.life.debugOpen && b.life.rights.getLsbD 4 && b.slicesActive == 0)
  | .mgmtCore _ => open_ || (b.life.debugOpen && b.life.rights.getLsbD 0)
  | .bist _ => b.start.stage != 0 && !b.locked

/-- Memory as the shim decrypts it: each line under the key pair that it was written under, while a selector still holds that. -/
def Block.shimByte (b : Block) (k : Nat) : Byte :=
  let w := Tab.get 0 b.mem.keyGen (k / 128)
  if b.keys.any fun x => x.2.gen == w then b.rdByte w k else b.rdByte 0 k

/-- A byte of a table of 32-bit values. -/
def wordByte (t : Tab Word) (i : Nat) : Byte := ((Tab.get 0 t (i / 4)).extractLsb' (8 * (i % 4)) 8)

/-- A byte of a 64-bit value. -/
def dwordByte (w : Dword) (i : Nat) : Byte := w.extractLsb' (8 * (i % 8)) 8

/-- The register files of a core as the model lays them out (notes/assumptions/69.md): x0 to x31, v0 to v31, p1 to p7, a0 to a7,
then pc, mstatus, mtvec, mepc, mcause, mtval and zh.ctx. -/
def Core.regByte (c : Core) (i : Nat) : Byte :=
  if i < 256 then dwordByte (Tab.get 0 c.hart.x (i / 8)) i
  else if i < 65792 then wordByte c.vec.v (i - 256)
  else if i < 66240 then
    let k := 512 + 8 * (i - 65792)
    ((List.range 8).foldl (fun n j => n + if Tab.get false c.vec.p (k + j) then 2 ^ j else 0) 0 : Nat)
  else if i < 66304 then dwordByte (Tab.get 0 c.vec.a ((i - 66240) / 8)) i
  else
    match (i - 66304) / 8 with
    | 0 => dwordByte c.hart.pc i
    | 1 => dwordByte (Tab.get 0 c.hart.csr 0x300) i
    | 2 => dwordByte (Tab.get 0 c.hart.csr 0x305) i
    | 3 => dwordByte (Tab.get 0 c.hart.csr 0x341) i
    | 4 => dwordByte (Tab.get 0 c.hart.csr 0x342) i
    | 5 => dwordByte (Tab.get 0 c.hart.csr 0x343) i
    | 6 => dwordByte (BitVec.ofNat 64 c.hart.zhCtx) i
    | _ => 0

/-- The stores of a core's adapter unit (R131): the frame store, the U store, then the result buffers, engine by engine and bank by
bank. -/
def Core.storeByte (c : Core) (i : Nat) : Byte :=
  if i < 4325376 then c.adapter.frames.read i
  else if i < 4390912 then wordByte c.adapter.u (i - 4325376)
  else
    let j := i - 4390912
    let e := j / 32768
    match (Tab.get Engine.reset c.engines e).active.find? fun o => dBank o.desc == j / 16384 % 2 with
    | none => 0
    | some o => wordByte c.adapter.results (16384 * resKey e o.ticket + j % 16384)

/-- A cluster-cache way, set by set; what an invalid line holds is a free value. -/
def Block.wayByte (b : Block) (cl w i : Nat) : Byte :=
  match b.coh.lines.find? fun l => (match l.agent with | .cluster _ k => k == cl | _ => false) && l.way == w && l.line % 4096 == i / 128 with
  | some l => l.data.extractLsb' (8 * (i % 128)) 8
  | none => b.openByte i

/-- Byte i of what a readout names. Of the management domain, its cores and the scan chains the spec gives no layout, and a memory
BIST's verdict, pass or fail, is not the block's to say: free values. -/
def Block.debugByte (b : Block) (fuse : BitVec 4096) (t : DebugTarget) (i : Nat) : Byte :=
  match t with
  | .fuses => fuse.extractLsb' (8 * i) 8
  | .management | .mgmtCore _ | .scan _ => b.openByte i
  | .bist _ => b.openByte i &&& 1
  | .memory g => b.shimByte (g * 2 ^ 37 + i)
  | .scratchpad c => (b.core c).scratch.read i
  | .registers c => (b.core c).regByte i
  | .adapterStore c => (b.core c).storeByte i
  | .clusterWay cl w => b.wayByte cl w i
  | .accumulator c e k => wordByte ((b.eng c e).bank k) i

/-- Some of a readout's bytes are free values. -/
def freeTarget : DebugTarget → Bool
  | .management | .mgmtCore _ | .scan _ | .bist _ | .clusterWay _ _ => true
  | _ => false

def execDebugReadout (t : DebugTarget) (off n : Nat) (s : State) : Host.Outcome State Fault Refusal :=
  s.onBlock fun b =>
    if b.readoutOk t off n then
      let b' := b.modLife fun l => { l with readout := some ((List.range n).map fun i => b.debugByte s.fuse t (off + i)) }
      { b' with draws := b.draws + if freeTarget t then off + n else 0 }
    else b.modLife fun l => { l with readout := none }

/-! ### Burning (R357, R361 to R363, R451) -/

def onesOf (at_ n v : Nat) : List BurnStep := ((List.range n).filter fun i => v.testBit i).map fun i => .bit (at_ + i)

def segBits (s : Nat × BitVec 64) : List Nat := (setBits s.2).map (s.1 + ·)
def intentBits (s : Nat × BitVec 64) : List BurnStep := ((segBits s).take 8).map .bit
def restBits (s : Nat × BitVec 64) : List BurnStep := ((segBits s).drop 8).map .bit

/-- The moves to TEST and FIELD: intent bits, then the rest, then the start-up (R361). -/
def plainMove (s : Nat × BitVec 64) : List BurnStep := intentBits s ++ restBits s ++ [.restart]

/-- SERIAL and the three digests of a provisioning request, with the fuse bit at which each field begins. -/
def provFields (c : List Byte) : List BurnStep :=
  onesOf 1760 64 (reqField c 8 8) ++ onesOf 608 384 (reqField c 56 48) ++ onesOf 992 384 (reqField c 104 48) ++
    onesOf 1376 384 (reqField c 152 48)

/-- The order of R362. -/
def provMove (c : List Byte) : List BurnStep :=
  intentBits segProv ++ provFields c ++ [.drawRoot, .rootCheck] ++ restBits segProv ++ [.restart]

/-- The order of R363; ROOT and ROOT_CHECK are bits 320 to 607. -/
def wipeMove (s : Nat × BitVec 64) : List BurnStep :=
  intentBits s ++ [.eraseSeal] ++ (List.range 288).map (fun i => .bit (320 + i)) ++ restBits s ++ [.restart]

/-- A transition stops for good, and commits that waited for it are answered (R360, R451). -/
def Block.burnStops (b : Block) (result : Nat) : Block :=
  (b.modLife fun l => { l with burn := [], tries := 0, transResult := result }).releaseCommits

/-- The steps at the head of the list that burn nothing. -/
def burnRuns (fuse : BitVec 4096) : Nat → Flash → Block → Flash × Block
  | 0, f, b => (f, b)
  | n + 1, f, b =>
    match b.life.burn with
    | .drawRoot :: l =>
      if b.life.rngFault then (f, b.burnStops 10)
      else
        let (r, b) := b.draw 32
        burnRuns fuse n f (b.modLife fun x => { x with burn := onesOf 320 256 (leNat r) ++ l })
    | .rootCheck :: l =>
      burnRuns fuse n f (b.modLife fun x => { x with burn := onesOf 576 32 (fld (Config.sha384 (rootOf fuse)).toNat 31 0) ++ l })
    | .eraseSeal :: l => burnRuns fuse n { f with sealed := [], held := [], sealAt := [] } (b.modLife fun x => { x with burn := l })
    | .restart :: _ => (f.powerless, ((b.modLife fun x => { x with burn := [] }).releaseCommits).restart fuse)
    | .bit _ :: _ => (f, b)
    | [] => (f, b)

/-- A transition begins: FIELD-DEBUG closes first (R360, R369). -/
def Block.transBegins (b : Block) (steps : List BurnStep) : Block :=
  b.closeDebug.modLife fun l => { l with burn := l.burn ++ steps, tries := 0, transResult := 0 }

def Block.transRefused (b : Block) (r : Nat) : WriteRes := .refused 1 (b.modLife fun l => { l with transResult := r })

/-- A bit has been burnt and read back (R451). A bit still 0 after two burns stops what is under way. -/
def execFuseDone (burnt : Bool) (s : State) : Host.Outcome State Fault Refusal :=
  s.onAll fun fuse f b =>
    match b.life.burn with
    | .bit n :: l =>
      if burnt || fuse.getLsbD n then
        let fuse' := bvSet fuse n
        let b := b.modLife fun x => { x with burn := l, tries := 0, svn := svnOf fuse' }
        let (f, b) := burnRuns fuse' (l.length + 1) f b
        (BitVec.twoPow 4096 n, f, b)
      else if b.life.tries == 0 then (0, f, b.modLife fun x => { x with tries := 1 })
      else (0, f, b.burnStops b.life.transResult)
    | _ => (0, f, b)

/-- SVN_ADVANCE burns the thermometer up to a value; its bits come next after the bit being burnt (R381). -/
def Block.advanceSvn (b : Block) (v : Nat) : WriteRes :=
  if b.start.imageSvn < v || 128 < v then .refused 1 b
  else
    let bits := (List.range (v - b.life.svn)).map fun i => BurnStep.bit (1824 + b.life.svn + i)
    .done (b.modLife fun l => { l with burn := match l.burn with
      | [] => bits
      | h :: t => h :: bits ++ t })

def execSvnAdvance (eid : Nat) (tag : Byte) (value : Byte) (s : State) : Host.Outcome State Fault Refusal :=
  s.onBlock fun b => b.dictWrite eid tag 0x6003 1 [value] fun b =>
    match b.advanceSvn value.toNat with
    | .done b' => .done (b'.keep 0x6003 1 value.toNat)
    | .refused r b' => .refused r b'

/-! ### Transitions (R360) -/

/-- Slices exist (R178) or a scrub is outstanding. -/
def Block.notQuiet (b : Block) : Bool := b.slicesActive != 0 || !b.recon.scrubbing.isEmpty

/-- A move that needs no authority and no request: to TEST from BLANK, to FIELD from PROVISIONED, asked for by the FAC. -/
def Block.plainTrans (b : Block) (eid from_ : Nat) (seg : Nat × BitVec 64) : WriteRes :=
  if b.dict.roleMask eid == rFAC && b.life.lcs == from_ && !b.life.inTransition then .done (b.transBegins (plainMove seg))
  else b.transRefused 6

def execTransTest (eid : Nat) (tag : Byte) (s : State) : Host.Outcome State Fault Refusal :=
  s.onBlock fun b => b.dictWrite eid tag 0x6002 2 [1] fun b => b.plainTrans eid 1 segTest

def execTransField (eid : Nat) (tag : Byte) (s : State) : Host.Outcome State Fault Refusal :=
  s.onBlock fun b => b.dictWrite eid tag 0x6002 2 [2] fun b => b.plainTrans eid 3 segField

/-- Format of a provisioning request (R362). -/
def provFormatBad (c : List Byte) : Bool :=
  reqField c 0 2 != 1 || reqField c 2 1 != 3 || reqField c 3 1 != 3 || reqField c 4 4 != 0 || reqField c 16 40 != 0 ||
    reqField c 200 56 != 0

def Block.provTrans (b : Block) (eid : Nat) : WriteRes :=
  if provFormatBad b.life.transReq then b.transRefused 1
  else if b.dict.roleMask eid != rFAC || b.life.lcs != 2 || b.life.inTransition then b.transRefused 6
  else if b.life.rngFault then b.transRefused 10
  else .done (b.transBegins (provMove b.life.transReq))

/-- A move to ANALYSIS from TEST, or to SCRAP from BLANK or TEST, needs no authority; from other states a transition certificate
authorises it. -/
def freeMove (lcs target : Nat) : Bool := lcs == 2 || (lcs == 1 && target == 7)

/-- The states from which a move is a row of R360. -/
def moveRow (lcs target : Nat) : Bool :=
  freeMove lcs target || lcs == 3 || lcs == 4 || (lcs == 6 && target == 7)

/-- A row whose condition is that no slice exists and no scrub is outstanding. -/
def moveQuiet (lcs target : Nat) : Bool := !(freeMove lcs target && target == 7)

/-- A move to ANALYSIS or SCRAP, with the certificate in TRANS_REQUEST. A row without an authority asks for the request's format
and TARGET only. -/
def Block.wipeTrans (b : Block) (fuse : BitVec 4096) (eid : Nat) : WriteRes :=
  let c := b.life.transReq
  let target := reqField c 3 1
  let free := freeMove b.life.lcs target
  let bad := if free then (if reqField c 0 2 == 1 then 0 else 1) else b.certBad fuse c 2
  let random := b.life.rngFault && !free
  let b := if free then b else b.newChallenge
  if random then b.transRefused 10
  else if bad != 0 then b.transRefused bad
  else if !moveRow b.life.lcs target || b.life.inTransition || (free && b.dict.roleMask eid != rFAC) then b.transRefused 6
  else if moveQuiet b.life.lcs target && b.notQuiet then b.transRefused 8
  else .done (b.transBegins (wipeMove (if target == 6 then segAnalysis else segScrap)))

/-- A write of 4 to TRANS_CTRL uses what stands in TRANS_REQUEST: KIND 3 is a provisioning request, KIND 2 with TARGET 6 or 7 a
move to ANALYSIS or SCRAP, and nothing else has a meaning. -/
def Block.requestTrans (b : Block) (fuse : BitVec 4096) (eid : Nat) : WriteRes :=
  let kind := reqField b.life.transReq 2 1
  let target := reqField b.life.transReq 3 1
  if kind == 3 then b.provTrans eid
  else if kind == 2 && (target == 6 || target == 7) then b.wipeTrans fuse eid
  else b.transRefused 1

def execTransProvision (eid : Nat) (tag : Byte) (s : State) : Host.Outcome State Fault Refusal :=
  s.onBlock fun b => b.dictWrite eid tag 0x6002 2 [4] fun b => b.requestTrans s.fuse eid

def execTransAnalysis (eid : Nat) (tag : Byte) (s : State) : Host.Outcome State Fault Refusal :=
  s.onBlock fun b => b.dictWrite eid tag 0x6002 2 [4] fun b => b.requestTrans s.fuse eid

def execTransScrap (eid : Nat) (tag : Byte) (s : State) : Host.Outcome State Fault Refusal :=
  s.onBlock fun b => b.dictWrite eid tag 0x6002 2 [4] fun b => b.requestTrans s.fuse eid

/-! ### Completion in INVALID (R361) -/

/-- Bits burnt in a field that a request does not have. -/
def strayBits (fuse : BitVec 4096) (at_ n v : Nat) : Bool := (List.range n).any fun i => fuse.getLsbD (at_ + i) && !v.testBit i

def provStray (fuse : BitVec 4096) (c : List Byte) : Bool :=
  strayBits fuse 1760 64 (reqField c 8 8) || strayBits fuse 608 384 (reqField c 56 48) ||
    strayBits fuse 992 384 (reqField c 104 48) || strayBits fuse 1376 384 (reqField c 152 48)

/-- ROOT and ROOT_CHECK all zero; ROOT_CHECK right for ROOT. -/
def rootBlank (fuse : BitVec 4096) : Bool := fuse.extractLsb' 320 288 == 0
def rootWhole (fuse : BitVec 4096) : Bool :=
  (fuse.extractLsb' 576 32).toNat == fld (Config.sha384 (rootOf fuse)).toNat 31 0

/-- Steps whose bit is not yet burnt. -/
def missing (fuse : BitVec 4096) (l : List BurnStep) : List BurnStep := l.filter fun x => match x with
  | .bit n => !fuse.getLsbD n
  | _ => true

/-- What finishes an interrupted transition, or why it cannot be finished. -/
def completion (fuse : BitVec 4096) (c : List Byte) (rngFault : Bool) : Nat × List BurnStep :=
  match segments.filter (segPartial fuse) with
  | [seg] =>
    if (seg != segTest && seg != segProv && seg != segField) || strayBits fuse seg.1 64 seg.2.toNat then (9, [])
    else if seg != segProv then (0, missing fuse (plainMove seg))
    else if provFormatBad c then (1, [])
    else if provStray fuse c || !(rootBlank fuse || rootWhole fuse) then (9, [])
    else if rootBlank fuse && rngFault then (10, [])
    else
      let root := if rootBlank fuse then [BurnStep.drawRoot, .rootCheck] else []
      (0, missing fuse (intentBits segProv ++ provFields c ++ root ++ restBits segProv ++ [.restart]))
  | _ => (9, [])

/-- The write of 3 to TRANS_CTRL outside INVALID is a request with no row. -/
def execTransComplete (eid : Nat) (tag : Byte) (s : State) : Host.Outcome State Fault Refusal :=
  s.onFlash fun f b =>
    let rsp (code reason : Nat) : DictRsp :=
      { eid := eid, kind := 2, tag := tag, index := 0x6002, sub := 2, code := code, reason := reason, data := [] }
    if b.life.lcs != 15 then (f, b.dictWrite eid tag 0x6002 2 [3] fun b => b.transRefused 6)
    else
      let (r, l) := if b.life.inTransition then (6, []) else completion s.fuse b.life.transReq b.life.rngFault
      let b := (b.modLife fun x => { x with transResult := r }).answer (rsp (if r == 0 then cSuccess else cRefused) (if r == 0 then 0 else 1))
      if r == 0 then burnRuns s.fuse (l.length + 1) f (b.transBegins l) else (f, b)

/-! ### Adapter digests (R377) -/

/-- The extend's range is one that R377 allows. -/
def Block.extendOk (b : Block) (n a len : Nat) : Bool :=
  a % 128 == 0 && len % 128 == 0 && 128 ≤ len && len ≤ 2 ^ 32 && a < 2 ^ 57 && b.ownRange n a len

/-- 100 ms + length ÷ 1 GB/s in management clocks. -/
def extendClks (len : Nat) : Nat := 100000 * usClk + ceilDiv (3 * len) 4

def execAdapterExtend (slice eid : Nat) (tag : Byte) (value : List Byte) (s : State) : Host.Outcome State Fault Refusal :=
  s.onBlock fun b => b.dictWrite eid tag (0x6200 + slice) 2 value fun b =>
    let a := leNat (value.take 8)
    let len := leNat ((value.drop 8).take 8)
    if (b.slice slice).sec.extendStatus != 1 && b.extendOk slice a len then
      let b := b.modSec slice fun x => { x with extendStatus := 1, extendRange := (a, len), extendAt := b.time.mclk + extendClks len }
      .done (b.keep (0x6200 + slice) 2 (leNat value))
    else .refused 1 b

/-- 100 ms + length ÷ 1 GB/s after the write's stamp. -/
def execExtendDone (slice : Nat) (s : State) : Host.Outcome State Fault Refusal :=
  s.onBlock fun b =>
    if (b.slice slice).sec.extendStatus == 1 && (b.slice slice).sec.extendAt ≤ b.time.mclk then
      let (a, len) := (b.slice slice).sec.extendRange
      b.modSec slice fun x =>
        { x with extendStatus := 2
                 adapterDigest := Config.sha384 (digestBytes x.adapterDigest ++ digestBytes (Config.sha384 (b.rdOwn slice a len)) ++
                   toLe 8 len) }
    else b

/-! ### The tenant-sealed store (R374, R416, R430) -/

def sealRecord (n k : Nat) : Nat := 8 * (n - 1) + k

/-- The tag in force, 32 bytes. -/
def SliceSec.tag (x : SliceSec) : List Byte := (List.range 32).map fun i => x.sealTag.getD i 0

/-- The write comes less than 4 hours after the last of its record. -/
def Flash.sealTooSoon (f : Flash) (b : Block) (r : Nat) : Bool :=
  match Tab.find f.sealAt r with
  | none => false
  | some t => b.time.mclk < t + 14400 * 750000000

/-- What a write of SEAL_DATA comes to: no key is derived in ANALYSIS (R371), and a session refuses every access. -/
def Flash.sealRefuses (f : Flash) (b : Block) (n r : Nat) : Option (Block) :=
  if b.life.debugOpen then some (b.modSec n fun x => { x with sealStatus := 3 })
  else if b.life.lcs == 6 || f.sealTooSoon b r then some b
  else none

def execSealWrite (slice eid : Nat) (tag : Byte) (value : List Byte) (s : State) : Host.Outcome State Fault Refusal :=
  s.onFlash fun f b =>
    let x := (b.slice slice).sec
    let r := sealRecord slice x.sealIndex
    let ok := !b.busyMed eid && (b.writeCheck eid (0x6300 + slice) 3 value).isNone && (f.sealRefuses b slice r).isNone
    let box := { key := sealKey s.fuse x.tag, aad := x.tag, data := value }
    let f' := if ok then { f with held := Tab.put f.held r box, sealAt := Tab.put f.sealAt r b.time.mclk } else f
    (f', b.dictWrite eid tag (0x6300 + slice) 3 value fun b =>
      match f.sealRefuses b slice r with
      | some b => .refused 1 b
      | none => .done (b.modSec slice fun x => { x with sealStatus := 0 }))

/-- The record as a read finds it: what is held before its flash write ends, else what the flash has. -/
def Flash.sealedAt (f : Flash) (r : Nat) : Option SealBox :=
  match Tab.find f.held r with
  | some x => some x
  | none => (f.sealCopy r).map (·.box)

/-- The box opens under the sealing key of a tag (R371, R374). -/
def SealBox.opens (x : SealBox) (fuse : BitVec 4096) (tag : List Byte) : Bool := x.aad == tag && x.key == sealKey fuse tag

/-- SEAL_STATUS of a read, and the data where it unseals. -/
def Flash.unseal (f : Flash) (b : Block) (fuse : BitVec 4096) (n : Nat) : Nat × List Byte :=
  let x := (b.slice n).sec
  let r := sealRecord n x.sealIndex
  if b.life.debugOpen then (3, [])
  else if f.unread.contains r && !Tab.has f.held r then (4, [])
  else
    match f.sealedAt r with
    | none => (1, [])
    | some y => if y.opens fuse x.tag then (0, y.data) else (2, [])

/-- A read of SEAL_DATA, with the checks of R409 and R455. -/
def Block.sealReads (b : Block) (f : Flash) (fuse : BitVec 4096) (n eid : Nat) (tag : Byte) : Block :=
  let rsp (code reason : Nat) (d : List Byte) : DictRsp :=
    { eid := eid, kind := 1, tag := tag, index := 0x6300 + n, sub := 3, code := code, reason := reason, data := d }
  if b.busyMed eid then b.answer (rsp cBusy 0 [])
  else
    match dictEntry (0x6300 + n) 3 with
    | none => b.answer (rsp cNoEntry 0 [])
    | some e =>
      if b.locked || !e.canRead b.dict eid then b.answer (rsp cNoEntry 0 [])
      else if (b.slice n).st == .none then b.answer (rsp cSuccess 0 (List.replicate 1024 0))
      else
        let (st, d) := f.unseal b fuse n
        (b.modSec n fun x => { x with sealStatus := st }).answer (if st == 0 then rsp cSuccess 0 d else rsp cRefused 1 [])

def execSealRead (slice eid : Nat) (tag : Byte) (s : State) : Host.Outcome State Fault Refusal :=
  s.onBlock fun b => b.sealReads s.flash s.fuse slice eid tag

/-- The flash write of a record ends in the copy not in force; on an error that copy is lost and the other stays (R374, R387, R416).
-/
def execSealRecordWritten (slice k : Nat) (ok : Bool) (s : State) : Host.Outcome State Fault Refusal :=
  s.onFlash fun f b =>
    let r := sealRecord slice k
    match Tab.find f.held r with
    | none => (f, b)
    | some x =>
      let f := { f with held := Tab.erase f.held r }
      let (i, q) := f.sealNext r
      if ok then ({ f with sealed := Tab.put f.sealed i { seq := q, box := x } }, b)
      else ({ f with sealed := Tab.erase f.sealed i }, b.modSec slice fun x => { x with sealStatus := 4 })

/-! ### The random source (R373) -/

def execRngFault (s : State) : Host.Outcome State Fault Refusal :=
  s.onBlock fun b => (b.modLife fun l => { l with rngFault := true }).tallyUp 0x8010 0x0A

/-- Draws succeed again; a CHALLENGE that could not be drawn at start-up is drawn now. -/
def execHealthTestPass (s : State) : Host.Outcome State Fault Refusal :=
  s.onBlock fun b =>
    let b := b.modLife fun l => { l with rngFault := false }
    if b.life.challenge.isEmpty && b.start.stage != 0 && !b.locked then b.newChallenge else b

/-! ### SPDM (R375, R376) -/

/-- An SPDM answer: a MED's waits for its fixed time (R376); none leaves a block in reset. -/
def Block.spdm (b : Block) (eid code : Nat) (body : List Byte) : Block :=
  if b.start.stage == 0 then b
  else if b.dict.isMed eid then b.medLater eid (.spdm eid code body)
  else b.emit (.spdm eid code body)

/-- An error answer. -/
def Block.spdmError (b : Block) (eid code : Nat) : Block := b.spdm eid 0x7F (toLe 1 code)

/-- The block can attest: an alias key exists, and the state is one that R355 lets attest. -/
def Block.attests (b : Block) : Bool := b.life.aliasKey.isSome && (b.life.lcs == 2 || b.life.lcs == 3 || b.life.lcs == 4)

def execGetVersion (eid : Nat) (s : State) : Host.Outcome State Fault Refusal :=
  s.onBlock fun b => if b.locked then b.spdmError eid 7 else b.spdm eid 0x04 (toLe 2 0x1300)

/-- Certificates, CHALLENGE and signed measurements. -/
def execGetCapabilities (eid : Nat) (s : State) : Host.Outcome State Fault Refusal :=
  s.onBlock fun b => if b.locked then b.spdmError eid 7 else b.spdm eid 0x61 (toLe 4 0x16)

def execNegotiateAlgorithms (eid : Nat) (asymP384 hashSha384 measSha384 : Bool) (s : State) : Host.Outcome State Fault Refusal :=
  s.onBlock fun b =>
    if b.locked then b.spdmError eid 7
    else if asymP384 && hashSha384 && measSha384 then b.spdm eid 0x63 (toLe 4 0x80 ++ toLe 4 0x02 ++ toLe 4 0x04)
    else b.spdmError eid 1

/-- Length of the certificate that bytes begin with, from its DER header. PRESUMED: X.509 certificates in DER, one after the other
(notes/assumptions/127.md). -/
def derLen (bs : List Byte) : Nat :=
  let l := (bs.getD 1 0).toNat
  if bs.getD 0 0 != 0x30 then 0
  else if l < 0x80 then 2 + l
  else if l == 0x81 then 3 + (bs.getD 2 0).toNat
  else if l == 0x82 then 4 + 256 * (bs.getD 2 0).toNat + (bs.getD 3 0).toNat
  else 0

/-- A certificate of the chain area of the flash, from a place on (R375, R387). -/
def Flash.certAt (f : Flash) (a : Nat) : List Byte := f.bytes.readN a (min (derLen (f.bytes.readN a 4)) (0x1010000 - a))

/-- The chain of slot 0: certificates 1 and 2 from the flash, then the alias certificate (R375). -/
def Block.chain (b : Block) (f : Flash) : List Byte :=
  let root := f.certAt 0x1000000
  root ++ f.certAt (0x1000000 + root.length) ++ b.life.aliasCert

def execGetDigests (eid : Nat) (s : State) : Host.Outcome State Fault Refusal :=
  s.onBlock fun b =>
    if b.attests then b.spdm eid 0x01 (toLe 1 1 ++ digestBytes (Config.sha384 (b.chain s.flash))) else b.spdmError eid 7

def execGetCertificate (eid slot off len : Nat) (s : State) : Host.Outcome State Fault Refusal :=
  s.onBlock fun b =>
    if !b.attests then b.spdmError eid 7
    else if slot != 0 || (b.chain s.flash).length ≤ off then b.spdmError eid 1
    else
      let part := ((b.chain s.flash).drop off).take len
      b.spdm eid 0x02 (toLe 2 part.length ++ toLe 2 ((b.chain s.flash).length - off - part.length) ++ part)

def execChallenge (eid slot : Nat) (nonce : List Byte) (s : State) : Host.Outcome State Fault Refusal :=
  s.onBlock fun b =>
    if !b.attests || b.life.rngFault then b.spdmError eid 7
    else if slot != 0 then b.spdmError eid 1
    else
      let (own, b) := b.draw 32
      let body := digestBytes (Config.sha384 (b.chain s.flash)) ++ own ++ nonce
      b.spdm eid 0x03 (body ++ b.sign body)

/-- An endpoint is the MED of slice n's tenant. -/
def Dict.isMedOf (d : Dict) (eid n : Nat) : Bool := d.isMed eid && d.seesSlice eid (some n)

/-- A measurement block, where the requester may see it. -/
def Block.measurement (b : Block) (fuse : BitVec 4096) (eid i : Nat) : Option (List Byte) :=
  if b.dict.roleMask eid == 0 then none
  else
    match i with
    | 1 => some (digestBytes b.start.configDigest)
    | 2 => some (digestBytes b.start.mgmtFwDigest)
    | 3 => some (digestBytes b.parade.map.commonsDigest)
    | 4 => some (digestBytes b.parade.map.digest)
    | 5 => some b.measState
    | 6 => some (digestBytes (vendorKey fuse) ++ digestBytes (integratorKey fuse) ++ digestBytes (debugKey fuse))
    | i =>
      if 0x21 ≤ i && i ≤ 0x3C && (b.slice (i - 0x20)).st != .none && (b.dict.roleMask eid == rOP || b.dict.isMedOf eid (i - 0x20)) then
        some (digestBytes (b.slice (i - 0x20)).sec.fwDigest)
      else if 0x41 ≤ i && i ≤ 0x5C && (b.slice (i - 0x40)).st != .none && b.dict.isMedOf eid (i - 0x40) then
        some (digestBytes (b.slice (i - 0x40)).sec.adapterDigest)
      else none

def Block.measBlock (b : Block) (fuse : BitVec 4096) (eid i : Nat) : List Byte :=
  match b.measurement fuse eid i with
  | none => []
  | some d => toLe 1 i ++ toLe 2 d.length ++ d

/-- Index 0xFF: every block that the requester may see, in ascending index. -/
def Block.measurements (b : Block) (fuse : BitVec 4096) (eid index : Nat) : List Byte :=
  if index == 0xFF then (List.range 0x5D).flatMap fun i => b.measBlock fuse eid i else b.measBlock fuse eid index

def execGetMeasurements (eid index : Nat) (nonce : List Byte) (s : State) : Host.Outcome State Fault Refusal :=
  s.onBlock fun b =>
    let m := b.measurements s.fuse eid index
    if !b.attests || b.life.rngFault then b.spdmError eid 7
    else if m.isEmpty then b.spdmError eid 1
    else
      let (own, b) := b.draw 32
      let body := m ++ own ++ nonce
      b.spdm eid 0x60 (body ++ b.sign body)

end Sys2Proof.Machine
end

