-- ==== Sys2Proof/Machine/Ladder.lean ====
section
/-! DEFINITION. The reset ladder: watchdogs (R310 to R312), rungs 2 to 5 (R313 to R320), crash records (R321 to R323), the replay
that finds a culprit (R324 to R327), Farrier (R330 to R333) and the management cores (R334). -/

namespace Sys2Proof.Machine

def cCulprit : Nat := 0x35

/-! ### Crash records (R321 to R323) -/

/-- SAMPLE_RANGES as byte ranges of the scratchpad. -/
def LadderRegs.ranges (l : LadderRegs) : List (Nat × Nat) :=
  (List.range 4).map fun i =>
    let f (k : Nat) : Nat := leNat ((List.range 2).map fun j => l.sampleRanges.getD (4 * i + k + j) 0)
    (4096 * f 0, 4096 * f 2)

/-- The crash area: selector, address and length; none where the slice has none it can be written with. -/
def Block.crashArea (b : Block) (n : Nat) : Option (Nat × Nat × Nat) :=
  let l := (b.slice n).ladder
  let sel := dfld l.crashBase 63 58
  let a := dfld l.crashBase 56 0
  let len := l.crashSize * 2 ^ 20
  if l.crashBase != 0 && len != 0 && b.holdsKey n sel && b.ownRange n a len then some (sel, a, len) else none

/-- The op of an adapter step. -/
def Block.stepOp (b : Block) (core : Nat) (st : Step) : Option EOp :=
  ((b.eng core st.eng).active ++ (b.eng core st.eng).queue).find? fun o => o.ticket == st.ticket

/-- Contexts with work at a unit, the running work first and then the queue, each once (R324). -/
def Block.unitCtxs (b : Block) (core unit : Nat) : List Nat :=
  let c := b.core core
  (if unit < 4 then ((b.runningOp core unit).toList ++ (c.eng unit).queue).map (·.ctx)
    else if unit == 4 then (c.vec.run.toList ++ c.vec.queue).map (·.ctx)
    else
      ((c.adapter.steps.filter (·.started)) ++ c.adapter.steps.filter fun s => !s.started).filterMap fun s =>
        (b.stepOp core s).map (·.ctx)).eraseDups

/-- STATUS of unit 0 to 5. The adapter unit hands out no tickets: what its DONE and ISSUED hold is left open, and is a free value
(notes/assumptions/121.md). -/
def Block.unitStatus (b : Block) (core unit : Nat) : Dword :=
  if unit < 5 then b.unitStat core unit
  else
    let x := Config.freeWord (b.draws + core)
    statWord (x.extractLsb' 16 16) (x.extractLsb' 0 16) (b.core core).adapter.lastErr (b.core core).adapter.steps.length false

/-- A core's 256-byte part and its sampled ranges (R322). -/
def Block.coreBlock (b : Block) (n core : Nat) : List Byte :=
  let c := b.core core
  let head (u : Nat) : Nat := (b.unitCtxs core u).headD 0xFFFFFFFF
  toLe 8 (c.roleGen.toNat * 2 ^ 32 + b.zhCore core) ++ ((List.range 6).flatMap fun u => toLe 8 (b.unitStatus core u).toNat) ++
    toLe 8 (c.hart.csrGet 0x341).toNat ++ toLe 8 (c.hart.csrGet 0x342).toNat ++ toLe 8 c.hart.zhCtx ++
    ((List.range 6).flatMap fun u => toLe 4 (head u)) ++ List.replicate 152 0 ++
    ((b.slice n).ladder.ranges.flatMap fun r => c.rdSN r.1 r.2)

/-- Lines of a core block, from its first on, whose scratchpad line has an uncorrectable error. -/
def Block.coreBlockBad (b : Block) (n core : Nat) : List Nat :=
  let lines := (b.slice n).ladder.ranges.flatMap fun r => (List.range (r.2 / 128)).map (· + r.1 / 128)
  ((List.range lines.length).filter fun i => Tab.get false (b.core core).poison (lines.getD i 0)).map (· + 2)

/-- The header of a record (R322), for an event of time t. -/
def Block.crashHeader (b : Block) (t : Dword) (n rung cause cores unit core bytes : Nat) : List Byte :=
  let l := (b.slice n).ladder
  toLe 2 1 ++ toLe 1 rung ++ toLe 1 cause ++ toLe 2 cores ++ toLe 2 (if l.lost then 2 else 0) ++ toLe 8 t.toNat ++
    toLe 4 (l.crashSeq + 1) ++ toLe 4 bytes ++ toLe 8 (b.slice n).ledgerSeq ++ toLe 4 (unit * 65536 + core) ++
    ((List.range 16).map fun i => l.sampleRanges.getD i 0) ++ List.replicate 204 0

/-- Writes the first `k` bytes of the record under way. -/
def Block.writeRecord (b : Block) (n off : Nat) (bytes : List Byte) (bad : List Nat) (k : Nat) : Block :=
  let b :=
    match b.crashArea n with
    | none => b
    | some (sel, a, _) =>
      let b := b.wrMem (b.keyGen sel) (gaKey (a + off)) (bytes.take k)
      (bad.filter fun i => 128 * i + 128 ≤ k).foldl (fun b i => b.setPoison (gaKey (a + off) / 128 + i) true) b
  b.modLad n fun l => { l with sampling := none, crashSeq := (l.crashSeq + 1) % 2 ^ 32, crashNext := off + k }

/-- The record under way is complete (R323). -/
def Block.finishSample (b : Block) (n : Nat) : Block :=
  match (b.slice n).ladder.sampling with
  | none => b
  | some (off, bytes, bad) => b.writeRecord n off bytes bad bytes.length

/-- FLAGS and RECORD_BYTES of a record that ends early. -/
def cutHeader (bytes : List Byte) (k : Nat) : List Byte :=
  bytes.take 6 ++ toLe 2 (leNat ((bytes.drop 6).take 2) ||| 1) ++ (bytes.drop 8).take 12 ++ toLe 4 k ++ bytes.drop 24

/-- The record under way ends where it stands, which is a whole line past the header; how far it came is not the spec's to say. -/
def Block.cutSample (b : Block) (n : Nat) : Block :=
  match (b.slice n).ladder.sampling with
  | none => b
  | some (off, bytes, bad) =>
    let k := min bytes.length (256 + 128 * (Config.freeNat b.draws % (bytes.length / 128 - 1)))
    { (b.writeRecord n off (cutHeader bytes k) bad k) with draws := b.draws + 1 }

/-- The record of a rung, for an event of time t, is begun: what it samples is taken now (R317, R318, R323). A record longer than
the whole area ends with the area. How long the writes take is a free value. A lower rung ends at its current step: a record of it
still under way ends where it stands, as at SAMPLE_LIMIT (R316; notes/assumptions/101.md). -/
def Block.takeSample (b : Block) (t : Dword) (n rung cause : Nat) (cores : List Nat) (unit core : Nat) : Block :=
  let b := b.cutSample n
  match b.crashArea n with
  | none => b
  | some (_, _, len) =>
    let body := cores.flatMap fun c => b.coreBlock n c
    let per := (b.coreBlock n (cores.headD 0)).length / 128
    let bad := ((List.range cores.length).flatMap fun i => (b.coreBlockBad n (cores.getD i 0)).map (· + 2 + i * per))
    let all := b.crashHeader t n rung cause cores.length unit core (min len (256 + body.length)) ++ body
    let next := (b.slice n).ladder.crashNext
    let off := if next + all.length ≤ len then next else 0
    { b with draws := b.draws + 1 }.modLad n fun l =>
      { l with sampling := some (off, all.take len, bad), sampleRan := 0, sampleFor := Config.freeNat b.draws }

/-- SAMPLE_LIMIT in management clocks. -/
def Ladder.sampleClks (l : Ladder) : Nat := l.sampleLimit * usClk

/-- At SAMPLE_LIMIT the record ends where it stands (R323). -/
def execSampleLimitExpiry (slice : Nat) (s : State) : Host.Outcome State Fault Refusal :=
  s.onBlock fun b =>
    if b.power.level == 5 || (b.slice slice).ladder.sampleRan < b.ladder.sampleClks then b else b.cutSample slice

/-! ### The replay (R324 to R327) -/

/-- Suspects of later replays stay in SUSPECT until their turn comes (R316). -/
def LadderRegs.laterSuspect (l : LadderRegs) (c : Nat) : Bool :=
  (l.waitingReplays.any fun r => r.left.contains c) || l.engRung.any fun r => r.suspects.contains c

/-- A suspect becomes ACTIVE without a turn; one still in reset ends it ACTIVE. -/
def Block.unsuspect (b : Block) (c : Nat) : Block :=
  let b := b.modCtx c fun x => { x with toSuspect := false }
  if (b.ctx c).st == .suspect then b.toActive c else b

/-- The replay in progress is over, and the next one of the slice takes its place. -/
def Block.nextReplay (b : Block) (n : Nat) : Block :=
  b.modLad n fun l =>
    match l.waitingReplays with
    | [] => { l with replay := none, suspects := [] }
    | r :: t => { l with replay := some r, waitingReplays := t, suspects := r.left }

/-- The replay ends before its remaining suspects have had a turn. -/
def Block.replayCut (b : Block) (n : Nat) : Block :=
  match (b.slice n).ladder.replay with
  | none => b
  | some r => (b.each (r.left.filter fun c => !(b.slice n).ladder.laterSuspect c) fun c b => b.unsuspect c).nextReplay n

def execReplayTurn (slice : Nat) (s : State) : Host.Outcome State Fault Refusal :=
  s.onBlock fun b =>
    match (b.slice slice).ladder.replay with
    | none => b
    | some r =>
      match r.turn, r.left with
      | none, c :: rest =>
        if (b.ctx c).st == .resetting then b
        else
          let raised := (b.slice slice).ladder.irqTurn
          let b := (b.unsuspect c).modLad slice fun l =>
            { l with irqTurn := true, replay := some { r with turn := some c, left := rest, turnStride := b.time.count.toNat, reserved := true } }
          if raised then b else b.irq slice 6
      | _, _ => b

/-! ### Substitutions of cores and groups (R331, R333) -/

/-- An enabled core with owner tag 0 in the cluster of a core, that no accepted request or substitution names. -/
def Block.spareCore (b : Block) (core : Nat) : Option Nat :=
  let named (c : Nat) : Bool := (b.recon.run.toList.map (·.req) ++ b.recon.pend).any fun r =>
    r.hold.cores.getLsbD c || match r.subst with
      | some (true, _, k) => k == c
      | _ => false
  ((List.range 8).map (· + core / 8 * 8)).find? fun c =>
    c != core && b.coreUsable c && (b.core c).owner == 0 && !b.power.isFailed c && !named c

/-- A group with attached memory and owner tag 0, at least as large, that nothing names. -/
def Block.spareGroup (b : Block) (g : Nat) : Option Nat :=
  let named (k : Nat) : Bool := (b.recon.run.toList.map (·.req) ++ b.recon.pend).any fun r =>
    r.hold.groups.getLsbD k || match r.subst with
      | some (false, _, j) => j == k
      | _ => false
  (List.range 32).find? fun k =>
    k != g && b.recon.shimOf k == k && (b.ladder.groupCopies.all fun x => x.2.1 != k) && b.groupUsable k && b.groupOwner k == 0 && !b.start.commons.contains k &&
      !b.recon.scrubbing.contains k && !b.power.isFailed (80 + k) && b.groupBytes g ≤ b.groupBytes k && !named k &&
      b.live.all fun n => !(b.slice n).groupsPending.getLsbD k

/-- An action that stands ahead of every pending request, at once in the next window (R318, R333). -/
def Block.queueAhead (b : Block) (act : Action) (n : Nat) (fw : Dword) (subst : Option (Bool × Nat × Nat)) : Block :=
  b.modRecon fun r =>
    { r with pend := (r.pend.filter (·.ahead)) ++ [{ act := act, slice := n, hold := Holdings.reset, fw := fw, ticket := 0, stride := 0
                                                     ahead := true, subst := subst }] ++ r.pend.filter fun x => !x.ahead }

/-- A substitution of the item already waits or runs, or a group's copy does. -/
def Block.substWaits (b : Block) (core : Bool) (i : Nat) : Bool :=
  (!core && b.ladder.groupCopies.any fun x => x.1 == i) || (b.recon.run.toList.map (·.req) ++ b.recon.pend).any fun r => match r.subst with
    | some (k, old, _) => k == core && old == i
    | none => false

/-- Farrier substitutes a core; one that no slice owns is retired as it is, and one with no spare is reported (R330, R331). -/
def Block.substCore (b : Block) (core : Nat) : Block :=
  let n := (b.core core).owner
  if !b.ladder.farrier || b.substWaits true core || 64 ≤ core then b
  else if n == 0 then (b.modLadder fun l => { l with retCores := bvSet l.retCores core }).modPower fun p => p.wantDown core
  else
    match b.spareCore core with
    | none => b.ladderReport b.stamp [n] 0 8 7 ((b.coresOf n).idxOf core)
    | some k => b.queueAhead .resize n 0 (some (true, core, k))

/-- Farrier acts on a core once no rung is in progress on it (R331). -/
def Block.farrierCore (b : Block) (core : Nat) : Block :=
  let n := (b.core core).owner
  if n != 0 && b.rungOn n then b.modLadder fun l => { l with substDue := l.substDue.filter (· != core) ++ [core] }
  else b.substCore core

def execSubstituteCore (core : Nat) (s : State) : Host.Outcome State Fault Refusal := s.onRetire fun b => b.farrierCore core

/-- Farrier substitutes a channel group: the spare's shim copies it first, and the action is queued when that is done (R333). A
commons group has no slice to act on. -/
def Block.substGroup (b : Block) (g : Nat) : Block :=
  let n := b.groupOwner g
  if !b.ladder.farrier || b.substWaits false g || 32 ≤ g || b.start.commons.contains g then b
  else if n == 0 then
    let shim := b.recon.shimOf g
    (b.modLadder fun l => { l with retGroups := bvSet l.retGroups shim }).modPower fun p => p.wantDown (80 + shim)
  else
    match b.spareGroup g with
    | none => b
    | some k => b.modLadder fun l => { l with groupCopies := l.groupCopies ++ [(g, k, b.groupBytes g)] }

def execSubstituteGroup (g : Nat) (s : State) : Host.Outcome State Fault Refusal := s.onRetire fun b => b.substGroup g

/-- The spare bank begins to copy a bank's 1,536 lines (R332). -/
def Block.substBank (b : Block) (core bank : Nat) : Block :=
  if b.ladder.farrier && core < 64 && bank < 16 && (b.core core).spareBank.isNone && !b.ladder.usedBanks.getLsbD core &&
      b.ladder.bankCopies.all fun x => x.1 != core then
    b.modLadder fun l => { l with bankCopies := l.bankCopies ++ [(core, bank, 1536)] }
  else b

/-- The last line is copied: the spare takes the bank's place with its contents. -/
def Block.bankMoves (b : Block) (core bank : Nat) : Block :=
  ((b.modCore core fun c => { c with spareBank := some bank }).modLadder fun l => { l with usedBanks := bvSet l.usedBanks core }).tallyUp
    0x8010 0x11

def execSubstituteBank (core bank : Nat) (s : State) : Host.Outcome State Fault Refusal := s.onRetire fun b => b.substBank core bank

/-- The spare way takes a way's number once the way's lines are written back (R90, R332). -/
def Block.wayMoves (b : Block) (cl way : Nat) : Block :=
  let n := b.wayOwner cl way
  let b := if n == 0 then b else b.flushCluster n cl (· == way)
  (b.modLadder fun l => { l with usedWays := bvSet l.usedWays cl }).tallyUp 0x8010 0x12

/-- A way is to be substituted; from level 2 on that waits (R404). -/
def Block.substWay (b : Block) (cl way : Nat) : Block :=
  if b.ladder.farrier && cl < 8 && way < 16 && !b.ladder.usedWays.getLsbD cl && b.ladder.wayDue.all fun x => x.1 != cl then
    if 2 ≤ b.power.level then b.modLadder fun l => { l with wayDue := l.wayDue ++ [(cl, way)] } else b.wayMoves cl way
  else b

def execSubstituteWay (cluster way : Nat) (s : State) : Host.Outcome State Fault Refusal := s.onRetire fun b => b.substWay cluster way

/-! ### Ends of turns (R325, R326, R331) -/

/-- Every turn has ended cleanly: an unexplained hang of the unit; at HANG_LIMIT Farrier acts. -/
def Block.unexplained (b : Block) (n core unit : Nat) : Block :=
  let k := 8 * core + unit
  let b := (b.modLadder fun l => { l with hangs := Tab.upd 0 l.hangs k (· + 1) }).tallyUp (0x8400 + n) 5
  if b.ladder.hangLimit ≤ Tab.get 0 b.ladder.hangs k then b.farrierCore core else b

/-- The turn ends as TURN_END ends it. -/
def Block.turnEnds (b : Block) (n : Nat) : Block :=
  match (b.slice n).ladder.replay with
  | none => b
  | some r =>
    match r.turn with
    | none => b
    | some _ =>
      if r.left.isEmpty then (b.nextReplay n).unexplained n r.core r.unit
      else b.modLad n fun l => { l with replay := some { r with turn := none } }

def execTurnEnd (slice ctx : Nat) (s : State) : Host.Outcome State Fault Refusal :=
  s.onRetire fun b =>
    if (b.slice slice).st == .none || b.gated then b
    else
      let b := b.modLad slice fun l => { l with ctrlCtx := ctx }
      if ((b.slice slice).ladder.replay.map fun r => r.turn == some ctx).getD false then b.turnEnds slice else b

def execTurnLimitExpiry (slice : Nat) (s : State) : Host.Outcome State Fault Refusal :=
  s.onRetire fun b =>
    if ((b.slice slice).ladder.replay.map fun r => decide (r.turnStride + b.ladder.turnLimit ≤ b.time.count.toNat)).getD false then
      b.turnEnds slice
    else b

def execAbandon (slice : Nat) (s : State) : Host.Outcome State Fault Refusal := s.onHost fun b => b.replayCut slice

/-! ### Failures (R310 to R314) -/

/-- The unit has work. -/
def Block.unitBusy (b : Block) (core unit : Nat) : Bool := !(b.unitCtxs core unit).isEmpty

/-- The unit is the one of the slice's turn in progress; its context. -/
def Block.turnOn (b : Block) (n core unit : Nat) : Option Nat :=
  match (b.slice n).ladder.replay with
  | none => none
  | some r => if r.core == core && r.unit == unit then r.turn else none

/-- The unit has started work that has not completed (R310). -/
def Core.working (c : Core) (u : Nat) : Bool :=
  if u < 4 then !(c.eng u).active.isEmpty else if u == 4 then c.vec.run.isSome else c.adapter.steps.any (·.started)

/-- Steps that the adapter unit could take but for their panels, each with whether its panels are there. -/
def Core.couldRun (c : Core) : List Bool :=
  c.adapter.steps.filterMap fun st =>
    match c.stepOp st with
    | none => none
    | some o => if c.readyBut st o then some (c.panelsHere st o st.t) else none

/-- States in which a unit's watchdog does not count (R311). -/
def Core.excused (c : Core) (u clk : Nat) : Bool :=
  if u < 4 then
    (c.eng u).waiting || ((clk < c.adapter.busyTo || c.adapter.panelAt.any (clk ≤ · + 1)) && (c.eng u).active.any fun o => o.phase == .baseDone && !o.upDone)
  else if u == 4 then false
  else !c.couldRun.isEmpty && c.couldRun.all not

/-- `k` compute clocks of the six unit watchdogs; a busy clock of a step is progress of the adapter unit (R310, R311). -/
def Core.watched (c : Core) (k clk : Nat) : Core :=
  { c with watch := (List.range 6).foldl (fun t u =>
      if !c.working u || (u == 5 && clk < c.adapter.busyTo) then Tab.erase t u
      else if c.excused u clk then t
      else Tab.upd 0 t u (· + k)) c.watch }

/-- The unit's watchdog has counted to its end. -/
def Block.unitHangs (b : Block) (core unit : Nat) : Bool :=
  2 ^ b.ladder.engWdogLog2 ≤ Tab.get 0 (b.core core).watch unit

/-- A unit watchdog expires: an engine rung is due, and in a replay turn the culprit is found (R314, R326). -/
def execUnitWatchdog (core unit : Nat) (s : State) : Host.Outcome State Fault Refusal :=
  s.onBlock fun b =>
    let n := (b.core core).owner
    if n == 0 || 5 < unit || !b.unitHangs core unit || b.ladder.dueUnit.any fun d => d.1 == core && d.2.1 == unit then b
    else
      let b := b.progress core unit
      match b.turnOn n core unit with
      | some c => ((b.toFaulted c cCulprit).replayCut n).askUnit core unit 3
      | none => b.askUnit core unit 1

/-- An uncorrectable error in a unit's internal state: its rung, and once that is over Farrier acts on the core (R314, R331). -/
def execUnitUncorr (core unit : Nat) (s : State) : Host.Outcome State Fault Refusal :=
  s.onBlock fun b => if (b.core core).owner == 0 || 5 < unit then b else (b.askUnit core unit 2).farrierCore core

/-- A heartbeat stops (R312). -/
def execFeHang (_unit : SharedUnit) (s : State) : Host.Outcome State Fault Refusal := s.onBlock fun b => b.askBlock 7

/-- A ring stop or Parade receiver fails: rung 3 on every slice with a core there, and a power cycle of the domain (R314). The
domain of a disabled cluster is off for good (R11). -/
def execSharedUnitFailure (cluster : Nat) (s : State) : Host.Outcome State Fault Refusal :=
  s.onBlock fun b =>
    if b.start.clusterEn.getLsbD cluster && b.power.isReq (72 + cluster) then
      (b.each (b.slicesIn cluster) fun n b => b.askSlice n 8).modPower fun p => p.cycle (72 + cluster)
    else b

/-- A launch has not ended, LAUNCH_GRACE after RESET_REQ. -/
def Block.graceOver (b : Block) (core : Nat) : Bool :=
  let c := b.core core
  (c.hart.launch.map fun l => l.resetReq && decide (l.resetAt + b.ladder.launchGrace * usClk ≤ b.time.mclk)).getD false && !c.launchOver

def execLaunchGraceExpiry (core : Nat) (s : State) : Host.Outcome State Fault Refusal :=
  s.onBlock fun b =>
    if (b.core core).owner != 0 && b.graceOver core then b.askSlice (b.core core).owner 4 else b

def execSliceReset (slice eid : Nat) (tag : Byte) (value : Byte) (s : State) : Host.Outcome State Fault Refusal :=
  s.onBlock fun b => b.dictWrite eid tag (0x9100 + slice) 6 [value] fun b =>
    if value == 1 then .done (b.askSlice slice 9) else .refused 1 b

/-- Rung 4 is the OP's to ask for. -/
def execRungRequestBlock (eid : Nat) (tag : Byte) (s : State) : Host.Outcome State Fault Refusal :=
  s.onBlock fun b => b.dictWrite eid tag 0x9000 7 [4] fun b =>
    if b.dict.roleMask eid == rOP then .done (b.askBlock 9) else .refused 1 b

def execRungRequestPower (eid : Nat) (tag : Byte) (s : State) : Host.Outcome State Fault Refusal :=
  s.onBlock fun b => b.dictWrite eid tag 0x9000 7 [5] fun b => .done (b.askPower 9)

/-- The bound of a rung in management clocks (R315); the commons check of a rung 4 does not count toward it. -/
def Block.rungBound (b : Block) (rung : Nat) : Nat :=
  b.ladder.sampleClks + match rung with
    | 2 => ceilDiv (4096 * 750000000) b.time.computeHz
    | 3 => 1000 * usClk + Config.switchClk
    | _ => 100000 * usClk

/-- Slices whose rung in progress has passed its bound, with the rung. -/
def Block.rungsLate (b : Block) : List (Nat × Nat) :=
  b.live.filterMap fun n =>
    match (b.slice n).ladder.busy with
    | none => none
    | some (r, k) => if b.rungDone n || k < b.rungBound r then none else some (n, r)

/-- A rung in progress has passed its bound: the next rung is due (R315). At level 5 no bound counts (R316). -/
def execRungEscalation (s : State) : Host.Outcome State Fault Refusal :=
  s.onBlock fun b =>
    if b.power.level == 5 then b
    else if (b.ladder.blockBusy.map fun k => decide (b.rungBound 4 ≤ k)).getD false then
      (b.modLadder fun l => { l with blockBusy := none }).askPower 6
    else
      match b.rungsLate with
      | [] => b
      | (n, r) :: _ =>
        let b := b.modLad n fun l => { l with busy := none }
        if r == 2 then b.askSlice n 6 else b.askBlock 6

/-! ### The engine rung (R317) -/

/-- Before in the order of R316: expiry stamp, core, unit. -/
def dueBefore (x y : Nat × Nat × Nat × Dword) : Bool :=
  x.2.2.2 < y.2.2.2 || (x.2.2.2 == y.2.2.2 && (x.1 < y.1 || (x.1 == y.1 && x.2.1 < y.2.1)))

/-- The unit drops what it runs and queues; its stores keep their contents (R313). The queue of the adapter unit is the ops with
steps still to complete (R324); deferred bindings that waited for those follow (R137). -/
def Block.unitReset (b : Block) (core unit : Nat) : Block :=
  let b := b.progress core unit
  if unit < 4 then b.endOps core unit cCancelled ((b.runningOp core unit).toList ++ (b.eng core unit).queue)
  else if unit == 4 then b.dropProgs core cCancelled fun _ => true
  else
    let steps := (b.core core).adapter.steps
    let b := b.each (List.range 4) fun e b => b.endOps core e cCancelled (((b.eng core e).active ++ (b.eng core e).queue).filter fun o =>
      steps.any fun st => st.eng == e && st.ticket == o.ticket)
    (b.dropSteps core fun _ => true).modAdapter core fun a => { a with fires := [] }

/-- A suspect is reset to SUSPECT. -/
def Block.suspectReset (b : Block) (c : Nat) : Block :=
  let b := if (b.ctx c).st == .active || (b.ctx c).st == .faulted then b.resetStart c cCancelled else b
  if (b.ctx c).st == .resetting then b.modCtx c fun x => { x with toSuspect := true } else b

/-- Steps 5 and 6, once the record is written and every suspect is in SUSPECT. -/
def Block.engineReport (b : Block) (n : Nat) : Block :=
  match (b.slice n).ladder.engRung with
  | none => b
  | some e =>
    if (b.slice n).ladder.sampling.isSome || e.suspects.any fun c => (b.ctx c).st == .resetting then b
    else
      let b := b.ladderReport e.stamp [n] 2 e.cause e.unit ((b.coresOf n).idxOf e.core)
      let r : Replay := { core := e.core, unit := e.unit, left := e.suspects, turn := none, turnStride := 0, reserved := false }
      b.modLad n fun l =>
        let l := { l with engRung := none }
        if e.suspects.isEmpty then l
        else if l.replay.isNone then { l with replay := some r, suspects := e.suspects, replayed := true }
        else { l with waitingReplays := l.waitingReplays ++ [r] }

/-- Steps 2 to 4, for an event of time t; a rung with CAUSE 3 has no suspects (R326). -/
def Block.engineRung (b : Block) (t : Dword) (n core unit cause : Nat) : Block :=
  let suspects := if cause == 3 then [] else b.unitCtxs core unit
  let b := b.takeSample t n 2 cause [core] unit (b.zhCore core)
  let b := (b.unitReset core unit).each suspects fun c b => b.suspectReset c
  (b.modLad n fun l =>
    { l with busy := some (2, 0), engRung := some { core := core, unit := unit, cause := cause, suspects := suspects, stamp := t } }).engineReport n

def execEngineRung (core unit : Nat) (s : State) : Host.Outcome State Fault Refusal :=
  s.onBlock fun b =>
    let n := (b.core core).owner
    match b.ladder.dueUnit.find? fun d => d.1 == core && d.2.1 == unit with
    | none => b
    | some d =>
      let rest := b.modLadder fun l => { l with dueUnit := l.dueUnit.erase d }
      if n == 0 then rest
      else if !b.rungDone n || b.ladder.dueUnit.any fun x => (b.core x.1).owner == n && dueBefore x d then b
      else rest.engineRung d.2.2.2 n core unit d.2.2.1

/-! ### The slice rung (R318) -/

/-- Contexts that a rung resets: those that exist. -/
def Block.ctxsReset (b : Block) (n : Nat) : Block :=
  b.each (b.ctxsOf n) fun c b =>
    let b := if (b.ctx c).st == .resetting then b else b.resetStart c cCancelled
    ((b.modCtx c fun x => { x with toSuspect := false }).resetEnd c).ctxCode c cLadder

/-- Step 3: dirty lines and cached descriptors go to memory. -/
def Block.sliceWriteBack (b : Block) (n : Nat) : Block :=
  let b := (b.dropDcache (b.coresOf n)).each (List.range 8) fun cl b => b.flushCluster n cl fun _ => true
  b.each ((b.ctxsOf n).filter fun c => (b.ctx c).cached.isSome) fun c b => b.ctxWriteBack c

/-- Steps 2 to 6. -/
def Block.sliceClears (b : Block) (n : Nat) (lost : Bool) : Block :=
  let cores := b.coresOf n
  let b := b.each cores fun c b => b.coreStops c cCancelled
  let b := (b.endDmas cCancelled fun d => (b.ctx d.ctx).slice == n).abandonCopies n
  let b := b.modLad n fun l => { l with replay := none, waitingReplays := [], suspects := [], engRung := none }
  let b := if lost then b else b.sliceWriteBack n
  let b := b.each cores fun c b => b.modHart c fun h => { h.halt with launch := none, waitingLaunches := [] }
  let b := (b.ctxsReset n).each (b.queuesOf n) fun q b => b.modQueue q fun x => x.drained.off
  let b := b.modPower fun p => cores.foldl (fun p c => if p.isFailed c then p else p.cycle c) p
  let b := (b.dropDcache cores).modCoh fun c => { c with lines := c.lines.filter fun l => match l.agent with
    | .cluster k _ => k != n
    | _ => true }
  let b := b.each (b.ctxsOf n) fun c b => b.modCtx c fun x => { x with cached := none }
  (b.modXlat n fun x => { x with tlb := [] }).modSlice n fun x => { x with rein := { x.rein with est := [] } }

/-- The slice's firmware is to be started again, ahead of every pending request; a slice that never had any keeps its harts
halted. -/
def Block.queueFirmware (b : Block) (n : Nat) : Block :=
  let b := b.modRecon fun r => { r with pend := r.pend.filter fun x => !(x.ahead && x.slice == n && x.act == .firmware) }
  match (b.slice n).sec.fwAddr with
  | none => b
  | some fw => b.queueAhead .firmware n fw none

def Block.sliceRung (b : Block) (t : Dword) (n cause : Nat) : Block :=
  let b := b.modLadder fun l => { l with dueUnit := l.dueUnit.filter fun d => (b.core d.1).owner != n }
  let b := b.takeSample t n 3 cause (b.coresOf n) 7 0
  let b := (b.sliceClears n (b.slice n).ladder.lost).ladderReport t [n] 3 cause 7 0
  (b.queueFirmware n).modLad n fun l => { l with busy := some (3, 0) }

/-- Slices that one failure of a shared unit reaches take their rungs together, with the same report (R24). -/
def execSliceRung (slice : Nat) (s : State) : Host.Outcome State Fault Refusal :=
  s.onBlock fun b =>
    match b.ladder.dueSlice.find? fun d => d.1 == slice with
    | none => b
    | some d =>
      let ns := slice :: (if d.2.1 == 8 then (b.ladder.dueSlice.filter fun x => x.1 != slice && x.2.1 == d.2.1 && x.2.2.1 == d.2.2.1).map (·.1) else [])
      let b := b.modLadder fun l => { l with dueSlice := l.dueSlice.filter fun x => !ns.contains x.1 }
      (ns.filter fun n => (b.slice n).st != .none).foldl (fun b n => b.sliceRung d.2.2.2 n d.2.1) b

/-! ### The block-compute rung (R319) -/

/-- Step 4: every pending request is discarded. -/
def Block.discardRequests (b : Block) : Block :=
  let gone := b.recon.pend.any fun r => !r.ahead
  let b := b.modRecon fun r => { r with pend := [], status := if gone then 4 else r.status }
  b.each ((List.range 28).map (· + 1)) fun n b => b.setPending n

/-- Step 4: R305 ends where it stands, and every GEN rises (R307); the other registers of the control pages take their reset
values (R9). -/
def Vi.rung (x : Vi) : Vi :=
  { Vi.reset with
    gen := x.gen + 1
    st := match x.st with
      | .resetting => .active
      | .removing => .free
      | st => st }

def Block.visRung (b : Block) : Block := b.each (List.range 2048) fun v b => b.modVi v Vi.rung

/-- Registers of a slice that no table marks as surviving the rung take their reset values (R9); the ranges, which the slice
table gives, the dictionary's settings and what it counts stay. -/
def Slice.rungRegs (x : Slice) : Slice :=
  { x with
    arb := Arbiter.reset, xlat := XlatRegs.reset, secureIrq := 0, aptValid := false, aptKey := 0
    ctxr := { CtxRegs.reset with
      first := x.ctxr.first, count := x.ctxr.count, fenceFirst := x.ctxr.fenceFirst, fenceCount := x.ctxr.fenceCount }
    ladder := { x.ladder with busy := none, irqTurn := false, irqEvent := false, ctrlCtx := 0 }
    rein := { x.rein with missed := 0, missStride := 0, pending := false, missWindows := 0 } }

/-- The Parade's registers after the rung (R9). -/
def Parade.rungRegs (p : Parade) : Parade :=
  { p with overruns := 0, recMaxSlip := 0, recStride := 0, recEcc := false, recLate := 0, recDropped := 0, staged := none }

/-- Step 6: the commons are hashed in place. -/
def Block.hashCommons (b : Block) : Block :=
  b.modParade fun p =>
    { p with st := .loading, tree := [], run := none, load := some { left := 0, written := p.map.baseBytes, fetched := true } }

/-- Step 5: the image in force still stands in the flash. -/
def Block.imageStands (b : Block) (fuse : BitVec 4096) (f : Flash) : Bool :=
  ((f.slotImage fuse b b.start.slot).map imageDigest) == some b.start.configDigest

/-- Step 5: the image in force is loaded again: its sweep map; the dictionary's settings stay (R313, R319). -/
def Block.reloadImage (b : Block) (fuse : BitVec 4096) (f : Flash) : Block :=
  match f.slotImage fuse b b.start.slot with
  | none => b
  | some x => b.modParade fun p => { p with map := x.map, startClks := [] }

def Block.blockRung (b : Block) (fuse : BitVec 4096) (f : Flash) (t : Dword) (cause : Nat) : Block :=
  let b := b.closeDebug.modLadder fun l => { l with dueUnit := [], dueSlice := [], dueBlock := none, blockBusy := some 0 }
  let b := b.each b.live fun n b => b.takeSample t n 4 cause (b.coresOf n) 7 0
  let b := b.each b.live fun n b => b.sliceClears n (b.slice n).ladder.lost
  let b := ((b.each b.live fun n b => b.modSlice n Slice.rungRegs).modParade Parade.rungRegs).staleHost fun u => match u with
    | .baseList => true
    | .baseData _ _ => true
    | .stageList => true
    | .stageData _ _ => true
    | _ => false
  let b := { b with queues := [] }.discardRequests.visRung
  let b := if b.imageStands fuse f then b.reloadImage fuse f else b.askPower 6
  let b := (b.hashCommons.queueAhead .resize 0 0 none).ladderReport t b.live 4 cause 7 0
  b.each b.live fun n b => b.queueFirmware n

def execBlockComputeRung (s : State) : Host.Outcome State Fault Refusal :=
  s.onBlock fun b =>
    match b.ladder.dueBlock with
    | none => b
    | some c => b.blockRung s.fuse s.flash c.2 c.1

/-! ### The power cycle (R320) -/

/-- The rung up to TRAY_HOLD; samples are taken while the compute path can. -/
def Block.powerRung (b : Block) (t : Dword) (cause : Nat) : Block :=
  let b := b.closeDebug.saveDue.modLadder fun l =>
    { l with dueUnit := [], dueSlice := [], dueBlock := none, duePower := none, blockBusy := none, trayFrom := some b.time.mclk }
  let b := if b.gated then b else b.each b.live fun n b => b.takeSample t n 5 cause (b.coresOf n) 7 0
  (b.each b.live fun n b => (b.abandonCopies n).modLad n fun l => { l with engRung := none }).ladderReport t b.live 5 cause 7 0

def execPowerCycleRung (s : State) : Host.Outcome State Fault Refusal :=
  s.onBlock fun b =>
    match b.ladder.duePower with
    | none => b
    | some c => if b.ladder.trayFrom.isSome then b else b.powerRung c.2 c.1

/-- TRAY_HOLD is over. -/
def Block.trayOver (b : Block) : Bool :=
  (b.ladder.trayFrom.map fun t => decide (t + b.ladder.trayHold * (1000 * usClk) ≤ b.time.mclk)).getD false

/-- TRAY_HOLD is over: TRAY_REQ is asserted until power is removed. -/
def execTrayHoldExpiry (s : State) : Host.Outcome State Fault Refusal :=
  s.onBlock fun b =>
    if b.trayOver && !b.ladder.trayReq then
      (b.modLadder fun l => { l with trayReq := true }).tallyUp 0x8010 0x15
    else b

/-! ### Management cores (R334) -/

/-- Lines that the failed core held are poisoned at their homes (R297, R334). -/
def Block.mgmtLines (b : Block) (i : Nat) : Block :=
  let held := b.coh.lines.filter fun l => match l.agent with
    | .priv _ k => k == i
    | _ => false
  held.foldl (fun b l =>
    let b := b.setPoison l.line true
    let b := b.modCoh fun c => { (c.dropLine l.agent l.line) with
      filter := if (c.filt l.line).any fun f => f.owner == some l.agent then Tab.erase c.filter l.line else c.filter }
    (b.modCnt (agentSlice l.agent) fun c => { c with cohPoisoned := up32 c.cohPoisoned }).tallyUp 0x8010 0x0D) b

/-- One hour of management clock. -/
def hourClk : Nat := 3600 * 750000000

/-- A management core's watchdog expires: it is reset alone, twice within an hour it stays halted, and with fewer than two left
the ladder climbs to rung 5. -/
def Block.mgmtFails (b : Block) (i : Nat) : Block :=
  let recent := b.ladder.mgmtExp.filter fun x => x.1 == i && b.time.mclk < x.2 + hourClk
  let b := b.modLadder fun l =>
    { l with mgmtExp := l.mgmtExp.filter (fun x => b.time.mclk < x.2 + hourClk) ++ [(i, b.time.mclk)]
             mgmtHalted := if recent.isEmpty then l.mgmtHalted else insertNat i l.mgmtHalted }
  let b := (b.mgmtLines i).tallyUp 0x8010 0x0B
  let b := b.ladderReport b.stamp b.live 0 10 7 0
  if 3 ≤ b.ladder.mgmtHalted.length then b.askPower 10 else b

def execMgmtCoreWatchdog (i : Nat) (s : State) : Host.Outcome State Fault Refusal :=
  s.onBlock fun b => if 4 ≤ i || b.ladder.mgmtHalted.contains i || b.start.stage == 0 then b else b.mgmtFails i

/-! ### One clock -/

/-- A management clock of slice n's ladder: its record under way and its rung in progress (R315, R323). -/
def LadderRegs.tick (l : LadderRegs) : LadderRegs :=
  { l with sampleRan := if l.sampling.isSome then l.sampleRan + 1 else l.sampleRan, busy := l.busy.map fun x => (x.1, x.2 + 1) }

def Block.sliceLadderTick (b : Block) (n : Nat) : Block :=
  let b := b.modLad n LadderRegs.tick
  let b := (if (b.slice n).ladder.sampleFor ≤ (b.slice n).ladder.sampleRan then b.finishSample n else b).engineReport n
  if (b.slice n).ladder.lost && b.rungDone n && b.ladder.blockBusy.isNone && b.ladder.dueBlock.isNone &&
      b.ladder.dueSlice.all fun d => d.1 != n then b.modLad n fun l => { l with lost := false }
  else b

/-- Farrier acts on the cores that waited for a rung to end (R331), and on the ways that waited for a lower level (R404). -/
def Block.farrierTick (b : Block) : Block :=
  let b := b.each b.ladder.substDue fun c b =>
    if b.rungOn (b.core c).owner then b
    else (b.modLadder fun l => { l with substDue := l.substDue.filter (· != c) }).farrierCore c
  if b.ladder.wayDue.isEmpty || 2 ≤ b.power.level then b
  else b.ladder.wayDue.foldl (fun b x => b.wayMoves x.1 x.2) (b.modLadder fun l => { l with wayDue := [] })

/-- A compute clock of the copies of banks: a line of each, below level 2 (R332, R404). DESIGN CHOICE: other requesters of the bank
do not delay it (notes/assumptions/122.md). -/
def Block.bankTick (b : Block) : Block :=
  if b.ladder.bankCopies.isEmpty || 2 ≤ b.power.level then b
  else
    let l := b.ladder.bankCopies.map fun x => (x.1, x.2.1, x.2.2 - 1)
    (l.filter fun x => x.2.2 == 0).foldl (fun b x => b.bankMoves x.1 x.2.1)
      (b.modLadder fun y => { y with bankCopies := l.filter fun x => x.2.2 != 0 })

/-- A management clock of the copies of groups: 256 bytes at 192 GB/s, below level 2; one that is done queues its action (R333,
R404). -/
def Block.groupTick (b : Block) : Block :=
  if b.ladder.groupCopies.isEmpty || 2 ≤ b.power.level then b
  else
    let l := b.ladder.groupCopies.map fun x => (x.1, x.2.1, x.2.2 - 256)
    (l.filter fun x => x.2.2 == 0).foldl (fun b x => b.queueAhead .resize (b.groupOwner x.1) 0 (some (false, x.1, x.2.1)))
      (b.modLadder fun y => { y with groupCopies := l.filter fun x => x.2.2 != 0 })

/-! ### Memory errors (R91, R331, R334, R427) -/

/-- Farrier's item, by kind and number as SUBSTITUTE has them (R331, R336). -/
def Block.farrierItem (b : Block) (x : Nat × Nat) : Block :=
  match x.1 with
  | 1 => b.farrierCore x.2
  | 2 => b.substBank (x.2 / 16) (x.2 % 16)
  | 3 => b.substWay (x.2 / 16) (x.2 % 16)
  | 4 => b.substGroup x.2
  | _ => b

/-- A corrected error of a macro: its tally, and Farrier at CE_LIMIT within an hour. -/
def Block.macroCorrected (b : Block) (m : Nat) : Block :=
  let b := (b.tallyUp (0x8200 + m / 128) (m % 128 + 1)).modLadder fun l =>
    { l with corrected := l.corrected.filter (fun x => b.time.mclk < x.2 + hourClk) ++ [(m, b.time.mclk)] }
  if b.ladder.ceLimit ≤ (b.ladder.corrected.filter fun x => x.1 == m).length then b.farrierItem (Config.macroItem m) else b

/-- A line of a cluster cache is lost to an uncorrectable error: the cache gives it up, and a read meets it poisoned (R91, R298). -/
def Block.cacheError (b : Block) (cl line : Nat) : Block :=
  match b.coh.lines.find? fun l => l.line == line && agentCluster l.agent == some cl with
  | none => b
  | some l => ((b.dropCopy l.agent line).setPoison line true).farrierItem (3, 16 * cl + l.way)

/-- A memory error strikes. -/
def Block.strike (b : Block) (u : Upset) : Block :=
  let bad (b : Block) : Block := b.tallyUp (0x8300 + u.macro_ / 128) (u.macro_ % 128 + 1)
  match u.place with
  | .corrected => b.macroCorrected u.macro_
  | .scratch core line =>
    (bad b |>.modCore core fun c => { c with poison := Tab.set false c.poison line true }).farrierItem (2, 16 * core + line % 16)
  | .cache cl line => (bad b).cacheError cl line
  | .mgmt => (bad b).askPower 10

/-- The errors whose clock has come. -/
def Block.strikeTick (b : Block) : Block :=
  if b.upsets.isEmpty then b
  else (b.upsets.filter fun u => u.at_ ≤ b.time.mclk).foldl Block.strike { b with upsets := b.upsets.filter fun u => b.time.mclk < u.at_ }

/-- The watchdogs of units count compute clocks (R310), but not while the units are parked (R403). -/
def Block.watchTick (b : Block) : Block :=
  if b.gated || b.parked then b else b.each (Tab.keys b.cores) fun c b => b.modCore c fun x => x.watched 1 b.time.clk

/-- Records and bounds count management clocks outside level 5 (R315, R316). -/
def Block.ladderTick (b : Block) : Block :=
  if b.power.level == 5 then b
  else (b.groupTick.each b.live fun n b => b.sliceLadderTick n).modLadder fun l =>
    { l with blockBusy := if b.parade.st == .loading then l.blockBusy else l.blockBusy.map (· + 1) }

end Sys2Proof.Machine
end

