-- ==== Sys2Proof/Machine/Dictionary.lean ====
section
/-! DEFINITION. The object dictionary's messages: READ, WRITE, DESCRIBE, events and the MCTP control messages (R407 to R423,
R449, with the entry tables of every chapter). -/

namespace Sys2Proof.Machine

/-! ### Values derived from the state -/

/-- ZH_SHAPE (R15). -/
def Block.shape (b : Block) : Nat :=
  b.start.clusterEn.toNat * 2 ^ 24 + b.start.maxSlices * 2 ^ 16 + b.start.commons.length * 2 ^ 8 + b.start.memMib.length

/-- ZH_FED_ID (R15). -/
def Block.fedId (b : Block) : Nat := (if b.start.lead then 2 ^ 15 else 0) + b.start.inst * 2 ^ 8 + b.start.instCount

/-- ZH_START_STAT (R392). -/
def Block.startStat (b : Block) : Nat :=
  let t := b.start
  t.stage * 2 ^ 28 + t.fault * 2 ^ 24 + t.slot * 2 ^ 23 + (if t.fellBack then 2 ^ 22 else 0)

def Lock.code : Lock → Nat
  | .unlocked => 0
  | .locked => 1
  | .holdover => 2

def ParadeSt.code : ParadeSt → Nat
  | .empty => 0
  | .loading => 1
  | .verified => 2
  | .running => 3
  | .fault => 4
  | .stopped => 5

def SliceSt.code : SliceSt → Nat
  | .none => 0
  | .active => 1
  | .changing => 2

def JobSt.code : JobSt → Nat
  | .off => 0
  | .armed => 1
  | .copying => 2
  | .restoring => 3
  | .restoreFailed => 4

def LinkSt.code : LinkSt → Nat
  | .down => 0
  | .training => 1
  | .up => 2
  | .failed => 3

/-- Domains of a table as the 15 bytes of PD_ON and PD_FAILED. -/
def domainMask (t : Tab Bool) : Nat := (t.filter fun x => x.2 && x.1 < 118).foldl (fun m x => m ||| 2 ^ x.1) 0

/-- Free spare cores of a cluster (R331, R336). -/
def Block.freeSpares (b : Block) (cl : Nat) : Nat :=
  ((List.range 8).filter fun k =>
    let c := 8 * cl + k
    b.coreUsable c && (b.core c).owner == 0 && !b.power.isFailed c).length

/-- The counters of 0x3002 by subindex (R127). -/
def TimeBase.counter (t : TimeBase) : Nat → Nat
  | 1 => t.pulseSpurious
  | 2 => t.holdoverStrides
  | 3 => t.tmIgnored
  | 4 => t.tmConflict
  | 5 => t.tmStale
  | 6 => t.countStep
  | 7 => t.freqStep
  | 8 => t.phaseSkip
  | _ => 0

/-- A field of a set of holdings by the offset of 0x2001:03 to :0B (R178). -/
def holdField (h : Holdings) : Nat → Nat
  | 0 => h.cores.toNat
  | 1 => h.groups.toNat
  | 2 => h.ways.toNat
  | 3 => h.ccache
  | 4 => h.qFirst * 2 ^ 16 + h.qCount
  | 5 => h.contexts
  | 6 => h.fences
  | 7 => h.rtShare
  | 8 => h.reserv.toNat
  | _ => 0

def setHoldField (h : Holdings) (i v : Nat) : Holdings :=
  match i with
  | 0 => { h with cores := BitVec.ofNat 64 v }
  | 1 => { h with groups := BitVec.ofNat 32 v }
  | 2 => { h with ways := BitVec.ofNat 128 v }
  | 3 => { h with ccache := v }
  | 4 => { h with qFirst := fld v 27 16, qCount := fld v 12 0 }
  | 5 => { h with contexts := v }
  | 6 => { h with fences := v }
  | 7 => { h with rtShare := v }
  | 8 => { h with reserv := BitVec.ofNat 64 v }
  | _ => h

/-- Bytes 0 to 7 of a binding (R411). -/
def EidBinding.value (x : EidBinding) : Nat := x.eid + x.role * 2 ^ 8 + x.slices.toNat * 2 ^ 32

/-- The value that an entry keeps, for entries that start something (R410; notes/assumptions/32.md). -/
def Block.kept (b : Block) (i s d : Nat) : Nat := (Tab.find b.dict.held (256 * i + s)).getD d

/-! ### What an entry reads -/

/-- Entries 0x1000 to 0x2001 (R178, R390, R411, R422). -/
def Block.readOne (b : Block) (i s : Nat) : Nat :=
  match i, s with
  | 0x1000, 1 => zhVersion
  | 0x1000, 2 => b.shape
  | 0x1000, 3 => b.fedId
  | 0x1000, 4 => b.startStat
  | 0x1000, 5 => b.start.serial.toNat
  | 0x1000, 6 => b.behaviour
  | 0x1000, 10 => b.dict.vendorIana
  | 0x1001, 1 => b.start.behaviourReq
  | 0x1010, 1 => b.kept i s 0
  | 0x1010, 2 => b.start.imageList.toNat
  | 0x1010, 3 => b.start.imageCount
  | 0x1010, 4 => b.start.imageStatus
  | 0x1020, s => (Tab.get EidBinding.reset b.dict.bindings (s - 1)).value
  | 0x1030, 1 => b.dict.eventRetry
  | 0x1030, 2 => b.dict.evQueue.length
  | 0x1030, 3 => b.dict.evLost
  | 0x2000, 1 => b.slicesActive
  | 0x2000, 2 => b.recon.window.toNat
  | 0x2000, 3 => b.recon.notice
  | 0x2000, 4 => b.recon.counted
  | 0x2001, 1 => b.recon.reqAction
  | 0x2001, 2 => b.recon.reqSlice
  | 0x2001, 0x0C => b.recon.reqFw.toNat
  | 0x2001, 0x11 => b.recon.status
  | 0x2001, 0x12 => b.recon.refusal
  | 0x2001, 0x13 => b.recon.ticket
  | 0x2001, 0x14 => b.recon.actionStride
  | 0x2001, s => if 3 ≤ s && s ≤ 11 then holdField b.recon.reqHold (s - 3) else 0
  | _, _ => 0

/-- Entries 0x3000 to 0x5000 (R127, R275, R339). -/
def Block.readTwo (b : Block) (i s : Nat) : Nat :=
  match i, s with
  | 0x3000, 1 => b.stamp.toNat
  | 0x3000, 2 => b.time.lenNs
  | 0x3000, 3 => b.time.lock.code
  | 0x3001, 1 => b.time.timingPorts.toNat
  | 0x3001, 2 => b.time.grace
  | 0x3002, s => b.time.counter s
  | 0x3010, 1 => b.start.commons.length
  | 0x3010, 2 => b.parade.map.commonsDigest.toNat
  | 0x3010, 3 => b.parade.st.code
  | 0x3011, 1 => b.parade.map.digest.toNat
  | 0x3011, 2 => b.parade.map.runs.length
  | 0x3011, 3 => (b.parade.map.minSp 0).getD 0
  | 0x3011, 4 => (b.parade.map.minSp 1).getD 0
  | 0x3011, 5 => b.parade.mapRefusal
  | 0x3012, 1 => b.parade.switchStride.toNat
  | 0x3012, 2 => b.parade.stageList.toNat
  | 0x3012, 3 => b.parade.stageCount
  | 0x3013, 1 => b.parade.overrunLimit
  | 0x3014, 1 => b.parade.lateRuns
  | 0x3014, 2 => b.parade.droppedRuns
  | 0x3014, 3 => b.parade.eccTiles
  | 0x3020, 1 => b.parade.tallyPhase
  | 0x3030, 1 => b.kept i s 0
  | 0x3030, 2 => b.parade.loadList.toNat
  | 0x3030, 3 => b.parade.loadCount
  | 0x4000, 1 => b.dict.ageLimit
  | 0x4001, 1 => 4
  | 0x4001, 2 => 2
  | 0x4001, 3 => 4
  | 0x4001, 4 => 4
  | 0x4001, 5 => b.dict.hostSlotClk
  | 0x5000, 1 => b.dict.feedGroup
  | 0x5000, 2 => b.dict.refillMbps
  | 0x5000, 3 => b.dict.secureTimeout
  | _, _ => 0

/-- Entries 0x6000 to 0x7003 (R381, R406). -/
def Block.readThree (b : Block) (i s : Nat) : Nat :=
  match i, s with
  | 0x6000, 1 => b.lcsCode
  | 0x6000, 2 => b.life.svn
  | 0x6000, 3 => if b.life.debugOpen then b.life.rights.toNat else 0
  | 0x6000, 4 => if b.life.debugOpen then b.life.dslices.toNat else 0
  | 0x6000, 5 => b.life.closeStride.toNat
  | 0x6001, 1 => leNat b.life.challenge
  | 0x6001, 2 => leNat b.life.cert
  | 0x6001, 4 => b.life.debugResult
  | 0x6002, 1 => leNat b.life.transReq
  | 0x6002, 3 => b.life.transResult
  | 0x6003, 1 => b.kept i s 0
  | 0x7000, 1 => b.power.level
  | 0x7000, 2 => b.power.cause
  | 0x7000, 3 => b.power.time.toNat
  | 0x7001, 6 => b.power.hystMv
  | 0x7001, 7 => b.power.exitHold
  | 0x7001, 8 => b.power.warnHalt
  | 0x7001, 9 => b.power.dmEnable.toNat
  | 0x7001, s => b.power.shedMv.getD (s - 1) 0
  | 0x7002, 1 => b.power.pdTimeout
  | 0x7002, 2 => domainMask ((List.range 118).map fun d => (d, b.power.shownOn d))
  | 0x7002, 3 => domainMask b.power.failed
  | 0x7002, 4 => b.power.pdWave
  | 0x7003, 2 => if b.power.shutdownReady then 1 else 0
  | _, _ => 0

/-- Entries 0x8000 on, but for SPARES (R225, R299, R336, R423 to R428). -/
def Block.readFour (b : Block) (i s : Nat) : Nat :=
  match i, s with
  | 0x8000, 6 => 0
  | 0x8000, 7 => 0
  | 0x9000, 1 => b.ladder.engWdogLog2
  | 0x9000, 2 => b.ladder.sampleLimit
  | 0x9000, 3 => b.ladder.launchGrace
  | 0x9000, 4 => b.ladder.turnLimit
  | 0x9000, 5 => b.ladder.feWdog
  | 0x9000, 6 => b.ladder.trayHold
  | 0x9010, 1 => b.ladder.cohSnoopTimeout
  | 0x9010, 2 => b.ladder.cohReqTimeout
  | 0x9030, 1 => if b.ladder.farrier then 1 else 0
  | 0x9030, 2 => b.ladder.ceLimit
  | 0x9030, 3 => b.ladder.hangLimit
  | 0x9030, 6 => b.ladder.retCores.toNat + b.ladder.retGroups.toNat * 2 ^ 64 + b.ladder.usedWays.toNat * 2 ^ 96
  | 0xA000, 1 => b.dict.package
  | 0xA001, s => (b.ports.link (s - 1)).st.code
  | 0xA100, s => leNat (Tab.get [] b.dict.grants s)
  | i, s =>
    if 0x8000 ≤ i && i < 0x9000 then b.tallyGet i s
    else if 0xA010 ≤ i && i ≤ 0xA014 then
      Tab.get 0 (if s == 1 then b.ports.remoteRefused else if s == 2 then b.ports.retrains else b.ports.staleRole) (i - 0xA010)
    else 0

/-- The entries of a securing job (R339). -/
def Job.read (x : Job) : Nat → Nat
  | 0x01 => x.st.code
  | 0x03 => x.manifestAddr.toNat
  | 0x04 => x.fences.toNat
  | 0x05 => x.window.toNat
  | 0x06 => x.partner.toNat
  | 0x07 => x.port
  | 0x08 => if x.force then 1 else 0
  | 0x09 => x.cls
  | 0x0A => x.restoreFrom.toNat
  | 0x0B => x.lastStep.toNat
  | 0x0C => (if x.valid then 2 ^ 63 else 0) + x.bank * 2 ^ 62 + x.result * 2 ^ 48 + x.lastStride.toNat
  | 0x0D => x.partnerFeed * 2 ^ 16 + x.pair
  | 0x0E => x.copies
  | 0x0F => x.late
  | 0x10 => x.failed
  | 0x11 => x.restores
  | _ => 0

/-- The 16 bytes of a RECORD entry (R275). -/
def ReinWin.record (w : ReinWin) : Nat :=
  min max32 w.n + min max32 w.m * 2 ^ 32 + min max32 w.largest * 2 ^ 64 + min max32 (w.bytes / 65536) * 2 ^ 96

/-- SUSPECTS: the list in turn order, padded; its default until a replay has run (R321). -/
def LadderRegs.suspectBytes (l : LadderRegs) : List Byte :=
  if l.replayed then (List.range 72).flatMap fun k => toLe 4 (l.suspects.getD k 0xFFFFFFFF) else List.replicate 288 0

/-- Entries 0x2100 + n (R152, R178, R299, R300). -/
def Slice.readHold (x : Slice) : Nat → Nat
  | 0x01 => x.st.code
  | 0x0B => x.groupsPending.toNat
  | 0x0C => x.mapAddr.toNat
  | 0x0D => x.pendingStride.toNat
  | 0x0E => x.cohNext
  | 0x0F => x.holdNext
  | 0x10 => x.cnt.cohNacks
  | 0x11 => x.cnt.cohParked
  | 0x12 => x.cnt.cohFilterEvicts
  | 0x13 => x.cnt.cohPoisoned
  | 0x14 => x.viRange.toNat
  | 0x15 => x.cnt.engLateStart
  | 0x16 => x.cnt.adaptWait
  | 0x17 => x.cnt.adaptMisses
  | 0x18 => x.cnt.adaptTagRows
  | 0x19 => x.cnt.adaptLoadRefused
  | 0x1A => x.cnt.prefetchNoTile
  | 0x1B => x.cnt.prefetchBytes
  | s => holdField x.hold (s - 2)

/-- Entries of an existing slice n at a base index (R421). -/
def Block.readSlice (b : Block) (base n j s : Nat) : Nat :=
  let x := b.slice n
  match base, s with
  | 0x2100, s => x.readHold s
  | 0x2200, 1 => leNat x.ledger
  | 0x2200, 2 => leNat x.nonce
  | 0x2200, 3 => leNat x.nonceLedger
  | 0x2200, 4 => x.nonceStatus
  | 0x4100, s => ((Tab.find x.rein.staged (s - 1)).getD (x.rein.setting (s - 1))).toNat
  | 0x4200, 17 => x.rein.missWindows
  | 0x4200, s => (Tab.get ReinWin.reset x.rein.records (s - 1)).record
  | 0x4300, _ => leNat ((List.range 7).flatMap fun k => toLe 8 (Tab.get (0 : Dword) x.rein.positions k).toNat)
  | 0x5100, s => (b.job n j).read s
  | 0x5300, s => leNat (Tab.get [] x.holdAreas s)
  | 0x6100, 1 => maskOf (b.keysHeld n)
  | 0x6100, 3 => x.sec.keyLast
  | 0x6100, 4 => b.kept (0x6100 + n) 4 0xFF
  | 0x6200, 1 => if x.sec.consent then 1 else 0
  | 0x6200, 2 => b.kept (0x6200 + n) 2 0
  | 0x6200, 3 => x.sec.adapterDigest.toNat
  | 0x6200, 4 => x.sec.extendStatus
  | 0x6300, 1 => leNat x.sec.sealTag
  | 0x6300, 2 => x.sec.sealIndex
  | 0x6300, 4 => x.sec.sealStatus
  | 0x7100, 1 => if x.shedTraining then 1 else 0
  | 0x9100, 1 => x.ladder.crashBase.toNat
  | 0x9100, 2 => x.ladder.crashSize
  | 0x9100, 3 => x.ladder.crashSeq
  | 0x9100, 4 => leNat x.ladder.sampleRanges
  | 0x9100, 5 => leNat x.ladder.suspectBytes
  | _, _ => 0

/-- The default of an entry at its size; 0 where the default is not a value. -/
def Entry.default (e : Entry) : List Byte :=
  match e.dflt with
  | .val bs => bs
  | _ => toLe e.ty.size 0

/-- The value of an entry that has no part the spec leaves open: the default for a slice that does not exist (R455), the
defaults for strings and subindex 0, and else the state's. -/
def Block.entryValue (b : Block) (e : Entry) (i s : Nat) : List Byte :=
  match sliceIndex i, e.ty with
  | _, .str _ => e.default
  | some (base, n, j), ty =>
    if s == 0 || (b.slice n).st == .none then e.default else toLe ty.size (b.readSlice base n j s)
  | none, ty =>
    if s == 0 then e.default
    else toLe ty.size (if i < 0x3000 then b.readOne i s else if i < 0x6000 then b.readTwo i s
      else if i < 0x8000 then b.readThree i s else b.readFour i s)

/-- SPARES: the counts of spare cores; how the masks of banks and ways lie in the last 8 bytes is not stated (R336). -/
def Block.readSpares (b : Block) : List Byte × Block :=
  let (x, b') := b.freeBytes 8
  (((List.range 8).map fun cl => BitVec.ofNat 8 (b.freeSpares cl)) ++ x, b')

/-! ### READ and DESCRIBE -/

/-- Entries that a locked block answers, to anyone (R356). -/
def lockedReads (i s : Nat) : Bool := (i == 0x1000 && 1 ≤ s && s ≤ 3) || (i == 0x6000 && 1 ≤ s && s ≤ 2)

/-- The requester may read the entry (R356, R409, R412). -/
def Block.mayRead (b : Block) (e : Entry) (eid i s : Nat) : Bool :=
  if b.locked then lockedReads i s
  else e.canRead b.dict eid || ((b.dict.binding eid).isNone && i == 0x1000 && 1 ≤ s && s ≤ 3)

/-- A READ request but for SEAL_DATA (R414 to R416). -/
def Block.dictRead (b : Block) (eid : Nat) (tag : Byte) (i s : Nat) : Block :=
  let rsp (code : Nat) (d : List Byte) : DictRsp :=
    { eid := eid, kind := 1, tag := tag, index := i, sub := s, code := code, reason := 0, data := d }
  if b.busyMed eid then b.answer (rsp cBusy [])
  else
    match dictEntry i s with
    | none => b.answer (rsp cNoEntry [])
    | some e =>
      if !b.mayRead e eid i s then b.answer (rsp cNoEntry [])
      else if i == 0x9030 && s == 5 then
        let (d, b) := b.readSpares
        b.answer (rsp cSuccess d)
      else b.answer (rsp cSuccess (b.entryValue e i s))

/-- The slice whose SEAL_DATA an index and subindex name (R374). -/
def sealSlice (i s : Nat) : Option Nat := if 0x6301 ≤ i && i ≤ 0x631C && s == 3 then some (i - 0x6300) else none

def execRead (eid : Nat) (tag : Byte) (index sub : Nat) (s : State) : Host.Outcome State Fault Refusal :=
  s.onBlock fun b =>
    match sealSlice index sub with
    | some n => b.sealReads s.flash s.fuse n eid tag
    | none => b.dictRead eid tag index sub

/-- One ACCESS byte of a descriptor (R418). -/
def Entry.access (e : Entry) (role : Nat) : Nat := (if e.rd &&& role != 0 then 1 else 0) + (if e.wr &&& role != 0 then 2 else 0)

def Dflt.kind : Dflt → Nat
  | .val _ => 0
  | .image => 1
  | .fuse => 2
  | .none => 3

/-- The descriptor of R418. -/
def Entry.descriptor (e : Entry) : List Byte :=
  toLe 1 e.ty.code ++ toLe 1 0 ++ toLe 2 e.ty.size ++ ([rOP, rFM, rMED, rFAC].map fun r => BitVec.ofNat 8 (e.access r)) ++
    toLe 1 e.dflt.kind ++ toLe 7 0 ++ (match e.dflt with
      | .val bs => bs
      | _ => [])

def execDescribe (eid : Nat) (tag : Byte) (index sub : Nat) (s : State) : Host.Outcome State Fault Refusal :=
  s.onBlock fun b =>
    let rsp (code : Nat) (d : List Byte) : DictRsp :=
      { eid := eid, kind := 3, tag := tag, index := index, sub := sub, code := code, reason := 0, data := d }
    if b.busyMed eid then b.answer (rsp cBusy [])
    else
      match dictEntry index sub with
      | none => b.answer (rsp cNoEntry [])
      | some e =>
        let may := !b.locked && (e.canWrite b.dict eid || b.mayRead e eid index sub)
        if may then b.answer (rsp cSuccess e.descriptor) else b.answer (rsp cNoEntry [])

/-- A message with an invalid PROTO or KIND (R415). -/
def execMalformed (eid : Nat) (tag kind : Byte) (index sub : Nat) (s : State) : Host.Outcome State Fault Refusal :=
  s.onBlock fun b => b.answer
    { eid := eid, kind := kind.toNat, tag := tag, index := index, sub := sub,
      code := if b.busyMed eid then cBusy else cMalformed, reason := 0, data := [] }

/-! ### WRITE (R408 to R411 and the rules of each entry) -/

/-- A setting with a range. -/
def Block.ranged (b : Block) (ok : Bool) (f : Block → Block) : WriteRes := if ok then .done (f b) else .refused 1 b

/-- A binding of the table, keyed from 0 (R411). -/
def Block.writeBinding (b : Block) (k : Nat) (v : List Byte) : WriteRes :=
  let others := (b.dict.bindings.filter fun x => x.1 != k).map (·.2)
  let x := bindingOf v
  let r := bindingBad v others
  if r != 0 then .refused r b
  else if !((x :: others).any fun y => y.role == 1) then .refused 4 b
  else if x.role == 4 && b.life.lcs == 4 then .refused 5 b
  else .done (b.modDict fun d => { d with bindings := Tab.set EidBinding.reset d.bindings k x })

/-- Entries 0x1000 to 0x2001. -/
def Block.writeOne (b : Block) (i s : Nat) (v : List Byte) : WriteRes :=
  let n := leNat v
  match i, s with
  | 0x1001, 1 => .done (b.modStart fun t => { t with behaviourReq := n })
  | 0x1010, 2 => .done (b.modStart fun t => { t with imageList := BitVec.ofNat 64 n })
  | 0x1010, 3 => .done (b.modStart fun t => { t with imageCount := n })
  | 0x1020, s => b.writeBinding (s - 1) v
  | 0x1030, 1 => b.ranged (10 ≤ n && n ≤ 10000) fun b => b.modDict fun d => { d with eventRetry := n }
  | 0x2000, 3 => b.ranged (1 ≤ n) fun b => b.modRecon fun r => { r with notice := n }
  | 0x2001, 1 => b.ranged (1 ≤ n && n ≤ 4) fun b => b.modRecon fun r => { r with reqAction := n }
  | 0x2001, 2 => .done (b.modRecon fun r => { r with reqSlice := n })
  | 0x2001, 0x0C => .done (b.modRecon fun r => { r with reqFw := BitVec.ofNat 64 n })
  | 0x2001, s => .done (b.modRecon fun r => { r with reqHold := setHoldField r.reqHold (s - 3) n })
  | _, _ => .refused 1 b

/-- Entries 0x3000 to 0x5000. A change of the feed group stands in every ledger (R192). -/
def Block.writeTwo (b : Block) (i s n : Nat) : WriteRes :=
  match i, s with
  | 0x3001, 1 => .done (b.modTime fun t => { t with timingPorts := BitVec.ofNat 8 n })
  | 0x3001, 2 => .done (b.modTime fun t => { t with grace := n })
  | 0x3012, 2 => .done (b.modParade fun p => { p with stageList := BitVec.ofNat 64 n })
  | 0x3012, 3 => .done (b.modParade fun p => { p with stageCount := n })
  | 0x3013, 1 => .done (b.modParade fun p => { p with overrunLimit := n })
  | 0x3020, 1 => .done (b.modParade fun p => { p with tallyPhase := n })
  | 0x3030, 2 => .done (b.modParade fun p => { p with loadList := BitVec.ofNat 64 n })
  | 0x3030, 3 => .done (b.modParade fun p => { p with loadCount := n })
  | 0x4000, 1 => b.ranged (64 ≤ n) fun b => b.modDict fun d => { d with ageLimit := n }
  | 0x5000, 1 =>
    if b.dict.feedGroup == n then .done b else .done (b.modDict fun d => { d with feedGroup := n }).regenAll
  | 0x5000, 2 => b.ranged (64 ≤ n && n ≤ 2000) fun b => b.modDict fun d => { d with refillMbps := n }
  | 0x5000, 3 => b.ranged (1 ≤ n && n ≤ 10000) fun b => b.modDict fun d => { d with secureTimeout := n }
  | _, _ => .refused 1 b

def risingList : List Nat → Bool
  | x :: y :: l => x < y && risingList (y :: l)
  | _ => true

/-- Entries 0x6001 to 0x7003 (R381, R406). A threshold judges the levels again. -/
def Block.writeThree (b : Block) (i s : Nat) (v : List Byte) : WriteRes :=
  let n := leNat v
  match i, s with
  | 0x6001, 2 => .done (b.modLife fun l => { l with cert := certClean v })
  | 0x6002, 1 => .done (b.modLife fun l => { l with transReq := reqClean v })
  | 0x7001, 6 => b.ranged (n ≤ 50) fun b => (b.modPower fun p => { p with hystMv := n }).judge
  | 0x7001, 7 => b.ranged (100 ≤ n && n ≤ 60000) fun b => b.modPower fun p => { p with exitHold := n }
  | 0x7001, 8 => b.ranged (n ≤ 60000) fun b => b.modPower fun p => { p with warnHalt := n }
  | 0x7001, 9 => b.ranged (n != 0) fun b => (b.modPower fun p => { p with dmEnable := BitVec.ofNat 8 n }).judge
  | 0x7001, s =>
    let l := b.power.shedMv.set (s - 1) n
    b.ranged (5 ≤ n && risingList l) fun b => (b.modPower fun p => { p with shedMv := l }).judge
  | 0x7002, 1 => b.ranged (10 ≤ n && n ≤ 10000) fun b => b.modPower fun p => { p with pdTimeout := n }
  | 0x7002, 4 => b.ranged (1 ≤ n && n ≤ 16) fun b => b.modPower fun p => { p with pdWave := n }
  | _, _ => .refused 1 b

/-- SUBSTITUTE: an item that Farrier is to replace (R331, R336; notes/assumptions/34.md for the numbering of items). -/
def Block.substitute (b : Block) (n : Nat) : WriteRes :=
  let k := fld n 15 0
  if !b.ladder.farrier || fld n 27 16 != 0 then .refused 1 b
  else
    match fld n 31 28 with
    | 1 => b.ranged (k < 64) fun b => b.farrierCore k
    | 2 => b.ranged (k < 1024) fun b => b.substBank (k / 16) (k % 16)
    | 3 => b.ranged (k < 128) fun b => b.substWay (k / 16) (k % 16)
    | 4 => b.ranged (k < 32) fun b => b.substGroup k
    | _ => .refused 1 b

/-- A grant or a holding area as it is kept: reserved bits and bytes read as zero (R8, R225, R342); `rights` masks byte 13. -/
def cleanEntry (rights : Byte) (v : List Byte) : List Byte :=
  v.take 13 ++ ((v.drop 13).take 1).map (· &&& rights) ++ (v.drop 14).take 3 ++ List.replicate 7 0

/-- Entries 0x9000 on (R225, R299, R336, R423). -/
def Block.writeFour (b : Block) (i s : Nat) (v : List Byte) : WriteRes :=
  let n := leNat v
  match i, s with
  | 0x9000, 1 => b.ranged (16 ≤ n && n ≤ 30) fun b => b.modLadder fun l => { l with engWdogLog2 := n }
  | 0x9000, 2 => b.ranged (100 ≤ n && n ≤ 1000000) fun b => b.modLadder fun l => { l with sampleLimit := n }
  | 0x9000, 3 => b.ranged (100 ≤ n && n ≤ 10000000) fun b => b.modLadder fun l => { l with launchGrace := n }
  | 0x9000, 4 => b.ranged (1 ≤ n) fun b => b.modLadder fun l => { l with turnLimit := n }
  | 0x9000, 5 => b.ranged (65536 ≤ n) fun b => b.modLadder fun l => { l with feWdog := n }
  | 0x9000, 6 => b.ranged (n ≤ 10000) fun b => b.modLadder fun l => { l with trayHold := n }
  | 0x9010, 1 =>
    b.ranged (8192 ≤ n && n ≤ 16777215 && 4 * n ≤ b.ladder.cohReqTimeout && b.live.all fun m => max (b.slice m).holdNext (b.slice m).holdClk + 4096 ≤ n) fun b =>
      b.modLadder fun l => { l with cohSnoopTimeout := n }
  | 0x9010, 2 => b.ranged (4 * b.ladder.cohSnoopTimeout ≤ n) fun b => b.modLadder fun l => { l with cohReqTimeout := n }
  | 0x9030, 1 => .done (b.modLadder fun l => { l with farrier := n != 0 })
  | 0x9030, 2 => .done (b.modLadder fun l => { l with ceLimit := n })
  | 0x9030, 3 => b.ranged (1 ≤ n) fun b => b.modLadder fun l => { l with hangLimit := n }
  | 0x9030, 4 => b.substitute n
  | 0xA000, 1 => b.ranged (n < 4096 && b.slicesActive == 0) fun b => b.modDict fun d => { d with package := n }
  | 0xA100, s => .done (b.modDict fun d => { d with grants := Tab.put d.grants s (cleanEntry 7 v) })
  | _, _ => .refused 1 b

/-- VI_RANGE of slice n (R300): the first condition that a value breaks, or 0. -/
def Block.viRangeBad (b : Block) (n v : Nat) : Nat :=
  let first := fld v 26 16
  let count := fld v 11 0
  let meets (m : Nat) : Bool := m != n &&
    (let r := (b.slice m).viRange.toNat
     count != 0 && fld r 11 0 != 0 && rangesMeet first count (fld r 26 16) (fld r 11 0))
  if 2048 < first + count then 1
  else if b.live.any meets then 2
  else if fld v 31 27 != 0 || fld v 15 12 != 0 then 3
  else if (b.visOf n).any fun i => (b.vi i).st != .free && !(first ≤ i && i < first + count) then 4
  else 0

/-- The crash area as written: aligned, in the slice's groups, under a key of the slice (R321): the first condition broken. -/
def Block.crashBad (b : Block) (n : Nat) (base : Dword) (mib : Nat) : Nat :=
  let a := dfld base 56 0
  if base == 0 then 0
  else if a % 4096 != 0 || dfld base 57 57 != 0 || !b.ownRange n a (max 1 (mib * 2 ^ 20)) then 1
  else if !b.holdsKey n (dfld base 63 58) then 2
  else 0

/-- SAMPLE_RANGES: no range passes 768 units, and all are at most 64 (R321). -/
def rangesBad (v : List Byte) : Nat :=
  let f (k : Nat) : Nat := leNat ((v.drop (2 * k)).take 2)
  if (List.range 4).any fun k => 767 < f (2 * k) || 768 < f (2 * k) + f (2 * k + 1) then 3
  else if 64 < f 1 + f 3 + f 5 + f 7 then 4
  else 0

/-- A rule with numbered conditions. -/
def Block.judged (b : Block) (reason : Nat) (f : Block → Block) : WriteRes := if reason == 0 then .done (f b) else .refused reason b

/-- The entries of a securing job but for CTRL and PARTNER (R339). -/
def Block.writeJob (b : Block) (n j s v : Nat) : WriteRes :=
  match s with
  | 0x03 => .done (b.modJob n j fun x => { x with manifestAddr := BitVec.ofNat 64 v })
  | 0x04 => .done (b.modJob n j fun x => { x with fences := BitVec.ofNat 32 v })
  | 0x05 => b.judged ((winRefusal (BitVec.ofNat 64 v)).getD 0) fun b => b.modJob n j fun x => { x with window := BitVec.ofNat 64 v }
  | 0x07 => b.ranged (v ≤ 4) fun b => b.modJob n j fun x => { x with port := v }
  | 0x08 => .done (b.modJob n j fun x => { x with force := v != 0 })
  | 0x09 => b.ranged (v ≤ 15) fun b => b.modJob n j fun x => { x with cls := v }
  | 0x0A => .done (b.modJob n j fun x => { x with restoreFrom := BitVec.ofNat 64 v })
  | _ => .refused 1 b

/-- Entries of slice n that have no row of their own. -/
def Block.writeSlice (b : Block) (base n j s : Nat) (v : List Byte) : WriteRes :=
  let x := leNat v
  match base, s with
  | 0x2100, 0x0E => b.ranged (1 ≤ x && x ≤ 3) fun b => b.modSlice n fun y => { y with cohNext := x }
  | 0x2100, 0x0F =>
    b.ranged (16 ≤ x && x ≤ 4096 && x + 4096 ≤ b.ladder.cohSnoopTimeout) fun b => b.modSlice n fun y => { y with holdNext := x }
  | 0x2100, 0x14 => b.judged (b.viRangeBad n x) fun b => b.modSlice n fun y => { y with viRange := BitVec.ofNat 32 x }
  | 0x4100, s =>
    b.ranged (!clsBad (BitVec.ofNat 64 x)) fun b => b.modSlice n fun y =>
      { y with rein := { y.rein with staged := Tab.put y.rein.staged (s - 1) (BitVec.ofNat 64 x) } }
  | 0x5100, s => b.writeJob n j s x
  | 0x5300, s => .done (b.modSlice n fun y => { y with holdAreas := Tab.put y.holdAreas s (cleanEntry 255 v) })
  | 0x6300, 1 => .done (b.modSec n fun y => { y with sealTag := v })
  | 0x6300, 2 => b.ranged (x ≤ 7) fun b => b.modSec n fun y => { y with sealIndex := x }
  | 0x7100, 1 => .done (b.modSlice n fun y => { y with shedTraining := x != 0 })
  | 0x9100, 1 =>
    b.judged (b.crashBad n (BitVec.ofNat 64 x) (b.slice n).ladder.crashSize) fun b =>
      b.modLad n fun l => { l with crashBase := BitVec.ofNat 64 x, crashNext := 0 }
  | 0x9100, 2 =>
    if x == 0 || 4096 < x then .refused 1 b
    else b.judged (b.crashBad n (b.slice n).ladder.crashBase x) fun b => b.modLad n fun l => { l with crashSize := x }
  | 0x9100, 4 => b.judged (rangesBad v) fun b => b.modLad n fun l => { l with sampleRanges := v }
  | _, _ => .refused 1 b

/-- The rule of an entry that has no row of its own. -/
def Block.writeEntry (b : Block) (i s : Nat) (v : List Byte) : WriteRes :=
  match sliceIndex i with
  | some (base, n, j) => b.writeSlice base n j s v
  | none =>
    if i < 0x3000 then b.writeOne i s v else if i < 0x6000 then b.writeTwo i s (leNat v)
    else if i < 0x8000 then b.writeThree i s v else b.writeFour i s v

/-- The request as a row of its own where the entry has one: the whole-instance entries. -/
def ownLow (eid : Nat) (tag : Byte) (i s : Nat) (v : List Byte) : Option (State → Host.Outcome State Fault Refusal) :=
  let x : Byte := v.getD 0 0
  match i, s, v.length with
  | 0x1010, 1, 1 => some (execImageCtrl eid tag x)
  | 0x2001, 0x10, 1 => some (execReqCommit eid tag x)
  | 0x3012, 1, 8 => some (execSwitchStride eid tag (BitVec.ofNat 64 (leNat v)))
  | 0x3030, 1, 1 => some (execLoadCtrl eid tag x)
  | 0x6001, 3, 1 => if x == 1 then some (execDebugOpen eid tag) else if x == 2 then some (execDebugClose eid tag) else none
  | 0x6002, 2, 1 =>
    if x == 1 then some (execTransTest eid tag) else if x == 2 then some (execTransField eid tag)
    else if x == 3 then some (execTransComplete eid tag) else if x == 4 then some (execTransProvision eid tag) else none
  | 0x6003, 1, 1 => some (execSvnAdvance eid tag x)
  | 0x7003, 1, 1 => some (execShutdown eid tag x)
  | 0x8000, 6, 1 => some (execTallyClear eid tag x)
  | 0x8000, 7, 1 => some (execSaveNow eid tag x)
  | 0x9000, 7, 1 =>
    if x == 4 then some (execRungRequestBlock eid tag) else if x == 5 then some (execRungRequestPower eid tag) else none
  | _, _, _ => none

/-- The same for the entries of slice n, job j. -/
def ownSlice (eid : Nat) (tag : Byte) (base n j s : Nat) (v : List Byte) : Option (State → Host.Outcome State Fault Refusal) :=
  let x : Byte := v.getD 0 0
  match base, s, v.length with
  | 0x2100, 0x0C, 8 => some (execSliceMapAddr n eid tag (BitVec.ofNat 64 (leNat v)))
  | 0x2200, 2, 32 => some (execNonce n eid tag v)
  | 0x5100, 2, 1 =>
    if x == 1 then some (execArm n j eid tag) else if x == 2 then some (execDisarm n j eid tag)
    else if x == 3 then some (execRestore n j eid tag) else none
  | 0x5100, 6, 8 => some (execPartnerWrite n j eid tag (BitVec.ofNat 64 (leNat v)))
  | 0x6100, 2, 1 => some (execKeyRequest n eid tag x)
  | 0x6100, 4, 1 => some (execKeyRelease n eid tag x)
  | 0x6200, 1, 1 => if x.toNat < 2 then some (execDebugConsent n eid tag x) else none
  | 0x6200, 2, 16 => some (execAdapterExtend n eid tag v)
  | 0x6300, 3, 1024 => some (execSealWrite n eid tag v)
  | 0x9100, 6, 1 => some (execSliceReset n eid tag x)
  | _, _, _ => none

/-- A WRITE: an entry with a row of its own as that row does it; TRANS_REQUEST of a block in INVALID from any endpoint (R356,
R361); every other entry by its own rule. -/
def execWrite (eid : Nat) (tag : Byte) (index sub : Nat) (value : List Byte) (s : State) : Host.Outcome State Fault Refusal :=
  match match sliceIndex index with
    | some (base, n, j) => ownSlice eid tag base n j sub value
    | none => ownLow eid tag index sub value with
  | some f => f s
  | none =>
    s.onRetire fun b =>
      if b.life.lcs == 15 && index == 0x6002 && sub == 1 then
        let ok := value.length == 256
        (if ok then b.modLife fun l => { l with transReq := reqClean value } else b).answer
          { eid := eid, kind := 2, tag := tag, index := index, sub := sub, code := if ok then cSuccess else cLength, reason := 0, data := [] }
      else b.dictWrite eid tag index sub value fun b => b.writeEntry index sub value

/-! ### Events (R419, R420) -/

/-- The endpoints bound to FM. -/
def Dict.fms (d : Dict) : List Nat := (d.bindings.filter fun x => x.2.role == 2).map fun x => x.2.eid

/-- An event takes its number and a place in the queue. -/
def Dict.enqueue (d : Dict) (e : Ev) : Dict :=
  { d with evSeq := (d.evSeq + 1) % 2 ^ 32, evQueue := d.evQueue ++ [{ e with seq := d.evSeq }] }

/-- The oldest events are dropped until the new one fits, with a LOST event ahead of it where any was dropped. -/
def Dict.makeRoom : Nat → Dict → Dict
  | 0, d => d
  | k + 1, d =>
    if d.evQueue.length + 1 + (if d.evOwed == 0 then 0 else 1) ≤ 64 then d
    else Dict.makeRoom k { d with evQueue := d.evQueue.drop 1, evLost := up32 d.evLost, evOwed := d.evOwed + 1 }

/-- Queues an event, and a LOST event ahead of it where one is owed: the events so queued are the last of the queue. -/
def Dict.queueEv (d : Dict) (e : Ev) : Dict :=
  let d := Dict.makeRoom 65 d
  if d.evOwed == 0 then d.enqueue e
  else
    Dict.enqueue { d.enqueue { e with code := 5, pkgSlice := 0xFF, arg0 := BitVec.ofNat 64 d.evOwed, arg1 := 0 } with evOwed := 0 } e

/-- An event is sent to every FM endpoint that has not acknowledged it. -/
def Block.sendEv (b : Block) (e : Ev) : Block := (b.dict.fms.filter fun x => !e.acked.contains x).foldl (fun b x => b.emit (.event x e)) b

/-- The oldest event that is due is queued and sent. -/
def execEvent (s : State) : Host.Outcome State Fault Refusal :=
  s.onBlock fun b =>
    match b.dict.evDue with
    | [] => b
    | e :: l =>
      let d := Dict.queueEv { b.dict with evDue := l } { e with sentAt := b.time.mclk }
      (d.evQueue.drop (d.evQueue.length - ((d.evSeq + 2 ^ 32 - b.dict.evSeq) % 2 ^ 32))).foldl Block.sendEv { b with dict := d }

/-- EVENT_RETRY has passed since an event was last sent. -/
def Block.retryDue (b : Block) (e : Ev) : Bool := e.sentAt + b.dict.eventRetry * 750000 ≤ b.time.mclk

/-- Every event whose EVENT_RETRY has passed is sent again to the FM endpoints that have not acknowledged it. -/
def execEventRetry (s : State) : Host.Outcome State Fault Refusal :=
  s.onBlock fun b =>
    ((b.dict.evQueue.filter b.retryDue).foldl Block.sendEv b).modDict fun d =>
      { d with evQueue := d.evQueue.map fun e => if b.retryDue e then { e with sentAt := b.time.mclk } else e }

/-- Events that every bound FM endpoint has acknowledged leave the queue; with none bound they wait. -/
def Dict.settled (d : Dict) : Dict :=
  { d with evQueue := d.evQueue.filter fun e => d.fms.isEmpty || d.fms.any fun x => !e.acked.contains x }

def execEventAck (eid : Nat) (seq : Word) (s : State) : Host.Outcome State Fault Refusal :=
  s.onBlock fun b => b.modDict fun d =>
    if d.fms.contains eid && !b.locked then
      Dict.settled { d with evQueue := d.evQueue.map fun e =>
        if e.seq == seq.toNat && !e.acked.contains eid then { e with acked := e.acked ++ [eid] } else e }
    else d

/-! ### MCTP control messages (R449): command codes and bodies as DSP0236 gives them (notes/assumptions/35.md) -/

/-- A control message is answered by a block out of reset; a mediator's answer waits as its others do (R194). -/
def Block.mctp (b : Block) (eid code : Nat) (body : List Byte) : Block :=
  if b.start.stage == 0 then b
  else if b.dict.isMed eid then b.medLater eid (.mctp eid code body)
  else b.emit (.mctp eid code body)

/-- Set Endpoint ID; an ID outside 8 to 254 is refused with completion code 2. -/
def execSetEndpointId (src newEid : Nat) (s : State) : Host.Outcome State Fault Refusal :=
  s.onBlock fun b =>
    if b.start.stage == 0 then b
    else if newEid < 8 || 254 < newEid then b.mctp src 1 [2]
    else (b.modDict fun d => { d with mctpEid := newEid }).mctp src 1 (toLe 1 0 ++ toLe 1 0 ++ toLe 1 newEid ++ toLe 1 0)

def execGetEndpointId (src : Nat) (s : State) : Host.Outcome State Fault Refusal :=
  s.onBlock fun b => b.mctp src 2 (toLe 1 0 ++ toLe 1 b.dict.mctpEid ++ toLe 1 0 ++ toLe 1 0)

/-- One version entry; which version the block supports is not stated. -/
def execGetMctpVersionSupport (src : Nat) (s : State) : Host.Outcome State Fault Refusal :=
  s.onBlock fun b =>
    let (v, b) := b.freeBytes 4
    b.mctp src 4 (toLe 1 0 ++ toLe 1 1 ++ v)

/-- The types carried: SPDM and Vendor Defined – IANA. -/
def execGetMessageTypeSupport (src : Nat) (s : State) : Host.Outcome State Fault Refusal :=
  s.onBlock fun b => b.mctp src 5 (toLe 1 0 ++ toLe 1 2 ++ toLe 1 5 ++ toLe 1 0x7F)

end Sys2Proof.Machine
end

