-- ==== Sys2Proof/Machine/Bar0.lean ====
section
/-! DEFINITION. BAR0: what its registers read, writes of registers that have no row of their own, and the completions of
outbound host reads (R94, R125, R212, R233, R238, R246, R254, R274, R301, R335, R347, R380, R405, R431, R445 to R447, R454). -/

namespace Sys2Proof.Machine

/-- The half of a 64-bit register that stands at an offset. -/
def half (v off : Nat) : Nat := if off % 8 == 0 then v % 2 ^ 32 else v / 2 ^ 32 % 2 ^ 32

def flag (b : Bool) (i : Nat) : Nat := if b then 2 ^ i else 0

/-! ### What registers read -/

/-- ZH_LCS (R380). -/
def Block.lcsReg (b : Block) : Nat := flag b.life.rngFault 17 + flag b.life.debugOpen 16 + b.life.svn * 2 ^ 8 + b.lcsCode

/-- ZH_STRIDE_STAT (R94). -/
def TimeBase.stat (t : TimeBase) : Nat :=
  t.lock.code * 2 ^ 30 + t.tmPort * 2 ^ 28 + flag (!t.accepted.isEmpty) 27 + t.epoch.toNat

/-- ZH_PARADE_STAT (R125). -/
def Block.paradeStat (b : Block) : Nat :=
  b.parade.st.code * 2 ^ 29 + flag (1 ≤ b.power.level) 28 + flag b.parade.staged.isSome 27 + b.parade.overruns

/-- ZH_SHED_STAT (R405). -/
def Power.stat (p : Power) : Nat := p.level * 2 ^ 29 + p.cause * 2 ^ 27 + flag p.mgmtStamp 26 + p.changes

/-- Registers of the whole instance. -/
def Block.readGlobal (b : Block) (off : Nat) : Nat :=
  match off with
  | 0x00 => zhVersion
  | 0x04 => b.shape
  | 0x08 => b.fedId
  | 0x0C => b.lcsReg
  | 0x10 => b.behaviour
  | 0x100 => half b.time.now.toNat off
  | 0x104 => half b.time.now.toNat off
  | 0x108 => b.time.stat
  | 0x10C => b.time.cpt.toNat
  | 0x110 => b.paradeStat
  | 0x118 => b.parade.recStride.toNat % 2 ^ 32
  | 0x11C => b.parade.recMaxSlip * 2 ^ 16 + b.parade.recStride.toNat / 2 ^ 32
  | 0x120 => flag b.parade.recEcc 31 + b.parade.recLate * 2 ^ 16 + b.parade.recDropped
  | 0x128 => b.startStat
  | 0x130 => b.power.stat
  | 0x138 => half b.power.time.toNat off
  | 0x13C => half b.power.time.toNat off
  | _ => 0

/-- Translation registers of a slice (R212). Write-only registers read 0. -/
def Block.readXlat (b : Block) (n o : Nat) : Nat :=
  let x := (b.slice n).xlat
  match o with
  | 0x00 => half x.invalVa.toNat o
  | 0x04 => half x.invalVa.toNat o
  | 0x08 => half x.invalLen.toNat o
  | 0x0C => half x.invalLen.toNat o
  | 0x10 => flag x.go 31 + flag x.overrun 30 + flag x.genBump 26 + flag x.allCtx 25 + x.ctx
  | 0x14 => x.invalDone.toNat
  | 0x20 => half x.faultBase.toNat o
  | 0x24 => half x.faultBase.toNat o
  | 0x28 => x.faultSize
  | 0x2C => x.faultHead.toNat
  | 0x30 => x.faultTail.toNat
  | 0x34 => x.held.length
  | 0x40 => flag x.resumeAbort 31 + x.resumeGen.toNat * 2 ^ 20 + x.resumeCtx
  | 0x60 => half x.poolBase.toNat o
  | 0x64 => half x.poolBase.toNat o
  | 0x68 => x.poolSize
  | 0x6C => x.poolCount
  | 0x78 => x.poolRefused * 2 ^ 16 + x.quarantine
  | _ => 0

/-- Context and fence registers of a slice (R233, R254). -/
def Block.readCtx (b : Block) (n o : Nat) : Nat :=
  let x := (b.slice n).ctxr
  match o with
  | 0x00 => half x.table.toNat o
  | 0x04 => half x.table.toNat o
  | 0x08 => x.first
  | 0x0C => x.count
  | 0x10 => flag x.ctrlGo 31 + x.ctrlOp * 2 ^ 28 + x.ctrlResult * 2 ^ 24 + x.ctrlCtx
  | 0x18 => b.faultedCount n
  | 0x1C => flag x.faultAny 31 + x.lastFaulted
  | 0x20 => x.fenceFirst
  | 0x24 => x.fenceCount
  | 0x28 => half x.fenceMirror.toNat o
  | 0x2C => half x.fenceMirror.toNat o
  | 0x30 => half x.fenceValue.toNat o
  | 0x34 => half x.fenceValue.toNat o
  | 0x38 => x.fenceKey.toNat
  | 0x3C => x.fenceOp * 2 ^ 28 + flag x.fenceExport 27 + x.fenceResult * 2 ^ 16 + x.fenceIdx
  | 0x40 => x.fenceNotify.toNat
  | _ => 0

/-- Rein registers of a slice (R274). -/
def Rein.readReg (r : Rein) : Nat → Nat
  | 0x00 => r.missStride.toNat % 2 ^ 32
  | 0x04 => r.missed.toNat * 2 ^ 16 + r.missStride.toNat / 2 ^ 32
  | 0x08 => flag r.pending 0
  | 0x0C => r.missWindows
  | _ => 0

/-- ZH_REPLAY (R335). -/
def Block.replayReg (b : Block) (n : Nat) : Nat :=
  match (b.slice n).ladder.replay with
  | none => 0
  | some r =>
    flag r.turn.isSome 62 + r.left.length * 2 ^ 55 + r.unit * 2 ^ 52 + (b.coresOf n).idxOf r.core * 2 ^ 46 + r.turn.getD 0

/-- Ladder registers of a slice (R335). -/
def Block.readLadder (b : Block) (n o : Nat) : Nat :=
  let x := (b.slice n).ladder
  match o with
  | 0x00 => x.stride.toNat % 2 ^ 32
  | 0x04 => x.rung * 2 ^ 29 + x.cause * 2 ^ 25 + x.unit * 2 ^ 22 + x.core * 2 ^ 16 + x.stride.toNat / 2 ^ 32
  | 0x08 => flag x.irqTurn 1 + flag x.irqEvent 0
  | 0x10 => half (b.replayReg n) o
  | 0x14 => half (b.replayReg n) o
  | 0x18 => x.ctrlCtx
  | _ => 0

def QSt.code : QSt → Nat
  | .disabled => 0
  | .running => 1
  | .idle => 2
  | .stopped => 3

/-- The configuration block of a queue (R238). -/
def Queue.readCfg (q : Queue) (o : Nat) : Nat :=
  let ring := q.ringBase + q.ringLog2
  let cfg := flag q.enable 63 + q.cls * 2 ^ 61 + q.label * 2 ^ 56 + q.wdogScale * 2 ^ 48 + q.wdogTicks * 2 ^ 32 + q.ctx
  match o with
  | 0x00 => half ring o
  | 0x04 => half ring o
  | 0x08 => half cfg o
  | 0x0C => half cfg o
  | 0x10 => q.head.toNat
  | 0x14 => q.st.code * 2 ^ 30
  | _ => 0

/-- The queue's page reads as disabled with DONE 0 while its virtual instance resets or is removed (R305). -/
def Block.viHides (b : Block) (q : Queue) : Bool :=
  match q.vi with
  | none => false
  | some v => (b.vi v).st == .resetting || (b.vi v).st == .removing

/-- The page of a queue (R246). -/
def Block.readPage (b : Block) (q o : Nat) : Nat :=
  let x := b.queue q
  match o with
  | 0x00 => x.tail.toNat
  | 0x08 => if b.viHides x then 0 else x.done.toNat
  | 0x0C => (if b.viHides x then 0 else x.st.code * 2 ^ 30) +
      if x.named then flag ((b.ctx x.ctx).st == .faulted) 29 + (b.ctx x.ctx).lastCode else 0
  | 0x10 => x.refused.toNat
  | _ => 0

def ViSt.code : ViSt → Nat
  | .free => 0
  | .active => 1
  | .resetting => 2
  | .removing => 3

/-- The control page of a virtual instance (R301). -/
def Vi.read (x : Vi) : Nat → Nat
  | 0x00 => x.pasid
  | 0x04 => flag x.go 31 + x.op * 2 ^ 28 + x.result * 2 ^ 24
  | 0x08 => x.st.code * 2 ^ 30 + x.gen.toNat
  | 0x0C => flag x.qbUnbind 30 + x.qbResult * 2 ^ 24 + x.qbQueue
  | 0x10 => x.qcount
  | 0x14 => x.dropped
  | _ => 0

/-- The place of an offset in the map of R454: a register of the instance, of slice n at a base, of a queue, or of a virtual
instance. -/
inductive RegAt where
  | global (off : Nat)
  | slice (base n o : Nat)
  | config (q o : Nat)
  | page (q o : Nat)
  | vi (v o : Nat)
  | nowhere
  deriving DecidableEq, Repr

def regAt (off : Nat) : RegAt :=
  if off < 0x1000 then .global off
  else if 0x60000 ≤ off && off < 0xC0000 then
    let n := off % 0x10000 / 256
    if 1 ≤ n && n ≤ 28 then .slice (off / 0x10000) n (off % 256) else .nowhere
  else if 0x800000 ≤ off && off < 0x840000 then .config ((off - 0x800000) / 64) (off % 64)
  else if 0x1000000 ≤ off && off < 0x2000000 then .page ((off - 0x1000000) / 4096) (off % 4096)
  else if 0x2000000 ≤ off && off < 0x2800000 then .vi ((off - 0x2000000) / 4096) (off % 4096)
  else .nowhere

/-- Four bytes of a slice's registers; they read their reset values, 0, while it does not exist. -/
def Block.readSliceReg (b : Block) (base n o : Nat) : Nat :=
  if (b.slice n).st == .none then 0
  else
    match base with
    | 6 => b.readXlat n o
    | 7 => b.readCtx n o
    | 8 => (b.slice n).rein.readReg o
    | 9 => b.readLadder n o
    | 10 => if o == 0 then (b.slice n).secureIrq.toNat else 0
    | 11 => if o == 0 then flag (b.slice n).aptValid 31 + (b.slice n).aptKey else 0
    | _ => 0

/-- Four bytes at an aligned offset; an unlisted offset reads 0. -/
def Block.readWord (b : Block) (off : Nat) : Nat :=
  match regAt off with
  | .global o => b.readGlobal o
  | .slice base n o => b.readSliceReg base n o
  | .config q o => (b.queue q).readCfg o
  | .page q o => b.readPage q o
  | .vi v o => if (b.viSlice v).isSome then (b.vi v).read o else 0
  | .nowhere => 0

/-- A BAR0 read (R447): naturally aligned, of 4 or 8 bytes; any other reads 0. -/
def Block.barRead (b : Block) (off size : Nat) : Nat :=
  if size == 4 && off % 4 == 0 then b.readWord off
  else if size == 8 && off % 8 == 0 then b.readWord off + b.readWord (off + 4) * 2 ^ 32
  else 0

/-! ### Writes -/

/-- One effect after another; the two halves of an access act in one clock (R447). -/
def andThen (f g : State → Host.Outcome State Fault Refusal) (s : State) : Host.Outcome State Fault Refusal :=
  match f s with
  | .next t => g t
  | o => o

def noEffect (s : State) : Host.Outcome State Fault Refusal := .next s

/-- A change of the registers of a slice that exists. -/
def onSlice (n : Nat) (f : Block → Block) (s : State) : Host.Outcome State Fault Refusal :=
  s.onBlock fun b => if (b.slice n).st == .none then b else f b

/-- A 64-bit register of the translation block. -/
def writeXlat64 (n o : Nat) (v : Dword) : State → Host.Outcome State Fault Refusal :=
  match o with
  | 0x00 => onSlice n fun b => b.modXlat n fun x => { x with invalVa := v }
  | 0x08 => onSlice n fun b => b.modXlat n fun x => { x with invalLen := v }
  | 0x20 => execFaultRingConfig n (some v) none
  | 0x48 => andThen (execDmaResume n v) (execDmaAborted n v)
  | 0x60 => onSlice n fun b => b.modXlat n fun x => { x with poolBase := v }
  | 0x70 => execZhPoolAdd n v
  | _ => noEffect

/-- A 32-bit register of the translation block. -/
def writeXlat32 (n o v : Nat) : State → Host.Outcome State Fault Refusal :=
  match o with
  | 0x10 => execInvalidation n (BitVec.ofNat 32 v)
  | 0x28 => execFaultRingConfig n none (some (BitVec.ofNat 32 v))
  | 0x30 => execZhFaultTailWrite n (BitVec.ofNat 32 v)
  | 0x40 => onSlice n fun b => b.modXlat n fun x =>
      { x with resumeAbort := bit v 31, resumeGen := BitVec.ofNat 8 (fld v 27 20), resumeCtx := fld v 19 0 }
  | 0x68 => onSlice n fun b => b.modXlat n fun x => { x with poolSize := fld v 4 0 }
  | _ => noEffect

def writeCtx64 (n o : Nat) (v : Dword) : State → Host.Outcome State Fault Refusal :=
  match o with
  | 0x00 => execZhCtxTableWrite n v
  | 0x28 => onSlice n fun b => b.modCtxr n fun r => { r with fenceMirror := v }
  | 0x30 => onSlice n fun b => b.modCtxr n fun r => { r with fenceValue := v }
  | _ => noEffect

/-- ZH_CTX_CTRL: without GO the fields alone; OP 0, 6 and 7 end with RESULT 2 (R233). -/
def writeCtxCtrl (n v : Nat) : State → Host.Outcome State Fault Refusal :=
  let c := fld v 19 0
  let op := fld v 30 28
  if !bit v 31 then
    onSlice n fun b => if (b.slice n).ctxr.ctrlGo then b else b.modCtxr n fun r => { r with ctrlOp := op, ctrlCtx := c }
  else
    match op with
    | 1 => execCtxCreate n c
    | 2 => execCtxReset n c
    | 3 => execCtxDestroy n c
    | 4 => execCtxClearFault n c
    | 5 => execCtxSync n c
    | _ => fun s => s.onBlock fun b => if (b.slice n).st == .none || (b.slice n).ctxr.ctrlGo then b else b.ctxCtl n op c 2

/-- ZH_FENCE_CTRL: the fields, and with GO the operation; another OP does nothing (R254). -/
def writeFenceCtrl (n v : Nat) : State → Host.Outcome State Fault Refusal :=
  let f := fld v 15 0
  let op := fld v 30 28
  let fields := onSlice n fun b => b.modCtxr n fun r => { r with fenceOp := op, fenceIdx := f, fenceExport := bit v 27 }
  if !bit v 31 then fields
  else
    match op with
    | 1 => execFenceSetup n f (bit v 27)
    | 2 => andThen fields (execFenceCtrlSignal n f)
    | 3 => andThen fields (execFenceRelease n f)
    | _ => fields

def writeCtx32 (n o v : Nat) : State → Host.Outcome State Fault Refusal :=
  match o with
  | 0x10 => writeCtxCtrl n v
  | 0x1C => onSlice n fun b => if bit v 31 then b.modCtxr n fun r => { r with faultAny := false } else b
  | 0x38 => onSlice n fun b => b.modCtxr n fun r => { r with fenceKey := BitVec.ofNat 32 v }
  | 0x3C => writeFenceCtrl n v
  | 0x40 => onSlice n fun b => b.modCtxr n fun r => { r with fenceNotify := BitVec.ofNat 32 (v &&& 0xBF0FFFFF) }
  | _ => noEffect

/-- ZH_REPLAY_CTRL: CONTEXT, TURN_END and ABANDON (R335). -/
def writeReplayCtrl (n v : Nat) : State → Host.Outcome State Fault Refusal :=
  let c := fld v 19 0
  let fields := onSlice n fun b => b.modLad n fun l => { l with ctrlCtx := c }
  andThen (if bit v 31 then execTurnEnd n c else fields) (if bit v 30 then execAbandon n else noEffect)

def writeLadder32 (n o v : Nat) : State → Host.Outcome State Fault Refusal :=
  match o with
  | 0x08 => onSlice n fun b => b.modLad n fun l =>
      { l with irqTurn := l.irqTurn && !bit v 1, irqEvent := l.irqEvent && !bit v 0 }
  | 0x18 => writeReplayCtrl n v
  | _ => noEffect

/-- A 32-bit register of slice n. -/
def writeSlice32 (base n o v : Nat) : State → Host.Outcome State Fault Refusal :=
  match base with
  | 6 => writeXlat32 n o v
  | 7 => writeCtx32 n o v
  | 8 => if o == 8 && bit v 0 then onSlice n fun b => b.modSlice n fun x => { x with rein := { x.rein with pending := false } } else noEffect
  | 9 => writeLadder32 n o v
  | 10 =>
    if o == 0 then onSlice n fun b => b.modSlice n fun x => { x with secureIrq := x.secureIrq &&& ~~~ BitVec.ofNat 8 v } else noEffect
  | 11 => if o == 0 then execZhAptKeyWrite n (BitVec.ofNat 32 v) else noEffect
  | _ => noEffect

/-- ZH_Q_RING and ZH_Q_CFG (R238): ignored while ENABLE is 1, but for a write that clears it. -/
def writeConfig64 (q o : Nat) (v : Dword) : State → Host.Outcome State Fault Refusal :=
  match o with
  | 0x00 => fun s => s.onBlock fun b =>
      if (b.queue q).enable then b
      else b.modQueue q fun x => { x with ringBase := dfld v 56 12 * 4096, ringLog2 := dfld v 4 0 }
  | 0x08 => fun s =>
      if (s.b.queue q).enable then (if v.getLsbD 63 then noEffect s else execQueueDisable q s) else execQueueEnable q v s
  | _ => noEffect

/-- The queue page: ZH_DOORBELL, and a write to ZH_DOORBELL_INLINE that is not one of 64 bytes (R248). -/
def writePage32 (q o v : Nat) : State → Host.Outcome State Fault Refusal :=
  if o == 0 then execDoorbell q (BitVec.ofNat 32 v)
  else if 0x40 ≤ o && o < 0x80 then fun s => s.onBlock fun b => b.modQueue q Queue.refuse
  else noEffect

/-- ZH_VI_CTRL: without GO the OP alone; OP 0 and 4 to 7 end with RESULT 2 (R301). -/
def writeViCtrl (x v : Nat) : State → Host.Outcome State Fault Refusal :=
  let op := fld v 30 28
  if !bit v 31 then fun s => s.onBlock fun b => b.onVi x fun _ b => if (b.vi x).go then b else b.modVi x fun y => { y with op := op }
  else
    match op with
    | 1 => execViActivate x
    | 2 => execViReset x
    | 3 => execViRemove x
    | _ => fun s => s.onBlock fun b => b.viOp x op fun _ b => (b, 2)

def writeVi32 (x o v : Nat) : State → Host.Outcome State Fault Refusal :=
  match o with
  | 0x00 => execZhViPasidWrite x (BitVec.ofNat 32 v)
  | 0x04 => writeViCtrl x v
  | 0x0C =>
    if !bit v 31 then fun s => s.onBlock fun b =>
      b.onVi x fun _ b => b.modVi x fun y => { y with qbUnbind := bit v 30, qbQueue := fld v 11 0 }
    else if bit v 30 then execViUnbind x (fld v 11 0)
    else execViBind x (fld v 11 0)
  | _ => noEffect

/-- The 64-bit registers that can be written, by the offset of their low half. -/
def wide (r : RegAt) : Bool :=
  match r with
  | .slice 6 _ o => o ∈ [0x00, 0x08, 0x20, 0x48, 0x60, 0x70]
  | .slice 7 _ o => o ∈ [0x00, 0x28, 0x30]
  | .config _ o => o ∈ [0x00, 0x08]
  | _ => false

/-- A whole 64-bit register takes a value. -/
def writeWide (r : RegAt) (v : Dword) : State → Host.Outcome State Fault Refusal :=
  match r with
  | .slice 6 n o => writeXlat64 n o v
  | .slice 7 n o => writeCtx64 n o v
  | .config q o => writeConfig64 q o v
  | _ => noEffect

/-- A 4-byte access: a 32-bit register, or a half of a 64-bit one, the other half standing as it reads (R447). -/
def writeHalf (off v : Nat) (s : State) : Host.Outcome State Fault Refusal :=
  let low := off - off % 8
  if wide (regAt low) then
    let x := if off % 8 == 0 then v + s.b.readWord (low + 4) * 2 ^ 32 else s.b.readWord low + v * 2 ^ 32
    writeWide (regAt low) (BitVec.ofNat 64 x) s
  else
    match regAt off with
    | .slice base n o => writeSlice32 base n o v s
    | .page q o => writePage32 q o v s
    | .vi x o => writeVi32 x o v s
    | _ => noEffect s

/-- A BAR0 write of 4 or 8 bytes, naturally aligned; any other size or offset writes nothing (R447), but for the count of a
write to ZH_DOORBELL_INLINE (R248). The port takes none before release and at level 5 (R445). -/
def execRegisterWrite (off size : Nat) (value : Dword) (s : State) : Host.Outcome State Fault Refusal :=
  if s.b.gated then noEffect s
  else
    match regAt off with
    | .page q o =>
      if 0x40 ≤ o && o < 0x80 then s.onBlock fun b => b.modQueue q Queue.refuse
      else if size == 4 && off % 4 == 0 then writePage32 q o (dfld value 31 0) s
      else if size == 8 && off % 8 == 0 then andThen (writePage32 q o (dfld value 31 0)) (writePage32 q (o + 4) (dfld value 63 32)) s
      else noEffect s
    | r =>
      if size == 4 && off % 4 == 0 then writeHalf off (dfld value 31 0) s
      else if size == 8 && off % 8 == 0 then
        if wide r then writeWide r value s
        else andThen (writeHalf off (dfld value 31 0)) (writeHalf (off + 4) (dfld value 63 32)) s
      else noEffect s

/-! ### Completions of outbound host reads (R445) -/

/-- A tag has returned: the first read that waited goes out. -/
def Block.nextHostRead (b : Block) : Block :=
  match b.ports.hostWait with
  | [] => b
  | r :: l => (b.modPorts fun p => { p with hostWait := l }).hostRead r

/-- A load of the base image that the host refused fails (R110, R204). -/
def Block.loadFails (b : Block) : Block :=
  match b.parade.load with
  | none => b
  | some _ => b.modParade fun p => { p with st := .fault, load := none }

/-- A completion as its read uses it; an error is HOST_REFUSED (R204). -/
def Block.hostDone (b : Block) (fuse : BitVec 4096) (r : HostRead) (ok : Bool) (bs : List Byte) : Block :=
  match r.use with
  | .dma agent ch => if ok then b.dmaData agent ch false bs else b.dmaRefused agent ch 7 false
  | .baseList => if ok then b.loadEntry bs else b.loadFails
  | .baseData len addr => if ok then b.loadData len addr bs else b.loadFails
  | .stageList => if ok then b.stageEntry bs else b.modParade fun p => { p with staged := none }
  | .stageData len addr => if ok then b.stageData len addr bs else b.modParade fun p => { p with staged := none }
  | .imageList => if ok then b.imageEntry fuse bs else b.imageFails
  | .imageData len addr => if ok then b.imageData fuse len addr bs else b.imageFails
  | .migrate n => if ok then b.migrData n false bs else b.migrFails n 7
  | .load core rd l uns va =>
    b.endAccess core fun h => if ok then h.loaded rd (extend (2 ^ l) uns (leNat bs)) else h.trap cLoadFault (BitVec.ofNat 64 va)
  | .stale => b

/-- A completion brings as many bytes as its read asked for; one of an unknown tag is none of the block's. -/
def execHostCompletion (tag : Nat) (ok : Bool) (bytes : List Byte) (s : State) : Host.Outcome State Fault Refusal :=
  s.onHost fun b =>
    match Tab.find b.ports.hostReads tag with
    | none => b
    | some r =>
      if ok && bytes.length != r.len then b
      else
        let b := b.modPorts fun p => { p with hostReads := Tab.erase p.hostReads tag }
        (b.hostDone s.fuse r ok bytes).nextHostRead

end Sys2Proof.Machine
end

