-- ==== Sys2Proof/Machine/Strides.lean ====
section
/-! DEFINITION. Phase zero with the events of R108 that it takes, the ends of windows, the tiles of the broadcast with the
check of R68 after a map switch, and the management clock (R97 to R108, R119, R345). -/

namespace Sys2Proof.Machine

/-! ### Starts in skipped ticks (R105) -/

/-- The descriptor's START lies in the ticks after phase p of the ending stride. -/
def Block.winSkipped (b : Block) (p : Nat) (w : WindowId) : Bool :=
  let d := b.windowDesc w
  winActive d b.time.count.toNat && p < winStart d

/-- Securing windows of jobs that are armed. -/
def Block.jobWindows (b : Block) : List WindowId :=
  b.live.flatMap fun n => ((List.range 8).filter fun j => (b.job n j).armed.isSome && (b.job n j).st != .off).map fun j => .secure n j

/-- Prefetches of a core whose firing phase was skipped (R144). -/
def Adapter.prefsSkipped (a : Adapter) (p : Nat) : Nat :=
  (a.slots.flatMap fun x => x.2.prefs.filter fun f => !f.once && ((f.fireAt.map fun t => decide (p < t)).getD false)).length

/-- How many phase-placed starts lie in skipped ticks after phase p. -/
def Block.skipCount (b : Block) (p : Nat) : Nat :=
  ((WindowId.reconf :: b.jobWindows).filter (b.winSkipped p)).length +
    ((b.parade.map.runs.drop (b.parade.map.runs.length - b.runsLeft)).filter fun r => p < r.start).length +
    (b.cores.map fun c => c.2.adapter.prefsSkipped p).sum +
    (if b.time.count.toNat % b.time.checkpointEvery == 0 && p < b.parade.tallyPhase then 1 else 0)

/-! ### The check of R68 after a map switch -/

/-- A Parade op that waits for its first tile, or that still has tiles to capture, is checked against the active map. -/
def Block.recheckOp (b : Block) (core eng : Nat) (o : EOp) : Block :=
  let next := dTileFirst o.desc + o.tile
  if !b.parade.map.covers (dSeg o.desc) next (dTiles o.desc - o.tile) then b.endWith core eng o cParadeNotile
  else if 0 < o.tile && !b.onTree core eng (dSeg o.desc) next && b.passed (dSeg o.desc) next then b.lateStart core eng o
  else b

/-- The Parade ops of an engine that a switch concerns: the head that waits for its first tile, at the switch; the op that
captures, once no run of the old map is still emitting. -/
def Engine.switched (e : Engine) (waiting : Bool) : List EOp :=
  let parade (o : EOp) : Bool := dOpcode o.desc == 1 && dRsrc o.desc && o.tile < dTiles o.desc
  if waiting then (e.queue.take 1).filter fun o => parade o && o.headChecked
  else e.active.filter fun o => parade o && o.phase == .running && 0 < o.tile

def Block.recheckOps (b : Block) (waiting : Bool) : Block :=
  b.each (Tab.keys b.cores) fun c b => b.each (List.range 4) fun e b =>
    ((b.eng c e).switched waiting).foldl (fun b o => b.recheckOp c e o) b

/-- A tile leaves once emit(n) has come; with the last tile of a run that began in an earlier stride, a check that a switch put off
is made. -/
def execTileEmit (failing : List Nat) (s : State) : Host.Outcome State Fault Refusal :=
  s.onBlock fun b =>
    match b.parade.run with
    | none => b
    | some rs =>
      let ready := b.parade.readyTile rs
      if b.gated || b.firstTooLate rs || ready.isNone || b.time.clk < b.parade.emitAt rs (ready.getD 0) then b
      else
        let b := b.sendTile rs failing
        if b.parade.run.isNone && rs.stride != b.time.count.toNat then b.recheckOps false else b

/-- The map has switched: prefetches take their phase anew, Parade ops are checked, and every ledger carries the new digest
(R68, R119, R144, R192). -/
def Block.mapSwitched (b : Block) : Block :=
  let b := b.each (Tab.keys b.cores) fun c b => b.each (Tab.keys (b.core c).adapter.slots) fun i b =>
    let (b, l) := b.aimPrefs c ((b.core c).adapter.slot i).prefs
    b.modAdapter c fun a => a.modSlot i fun x => { x with prefs := l }
  let b := b.recheckOps true
  (if b.parade.run.isNone then b.recheckOps false else b).regenAll

/-! ### The order within a clock (R108) -/

/-- The next run of the map begins in this clock. -/
def Block.runDue (b : Block) : Bool := (b.parade.map.runs[b.parade.nextRun]?).any b.begins

/-- A securing copy starts in this clock. -/
def Block.copyDue (b : Block) (n j : Nat) : Bool := b.time.started && b.copyGoes n j

/-- The prefetch at place `idx` of a slot, if it fires in this clock. -/
def Block.prefDue (b : Block) (core slot idx : Nat) : Option Pref :=
  (((b.core core).adapter.slot slot).prefs[idx]?).filter b.fires

/-- TALLY_PHASE in a checkpoint stride, once (R107). -/
def Block.checkpointDue (b : Block) : Bool :=
  b.time.started && b.time.count.toNat % b.time.checkpointEvery == 0 && b.parade.tallyPhase ≤ b.phaseNow &&
    b.tally.checkedIn != some b.time.count.toNat

/-- The block with every window open whose START has come, whether or not WINDOW_OPEN has opened it yet. -/
def Block.allOpen (b : Block) : Block := (WindowId.reconf :: b.jobWindows).foldl Block.windowOpens b

/-- A start of this clock stands at one of the positions 4 to `k - 1` of R108. -/
def Block.earlier (b : Block) (fuse : BitVec 4096) (k : Nat) : Bool :=
  b.windowDue ||
  (5 < k && (b.allOpen.actionStarts fuse).recon != b.recon) ||
  (6 < k && b.runDue) ||
  (7 < k && b.live.any fun n => (List.range 8).any (b.allOpen.copyDue n)) ||
  (8 < k && b.cores.any fun c => c.2.adapter.slots.any fun x => x.2.prefs.any b.fires) ||
  (9 < k && b.checkpointDue)

def execReconfActionStart (s : State) : Host.Outcome State Fault Refusal :=
  s.onRetire fun b => if b.earlier s.fuse 5 then b else b.actionStarts s.fuse

def execParadeRunStart (s : State) : Host.Outcome State Fault Refusal :=
  s.onBlock fun b => if b.earlier s.fuse 6 then b else b.runStart

def execSecureCopyStart (slice job : Nat) (s : State) : Host.Outcome State Fault Refusal :=
  s.onBlock fun b =>
    if b.copyDue slice job && !b.earlier s.fuse 7 then
      b.copyStart slice job
    else b

def execPrefetchFire (core slot idx : Nat) (s : State) : Host.Outcome State Fault Refusal :=
  s.onBlock fun b =>
    match b.prefDue core slot idx with
    | none => b
    | some p => if b.earlier s.fuse 8 then b else b.firePref core slot p

def execTallyCheckpoint (s : State) : Host.Outcome State Fault Refusal :=
  s.onBlock fun b =>
    if b.checkpointDue && !b.earlier s.fuse 9 then
      { b with tally := { b.tally with checkedIn := some b.time.count.toNat } }.saveDue
    else b

/-! ### Windows (R104, R105, R345) -/

/-- The copy of job (n, j) began in the window that is open for it and still streams. -/
def Block.lateCopy (b : Block) (n j : Nat) : Bool :=
  match (b.job n j).copy, b.time.windows.find? fun x => x.1 == .secure n j with
  | some c, some x => c.start.stride.toNat == x.2
  | _, _ => false

/-- A window ends: a copy that began in it and still streams is late; a job that waits behind another of its slice still starts. -/
def Block.windowEnds (b : Block) (w : WindowId) : Block :=
  let b' := b.closeWindow w
  match w with
  | .reconf => b'
  | .secure n j =>
    b'.modJob n j fun x =>
      { x with late := if b.lateCopy n j then up32 x.late else x.late, startDue := if b.copyWaits n j then x.startDue else none }

/-- A window reaches its END in the stride in which it opened. -/
def execWindowClose (w : WindowId) (s : State) : Host.Outcome State Fault Refusal :=
  s.onBlock fun b =>
    if (b.time.windows.any fun x => x.1 == w) && winEnd (b.windowDesc w) ≤ b.phaseNow then b.windowEnds w else b

/-! ### Phase zero (R92, R97, R101, R108) -/

/-- The compute-domain phase zero: the count, the Parade record, the staged map, the roll-over, and the windows that end. The
first one of all begins stride 0, and nothing was placed before it. -/
def Block.phaseZero (b : Block) : Block :=
  match b.time.zeroDue with
  | [] => b
  | (c, p) :: _ =>
    let ended := b.time.count
    let was := b.time.started
    let b := if was then b.modTime fun t => { t with phaseSkip := min max32 (t.phaseSkip + b.skipCount p) } else b
    let b := b.modTime fun t => t.zero c
    let b := if was then b.paradeRecord ended b.time.cpt.toNat else b.modParade fun q => { q with nextRun := 0, startClks := [] }
    let (b, switched) := b.stagedZero b.time.count.toNat
    let b := if switched then b.mapSwitched else b
    let b := b.noteStarts
    let b := b.each b.live fun n b => b.reinRoll n ended
    (b.time.windows.map (·.1)).foldl Block.windowEnds b

/-- The compute domain has come to the next phase zero: 8 compute clocks after the management domain, or at once while the
compute clock is stopped (R102). -/
def Block.zeroNow (b : Block) : Bool := !b.time.zeroDue.isEmpty && (b.gated || b.time.zeroBefore b.time.clk)

/-- Phase zero of the closing stride: the close comes after every event of R108 in its clock (R369). -/
def execDebugDurationExpiry (s : State) : Host.Outcome State Fault Refusal :=
  s.onBlock fun b =>
    if b.life.debugOpen && b.life.closeStride.toNat ≤ b.time.count.toNat && !b.zeroNow && !b.earlier s.fuse 10 then b.closeDebug else b

/-- The phase has moved on by a tick: waits for panels and the queues' watchdogs count it (R147, R263). -/
def Block.phaseMoved (b : Block) : Block := b.waitTick.queueTick

def execPhaseZero (s : State) : Host.Outcome State Fault Refusal :=
  s.onBlock fun b => if b.zeroNow then b.phaseZero.phaseMoved else b

/-! ### One clock, where no command waits (notes/assumptions/2.md) -/

/-- The phase generator's clock: an accepted edge (R98), GRACE elapsed, a wrap in HOLDOVER, or the next value (R99). -/
def Block.generate (b : Block) : Block :=
  if b.time.edgeDue then b.modTime TimeBase.edge
  else if b.time.graceDue || (b.time.ownDue && b.time.lock == .locked) then (b.modTime TimeBase.graceEnd).tallyUp 0x8010 3
  else if b.time.wraps then (b.modTime TimeBase.wrap).tallyUp 0x8010 3
  else b.modTime fun t => t.advance b.gated

/-- The compute domain takes the phase values due, and the phase zeros (R102). -/
def Block.takePhase (b : Block) : Block :=
  let b := if b.gated then b else b.modTime TimeBase.takeLag
  b.each (List.range b.time.zeroDue.length) fun _ b => if b.zeroNow then b.phaseZero else b

/-- One management clock. -/
def Block.mgmtClock (b : Block) : Block :=
  (((b.modTime fun t => { t with mclk := t.mclk + 1 }).modStart StartUp.clock).generate).powerTick.ladderTick

/-- What a compute clock moves on, where the gates are open. -/
def Block.computeWork (b : Block) : Block := b.cohTick.lateTick.homesTick.waitClock.copyTick.portTick.ownTick.readAhead.watchTick.bankTick.refillTick

/-- One compute clock with the management clocks that begin in it, or one management clock while the compute clock is stopped
(R382, R383). A block in reset stands still. -/
def Block.tick (b : Block) : Block :=
  if b.start.stage == 0 then b
  else if b.gated then b.mgmtClock.ownTick.takePhase.noteStarts.farrierTick.strikeTick
  else
    let before := b.time.now
    let n := b.time.mgmtClocks
    let b := ((b.modTime TimeBase.computeClock).each (List.range n) fun _ b => b.mgmtClock).takePhase
    let b := if b.time.now == before then b else b.phaseMoved
    b.computeWork.noteStarts.farrierTick.strikeTick

end Sys2Proof.Machine
end

