-- ==== Sys2Proof/Machine/Dispatch.lean ====
section
/-! DEFINITION. What each command does to everything but the queue: one arm for each row of the opcode table, in its order. -/

namespace Sys2Proof.Machine

def exec (i : Instr) (s : State) : Host.Outcome State Fault Refusal :=
  match i with
  | .mgtRstNDeassert fuseOk => Sys2Proof.Machine.execMgtRstNDeassert fuseOk s
  | .imageStage flashOk => Sys2Proof.Machine.execImageStage flashOk s
  | .releaseStage => Sys2Proof.Machine.execReleaseStage s
  | .runningStage => Sys2Proof.Machine.execRunningStage s
  | .mcpInitDone port => Sys2Proof.Machine.execMcpInitDone port s
  | .mcpInitTimeout port => Sys2Proof.Machine.execMcpInitTimeout port s
  | .pdReqRaise d => Sys2Proof.Machine.execPdReqRaise d s
  | .pdAckRise d => Sys2Proof.Machine.execPdAckRise d s
  | .pdPowerDown d => Sys2Proof.Machine.execPdPowerDown d s
  | .pdAckFall d => Sys2Proof.Machine.execPdAckFall d s
  | .pdTimeout d => Sys2Proof.Machine.execPdTimeout d s
  | .droopSample codes warn => Sys2Proof.Machine.execDroopSample codes warn s
  | .powerWarnRise => Sys2Proof.Machine.execPowerWarnRise s
  | .warnHaltExpiry => Sys2Proof.Machine.execWarnHaltExpiry s
  | .exitHoldExpiry => Sys2Proof.Machine.execExitHoldExpiry s
  | .shutdown eid tag value => Sys2Proof.Machine.execShutdown eid tag value s
  | .shutdownReady => Sys2Proof.Machine.execShutdownReady s
  | .stridePulseEdge => Sys2Proof.Machine.execStridePulseEdge s
  | .graceExpiry => Sys2Proof.Machine.execGraceExpiry s
  | .holdoverWrap => Sys2Proof.Machine.execHoldoverWrap s
  | .phaseZero => Sys2Proof.Machine.execPhaseZero s
  | .windowOpen w => Sys2Proof.Machine.execWindowOpen w s
  | .windowClose w => Sys2Proof.Machine.execWindowClose w s
  | .timing port payload => Sys2Proof.Machine.execTiming port payload s
  | .loadCtrl eid tag value => Sys2Proof.Machine.execLoadCtrl eid tag value s
  | .baseImageVerify => Sys2Proof.Machine.execBaseImageVerify s
  | .switchStride eid tag value => Sys2Proof.Machine.execSwitchStride eid tag value s
  | .stagedMapComplete => Sys2Proof.Machine.execStagedMapComplete s
  | .paradeRunStart => Sys2Proof.Machine.execParadeRunStart s
  | .tileEmit failing => Sys2Proof.Machine.execTileEmit failing s
  | .runDrop => Sys2Proof.Machine.execRunDrop s
  | .tallyCheckpoint => Sys2Proof.Machine.execTallyCheckpoint s
  | .tallySave => Sys2Proof.Machine.execTallySave s
  | .tallySaveComplete ok => Sys2Proof.Machine.execTallySaveComplete ok s
  | .tallyUnlockedTimer => Sys2Proof.Machine.execTallyUnlockedTimer s
  | .histogramInterval temps => Sys2Proof.Machine.execHistogramInterval temps s
  | .powerOnMinute => Sys2Proof.Machine.execPowerOnMinute s
  | .engIssue core rd rs1 rs2 => Sys2Proof.Machine.execEngIssue core rd rs1 rs2 s
  | .engWait core rs1 rs2 => Sys2Proof.Machine.execEngWait core rs1 rs2 s
  | .engStat core rd rs2 => Sys2Proof.Machine.execEngStat core rd rs2 s
  | .vecIssue core rd rs1 => Sys2Proof.Machine.execVecIssue core rd rs1 s
  | .tagClr core rs1 rs2 => Sys2Proof.Machine.execTagClr core rs1 rs2 s
  | .fenceEng core => Sys2Proof.Machine.execFenceEng core s
  | .zhLaunchWrite core value => Sys2Proof.Machine.execZhLaunchWrite core value s
  | .zhFnoteRead core rd => Sys2Proof.Machine.execZhFnoteRead core rd s
  | .cpAccessFault core kind va => Sys2Proof.Machine.execCpAccessFault core kind va s
  | .coreMessage src target body => Sys2Proof.Machine.execCoreMessage src target body s
  | .opAccept core eng => Sys2Proof.Machine.execOpAccept core eng s
  | .paradeHeadCheck core eng => Sys2Proof.Machine.execParadeHeadCheck core eng s
  | .matmul core eng => Sys2Proof.Machine.execMatmul core eng s
  | .residentLoad core eng => Sys2Proof.Machine.execResidentLoad core eng s
  | .paradeTileCapture core eng => Sys2Proof.Machine.execParadeTileCapture core eng s
  | .writeout core eng => Sys2Proof.Machine.execWriteout core eng s
  | .loadacc core eng => Sys2Proof.Machine.execLoadacc core eng s
  | .zeroacc core eng => Sys2Proof.Machine.execZeroacc core eng s
  | .opComplete core eng => Sys2Proof.Machine.execOpComplete core eng s
  | .adaptDownStep core => Sys2Proof.Machine.execAdaptDownStep core s
  | .adaptUpStep core => Sys2Proof.Machine.execAdaptUpStep core s
  | .adaptTransposedDown core => Sys2Proof.Machine.execAdaptTransposedDown core s
  | .adaptTransposedUp core => Sys2Proof.Machine.execAdaptTransposedUp core s
  | .adaptStepComplete core => Sys2Proof.Machine.execAdaptStepComplete core s
  | .prefetchFire core slot idx => Sys2Proof.Machine.execPrefetchFire core slot idx s
  | .panelPresent core slot => Sys2Proof.Machine.execPanelPresent core slot s
  | .adaptMiss core slot => Sys2Proof.Machine.execAdaptMiss core slot s
  | .vectorProgramStart core => Sys2Proof.Machine.execVectorProgramStart core s
  | .vld core => Sys2Proof.Machine.execVld core s
  | .vst core => Sys2Proof.Machine.execVst core s
  | .vldb core => Sys2Proof.Machine.execVldb core s
  | .vstb core => Sys2Proof.Machine.execVstb core s
  | .vldn core => Sys2Proof.Machine.execVldn core s
  | .vstn core => Sys2Proof.Machine.execVstn core s
  | .vseta core => Sys2Proof.Machine.execVseta core s
  | .vadd core => Sys2Proof.Machine.execVadd core s
  | .vsub core => Sys2Proof.Machine.execVsub core s
  | .vmul core => Sys2Proof.Machine.execVmul core s
  | .vfma core => Sys2Proof.Machine.execVfma core s
  | .vdiv core => Sys2Proof.Machine.execVdiv core s
  | .vsqrt core => Sys2Proof.Machine.execVsqrt core s
  | .vmax core => Sys2Proof.Machine.execVmax core s
  | .vmin core => Sys2Proof.Machine.execVmin core s
  | .vabs core => Sys2Proof.Machine.execVabs core s
  | .vcmplt core => Sys2Proof.Machine.execVcmplt core s
  | .vsel core => Sys2Proof.Machine.execVsel core s
  | .vbcast core => Sys2Proof.Machine.execVbcast core s
  | .vredadd core => Sys2Proof.Machine.execVredadd core s
  | .vredmax core => Sys2Proof.Machine.execVredmax core s
  | .vscupd core => Sys2Proof.Machine.execVscupd core s
  | .vadamw core => Sys2Proof.Machine.execVadamw core s
  | .vsgdm core => Sys2Proof.Machine.execVsgdm core s
  | .vend core => Sys2Proof.Machine.execVend core s
  | .doorbell q v => Sys2Proof.Machine.execDoorbell q v s
  | .doorbellInline q entry => Sys2Proof.Machine.execDoorbellInline q entry s
  | .ringFetch q => Sys2Proof.Machine.execRingFetch q s
  | .arbiterGrant slice => Sys2Proof.Machine.execArbiterGrant slice s
  | .nop q => Sys2Proof.Machine.execNop q s
  | .ops q => Sys2Proof.Machine.execOps q s
  | .launch q => Sys2Proof.Machine.execLaunch q s
  | .dma q => Sys2Proof.Machine.execDma q s
  | .fenceWait q => Sys2Proof.Machine.execFenceWait q s
  | .fenceSignal q => Sys2Proof.Machine.execFenceSignal q s
  | .setWindow q => Sys2Proof.Machine.execSetWindow q s
  | .prefetch q => Sys2Proof.Machine.execPrefetch q s
  | .advise q => Sys2Proof.Machine.execAdvise q s
  | .stamp q => Sys2Proof.Machine.execStamp q s
  | .commandComplete q k => Sys2Proof.Machine.execCommandComplete q k s
  | .queueWatchdog q => Sys2Proof.Machine.execQueueWatchdog q s
  | .ctxCreate slice ctx => Sys2Proof.Machine.execCtxCreate slice ctx s
  | .ctxReset slice ctx => Sys2Proof.Machine.execCtxReset slice ctx s
  | .ctxResetComplete slice ctx => Sys2Proof.Machine.execCtxResetComplete slice ctx s
  | .ctxDestroy slice ctx => Sys2Proof.Machine.execCtxDestroy slice ctx s
  | .ctxClearFault slice ctx => Sys2Proof.Machine.execCtxClearFault slice ctx s
  | .ctxSync slice ctx => Sys2Proof.Machine.execCtxSync slice ctx s
  | .zhCtxTableWrite slice v => Sys2Proof.Machine.execZhCtxTableWrite slice v s
  | .queueEnable q cfg => Sys2Proof.Machine.execQueueEnable q cfg s
  | .queueDisable q => Sys2Proof.Machine.execQueueDisable q s
  | .fenceSetup slice fence exported => Sys2Proof.Machine.execFenceSetup slice fence exported s
  | .fenceCtrlSignal slice fence => Sys2Proof.Machine.execFenceCtrlSignal slice fence s
  | .fenceRelease slice fence => Sys2Proof.Machine.execFenceRelease slice fence s
  | .dmaTile agent channel => Sys2Proof.Machine.execDmaTile agent channel s
  | .zhFaultTailWrite slice v => Sys2Proof.Machine.execZhFaultTailWrite slice v s
  | .faultRingConfig slice base size => Sys2Proof.Machine.execFaultRingConfig slice base size s
  | .dmaResume slice va => Sys2Proof.Machine.execDmaResume slice va s
  | .dmaAborted slice va => Sys2Proof.Machine.execDmaAborted slice va s
  | .invalidation slice ctrl => Sys2Proof.Machine.execInvalidation slice ctrl s
  | .invalidationComplete slice => Sys2Proof.Machine.execInvalidationComplete slice s
  | .zhPoolAdd slice v => Sys2Proof.Machine.execZhPoolAdd slice v s
  | .alloc core rd rs2 => Sys2Proof.Machine.execAlloc core rd rs2 s
  | .free core rd rs2 => Sys2Proof.Machine.execFree core rd rs2 s
  | .freePointPassed slice => Sys2Proof.Machine.execFreePointPassed slice s
  | .keyRequest slice eid tag value => Sys2Proof.Machine.execKeyRequest slice eid tag value s
  | .keyRelease slice eid tag value => Sys2Proof.Machine.execKeyRelease slice eid tag value s
  | .reqCommit eid tag value => Sys2Proof.Machine.execReqCommit eid tag value s
  | .create eid tag slice h => Sys2Proof.Machine.execCreate eid tag slice h s
  | .resize eid tag slice h => Sys2Proof.Machine.execResize eid tag slice h s
  | .remove eid tag slice => Sys2Proof.Machine.execRemove eid tag slice s
  | .firmware eid tag slice addr => Sys2Proof.Machine.execFirmware eid tag slice addr s
  | .reconfActionStart => Sys2Proof.Machine.execReconfActionStart s
  | .reconfStageEnd => Sys2Proof.Machine.execReconfStageEnd s
  | .scrubComplete g => Sys2Proof.Machine.execScrubComplete g s
  | .sliceMapAddr slice eid tag value => Sys2Proof.Machine.execSliceMapAddr slice eid tag value s
  | .nonce slice eid tag value => Sys2Proof.Machine.execNonce slice eid tag value s
  | .nonceLedgerReady slice => Sys2Proof.Machine.execNonceLedgerReady slice s
  | .medAnswer eid => Sys2Proof.Machine.execMedAnswer eid s
  | .reinSample slice point cls x bytes => Sys2Proof.Machine.execReinSample slice point cls x bytes s
  | .rds agent line => Sys2Proof.Machine.execRds agent line s
  | .rdx agent line => Sys2Proof.Machine.execRdx agent line s
  | .wrline agent line alloc bytes => Sys2Proof.Machine.execWrline agent line alloc bytes s
  | .uncrd agent line => Sys2Proof.Machine.execUncrd agent line s
  | .uncwr agent line off bytes => Sys2Proof.Machine.execUncwr agent line off bytes s
  | .atomicHome agent line off op a b => Sys2Proof.Machine.execAtomicHome agent line off op a b s
  | .wb agent line => Sys2Proof.Machine.execWb agent line s
  | .snps agent line => Sys2Proof.Machine.execSnps agent line s
  | .snpx agent line => Sys2Proof.Machine.execSnpx agent line s
  | .snpcur agent line => Sys2Proof.Machine.execSnpcur agent line s
  | .data agent line => Sys2Proof.Machine.execData agent line s
  | .rsp agent line => Sys2Proof.Machine.execRsp agent line s
  | .nack agent line => Sys2Proof.Machine.execNack agent line s
  | .cohAck agent line => Sys2Proof.Machine.execCohAck agent line s
  | .cmpwb agent line => Sys2Proof.Machine.execCmpwb agent line s
  | .cohPoison agent line => Sys2Proof.Machine.execCohPoison agent line s
  | .holdEnd agent line => Sys2Proof.Machine.execHoldEnd agent line s
  | .retryReservationLapse line => Sys2Proof.Machine.execRetryReservationLapse line s
  | .retryDelayExpiry agent line => Sys2Proof.Machine.execRetryDelayExpiry agent line s
  | .snoopTimeout agent line => Sys2Proof.Machine.execSnoopTimeout agent line s
  | .reqTimeout agent line => Sys2Proof.Machine.execReqTimeout agent line s
  | .viActivate v => Sys2Proof.Machine.execViActivate v s
  | .viReset v => Sys2Proof.Machine.execViReset v s
  | .viRemove v => Sys2Proof.Machine.execViRemove v s
  | .viDrainComplete v => Sys2Proof.Machine.execViDrainComplete v s
  | .viBind v q => Sys2Proof.Machine.execViBind v q s
  | .viUnbind v q => Sys2Proof.Machine.execViUnbind v q s
  | .zhViPasidWrite v value => Sys2Proof.Machine.execZhViPasidWrite v value s
  | .unitWatchdog core unit => Sys2Proof.Machine.execUnitWatchdog core unit s
  | .unitUncorr core unit => Sys2Proof.Machine.execUnitUncorr core unit s
  | .feHang unit => Sys2Proof.Machine.execFeHang unit s
  | .sharedUnitFailure cluster => Sys2Proof.Machine.execSharedUnitFailure cluster s
  | .engineRung core unit => Sys2Proof.Machine.execEngineRung core unit s
  | .sliceRung slice => Sys2Proof.Machine.execSliceRung slice s
  | .blockComputeRung => Sys2Proof.Machine.execBlockComputeRung s
  | .powerCycleRung => Sys2Proof.Machine.execPowerCycleRung s
  | .trayHoldExpiry => Sys2Proof.Machine.execTrayHoldExpiry s
  | .rungEscalation => Sys2Proof.Machine.execRungEscalation s
  | .launchGraceExpiry core => Sys2Proof.Machine.execLaunchGraceExpiry core s
  | .sliceReset slice eid tag value => Sys2Proof.Machine.execSliceReset slice eid tag value s
  | .rungRequestBlock eid tag => Sys2Proof.Machine.execRungRequestBlock eid tag s
  | .rungRequestPower eid tag => Sys2Proof.Machine.execRungRequestPower eid tag s
  | .replayTurn slice => Sys2Proof.Machine.execReplayTurn slice s
  | .turnEnd slice ctx => Sys2Proof.Machine.execTurnEnd slice ctx s
  | .turnLimitExpiry slice => Sys2Proof.Machine.execTurnLimitExpiry slice s
  | .abandon slice => Sys2Proof.Machine.execAbandon slice s
  | .substituteCore core => Sys2Proof.Machine.execSubstituteCore core s
  | .substituteBank core bank => Sys2Proof.Machine.execSubstituteBank core bank s
  | .substituteWay cluster way => Sys2Proof.Machine.execSubstituteWay cluster way s
  | .substituteGroup g => Sys2Proof.Machine.execSubstituteGroup g s
  | .mgmtCoreWatchdog k => Sys2Proof.Machine.execMgmtCoreWatchdog k s
  | .arm slice job eid tag => Sys2Proof.Machine.execArm slice job eid tag s
  | .disarm slice job eid tag => Sys2Proof.Machine.execDisarm slice job eid tag s
  | .restore slice job eid tag => Sys2Proof.Machine.execRestore slice job eid tag s
  | .restoreComplete slice job => Sys2Proof.Machine.execRestoreComplete slice job s
  | .secureCopyStart slice job => Sys2Proof.Machine.execSecureCopyStart slice job s
  | .secureCopyComplete slice job => Sys2Proof.Machine.execSecureCopyComplete slice job s
  | .secureTimeout slice job => Sys2Proof.Machine.execSecureTimeout slice job s
  | .partnerWrite slice job eid tag value => Sys2Proof.Machine.execPartnerWrite slice job eid tag value s
  | .transTest eid tag => Sys2Proof.Machine.execTransTest eid tag s
  | .transField eid tag => Sys2Proof.Machine.execTransField eid tag s
  | .transComplete eid tag => Sys2Proof.Machine.execTransComplete eid tag s
  | .transProvision eid tag => Sys2Proof.Machine.execTransProvision eid tag s
  | .transAnalysis eid tag => Sys2Proof.Machine.execTransAnalysis eid tag s
  | .transScrap eid tag => Sys2Proof.Machine.execTransScrap eid tag s
  | .fuseDone burnt => Sys2Proof.Machine.execFuseDone burnt s
  | .debugOpen eid tag => Sys2Proof.Machine.execDebugOpen eid tag s
  | .debugClose eid tag => Sys2Proof.Machine.execDebugClose eid tag s
  | .debugDurationExpiry => Sys2Proof.Machine.execDebugDurationExpiry s
  | .debugConsent slice eid tag value => Sys2Proof.Machine.execDebugConsent slice eid tag value s
  | .svnAdvance eid tag value => Sys2Proof.Machine.execSvnAdvance eid tag value s
  | .adapterExtend slice eid tag value => Sys2Proof.Machine.execAdapterExtend slice eid tag value s
  | .extendDone slice => Sys2Proof.Machine.execExtendDone slice s
  | .sealWrite slice eid tag value => Sys2Proof.Machine.execSealWrite slice eid tag value s
  | .sealRead slice eid tag => Sys2Proof.Machine.execSealRead slice eid tag s
  | .rngFault => Sys2Proof.Machine.execRngFault s
  | .getVersion eid => Sys2Proof.Machine.execGetVersion eid s
  | .getCapabilities eid => Sys2Proof.Machine.execGetCapabilities eid s
  | .negotiateAlgorithms eid asymP384 hashSha384 measSha384 => Sys2Proof.Machine.execNegotiateAlgorithms eid asymP384 hashSha384 measSha384 s
  | .getDigests eid => Sys2Proof.Machine.execGetDigests eid s
  | .getCertificate eid slot off len => Sys2Proof.Machine.execGetCertificate eid slot off len s
  | .challenge eid slot nonce => Sys2Proof.Machine.execChallenge eid slot nonce s
  | .getMeasurements eid index nonce => Sys2Proof.Machine.execGetMeasurements eid index nonce s
  | .imageCtrl eid tag value => Sys2Proof.Machine.execImageCtrl eid tag value s
  | .read eid tag index sub => Sys2Proof.Machine.execRead eid tag index sub s
  | .write eid tag index sub value => Sys2Proof.Machine.execWrite eid tag index sub value s
  | .describe eid tag index sub => Sys2Proof.Machine.execDescribe eid tag index sub s
  | .eventAck eid seq => Sys2Proof.Machine.execEventAck eid seq s
  | .event => Sys2Proof.Machine.execEvent s
  | .eventRetry => Sys2Proof.Machine.execEventRetry s
  | .tallyClear eid tag value => Sys2Proof.Machine.execTallyClear eid tag value s
  | .saveNow eid tag value => Sys2Proof.Machine.execSaveNow eid tag value s
  | .setEndpointId src newEid => Sys2Proof.Machine.execSetEndpointId src newEid s
  | .getEndpointId src => Sys2Proof.Machine.execGetEndpointId src s
  | .getMctpVersionSupport src => Sys2Proof.Machine.execGetMctpVersionSupport src s
  | .getMessageTypeSupport src => Sys2Proof.Machine.execGetMessageTypeSupport src s
  | .mcpReadReturn port line err => Sys2Proof.Machine.execMcpReadReturn port line err s
  | .null port src reqCredits rspCredits => Sys2Proof.Machine.execNull port src reqCredits rspCredits s
  | .linkTrain port => Sys2Proof.Machine.execLinkTrain port s
  | .linkNak port seq => Sys2Proof.Machine.execLinkNak port seq s
  | .rxBad port => Sys2Proof.Machine.execRxBad port s
  | .phyUpRise port => Sys2Proof.Machine.execPhyUpRise port s
  | .phyUpFall port => Sys2Proof.Machine.execPhyUpFall port s
  | .trainingTimeout port => Sys2Proof.Machine.execTrainingTimeout port s
  | .rd port src addr bytes => Sys2Proof.Machine.execRd port src addr bytes s
  | .wr port src addr bytes => Sys2Proof.Machine.execWr port src addr bytes s
  | .wrData port src bytes => Sys2Proof.Machine.execWrData port src bytes s
  | .atomic port src addr op a b => Sys2Proof.Machine.execAtomic port src addr op a b s
  | .msg port src target body => Sys2Proof.Machine.execMsg port src target body s
  | .fence port src handle value => Sys2Proof.Machine.execFence port src handle value s
  | .streamOpen port src base bank job srcPackage srcSlice reading => Sys2Proof.Machine.execStreamOpen port src base bank job srcPackage srcSlice reading s
  | .streamMark port src trailer => Sys2Proof.Machine.execStreamMark port src trailer s
  | .streamData port src bytes => Sys2Proof.Machine.execStreamData port src bytes s
  | .streamRead port src off bytes => Sys2Proof.Machine.execStreamRead port src off bytes s
  | .rdData port src bytes => Sys2Proof.Machine.execRdData port src bytes s
  | .ack port src value => Sys2Proof.Machine.execAck port src value s
  | .refused port src cause => Sys2Proof.Machine.execRefused port src cause s
  | .poison port src line => Sys2Proof.Machine.execPoison port src line s
  | .staleRole port src => Sys2Proof.Machine.execStaleRole port src s
  | .atomicRsp port src old => Sys2Proof.Machine.execAtomicRsp port src old s
  | .doorbellFwd q payload => Sys2Proof.Machine.execDoorbellFwd q payload s
  | .fedCtrl op src payload => Sys2Proof.Machine.execFedCtrl op src payload s
  | .fedForward east dst src kind origin body => Sys2Proof.Machine.execFedForward east dst src kind origin body s
  | .instanceLost k => Sys2Proof.Machine.execInstanceLost k s
  | .apertureAccess off len wdata => Sys2Proof.Machine.execApertureAccess off len wdata s
  | .zhAptKeyWrite slice value => Sys2Proof.Machine.execZhAptKeyWrite slice value s
  | .registerWrite off size value => Sys2Proof.Machine.execRegisterWrite off size value s
  | .irqSend => Sys2Proof.Machine.execIrqSend s
  | .lossOfPower => Sys2Proof.Machine.execLossOfPower s
  | .hostCompletion tag ok bytes => Sys2Proof.Machine.execHostCompletion tag ok bytes s
  | .controlProcessorAccess core op => Sys2Proof.Machine.execControlProcessorAccess core op s
  | .debugReadout t off n => Sys2Proof.Machine.execDebugReadout t off n s
  | .healthTestPass => Sys2Proof.Machine.execHealthTestPass s
  | .imageWriteComplete ok => Sys2Proof.Machine.execImageWriteComplete ok s
  | .sealRecordWritten slice k ok => Sys2Proof.Machine.execSealRecordWritten slice k ok s
  | .sampleLimitExpiry slice => Sys2Proof.Machine.execSampleLimitExpiry slice s
  | .flitUnknownKind port src => Sys2Proof.Machine.execFlitUnknownKind port src s
  | .malformed eid tag kind index sub => Sys2Proof.Machine.execMalformed eid tag kind index sub s

end Sys2Proof.Machine
end

