-- ==== Sys2Proof/Machine/Step.lean ====
section
/-! DEFINITION. One step: the command at the front of the queue, or one management clock where none waits. -/

namespace Sys2Proof.Machine

/-- The state without the command at the front of its queue. -/
def State.withPending (s : State) (q : List Instr) : State := { s with pending := q }

/-- One management clock passes where no command waits; what Farrier retires in it is stored (R330). -/
def State.idle (s : State) : State := { s with b := s.b.tick, flash := s.flash.retire s.b.tick.ladder }

/-- The command at the front runs with the queue's rest (the model's own queue); with none waiting one clock passes
(notes/assumptions/2.md). -/
def step (s : State) : Host.Outcome State Fault Refusal :=
  match s.pending with
  | [] => .next s.idle
  | c :: rest => exec c (s.withPending rest)

/-- The command that a table word spells, put at the front of the queue; no word spells one. -/
def State.withFetchWord (s : State) (nbits w : Nat) : State :=
  match decodeTableWord nbits w with
  | none => s
  | some c => s.withPending (c :: s.pending)

end Sys2Proof.Machine
end

