-- ==== Sys2Proof/Safety.lean ====
section
/-! DEFINITION. What the statements call a completed command, an unchanged part of the machine and a good state. -/

namespace Sys2Proof.Machine

/-- The command completes: it answers a next state, with the property given. -/
def Completes (o : Host.Outcome State Fault Refusal) (p : State → Prop) : Prop := ∃ t, o = .next t ∧ p t

/-- The parts of the block, one for each of its fields. -/
inductive Part where
  | time | parade | life | start | power | dict | tally | recon | ladder | ports | coh
  | mem | keys | keyGens | slices | cores | ctxs | queues | fences | dmas | vis | draws | upsets
  deriving DecidableEq, Repr

/-- A part is the same in both blocks. -/
def Part.same (b b' : Block) : Part → Prop
  | .time => b'.time = b.time
  | .parade => b'.parade = b.parade
  | .life => b'.life = b.life
  | .start => b'.start = b.start
  | .power => b'.power = b.power
  | .dict => b'.dict = b.dict
  | .tally => b'.tally = b.tally
  | .recon => b'.recon = b.recon
  | .ladder => b'.ladder = b.ladder
  | .ports => b'.ports = b.ports
  | .coh => b'.coh = b.coh
  | .mem => b'.mem = b.mem
  | .keys => b'.keys = b.keys
  | .keyGens => b'.keyGens = b.keyGens
  | .slices => b'.slices = b.slices
  | .cores => b'.cores = b.cores
  | .ctxs => b'.ctxs = b.ctxs
  | .queues => b'.queues = b.queues
  | .fences => b'.fences = b.fences
  | .dmas => b'.dmas = b.dmas
  | .vis => b'.vis = b.vis
  | .draws => b'.draws = b.draws
  | .upsets => b'.upsets = b.upsets

/-- Every part of the block is unchanged but those listed. -/
def Block.Keeps (changed : List Part) (b b' : Block) : Prop := ∀ p, p ∉ changed → p.same b b'

/-- Nothing outside the block changes, and of the block only the parts listed. -/
def Frame (changed : List Part) (s t : State) : Prop :=
  t.pending = s.pending ∧ t.fuse = s.fuse ∧ t.flash = s.flash ∧ s.b.Keeps changed t.b

/-- Only one core changes. -/
def OnlyCore (core : Nat) (s t : State) : Prop := t = { s with b := s.b.modCore core fun _ => t.b.core core }

/-- Only the control processor of one core changes. -/
def OnlyHart (core : Nat) (s t : State) : Prop := t = { s with b := s.b.modHart core fun _ => (t.b.core core).hart }

/-- Only the vector unit of one core changes. -/
def OnlyVec (core : Nat) (s t : State) : Prop := t = { s with b := s.b.modVec core fun _ => (t.b.core core).vec }

/-- Only the vector unit of one core changes, with the note that the unit works and the unit's own lines of windows. -/
def OnlyLanes (core : Nat) (s t : State) : Prop :=
  Frame [.cores, .ports] s t ∧
  t.b.cores = (s.b.modCore core fun c => { c with vec := (t.b.core core).vec, watch := (t.b.core core).watch }).cores

/-- What an access of a unit needs through windows has come: made now, it meets no line that is still to come (R206, R276). -/
def Met (b : Block) (f : Block → Block) : Prop := (f b.noWants).ports.wanted = []

/-- The domains are at rest, and no line of the n bytes from place k on is poisoned (R284, R298). -/
def Calm (b : Block) (k n : Nat) : Prop := b.coh.busy = [] ∧ b.coh.msgs = [] ∧ ∀ i, i < n → b.poisoned (k + i) = false

/-- A newer copy of a line than memory's, where there is one, was filled under the key generation given. -/
def OwnCopy (b : Block) (key line : Nat) : Prop := ∀ x, b.coh.newest line = some x → x.2 = key ∧ key ≠ 0

/-- Only one engine of one core changes. -/
def OnlyEng (core eng : Nat) (s t : State) : Prop := t = { s with b := s.b.modEng core eng fun _ => t.b.eng core eng }

/-- Only one queue changes. -/
def OnlyQueue (q : Nat) (s t : State) : Prop := t = { s with b := s.b.modQueue q fun _ => t.b.queue q }

/-- A core's control processor takes the next instruction. -/
def HartRuns (b : Block) (core : Nat) : Prop :=
  (b.core core).hart.halted = false ∧ (b.core core).hart.stall = none ∧ b.gated = false

/-- What the object dictionary asks of a write before the entry's own rule decides (R408, R409, R416, R455). -/
def Admitted (b : Block) (eid index sub : Nat) (v : List Byte) : Prop :=
  b.busyMed eid = false ∧ b.writeCheck eid index sub v = none

/-- The canonical form of the device memory: addresses strictly rising, and nothing listed that reads as an unlisted place does. -/
def DevMem.wf (m : DevMem) : Bool := m.bytes.wf && Tab.wf 0 m.keyGen && Tab.wf false m.poison

/-- The same of a core's scratchpad, with its tags and its poison. -/
def Core.scratchWf (c : Core) : Bool := c.scratch.wf && Tab.wf false c.tags && Tab.wf false c.poison

end Sys2Proof.Machine
end

