-- ==== Sys2Proof/Certificates/Slice0/Obligations.lean ====
section
/-! DEFINITION. The statements for the provers, one for each rule or group of rules of the spec that they say. -/

open Sys2Proof Sys2Proof.Machine

/-! ### The machine's step -/

/-- A step takes the command at the front of the queue and is `exec` of it with the queue's rest (the model's own queue). With no
command waiting a step is one compute clock of the block with the management clocks that begin in it, or one management clock while
the compute clock is stopped: the queue and the fuses stay, and the flash takes what Farrier retired in that clock (the model's own
choice: notes/assumptions/2.md). -/
def Obligations.StepRunsTheFrontCommandOrOneClock : Prop :=
  (∀ (c : Instr) (q : List Instr) (s : State), step (s.withPending (c :: q)) = exec c (s.withPending q)) ∧
  (∀ s : State, s.pending = [] → step s = .next { s with b := s.b.tick, flash := s.flash.retire s.b.tick.ladder })

/-- Every command of the table completes: none ends in a fault or a refusal, and none touches the queue behind it. -/
def Obligations.EveryCommandCompletesAndKeepsTheQueue : Prop :=
  ∀ (c : Instr) (s : State), Completes (exec c s) fun t => t.pending = s.pending

/-! ### The stride time base -/

/-- R98: a synchronised pulse edge is accepted in HOLDOVER and UNLOCKED, and in LOCKED from management phase 0xFF00 on: the
generator's next clock then makes phase zero. An earlier edge is only counted. In that next clock (`Block.generate`, the generator's
part of an idle step) the accepted edge locks the time base, zeroes the accumulator, measures INC where no message is applied, and
phase zero is due in the compute domain 8 compute clocks later (R99, R102). -/
def Obligations.PulseEdgeAcceptedOrCounted : Prop :=
  ∀ s : State, s.b.start.stage ≠ 0 →
    (s.b.time.lock ≠ .locked ∨ 0xFF00 ≤ s.b.time.mgmtPhase →
      exec .stridePulseEdge s = .next { s with b := { s.b with time := { s.b.time with edgeDue := true } } }) ∧
    (s.b.time.edgeDue = true →
      s.b.Keeps [.time] s.b.generate ∧ s.b.generate.time.edgeDue = false ∧ s.b.generate.time.lock = .locked ∧
        s.b.generate.time.acc = 0 ∧ s.b.generate.time.lastEdge = some s.b.time.mclk ∧
        s.b.generate.time.zeroDue = s.b.time.zeroDue ++ [(s.b.time.clk + 8, s.b.time.mgmtPhase)] ∧
        s.b.generate.time.count = s.b.time.count ∧
        s.b.generate.time.pulseSpurious = s.b.time.pulseSpurious ∧
        s.b.generate.time.holdoverStrides = s.b.time.holdoverStrides ∧
        (∀ e, s.b.time.lastEdge = some e → appliedMsg s.b.time.accepted = none →
          s.b.generate.time.inc = (edgeInc s.b.time.lenNs (s.b.time.mclk - e)).1)) ∧
    (s.b.time.lock = .locked → s.b.time.mgmtPhase < 0xFF00 →
      exec .stridePulseEdge s =
        .next { s with b := { s.b with time :=
          { s.b.time with pulseSpurious := min 4294967295 (s.b.time.pulseSpurious + 1) } } })

/-- R99: where A has stood at 0xFFFF for GRACE in LOCKED and no edge was accepted, the block makes phase zero itself, from 0xFFFF,
in HOLDOVER with A at zero; where A + INC reaches 2^48 in HOLDOVER it wraps and keeps the carry. Both are made by the generator's
next management clock (`Block.generate`, a part of an idle step), which the event command asks for, and both are counted in
HOLDOVER_STRIDES and in the tally of such strides; the compute domain's phase zero is due 8 compute clocks later (R102). -/
def Obligations.BlockMakesPhaseZeroInHoldover : Prop :=
  (∀ (s : State) (h : Nat), s.b.time.lock = .locked → s.b.time.edgeDue = false → s.b.time.heldAt = some h →
    h + ceilDiv (s.b.time.grace * 2 ^ 32) s.b.time.inc ≤ s.b.time.mclk →
    exec .graceExpiry s = .next { s with b := { s.b with time := { s.b.time with ownDue := true } } }) ∧
  (∀ b : Block, b.time.lock = .locked → b.time.edgeDue = false → b.time.ownDue = true →
    b.Keeps [.time, .tally] b.generate ∧ b.generate.time.lock = .holdover ∧ b.generate.time.acc = 0 ∧
      b.generate.time.ownDue = false ∧ b.generate.time.zeroDue = b.time.zeroDue ++ [(b.time.clk + 8, 0xFFFF)] ∧
      b.generate.time.holdoverStrides = min 4294967295 (b.time.holdoverStrides + 1) ∧
      b.generate.tallyGet 0x8010 3 = min 4294967295 (b.tallyGet 0x8010 3 + 1)) ∧
  (∀ s : State, s.b.time.lock = .holdover → s.b.time.edgeDue = false → 2 ^ 48 ≤ s.b.time.acc + s.b.time.inc →
    exec .holdoverWrap s = .next { s with b := { s.b with time := { s.b.time with ownDue := true } } }) ∧
  (∀ b : Block, b.time.lock = .holdover → b.time.edgeDue = false → 2 ^ 48 ≤ b.time.acc + b.time.inc →
    b.Keeps [.time, .tally] b.generate ∧ b.generate.time.lock = .holdover ∧
      b.generate.time.acc = (b.time.acc + b.time.inc) % 2 ^ 48 ∧
      b.generate.time.zeroDue = b.time.zeroDue ++ [(b.time.clk + 8, 0xFFFF)] ∧
      b.generate.time.holdoverStrides = min 4294967295 (b.time.holdoverStrides + 1) ∧
      b.generate.tallyGet 0x8010 3 = min 4294967295 (b.tallyGet 0x8010 3 + 1))

/-- R95, R96: a timing message is accepted only on an enabled port, in phase [0x8000, 0xFF00), with LEN_NS in range; any other is
ignored and counted in TM_IGNORED. R97, R101: the stride count at a phase zero. The first phase zero of all leaves it at its value;
later the applied message sets it where its NEXT_COUNT is greater or its EPOCH differs, and otherwise it rises by one, a stale
message being counted. The compute domain takes a phase zero 8 compute clocks after the management domain (R102), or at once while
its clock is stopped. -/
def Obligations.TimingMessagesAndTheStrideCount : Prop :=
  (∀ (s : State) (port : Nat) (w : BitVec 128), s.b.start.stage ≠ 0 →
    let len := (w.extractLsb' 64 32).toNat
    let admitted := s.b.time.timingPorts.getLsbD port = true ∧ 0x8000 ≤ s.b.time.phase.toNat ∧ s.b.time.phase.toNat < 0xFF00 ∧
      2000000 ≤ len ∧ len ≤ 1000000000
    Completes (exec (.timing port w) s) fun t =>
      Frame [.time, .ports] s t ∧
      (admitted → t.b.time = { s.b.time with accepted := s.b.time.accepted ++
          [{ port := port, lenNs := len, epoch := w.extractLsb' 48 16, nextCount := w.extractLsb' 0 48 }] }) ∧
      (¬ admitted → t.b.time = { s.b.time with tmIgnored := min 4294967295 (s.b.time.tmIgnored + 1) })) ∧
  ∀ (s : State) (c p : Nat) (rest : List (Nat × Nat)), s.b.time.zeroDue = (c, p) :: rest →
    s.b.gated = true ∨ c ≤ s.b.time.clk →
    Completes (exec .phaseZero s) fun t =>
      t.fuse = s.fuse ∧ t.flash = s.flash ∧ t.pending = s.pending ∧
      t.b.time.started = true ∧ t.b.time.phase = 0 ∧ t.b.time.zeroDue = rest ∧ t.b.time.accepted = [] ∧
      t.b.time.strideClk = s.b.time.clk ∧
      (s.b.time.started = false → t.b.time.count = s.b.time.count ∧ t.b.time.epoch = s.b.time.epoch) ∧
      (s.b.time.started = true →
        (appliedMsg s.b.time.accepted = none →
          t.b.time.count = s.b.time.count + 1 ∧ t.b.time.epoch = s.b.time.epoch ∧ t.b.time.tmStale = s.b.time.tmStale) ∧
        (∀ m, appliedMsg s.b.time.accepted = some m →
          (s.b.time.count.toNat < m.nextCount.toNat ∨ m.epoch ≠ s.b.time.epoch →
            t.b.time.count = m.nextCount ∧ t.b.time.epoch = m.epoch ∧ t.b.time.tmStale = s.b.time.tmStale) ∧
          (¬(s.b.time.count.toNat < m.nextCount.toNat ∨ m.epoch ≠ s.b.time.epoch) →
            t.b.time.count = s.b.time.count + 1 ∧ t.b.time.epoch = s.b.time.epoch ∧
              t.b.time.tmStale = min 4294967295 (s.b.time.tmStale + 1))))

/-- R104, R106: a descriptor's window opens at its START in a stride that it selects, once, and with a securing window a copy of
its job is due as its state and the level of that clock have it (R345, R347); at its END it is closed. -/
def Obligations.WindowsOpenAndClose : Prop :=
  (∀ (s : State) (w : WindowId), s.b.time.started = true → winActive (s.b.windowDesc w) s.b.time.count.toNat = true →
    winStart (s.b.windowDesc w) ≤ s.b.phaseNow → s.b.phaseNow < winEnd (s.b.windowDesc w) →
    (∀ x ∈ s.b.time.windows, x.1 ≠ w) →
    Completes (exec (.windowOpen w) s) fun t =>
      Frame [.time, .slices] s t ∧
      t.b.time = { s.b.time with windows := s.b.time.windows ++ [(w, s.b.time.count.toNat)] } ∧
      (w = .reconf → t.b.slices = s.b.slices) ∧
      (∀ n j, w = .secure n j → t.b.job n j = { s.b.job n j with startDue := s.b.copyStarts (s.b.job n j) })) ∧
  (∀ (s : State) (w : WindowId), (∃ x ∈ s.b.time.windows, x.1 = w) → winEnd (s.b.windowDesc w) ≤ s.b.phaseNow →
    Completes (exec (.windowClose w) s) fun t =>
      Frame [.time, .slices] s t ∧
      t.b.time = { s.b.time with windows := s.b.time.windows.filter fun x => x.1 ≠ w } ∧
      (w = .reconf → t.b.slices = s.b.slices))

/-! ### The Parade -/

/-- R110: a base-image load begins only while the block runs (start-up stage 4) and in EMPTY or FAULT, under a fresh key of selector
63; at its end the Parade is VERIFIED exactly where the byte count and the SHA-384 digest of the commons agree with the sweep map,
and FAULT otherwise. R119: a write of SWITCH_STRIDE discards a staged map and starts a new load; a map that has arrived whole is
discarded with its rule in MAP_REFUSAL where it fails R118, is discarded where it would change BASE_BYTES or COMMONS_DIGEST or is
unsigned, and is otherwise ready. -/
def Obligations.BaseImageAndStagedMapAreChecked : Prop :=
  ((∀ (s : State) (eid : Nat) (tag : Byte), Admitted s.b eid 0x3030 1 [1] → s.b.start.stage = 4 →
    s.b.life.rngFault = false → (s.b.parade.st = .empty ∨ s.b.parade.st = .fault) →
    Completes (exec (.loadCtrl eid tag 1) s) fun t =>
      Frame [.parade, .keys, .keyGens, .ports, .dict] s t ∧ t.b.parade.st = .loading ∧
      t.b.keyGens = s.b.keyGens + 1 ∧ (t.b.key 63).gen = s.b.keyGens + 1 ∧
      t.b.parade.load = some { left := s.b.parade.loadCount, written := 0, fetched := s.b.parade.loadCount == 0 }) ∧
  (∀ (s : State) (l : BaseLoad), s.b.parade.load = some l → s.b.parade.st = .loading →
    l.fetched = true ∨ s.b.start.lead = false →
    Completes (exec .baseImageVerify s) fun t =>
      Frame [.parade, .ladder] s t ∧ t.b.parade.load = none ∧ t.b.parade.commons = s.b.parade.commons ∧
      t.b.parade.st = (if l.written = s.b.parade.map.baseBytes ∧
          Config.sha384 (s.b.parade.commons.readN 0 s.b.parade.map.baseBytes) = s.b.parade.map.commonsDigest
        then .verified else .fault))) ∧
  (∀ (s : State) (eid : Nat) (tag : Byte) (v : Dword), Admitted s.b eid 0x3012 1 (toLe 8 v.toNat) →
    Completes (exec (.switchStride eid tag v) s) fun t =>
      Frame [.parade, .ports, .dict] s t ∧ t.b.parade.switchStride = v ∧ t.b.parade.map = s.b.parade.map ∧
      t.b.parade.staged = some { switchAt := dfld v 47 0, future := s.b.time.count.toNat < dfld v 47 0,
                                 left := s.b.parade.stageCount, bytes := [], ready := none, readyLate := false }) ∧
  (∀ (s : State) (st : Staged), s.b.parade.staged = some st → st.left = 0 → st.ready = none →
    let m := mapOf s.b.start.commons.length st.bytes
    Completes (exec .stagedMapComplete s) fun t =>
      Frame [.parade] s t ∧ t.b.parade.map = s.b.parade.map ∧
      (m.2 ≠ 0 → t.b.parade.staged = none ∧ t.b.parade.mapRefusal = m.2) ∧
      (m.2 = 0 → m.1.baseBytes = s.b.parade.map.baseBytes → m.1.commonsDigest = s.b.parade.map.commonsDigest →
        Config.mapSigned st.bytes = true →
        t.b.parade.staged = some { st with ready := some m.1, readyLate := 0xFF00 ≤ s.b.phaseNow } ∧ t.b.parade.mapRefusal = 0) ∧
      (m.2 = 0 → m.1.baseBytes ≠ s.b.parade.map.baseBytes ∨ m.1.commonsDigest ≠ s.b.parade.map.commonsDigest ∨
        Config.mapSigned st.bytes = false → t.b.parade.staged = none ∧ t.b.parade.mapRefusal = s.b.parade.mapRefusal))

/-- R115, R122, R124: where no start stands before it in the order of R108, the next run begins emission at its START, before START
+ OVERRUN_LIMIT, counted from the clock that was stamped with its START; a run whose first tile has not left by then is dropped for
the stride and counted, whether it has begun or still waits. R115, R120, R111: the root sends tile n at emit(n) = max(sched(n) +
slip(n - 1), ready(n), emit_prev + ceil(bytes_prev / 2,048)), which is the clock of the command where the command stands at it; a
command before that clock leaves the block as it is. The tile's slip is emit(n) - sched(n), and a tile all of whose lines read well
carries the commons' own bytes. -/
def Obligations.RunsAndTilesLeaveOnSchedule : Prop :=
  ((∀ (s : State) (r : Run), s.b.parade.map.runs[s.b.parade.nextRun]? = some r → s.b.paradeLive = true → s.b.gated = false →
    s.b.parade.run = none → r.start ≤ s.b.phaseNow → s.b.phaseNow < r.start + s.b.parade.overrunLimit →
    s.b.earlier s.fuse 6 = false →
    Completes (exec .paradeRunStart s) fun t =>
      Frame [.parade] s t ∧ t.b.parade.st = .running ∧ t.b.parade.nextRun = s.b.parade.nextRun + 1 ∧
      t.b.parade.run = some { idx := s.b.parade.nextRun, run := r, stride := s.b.time.count.toNat
                              startClk := s.b.parade.startClks.getD s.b.parade.nextRun s.b.time.clk, next := 0, slip := 0
                              late := false }) ∧
  (∀ (s : State) (rs : RunSt), s.b.parade.run = some rs → rs.next = 0 →
    (rs.stride ≠ s.b.time.count.toNat ∨ rs.run.start + s.b.parade.overrunLimit ≤ s.b.phaseNow) →
    Completes (exec .runDrop s) fun t =>
      Frame [.parade] s t ∧ t.b.parade.run = none ∧ t.b.parade.curDropped = s.b.parade.curDropped + 1 ∧
      t.b.parade.droppedRuns = min 4294967295 (s.b.parade.droppedRuns + 1)) ∧
  (∀ (s : State) (r : Run), s.b.parade.map.runs[s.b.parade.nextRun]? = some r → s.b.paradeLive = true →
    r.start + s.b.parade.overrunLimit ≤ s.b.phaseNow → (∀ rs, s.b.parade.run = some rs → s.b.firstTooLate rs = false) →
    Completes (exec .runDrop s) fun t =>
      Frame [.parade] s t ∧ t.b.parade.run = s.b.parade.run ∧ t.b.parade.nextRun = s.b.parade.nextRun + 1 ∧
      t.b.parade.curDropped = s.b.parade.curDropped + 1 ∧
      t.b.parade.droppedRuns = min 4294967295 (s.b.parade.droppedRuns + 1))) ∧
  (∀ (s : State) (rs : RunSt) (failing : List Nat) (ready : Nat), s.b.parade.run = some rs → s.b.gated = false →
    s.b.firstTooLate rs = false → s.b.parade.readyTile rs = some ready →
    let sched := rs.startClk + rs.next * rs.run.spacing / 512
    let due := max (sched + rs.slip) (max ready (s.b.parade.emitPrev + ceilDiv s.b.parade.bytesPrev 2048))
    let emit := s.b.time.clk
    (s.b.time.clk < due → exec (.tileEmit failing) s = .next s) ∧
    (due ≤ s.b.time.clk →
    Completes (exec (.tileEmit failing) s) fun t =>
      t.fuse = s.fuse ∧ t.flash = s.flash ∧
      (rs.stride = s.b.time.count.toNat ∨ rs.next + 1 ≠ rs.run.count → Frame [.parade, .tally] s t) ∧
      t.b.parade.emitPrev = emit ∧ t.b.parade.seqNo = s.b.parade.seqNo + 1 ∧
      (∃ m, t.b.parade.tree.getLast? = some m ∧ m.clk = emit ∧ m.seqNo = s.b.parade.seqNo + 1 ∧ m.seg = rs.run.seg ∧
        m.tile = rs.run.tileFirst + rs.next ∧
        (failing = [] → s.b.parade.failedGroups = [] →
          m.bytes = s.b.parade.commons.readN (rs.run.src rs.next).toNat (tileBytes rs.run.fmt))) ∧
      (rs.next + 1 = rs.run.count → t.b.parade.run = none) ∧
      (rs.next + 1 ≠ rs.run.count → ∃ rs', t.b.parade.run = some rs' ∧ rs'.next = rs.next + 1 ∧ rs'.slip = emit - sched)))


/-! ### The engines -/

/-- R74, R76, R77, R189: the op placed next on an engine, once what its acceptance reads has come, takes the next ticket where the
queue has room, no replay turn holds the unit and the slice may use the engine. It joins the queue with its descriptor where no
check refuses it; one that fails a check of R74 gives OP_INVALID and joins nothing; one with a stale role generation is dropped
with STALE_ROLE and takes no ticket. Ops that can join several engines of a core in one clock join in ascending engine order (R130),
so no lower engine may be able to take one. -/
def Obligations.PlacedOpIsAcceptedRefusedOrDropped : Prop :=
  ∀ (s : State) (core eng : Nat) (p : Placement) (rest : List Placement), (s.b.eng core eng).arrivals = p :: rest →
    let d := s.b.readDesc core p.desc
    (∀ e, e < eng → s.b.acceptsNow core e = false) → s.b.gated = false →
    (p.gen = (s.b.core core).roleGen → (s.b.eng core eng).queue.length < 16 →
      s.b.turnHeld core eng p.ctx (dAdapt d) = false →
      (s.b.reservedEng (s.b.core core).owner core eng = false ∨ s.b.realTime p.issuer = true) →
      Met s.b (fun b => b.frontAccept core eng) →
      Completes (exec (.opAccept core eng) s) fun t =>
        Frame [.cores, .ctxs, .mem, .coh, .slices, .queues, .ports, .draws] s t ∧
        (t.b.eng core eng).issued = (s.b.eng core eng).issued + 1 ∧ (t.b.eng core eng).arrivals = rest ∧
        (opCheck d (s.b.parade.map.minSp (dSeg d)) ≠ 0 →
          (t.b.eng core eng).queue = (s.b.eng core eng).queue ∧ (t.b.ctx p.ctx).lastCode = 0x21) ∧
        (opCheck d (s.b.parade.map.minSp (dSeg d)) = 0 → dMask d = false →
          ∃ o, (t.b.eng core eng).queue.getLast? = some o ∧ o.desc = d ∧ o.ctx = p.ctx ∧
            o.ticket = ((s.b.eng core eng).issued + 1).toNat)) ∧
    (p.gen ≠ (s.b.core core).roleGen →
      Completes (exec (.opAccept core eng) s) fun t =>
        Frame [.cores, .ctxs, .ports] s t ∧ (t.b.eng core eng).issued = (s.b.eng core eng).issued ∧
        (t.b.eng core eng).arrivals = rest ∧ (t.b.ctx p.ctx).lastCode = 0x2C)

/-- R68: the head check of a Parade op passes where the active map carries every tile that it names, and otherwise ends the op
with PARADE_NOTILE. R64, R65, R120: the next tile of the tree reaches an engine whose NEXT is free, 20 compute clocks after it left
the root; the op that it is for, once what its
start reads has come, captures it into NEXT, and an armed op leaves the head of the queue with its first tile. -/
def Obligations.ParadeOpsAreCheckedAndCaptureTiles : Prop :=
  (∀ (s : State) (core eng : Nat) (o : EOp) (rest : List EOp), (s.b.eng core eng).queue = o :: rest →
    s.b.gated = false → dOpcode o.desc = 1 → dRsrc o.desc = true → o.headChecked = false →
    let ok := s.b.parade.map.covers (dSeg o.desc) (dTileFirst o.desc) (dTiles o.desc)
    (ok = true → Completes (exec (.paradeHeadCheck core eng) s) fun t =>
      OnlyEng core eng s t ∧ ∃ o', (t.b.eng core eng).queue.head? = some o' ∧ o'.headChecked = true ∧ o'.ticket = o.ticket ∧
        o'.desc = o.desc) ∧
    (ok = false → Completes (exec (.paradeHeadCheck core eng) s) fun t =>
      Frame [.cores, .ctxs, .slices, .ports] s t ∧
        (t.b.ctx o.ctx).lastCode = (if o.codes.contains 0x38 then (s.b.ctx o.ctx).lastCode else 0x38) ∧
        ∀ p ∈ (t.b.eng core eng).queue, p.ticket ≠ o.ticket)) ∧
  (∀ (s : State) (core eng : Nat) (m : TileMsg) (o : EOp),
    let e := s.b.eng core eng
    s.b.gated = false → s.b.parked = false → (s.b.parade.tree.find? fun t => e.seen < t.seqNo) = some m →
    m.clk + 20 ≤ s.b.time.clk → e.catcher m = some o → (o.tile = 0 ∨ o ∈ e.active) → m.fmt = dRfmt o.desc →
    (o.tile = 0 → o.armedAt.getD 0 ≤ m.clk + 20) → e.nextTile = [] → Met s.b (fun b => b.tileArrives core eng) →
    Completes (exec (.paradeTileCapture core eng) s) fun t =>
      let e' := t.b.eng core eng
      Frame [.cores, .ctxs, .ports] s t ∧ e'.seen = m.seqNo ∧ e'.nextTile = m.bytes ∧ e'.nextOp = some o.ticket ∧
      (o.tile = 0 → e'.waiting = false ∧ e'.queue.length = (e.queue.drop 1).length) ∧
      ∃ p ∈ e'.active, p.ticket = o.ticket ∧ p.tile = o.tile + 1 ∧ p.phase = .running)

/-- R70, R456: ZEROACC sets rows 0 to ROWS - 1 of its bank to +0.0, and LOADACC, once its lines have come, loads them as FP32 from
LOAD_ADDR; no other element of the bank and nothing of the other bank changes, and the op is then ready to complete. -/
def Obligations.BankIsZeroedOrLoaded : Prop :=
  ∀ (s : State) (core eng : Nat) (o : EOp),
    let e := s.b.eng core eng
    (∀ p ∈ e.active, p.ticket ≠ o.ticket) →
    (s.b.headOp core eng 4 = some o → Completes (exec (.zeroacc core eng) s) fun t =>
      let e' := t.b.eng core eng
      OnlyEng core eng s t ∧
      (∀ r j, j < 64 → accGet (e'.bank (dBank o.desc)) r j = if r < dRows o.desc then 0 else accGet (e.bank (dBank o.desc)) r j) ∧
      e'.bank (1 - dBank o.desc) = e.bank (1 - dBank o.desc) ∧
      ∃ p ∈ e'.active, p.ticket = o.ticket ∧ p.desc = o.desc ∧ p.phase = .written) ∧
    (s.b.headOp core eng 3 = some o → Met s.b (fun b => b.startLoadacc core eng o) → Completes (exec (.loadacc core eng) s) fun t =>
      let e' := t.b.eng core eng
      Frame [.cores, .ctxs, .ports] s t ∧
      (∀ r j, j < 64 → accGet (e'.bank (dBank o.desc)) r j =
        if r < dRows o.desc then
          fp32Of (((s.b.rdOperands core o.ctx (wd o.desc 6) (4 * (r * dOutPitch o.desc)) 256).drop (4 * j)).take 4)
        else accGet (e.bank (dBank o.desc)) r j) ∧
      e'.bank (1 - dBank o.desc) = e.bank (1 - dBank o.desc) ∧
      ∃ p ∈ e'.active, p.ticket = o.ticket ∧ p.desc = o.desc ∧ p.phase = .written)

/-- R60, R65, R79, R456: MATMUL and WRITEOUT, once their lines have come, take the op at the head of the queue into execution; a
Parade MATMUL with a row that is on is armed and stays at the head until its first tile, and a WRITEOUT with no up step is written
out. R77: the op next in issue order, written out to the last element with every write to another instance
acknowledged, and with its adapter work done, completes: it leaves the
engine and DONE advances to its ticket, and over the tickets after it that were refused or ended early. -/
def Obligations.OpsStartAndCompleteInOrder : Prop :=
  (∀ (s : State) (core eng : Nat) (o : EOp),
    let e := s.b.eng core eng
    (∀ p ∈ e.active ++ e.queue.drop 1, p.ticket ≠ o.ticket) →
    (s.b.headOp core eng 1 = some o → dRsrc o.desc = false ∨ o.onRows = [] → Met s.b (fun b => b.startMatmul core eng o) →
      Completes (exec (.matmul core eng) s) fun t =>
      let e' := t.b.eng core eng
      Frame [.cores, .ctxs, .mem, .coh, .ports, .slices] s t ∧ e'.queue.length + 1 = e.queue.length ∧ e'.done = e.done ∧
      ∃ p ∈ e'.active, p.ticket = o.ticket ∧ p.desc = o.desc) ∧
    (s.b.headOp core eng 1 = some o → dRsrc o.desc = true → o.onRows ≠ [] → o.armedAt = none →
      Met s.b (fun b => b.startMatmul core eng o) →
      Completes (exec (.matmul core eng) s) fun t =>
        let e' := t.b.eng core eng
        Frame [.cores, .slices, .ports] s t ∧ e'.queue.length = e.queue.length ∧ e'.active = e.active ∧ e'.done = e.done ∧
        e'.nextTile = e.nextTile ∧ e'.strFor = some o.ticket ∧
        ∃ p, e'.queue.head? = some p ∧ p.ticket = o.ticket ∧ p.desc = o.desc ∧ p.armedAt = some s.b.time.clk) ∧
    (s.b.headOp core eng 2 = some o → Met s.b (fun b => b.startWriteout core eng o) →
      Completes (exec (.writeout core eng) s) fun t =>
      let e' := t.b.eng core eng
      Frame [.cores, .ctxs, .mem, .coh, .ports, .slices] s t ∧ e'.queue.length + 1 = e.queue.length ∧ e'.done = e.done ∧
      ∃ p ∈ e'.active, p.ticket = o.ticket ∧ p.desc = o.desc ∧ (o.upDone = true → p.phase = .written))) ∧
  (∀ (s : State) (core eng : Nat) (o : EOp),
    let e := s.b.eng core eng
    (e.active.find? fun p => p.ticket == (e.done + 1).toNat) = some o → o.phase = .written → o.downDone = true →
    o.doneAt ≤ s.b.time.clk → s.b.unanswered o = false → s.b.gated = false →
    Completes (exec (.opComplete core eng) s) fun t =>
      let e' := t.b.eng core eng
      OnlyCore core s t ∧ e'.active = e.active.filter (fun p => p.ticket != o.ticket) ∧ e'.queue = e.queue ∧
      e'.issued = e.issued ∧ (e.refused = [] → e'.done = e.done + 1) ∧
      ∃ k, k ≤ e.refused.length ∧ e'.done = e.done + 1 + BitVec.ofNat 16 k)

/-- R52, R53, R60: where a further tile of the op follows and the lines needed have come, the tile in NEXT moves to CUR and the op's
rows are taken against it: each accumulator element of a position
that is on receives its row's two sub-blocks of 32 products, in ascending order, and no other element of the bank changes. -/
def Obligations.RowsAccumulateAgainstTheResidentTile : Prop :=
  ∀ (s : State) (core eng : Nat) (o : EOp),
    let e := s.b.eng core eng
    let t0 := o.tile - 1
    s.b.parked = false → s.b.gated = false → e.nextOwner = some o → e.nextTile ≠ [] → o.tile < dTiles o.desc →
    Met s.b (fun b => b.residentMove core eng) →
    Completes (exec (.residentLoad core eng) s) fun t =>
      let e' := t.b.eng core eng
      Frame [.cores, .ctxs, .ports] s t ∧ e'.cur = e.nextTile ∧
      ∀ r j, r < 64 → j < 64 → accGet (e'.bank (dBank o.desc)) r j =
        if r ∈ o.onRows ∧ o.on r j = true then
          dot64 (accGet (e.bank (dBank o.desc)) r j) (s.b.strRow core o.ctx o.desc r t0).1
            ((List.range 64).map fun i => resElem o.desc (withBad e.nextTile e.nextBad) i j)
        else accGet (e.bank (dBank o.desc)) r j

/-! ### The adapter unit -/

/-- R137, R141: the adapter unit, when it is free and the lines needed have come, runs the step next in order, of the kind that the
command names, until its arithmetic is done or a panel that it needs next is not there. R138 to R140, R147: a down step that ends
leaves, for each row of a bound slot that did not miss, the partial sums in U, and +0.0 beyond RC; an up step that ends leaves its
sums in the result buffer for its op. The step leaves the unit. -/
def Obligations.AdapterStepsRunAndEnd : Prop :=
  (∀ (s : State) (core : Nat) (st : Step) (o : EOp), s.b.parked = false → s.b.gated = false →
    (s.b.core core).adapter.busyTo ≤ s.b.time.clk → s.b.nextStep core = some (st, o) →
    Met s.b (fun b => b.takeStep core st o) →
    let ran (t : State) : Prop :=
      Frame [.cores, .ctxs, .mem, .coh, .ports, .slices, .draws] s t ∧
      ((t.b.stepNow core st).arithDone = true ∨
        ((t.b.stepNow core st).t < stepPanels o st ∧
          (t.b.core core).panelsHere (t.b.stepNow core st) o (t.b.stepNow core st).t = false))
    (st.up = false → st.transposed = false → Completes (exec (.adaptDownStep core) s) ran) ∧
    (st.up = true → st.transposed = false → Completes (exec (.adaptUpStep core) s) ran) ∧
    (st.up = false → st.transposed = true → Completes (exec (.adaptTransposedDown core) s) ran) ∧
    (st.up = true → st.transposed = true → Completes (exec (.adaptTransposedUp core) s) ran)) ∧
  (∀ (s : State) (core : Nat) (st : Step) (o : EOp), s.b.parked = false → s.b.gated = false →
    s.b.doneStep core = some (st, o) →
    let a := (s.b.core core).adapter
    Met s.b (fun b => b.stepEnds core st o) →
    Completes (exec (.adaptStepComplete core) s) fun t =>
      let a' := (t.b.core core).adapter
      Frame [.cores, .ctxs, .mem, .coh, .ports, .slices, .draws] s t ∧ (∀ x ∈ a'.steps, x.same st = false) ∧
      (st.up = false → st.transposed = false → ∀ (g : TagBlock) (r : Nat) (w : Word) (x : Binding) (j : Nat),
        o.tags = some g → (r, w) ∈ o.rowTags → (a.slot (tagSlot w)).bound = some x → x.ctx = tagCtx w →
        st.missed.contains (tagSlot w) = false → j < 64 →
        a'.uGet (g.uBase + r) j = if j < x.rc then Tab.get 0 st.part (64 * r + j) else 0) ∧
      (st.up = true → o.phase ≠ .baseDone → ∀ r ∈ a.upRows o st, ∀ j, j < 64 → r < 64 →
        64 * resKey st.eng st.ticket + r ∈ a'.resultRows ∧
        Tab.get 0 a'.results ((64 * resKey st.eng st.ticket + r) * 64 + j) = Tab.get 0 st.part (64 * r + j)))

/-- R144, R145, R147: a prefetch fires at its phase, once in a stride, where no start of R108 stands before it; once its lines have
come, the next panel stands in the slot's next free frames, an element of a failing line marked; and a wait of MISS_LIMIT ticks
marks the slot missed in the step and gives ADAPT_MISS. -/
def Obligations.PanelsArePrefetchedOrMissed : Prop :=
  (∀ (s : State) (core slot idx : Nat) (p : Pref), ((s.b.core core).adapter.slot slot).prefs[idx]? = some p →
    p.fireAt = some s.b.phaseNow → p.once = false → p.firedIn ≠ some s.b.time.count.toNat → s.b.gated = false →
    s.b.earlier s.fuse 8 = false →
    Completes (exec (.prefetchFire core slot idx) s) fun t =>
      OnlyCore core s t ∧ (t.b.core core).adapter.fires.length = (s.b.core core).adapter.fires.length + 1 ∧
      (∀ f ∈ (s.b.core core).adapter.fires, f ∈ (t.b.core core).adapter.fires) ∧
      ∃ f ∈ (t.b.core core).adapter.fires, f.slot = slot ∧ f.pref = p ∧ f.next = 0 ∧ f.at_ = s.b.time.clk) ∧
  (∀ (s : State) (core : Nat) (f : Fire) (x : Binding) (fr : Nat), s.b.gated = false → s.b.parked = false →
    (s.b.core core).adapter.portFire [] (s.b.core core).adapter.fires = some f →
    ((s.b.core core).adapter.slot f.slot).bound = some x → ((s.b.core core).adapter.slot f.slot).freeFrame = some fr →
    let bytes := s.b.rdOperands core x.ctx f.pref.src.toNat (f.next * f.pref.pitch) x.panelBytes
    Met s.b (fun b => b.panelArrives core f x fr) →
    Completes (exec (.panelPresent core f.slot) s) fun t =>
      Frame [.cores, .ctxs, .slices, .ports] s t ∧
      ∀ (i : Nat) (y : OpByte), bytes[i]? = some y →
        (t.b.core core).adapter.frames.read (4224 * (x.frameBase + fr) + i) = y.val ∧
        (4224 * (x.frameBase + fr) + i ∈ (t.b.core core).adapter.frameBad ↔ y.bad = true)) ∧
  (∀ (s : State) (core slot : Nat) (st : Step) (o : EOp), s.b.parked = false → s.b.gated = false →
    (s.b.core core).waitingStep slot = some (st, o) → (s.b.core core).waitedOut slot st = true →
    Completes (exec (.adaptMiss core slot) s) fun t =>
      Frame [.cores, .ctxs, .slices] s t ∧ slot ∈ (t.b.stepNow core st).missed ∧ (t.b.ctx o.ctx).sticky.getLsbD 5 = true)

/-! ### The vector unit -/

/-- The running program's next instruction, the word at its pc in the scratchpad on lines that are sound, and a unit that may
run it. -/
def VecNext (b : Block) (core : Nat) (p : VProg) (op : Nat) : Prop :=
  (b.core core).vec.run = some p ∧ b.parked = false ∧ b.gated = false ∧ (b.core core).badAt p.pc 8 = false ∧
    viOp ((b.core core).rdS64 p.pc) = op

/-- R84: the lanes of VD that the predicate leaves on take the values given, no other lane of a register changes, and the
program goes on at the next instruction; nothing outside the vector unit changes but what `OnlyLanes` names. -/
def LanesWritten (core : Nat) (p : VProg) (w : Nat) (f : Nat → Word) (s t : State) : Prop :=
  OnlyLanes core s t ∧ (t.b.core core).vec.run = some { p with pc := p.pc + 8 } ∧
  ∀ r l, l < 512 → (t.b.core core).vec.lane r l =
    if r = viVD w ∧ (s.b.core core).vec.on w l = true then f l else (s.b.core core).vec.lane r l

/-- R56, R84, R85, R457: what each lane-wise vector instruction computes. -/
def Obligations.VectorLanesCompute : Prop :=
  ∀ (s : State) (core : Nat) (p : VProg),
    let v := (s.b.core core).vec
    let w := (s.b.core core).rdS64 p.pc
    let a l := v.lane (viVA w) l
    let b l := v.lane (viVB w) l
    let c l := v.lane (viVC w) l
    (VecNext s.b core p 0x10 → Completes (exec (.vadd core) s) (LanesWritten core p w (fun l => vAdd (a l) (b l)) s)) ∧
    (VecNext s.b core p 0x11 → Completes (exec (.vsub core) s) (LanesWritten core p w (fun l => vSub (a l) (b l)) s)) ∧
    (VecNext s.b core p 0x12 → Completes (exec (.vmul core) s) (LanesWritten core p w (fun l => vMul (a l) (b l)) s)) ∧
    (VecNext s.b core p 0x13 → Completes (exec (.vfma core) s) (LanesWritten core p w (fun l => vFma (a l) (b l) (c l)) s)) ∧
    (VecNext s.b core p 0x14 → Completes (exec (.vdiv core) s) (LanesWritten core p w (fun l => vDiv (a l) (b l)) s)) ∧
    (VecNext s.b core p 0x15 → Completes (exec (.vsqrt core) s) (LanesWritten core p w (fun l => vSqrt (a l)) s)) ∧
    (VecNext s.b core p 0x16 → Completes (exec (.vmax core) s) (LanesWritten core p w (fun l => vMax (a l) (b l)) s)) ∧
    (VecNext s.b core p 0x17 → Completes (exec (.vmin core) s) (LanesWritten core p w (fun l => vMin (a l) (b l)) s)) ∧
    (VecNext s.b core p 0x18 → Completes (exec (.vabs core) s) (LanesWritten core p w (fun l => vAbs (a l)) s)) ∧
    (VecNext s.b core p 0x1A → viVC w < 8 → Completes (exec (.vsel core) s)
      (LanesWritten core p w (fun l => if viVC w = 0 ∨ v.pbit (viVC w) l = true then a l else b l) s)) ∧
    (VecNext s.b core p 0x1B → Completes (exec (.vbcast core) s) (LanesWritten core p w (fun _ => BitVec.ofNat 32 (viImm w)) s)) ∧
    (VecNext s.b core p 0x20 → Completes (exec (.vredadd core) s) (LanesWritten core p w
      (fun _ => vecTree 9 ((List.range 512).map fun l => if v.on w l then a l else 0)) s)) ∧
    (VecNext s.b core p 0x21 → Completes (exec (.vredmax core) s) (LanesWritten core p w
      (fun _ => (((List.range 512).filter (v.on w)).map a).foldl vMax 0xFF800000) s))

/-- R85, R457: a queued program starts where none runs; VEND ends it; VSETA and VCMPLT write an address register and a
predicate; a field that R457 forbids stops the program with OP_INVALID. -/
def Obligations.VectorProgramsRunAndStop : Prop :=
  ∀ (s : State) (core : Nat) (p : VProg),
    let v := (s.b.core core).vec
    let w := (s.b.core core).rdS64 p.pc
    (∀ rest, v.run = none → v.queue = p :: rest → s.b.parked = false → s.b.gated = false →
      Completes (exec (.vectorProgramStart core) s) fun t =>
        OnlyVec core s t ∧ (t.b.core core).vec = { v with run := some p, queue := rest }) ∧
    (VecNext s.b core p 0x3F → Completes (exec (.vend core) s) fun t =>
      OnlyLanes core s t ∧ (t.b.core core).vec.run = none ∧ (t.b.core core).vec.v = v.v ∧
        (p.ticket = (v.done + 1).toNat → v.refused = [] → (t.b.core core).vec.done = v.done + 1)) ∧
    (VecNext s.b core p 0x08 → viVD w < 8 → Completes (exec (.vseta core) s) fun t =>
      OnlyLanes core s t ∧ (t.b.core core).vec.run = some { p with pc := p.pc + 8 } ∧ (t.b.core core).vec.v = v.v ∧
        ∀ k, (t.b.core core).vec.areg k = if k = viVD w then (BitVec.ofNat 32 (viImm w)).signExtend 64 else v.areg k) ∧
    (VecNext s.b core p 0x19 → 1 ≤ viVD w → viVD w < 8 → Completes (exec (.vcmplt core) s) fun t =>
      OnlyLanes core s t ∧ (t.b.core core).vec.run = some { p with pc := p.pc + 8 } ∧ (t.b.core core).vec.v = v.v ∧
        ∀ k l, l < 512 → (t.b.core core).vec.pbit k l =
          if k = viVD w ∧ v.on w l = true then (unpack32 (v.lane (viVA w) l)).lt (unpack32 (v.lane (viVB w) l)) else v.pbit k l) ∧
    let stops (op : Nat) (c : Instr) (bad : Prop) : Prop := VecNext s.b core p op → bad → Completes (exec c s) fun t =>
      Frame [.cores, .ctxs, .ports] s t ∧ (t.b.core core).vec.run = none ∧ (t.b.core core).vec.v = v.v ∧
        (t.b.ctx p.ctx).lastCode = 0x21
    let off := viImm w % 128 ≠ 0
    stops 0x01 (.vld core) (off ∨ 0x300000 < viImm w + 2048) ∧ stops 0x02 (.vst core) (storeOk v w (viImm w) 4 = false) ∧
    stops 0x03 (.vldb core) (off ∨ 0x300000 < viImm w + 1024) ∧ stops 0x04 (.vstb core) (storeOk v w (viImm w) 2 = false) ∧
    stops 0x05 (.vldn core) (narrowImm w = none ∨ 8 ≤ viVA w) ∧
    stops 0x06 (.vstn core) (narrowStore v w = none ∨ 8 ≤ viVA w ∨ 8 ≤ viVC w) ∧
    stops 0x08 (.vseta core) (8 ≤ viVD w) ∧ stops 0x19 (.vcmplt core) (viVD w = 0 ∨ 8 ≤ viVD w) ∧
    stops 0x1A (.vsel core) (8 ≤ viVC w) ∧ stops 0x30 (.vscupd core) (8 ≤ viVA w ∨ 8 ≤ viVB w ∨ 2 ≤ viImm w) ∧
    stops 0x31 (.vadamw core) (off ∨ 0x300000 < viImm w + 64) ∧ stops 0x32 (.vsgdm core) (off ∨ 0x300000 < viImm w + 64 ∨
      viVC w ≠ 0)

/-- R37, R75, R457: vector loads. FP32 and BF16 elements come from the scratchpad at IMM, Q6m and Q8m elements with their scales
from the address register, once their line has come; an element of a failing line is NaN. -/
def Obligations.VectorLoadsFillLanes : Prop :=
  ∀ (s : State) (core : Nat) (p : VProg),
    let v := (s.b.core core).vec
    let w := (s.b.core core).rdS64 p.pc
    let filled (t : State) (f : Nat → Word) : Prop :=
      Frame [.cores, .ctxs, .ports] s t ∧ (∃ p', (t.b.core core).vec.run = some p' ∧ p'.pc = p.pc + 8) ∧
      (t.b.core core).scratch = (s.b.core core).scratch ∧
      ∀ r l, l < 512 → (t.b.core core).vec.lane r l = if r = viVD w ∧ v.on w l = true then f l else v.lane r l
    let m n := s.b.rdOperands core p.ctx (viImm w) 0 n
    (VecNext s.b core p 0x01 → viImm w % 128 = 0 → viImm w + 2048 ≤ 0x300000 →
      Completes (exec (.vld core) s) fun t => filled t fun l => fp32Of (((m 2048).drop (4 * l)).take 4)) ∧
    (VecNext s.b core p 0x03 → viImm w % 128 = 0 → viImm w + 1024 ≤ 0x300000 →
      Completes (exec (.vldb core) s) fun t => filled t fun l =>
        let e := ((m 1024).drop (2 * l)).take 2
        if e.any (·.bad) then nan32 else bfToF32 (leNat (opVals e))) ∧
    (∀ f off, VecNext s.b core p 0x05 → narrowImm w = some (f, off) → viVA w < 8 →
      Met s.b (fun b => b.vecNext core p (b.vldn core p w)) →
      Completes (exec (.vldn core) s) fun t => filled t fun l =>
        vecRound (planeElemK true f (s.b.rdOperands core p.ctx off 0 (elemBytes f 512))
          (s.b.rdOperands core p.ctx (v.areg (viVA w)).toNat 0 16) l).full)

/-- R49, R50, R457: vector stores. VST writes the FP32 pattern and VSTB the BF16 value of each lane that is on, and no other byte of
the scratchpad. VSTN converts each group of 32 lanes with a lane that is on: its codes go to the scratchpad at IMM, its scale to the
address word of VA, and its statistics are merged into the amax record at that of VC, where VC is not 0; where those three places
lie in the scratchpad and do not overlap, they hold that and no other byte of the scratchpad changes. Where VA or VC names a window,
VSTN completes once its lines have come. No vector register changes, and SR_CTR rises by one with RMODE. -/
def Obligations.VectorStoresWriteWhatTheyName : Prop :=
  ∀ (s : State) (core : Nat) (p : VProg),
    let v := (s.b.core core).vec
    let w := (s.b.core core).rdS64 p.pc
    let stored (t : State) (n : Nat) (f : Nat → List Byte) : Prop :=
      (∃ p', (t.b.core core).vec.run = some p' ∧ p'.pc = p.pc + 8) ∧ (t.b.core core).vec.v = v.v ∧
      (∀ l i, l < 512 → i < n → v.on w l = true → (t.b.core core).scratch.read (viImm w + n * l + i) = (f l).getD i 0) ∧
      ∀ a, (∀ l, l < 512 → v.on w l = true → a < viImm w + n * l ∨ viImm w + n * l + n ≤ a) →
        (t.b.core core).scratch.read a = (s.b.core core).scratch.read a
    (VecNext s.b core p 0x02 → storeOk v w (viImm w) 4 = true →
      Completes (exec (.vst core) s) fun t =>
        Frame [.cores, .ctxs, .ports] s t ∧ stored t 4 fun l => toLe 4 (v.lane (viVA w) l).toNat) ∧
    (VecNext s.b core p 0x04 → storeOk v w (viImm w) 2 = true →
      Completes (exec (.vstb core) s) fun t =>
        Frame [.cores, .ctxs, .ports] s t ∧
        stored t 2 (fun l => toLe 2 (toBf false (if viRmode w then some (srRand (s.b.ctx p.ctx).srSeed (s.b.ctx p.ctx).srCtr l)
          else none) (v.lane (viVA w) l))) ∧
        (t.b.ctx p.ctx).srCtr = if viRmode w then (s.b.ctx p.ctx).srCtr + 1 else (s.b.ctx p.ctx).srCtr) ∧
    (∀ f off, VecNext s.b core p 0x06 → narrowStore v w = some (f, off) → viVA w < 8 → viVC w < 8 →
      Met s.b (fun b => b.vecNext core p (b.vstn core p w)) →
      Completes (exec (.vstn core) s) fun t =>
        Frame [.cores, .ctxs, .mem, .coh, .slices, .ports, .draws] s t ∧ (t.b.core core).vec.v = v.v ∧
        (t.b.core core).vec.a = v.a ∧ (∃ p', (t.b.core core).vec.run = some p' ∧ p'.pc = p.pc + 8) ∧
        (t.b.ctx p.ctx).srCtr = if viRmode w then (s.b.ctx p.ctx).srCtr + 1 else (s.b.ctx p.ctx).srCtr) ∧
    (∀ f off, VecNext s.b core p 0x06 → narrowStore v w = some (f, off) → viVA w < 8 → viVC w < 8 →
      let sa := (v.areg (viVA w)).toNat
      let ra := (v.areg (viVC w)).toNat
      let m := elemBytes f 32
      let rnd := if viRmode w then some (srRand (s.b.ctx p.ctx).srSeed (s.b.ctx p.ctx).srCtr) else none
      let g k := convGroup (if f = 1 then .q6m else .q8m) none rnd
        ((List.range 32).map fun i => (v.lane (viVB w) (32 * k + i), 32 * k + i))
      let merges := viVC w ≠ 0 ∧ groupsOn v w ≠ []
      let apart (a n : Nat) : Prop := a + n ≤ off ∨ off + 16 * m ≤ a
      awWindow sa = false → apart (awOff sa) 16 →
      (viVC w ≠ 0 → awWindow ra = false ∧ apart (awOff ra) 8 ∧ (awOff ra + 8 ≤ awOff sa ∨ awOff sa + 16 ≤ awOff ra)) →
      Completes (exec (.vstn core) s) fun t =>
        Frame [.cores, .ctxs, .ports] s t ∧ (t.b.core core).vec.v = v.v ∧ (t.b.core core).vec.a = v.a ∧
        (∃ p', (t.b.core core).vec.run = some p' ∧ p'.pc = p.pc + 8) ∧
        (∀ k ∈ groupsOn v w,
          (∀ i, i < m → (t.b.core core).scratch.read (off + m * k + i) = (packCodes f (g k).codes).getD i 0) ∧
          (t.b.core core).scratch.read (awOff sa + k) = BitVec.ofNat 8 (g k).scale) ∧
        (merges → (t.b.core core).scratch.readN (awOff ra) 8 =
          toLe 8 ((Amax.ofDword (BitVec.ofNat 64 (leNat (opVals (s.b.rdOperands core p.ctx ra 0 8))))).merge
            (((groupsOn v w).map fun k => (g k).stats).foldl Amax.merge Amax.zero)).toDword.toNat) ∧
        ∀ a, (∀ k ∈ groupsOn v w, (a < off + m * k ∨ off + m * k + m ≤ a) ∧ a ≠ awOff sa + k) →
          (merges → a < awOff ra ∨ awOff ra + 8 ≤ a) → (t.b.core core).scratch.read a = (s.b.core core).scratch.read a)

/-- R171 to R175: the optimiser instructions update VD, VB and VC lane by lane with the record's constants, a lane that SKIPNF
keeps standing as it is; VSCUPD, once its lines have come, returns the amax record in lanes 0 to 3 and 0 in the others. -/
def Obligations.OptimiserInstructionsUpdateTheirLanes : Prop :=
  ∀ (s : State) (core : Nat) (p : VProg),
    let v := (s.b.core core).vec
    let w := (s.b.core core).rdS64 p.pc
    let rec_ := s.b.optRecord core p.ctx (viImm w)
    let f i := rec_.1.getD i 0
    let skip := bit rec_.2.1 0
    let on l := v.on w l && !skipLane skip (v.lane (viVA w) l) (f 7)
    (VecNext s.b core p 0x31 → viImm w % 128 = 0 → viImm w + 64 ≤ 0x300000 →
      Completes (exec (.vadamw core) s) fun t =>
        let x l := adamw f (v.lane (viVD w) l) (v.lane (viVA w) l) (v.lane (viVB w) l) (v.lane (viVC w) l)
        Frame [.cores, .ctxs, .ports] s t ∧
        ∀ r l, l < 512 → (t.b.core core).vec.lane r l =
          if on l = true ∧ r = viVD w then (x l).1 else if on l = true ∧ r = viVC w then (x l).2.2
          else if on l = true ∧ r = viVB w then (x l).2.1 else v.lane r l) ∧
    (VecNext s.b core p 0x32 → viImm w % 128 = 0 → viImm w + 64 ≤ 0x300000 → viVC w = 0 →
      Completes (exec (.vsgdm core) s) fun t =>
        let x l := sgdm f (bit rec_.2.1 1) (v.lane (viVD w) l) (v.lane (viVA w) l) (v.lane (viVB w) l)
        Frame [.cores, .ctxs, .ports] s t ∧
        ∀ r l, l < 512 → (t.b.core core).vec.lane r l =
          if on l = true ∧ r = viVD w then (x l).1 else if on l = true ∧ r = viVB w then (x l).2 else v.lane r l) ∧
    (VecNext s.b core p 0x30 → viVA w < 8 → viVB w < 8 → viImm w < 2 → Met s.b (fun b => b.vecNext core p (b.vscupd core p w)) →
      Completes (exec (.vscupd core) s) fun t =>
        let ra := (v.areg (viVA w)).toNat
        let am := Amax.ofDword (BitVec.ofNat 64 (leNat (opVals
          (if viImm w = 1 ∧ awWindow ra = true then s.b.takeRecord core p.ctx ra else s.b.rdOperands core p.ctx ra 0 8))))
        Frame [.cores, .ctxs, .mem, .coh, .slices, .ports, .draws] s t ∧
        ∀ r l, l < 512 → (t.b.core core).vec.lane r l =
          if r = viVD w ∧ v.on w l = true then
            [am.amax, natToF32 am.sat, natToF32 am.floored, natToF32 (if am.nonfinite then 1 else 0)].getD l 0
          else v.lane r l)

/-! ### The control processors -/

/-- R87: eng.stat, eng.wait, fence.eng and tag.clr on a hart that runs. A status word goes to rd; a wait whose ticket is complete
and a fence behind which nothing is outstanding let the hart go on, and one that is not stalls it; tag.clr makes every line
wholly within its range read zero and no other byte. -/
def Obligations.DispatchInstructionsOfAHart : Prop :=
  ∀ (s : State) (core : Nat), HartRuns s.b core →
    let h := (s.b.core core).hart
    (∀ rd rs2, dfld (h.reg rs2) 2 0 < 5 → Completes (exec (.engStat core rd rs2) s) fun t =>
      OnlyHart core s t ∧ (t.b.core core).hart.pc = h.pc + 4 ∧
      ∀ r, (t.b.core core).hart.reg r = if r = rd ∧ rd ≠ 0 then s.b.unitStat core (dfld (h.reg rs2) 2 0) else h.reg r) ∧
    (∀ rs1 rs2, dfld (h.reg rs2) 2 0 < 5 → Completes (exec (.engWait core rs1 rs2) s) fun t =>
      let done := ticketDone (s.b.unitDone core (dfld (h.reg rs2) 2 0)) (dfld (h.reg rs1) 15 0)
      OnlyHart core s t ∧ (∀ r, (t.b.core core).hart.reg r = h.reg r) ∧
      (done = true → (t.b.core core).hart.pc = h.pc + 4 ∧ (t.b.core core).hart.stall = none) ∧
      (done = false → (t.b.core core).hart.pc = h.pc ∧
        (t.b.core core).hart.stall = some (.ticket (dfld (h.reg rs2) 2 0) (dfld (h.reg rs1) 15 0)))) ∧
    (Completes (exec (.fenceEng core) s) fun t =>
      OnlyHart core s t ∧ (∀ r, (t.b.core core).hart.reg r = h.reg r) ∧
      ((s.b.core core).ownDone = true → (t.b.core core).hart.pc = h.pc + 4) ∧
      ((s.b.core core).ownDone = false → (t.b.core core).hart.pc = h.pc ∧ (t.b.core core).hart.stall = some .fence)) ∧
    (∀ rs1 rs2, Completes (exec (.tagClr core rs1 rs2) s) fun t =>
      OnlyCore core s t ∧ (t.b.core core).hart.pc = h.pc + 4 ∧ (∀ r, (t.b.core core).hart.reg r = h.reg r) ∧
      ∀ a, (t.b.core core).scratch.read a =
        if lineWithin (h.reg rs1).toNat (h.reg rs2).toNat (a / 128) then 0 else (s.b.core core).scratch.read a) ∧
    (∀ rd rs2, 5 ≤ dfld (h.reg rs2) 2 0 → Completes (exec (.engStat core rd rs2) s) fun t =>
      OnlyHart core s t ∧ (t.b.core core).hart.machine = true ∧ (t.b.core core).hart.csrGet 0x341 = h.pc ∧
      (t.b.core core).hart.csrGet 0x342 = 2 ∧ (t.b.core core).hart.pc = h.csrGet 0x305 &&& ~~~(3 : Dword))

/-- R76, R77, R85, R87: an issue that need not wait, and what it reads has come, takes the unit's next ticket, returns it in rd and
goes on. -/
def Obligations.IssueReturnsTheNextTicket : Prop :=
  ∀ (s : State) (core rd rs1 : Nat), HartRuns s.b core →
    let h := (s.b.core core).hart
    (∀ rs2, dfld (h.reg rs2) 2 0 < 4 → s.b.issueWaits core (dfld (h.reg rs2) 2 0) (dfld (h.reg rs1) 21 0) h.zhCtx = false →
      Met s.b (fun b =>
        b.acceptOp core (dfld (h.reg rs2) 2 0) (dfld (h.reg rs1) 21 0) h.zhCtx (.hart h.launchQ) (b.hartLabel core)) →
      Completes (exec (.engIssue core rd rs1 rs2) s) fun t =>
        Frame [.cores, .ctxs, .mem, .coh, .slices, .ports, .draws] s t ∧
        (t.b.eng core (dfld (h.reg rs2) 2 0)).issued = (s.b.eng core (dfld (h.reg rs2) 2 0)).issued + 1 ∧
        (t.b.core core).hart.pc = h.pc + 4 ∧
        ∀ r, (t.b.core core).hart.reg r = if r = rd ∧ rd ≠ 0 then
          BitVec.ofNat 64 ((s.b.eng core (dfld (h.reg rs2) 2 0)).issued + 1).toNat else h.reg r) ∧
    (s.b.vecWaits core h.zhCtx = false →
      Completes (exec (.vecIssue core rd rs1) s) fun t =>
        Frame [.cores, .ctxs, .mem, .coh, .slices] s t ∧
        (t.b.core core).vec.issued = (s.b.core core).vec.issued + 1 ∧ (t.b.core core).hart.pc = h.pc + 4 ∧
        (∃ p, (t.b.core core).vec.queue = (s.b.core core).vec.queue ++ [p] ∧ p.pc = dfld (h.reg rs1) 21 0 ∧ p.ctx = h.zhCtx) ∧
        ∀ r, (t.b.core core).hart.reg r = if r = rd ∧ rd ≠ 0 then
          BitVec.ofNat 64 ((s.b.core core).vec.issued + 1).toNat else h.reg r)

/-- R206, R253, R262: zh.launch ends the launch with its CODE from machine mode and traps as an illegal instruction in user mode;
a read of zh.fnote takes the oldest notification; an access whose translation fails takes its access fault with the address
in mtval. -/
def Obligations.LaunchNoteAndAccessFault : Prop :=
  ∀ (s : State) (core : Nat), HartRuns s.b core →
    let h := (s.b.core core).hart
    (∀ v l, h.machine = true → h.launch = some l → l.code = none → Completes (exec (.zhLaunchWrite core v) s) fun t =>
      OnlyHart core s t ∧ (t.b.core core).hart.pc = h.pc + 4 ∧ (t.b.core core).hart.extIrq = false ∧
      (t.b.core core).hart.launch = some { l with code := some (dfld v 7 0) }) ∧
    (∀ v, h.machine = false → Completes (exec (.zhLaunchWrite core v) s) fun t =>
      OnlyHart core s t ∧ (t.b.core core).hart.launch = h.launch ∧ (t.b.core core).hart.machine = true ∧
      (t.b.core core).hart.csrGet 0x342 = 2 ∧ (t.b.core core).hart.csrGet 0x341 = h.pc) ∧
    (∀ rd, Completes (exec (.zhFnoteRead core rd) s) fun t =>
      OnlyHart core s t ∧ (t.b.core core).hart.notes = h.notes.drop 1 ∧ (t.b.core core).hart.pc = h.pc + 4 ∧
      ∀ r, (t.b.core core).hart.reg r = if r = rd ∧ rd ≠ 0 then h.noteWord else h.reg r) ∧
    (∀ k va, s.b.cpFails core va.toNat (k == .store) = true → Completes (exec (.cpAccessFault core k va) s) fun t =>
      OnlyHart core s t ∧ (t.b.core core).hart.machine = true ∧ (t.b.core core).hart.csrGet 0x343 = va ∧
      (t.b.core core).hart.csrGet 0x341 = h.pc ∧ (t.b.core core).hart.pc = h.csrGet 0x305 &&& ~~~(3 : Dword) ∧
      (t.b.core core).hart.csrGet 0x342 = (match k with | .load => 5 | .store => 7 | .fetch => 1))

/-! ### Queues and their commands -/

/-- R238, R246 to R249, R263, for the block's own queues while the compute clock runs: a doorbell is accepted where the queue is
enabled and its value lies between TAIL and one ring past DONE, and otherwise only counted; an inline doorbell of 64 bytes stores
its entry; the lane takes the entries up to TAIL; ENABLE is set only where every condition of R238 holds; and a watchdog that
expires faults its context. While the clock stands the host's rows change nothing (R445; notes/assumptions/102.md). -/
def Obligations.QueuesTakeDoorbellsAndEntries : Prop :=
  (∀ (s : State) (q : Nat) (v : Word) (w : List Dword) (cfg : Dword), s.b.gated = true →
    exec (.doorbell q v) s = .next s ∧ exec (.doorbellInline q w) s = .next s ∧ exec (.queueEnable q cfg) s = .next s ∧
      exec (.queueDisable q) s = .next s) ∧
  (∀ (s : State) (d q : Nat), s.b.gated = false → s.b.queueAt d = (s.b.start.inst, q) →
    let x := s.b.queue q
    let st := if x.st = .idle then .running else x.st
    (∀ v, x.enable = true → (v - x.tail).toNat < 2 ^ 31 → (v - x.done).toNat ≤ 2 ^ x.ringLog2 → s.b.start.leadLost = false →
      Completes (exec (.doorbell d v) s) fun t =>
        Frame [.queues, .ctxs, .mem, .coh, .cores, .slices] s t ∧ t.b.queue q = { x with tail := v, pending := true, st := st } ∧
        ∀ p, p ≠ q → t.b.queue p = s.b.queue p) ∧
    (∀ v, ¬(x.enable = true ∧ (v - x.tail).toNat < 2 ^ 31 ∧ (v - x.done).toNat ≤ 2 ^ x.ringLog2) →
      Completes (exec (.doorbell d v) s) fun t =>
        OnlyQueue q s t ∧ t.b.queue q = { x with refused := if x.refused = BitVec.allOnes 32 then x.refused else x.refused + 1 }) ∧
    (∀ w, w.length = 8 → x.enable = true → (x.tail + 1 - x.done).toNat ≤ 2 ^ x.ringLog2 → s.b.start.leadLost = false →
      Completes (exec (.doorbellInline d w) s) fun t =>
        Frame [.queues, .ctxs, .mem, .coh, .cores, .slices] s t ∧
        t.b.queue q = { x with tail := x.tail + 1, pending := true, st := st, inline := x.inline ++ [(x.tail.toNat, w)] }) ∧
    (∀ w, w.length ≠ 8 → Completes (exec (.doorbellInline d w) s) fun t =>
      OnlyQueue q s t ∧ (t.b.queue q).tail = x.tail ∧ (t.b.queue q).done = x.done ∧ (t.b.queue q).inline = x.inline)) ∧
  ∀ (s : State) (q : Nat),
    let x := s.b.queue q
    (x.pending = true → (x.st = .idle ∨ x.st = .running) → s.b.gated = false →
      Completes (exec (.ringFetch q) s) fun t =>
        OnlyQueue q s t ∧ (t.b.queue q).head = x.tail ∧ (t.b.queue q).tail = x.tail ∧ (t.b.queue q).pending = false ∧
        (t.b.queue q).st = .idle ∧ (t.b.queue q).cmds.length = x.cmds.length + (x.tail - x.head).toNat) ∧
    (∀ cfg : Dword, s.b.gated = false → x.enable = false → cfg.getLsbD 63 = true →
      (s.b.modQueue q fun y => y.setCfg cfg.toNat).mayEnable q = true →
      Completes (exec (.queueEnable q cfg) s) fun t =>
        OnlyQueue q s t ∧ (t.b.queue q).enable = true ∧ (t.b.queue q).st = .idle ∧ (t.b.queue q).head = 0 ∧
        (t.b.queue q).tail = 0 ∧ (t.b.queue q).done = 0 ∧ (t.b.queue q).ctx = dfld cfg 19 0 ∧
        (t.b.queue q).cmds = x.cmds.filter (·.started)) ∧
    (s.b.gated = false → x.enable = true → Completes (exec (.queueDisable q) s) fun t =>
      OnlyQueue q s t ∧ t.b.queue q = { x with enable := false, st := .disabled }) ∧
    (s.b.queueWatched q = true → (x.wdogTicks + 1) * 2 ^ x.wdogScale ≤ x.wdog → Completes (exec (.queueWatchdog q) s) fun t =>
      Frame [.queues, .ctxs, .mem, .coh, .cores, .slices, .ports] s t ∧ (t.b.ctx x.ctx).st = .faulted ∧
      (t.b.ctx x.ctx).lastCode = 0x33 ∧ Tab.get false t.b.ports.irq (16 * (s.b.ctx x.ctx).slice) = true)

/-- The arbiter has granted command c of queue q, of the opcode given, which has not started and names no fence outside slice
n's range; the compute clock runs, and shedding does not suspend the queue (R402). -/
def Granted (b : Block) (q opcode n : Nat) (c : Cmd) : Prop :=
  b.queueOwner q = n ∧ (b.slice n).arb.granted = some (q, c.k) ∧ b.cmdOf q c.k = some c ∧ c.opcode = opcode ∧ c.started = false ∧
    b.gated = false ∧ b.suspended n (b.queue q).cls = false ∧ ∀ i ∈ c.fences, b.fenceIn n i = true

/-- Command k of queue q stands started, with its own work done or not. -/
def Started (b : Block) (q k : Nat) (finished : Bool) : Prop :=
  ∃ c, b.cmdOf q k = some c ∧ c.started = true ∧ c.finished = finished

/-- R239, R242, R243, R251, R253: the arbiter's grant, and what NOP, OPS (one whose next placement no replay turn holds, R327),
LAUNCH and DMA do at their start; a command at the front of its queue that is over completes, and one of the queue's present
enabling advances DONE by one. -/
def Obligations.GrantedCommandsStartAndComplete : Prop :=
  (∀ (s : State) (n cls q k : Nat), s.b.granted n = none → s.b.pick n = some (cls, q) → s.b.grantable n q = some k →
    ((s.b.cmdOf q k).map (·.opcode)).getD 0 ≤ 9 →
    Completes (exec (.arbiterGrant n) s) fun t =>
      Frame [.slices] s t ∧ (t.b.slice n).arb.granted = some (q, k) ∧ ∀ m, m ≠ n → t.b.slice m = s.b.slice m) ∧
  (∀ (s : State) (q n : Nat) (c : Cmd), c.finished = false →
    (Granted s.b q 0 n c → Completes (exec (.nop q) s) fun t =>
      Frame [.queues, .slices, .ctxs, .mem, .coh, .cores] s t ∧ Started t.b q c.k true ∧ (t.b.slice n).arb.granted = none) ∧
    (∀ i core eng desc, Granted s.b q 1 n c → s.b.nextPlace n c = some i → s.b.placement n (c.w (4 + i)) = some (core, eng, desc) →
      s.b.placeHeld n (c.w (4 + i)) c.ctx = false →
      Completes (exec (.ops q) s) fun t =>
        Frame [.queues, .slices, .ctxs, .mem, .coh, .cores] s t ∧ Started t.b q c.k false ∧
        (t.b.eng core eng).arrivals = (s.b.eng core eng).arrivals ++
          [{ desc := desc, ctx := c.ctx, issuer := .queue q c.k i, label := c.label
             gen := (s.b.core core).roleGen }]) ∧
    (∀ core, Granted s.b q 2 n c → s.b.sliceCore n (fld (c.w 4) 61 56) = some core → (s.b.core core).hart.launch = none →
      Completes (exec (.launch q) s) fun t =>
        Frame [.queues, .slices, .ctxs, .mem, .coh, .cores] s t ∧ Started t.b q c.k false ∧
        (t.b.core core).hart.zhCtx = c.ctx ∧ (t.b.core core).hart.extIrq = true ∧
        (t.b.core core).hart.launch = some { queue := q, entry := c.k, pc := BitVec.ofNat 64 (fld (c.w 5) 56 0)
                                             arg := BitVec.ofNat 64 (c.w 6), ctx := c.ctx, resetReq := false, resetAt := 0
                                             code := none, gen := s.b.startGen q }) ∧
    (∀ agent ch, Granted s.b q 3 n c → s.b.dmaAgent n c = some agent → s.b.dmaSlot agent = some ch → fld (c.w 6) 31 0 ≠ 0 →
      Completes (exec (.dma q) s) fun t =>
        Frame [.queues, .slices, .ctxs, .mem, .coh, .cores, .dmas] s t ∧ Started t.b q c.k false ∧
        ∃ d, t.b.dmas = s.b.dmas ++ [d] ∧ d.agent = agent ∧ d.channel = ch ∧ d.ctx = c.ctx ∧
          d.src = fld (c.w 4) 56 0 ∧ d.dst = fld (c.w 5) 56 0 ∧ d.bytes = fld (c.w 6) 31 0 ∧ d.pos = 0 ∧ d.waits = none)) ∧
  (∀ (s : State) (q : Nat) (c : Cmd) (rest : List Cmd), (s.b.queue q).cmds = c :: rest → (∀ x ∈ rest, x.k ≠ c.k) →
    (∀ x, rest.head? = some x → x.completed = false) → s.b.cmdOver (s.b.queueOwner q) q c = true → s.b.genStale c.gen = false →
    (s.b.ctx c.ctx).st ≠ .resetting → s.b.gated = false →
    Completes (exec (.commandComplete q c.k) s) fun t =>
      Frame [.queues, .fences, .cores, .ctxs, .mem, .coh, .slices, .ports] s t ∧
      (t.b.queue q).done = (if c.k / 2 ^ 32 = (s.b.queue q).epoch then (s.b.queue q).done + 1 else (s.b.queue q).done) ∧
      (t.b.queue q).cmds.length = rest.length ∧ (c.fsig = false → (t.b.queue q).cmds = rest ∧ t.b.fences = s.b.fences))

/-- R208, R219 to R221, R242, R255 to R257: the commands that wait on and signal a fence, set a window, move pages, advise and
stamp. SET_WINDOW waits for an earlier OPS; a window cleared, or set with length 0, reads so in its table; a stamp stands in memory
as the slice's own key reads it. -/
def Obligations.FenceWindowPageAndStampCommands : Prop :=
  ∀ (s : State) (q n : Nat) (c : Cmd), c.finished = false →
    let ctx := c.ctx
    let alone (ops : List Nat) : Prop := ∀ x ∈ (s.b.queue q).cmds, x.k ≠ c.k → x.opcode ∈ ops → x.started = true → x.finished = true
    let opsBefore : Prop := ∃ a l x, (s.b.queue q).cmds = a ++ c :: l ∧ x ∈ a ∧ x.opcode = 1 ∧ x.completed = false
    let f := fld (c.w 4) 15 0
    let v := BitVec.ofNat 64 (c.w 5)
    (Granted s.b q 4 n c → Completes (exec (.fenceWait q) s) fun t =>
      Frame [.queues, .slices, .ctxs, .mem, .coh, .cores] s t ∧
      ((s.b.fence f).setUp = false → Started t.b q c.k true ∧ (t.b.ctx ctx).lastCode = 0x32) ∧
      ((s.b.fence f).setUp = true → Started t.b q c.k (decide (((s.b.fence f).value - v).toNat < 2 ^ 63)))) ∧
    (Granted s.b q 5 n c → (s.b.queue q).cmds.head? = some c → c.progress = 0 → bit (c.w 4) 63 = false →
      (s.b.fence f).setUp = true →
      (v - (s.b.fence f).value).toNat < 2 ^ 63 → (s.b.ctx ctx).st ≠ .resetting →
      Completes (exec (.fenceSignal q) s) fun t =>
        Frame [.queues, .slices, .ctxs, .mem, .coh, .cores, .fences, .ports] s t ∧ Started t.b q c.k true ∧
        t.b.fence f = { s.b.fence f with value := v } ∧ ∀ g, g ≠ f → t.b.fence g = s.b.fence g) ∧
    (Granted s.b q 6 n c → alone [6] → opsBefore → Completes (exec (.setWindow q) s) fun t =>
      Frame [.queues, .slices, .ctxs, .mem, .coh, .cores] s t ∧ Started t.b q c.k false) ∧
    (Granted s.b q 6 n c → alone [6] → ¬opsBefore → Completes (exec (.setWindow q) s) fun t =>
      let w := fld (c.w 4) 63 61
      let a := (s.b.ctx ctx).winTable + 32 * w
      Frame [.queues, .slices, .ctxs, .mem, .coh, .cores, .draws] s t ∧ Started t.b q c.k true ∧
      (bit (c.w 4) 0 = true → fld (c.w 5) 31 0 = 0 → (t.b.ctx ctx).lastCode = 0x30) ∧
      (s.b.ownGen (s.b.ctx ctx).slice ≠ 0 → s.b.ownRange (s.b.ctx ctx).slice a 32 = true → Calm s.b (gaKey a) 32 →
        (bit (c.w 4) 0 = false → (t.b.win ctx w).status = 0) ∧
        (bit (c.w 4) 0 = true → fld (c.w 5) 31 0 = 0 → (t.b.win ctx w).status = 2))) ∧
    (Granted s.b q 7 n c → prefetchBad (c.w 4) (c.w 5) (c.w 6) (c.w 7) = false → fld (c.w 5) 31 0 ≠ 0 → c.progress = 0 →
      (s.b.slice n).xlat.migrating = none → alone [7, 8] →
      Completes (exec (.prefetch q) s) fun t =>
        Frame [.queues, .slices, .ctxs, .mem, .coh, .cores, .ports] s t ∧
        ((∃ m, (t.b.slice n).xlat.migrating = some m ∧ m.q = q ∧ m.k = c.k ∧ m.ctx = ctx ∧ m.va = fld (c.w 4) 56 16 * 65536) ∨
          ∃ y, t.b.cmdOf q c.k = some y ∧ y.progress = 1)) ∧
    (Granted s.b q 8 n c → adviseBad (c.w 4) (c.w 5) (c.w 6) (c.w 7) = false → fld (c.w 5) 31 0 ≠ 0 →
      c.progress = 0 → alone [7, 8] →
      Completes (exec (.advise q) s) fun t =>
        Frame [.queues, .slices, .ctxs, .mem, .coh, .cores] s t ∧ Started t.b q c.k false ∧
        (t.b.slice n).xlat.invals = (s.b.slice n).xlat.invals ++
          [{ ctx := some ctx, va := fld (c.w 4) 56 16 * 65536, len := 65536 * fld (c.w 5) 31 0, bump := false
             use := .advise q c.k }]) ∧
    (Granted s.b q 9 n c → Completes (exec (.stamp q) s) fun t =>
      Frame [.queues, .slices, .ctxs, .mem, .coh, .cores] s t ∧ Started t.b q c.k true ∧
      (fld (c.w 4) 56 0 % 8 = 0 → s.b.ownRange n (fld (c.w 4) 56 0) 8 = true → s.b.ownGen n ≠ 0 →
        Calm s.b (gaKey (fld (c.w 4) 56 0)) 8 → t.b.rdOwn n (fld (c.w 4) 56 0) 8 = toLe 8 s.b.stamp.toNat))

/-! ### Contexts and fences -/

/-- R232 to R237: the operations of ZH_CTX_CTRL on a context of the slice's range, the end of a reset, and a write of ZH_CTX_TABLE,
while the compute clock runs. A RESET is the ladder's first rung, which the tally counts (R313, R329; its CAUSE 9 is the model's
choice: notes/assumptions/119.md). -/
def Obligations.ContextOperations : Prop :=
  ∀ (s : State) (n c : Nat), s.b.gated = false → (s.b.slice n).st ≠ .none → s.b.ctxInRange n c = true →
    let r := (s.b.slice n).ctxr
    let a := r.table.toNat + 128 * (c - r.first)
    let w := (s.b.ctx c).ofWords ((dwordsOf (s.b.rdOwn n a 128) 16).map (·.toNat))
    (r.ctrlGo = false → (s.b.ctx c).st = .free → r.table ≠ 0 → s.b.ownRange n a 128 = true → s.b.ownRange n w.ptRoot 4096 = true →
      s.b.ownRange n w.winTable 256 = true → s.b.ownRange n w.heapMap (max 1 (ceilDiv w.heapPages 8)) = true →
      Completes (exec (.ctxCreate n c) s) fun t =>
        Frame [.ctxs, .slices, .mem, .coh, .cores] s t ∧ (t.b.ctx c).st = .active ∧ (t.b.ctx c).slice = n ∧
        (t.b.ctx c).ptRoot = w.ptRoot ∧ (t.b.ctx c).errCount = 0 ∧ (t.b.slice n).ctxr.ctrlResult = 0) ∧
    (r.ctrlGo = false → ((s.b.ctx c).st = .active ∨ (s.b.ctx c).st = .faulted) → Completes (exec (.ctxReset n c) s) fun t =>
      Frame [.ctxs, .slices, .mem, .coh, .cores, .queues, .dmas, .ports, .dict, .tally] s t ∧ (t.b.ctx c).st = .resetting ∧
        (t.b.slice n).ctxr.ctrlGo = true ∧ t.b.tallyGet 0x8020 2 = min 4294967295 (s.b.tallyGet 0x8020 2 + 1) ∧
      (t.b.slice n).ctxr.ctrlCtx = c ∧ ∀ d ∈ t.b.dmas, d.ctx ≠ c) ∧
    (s.b.ctxIs n c .resetting = true → s.b.launchesOver c = true → Completes (exec (.ctxResetComplete n c) s) fun t =>
      Frame [.ctxs, .slices, .mem, .coh, .cores, .queues, .vis] s t ∧
        (t.b.ctx c).st = (if (s.b.ctx c).toSuspect then .suspect else .active) ∧
      ∀ q ∈ s.b.naming c, (t.b.queue q).head = (s.b.queue q).tail ∧ (t.b.queue q).done = (s.b.queue q).tail ∧
        (t.b.queue q).cmds = []) ∧
    (r.ctrlGo = false → (s.b.ctx c).st = .active → (∀ q ∈ s.b.naming c, (s.b.queue q).enable = false) → s.b.ctxBusy c = false →
      Completes (exec (.ctxDestroy n c) s) fun t =>
        Frame [.ctxs, .slices, .mem, .coh, .cores] s t ∧ (t.b.ctx c).st = .free ∧ (t.b.slice n).ctxr.ctrlResult = 0) ∧
    (r.ctrlGo = false → (s.b.ctx c).st = .active → Completes (exec (.ctxClearFault n c) s) fun t =>
      Frame [.ctxs, .slices] s t ∧ t.b.ctx c = { s.b.ctx c with sticky := 0, firstCode := 0, lastCode := 0, errCount := 0
                                                                firstStamp := 0 } ∧ (t.b.slice n).ctxr.ctrlResult = 0) ∧
    (r.ctrlGo = false → ((s.b.ctx c).st = .active ∨ (s.b.ctx c).st = .faulted ∨ (s.b.ctx c).st = .suspect) →
      Completes (exec (.ctxSync n c) s) fun t =>
        Frame [.slices, .mem, .coh, .cores] s t ∧ (t.b.slice n).ctxr.ctrlResult = 0 ∧
        ((s.b.ctx c).slice = n → r.table ≠ 0 → s.b.ownRange n a 128 = true → s.b.ownGen n ≠ 0 → Calm s.b (gaKey a) 128 →
          t.b.rdOwn n a 128 = (s.b.ctx c).bytes c)) ∧
    (∀ v : Dword, v.toNat % 4096 = 0 → s.b.ownRange n v.toNat (128 * r.count) = true → s.b.ctxsOf n = [] →
      Completes (exec (.zhCtxTableWrite n v) s) fun t =>
        Frame [.slices] s t ∧ (t.b.slice n).ctxr = { r with table := v } ∧ ∀ m, m ≠ n → t.b.slice m = s.b.slice m)

/-- R254 to R257: SETUP, SIGNAL and RELEASE of ZH_FENCE_CTRL, while the compute clock runs. A signal ahead of the value by less than
2^63 becomes the value, and one that is not is counted in FENCE_LOW of the owner; a fence that a started wait
names is not released. -/
def Obligations.FenceControlOperations : Prop :=
  ∀ (s : State) (n f : Nat), s.b.gated = false → s.b.fenceIn n f = true →
    let r := (s.b.slice n).ctxr
    (∀ e, s.b.ctxIs n (fld r.fenceNotify.toNat 19 0) .active = true → Completes (exec (.fenceSetup n f e) s) fun t =>
      Frame [.fences, .slices, .queues, .mem, .coh, .cores, .ctxs, .ports] s t ∧ t.b.fence f = s.b.staged n e ∧
      (t.b.fence f).value = r.fenceValue ∧ (t.b.fence f).setUp = true ∧ (t.b.slice n).ctxr.fenceResult = 0) ∧
    ((s.b.fence f).setUp = true → Completes (exec (.fenceCtrlSignal n f) s) fun t =>
      Frame [.fences, .slices, .queues, .mem, .coh, .cores, .ctxs, .ports] s t ∧ (t.b.slice n).ctxr.fenceResult = 0 ∧
      ((r.fenceValue - (s.b.fence f).value).toNat < 2 ^ 63 → t.b.fence f = { s.b.fence f with value := r.fenceValue }) ∧
      (2 ^ 63 ≤ (r.fenceValue - (s.b.fence f).value).toNat → t.b.fence f = s.b.fence f ∧
        (t.b.ctx (s.b.fence f).owner).fenceLow = ((s.b.ctx (s.b.fence f).owner).fenceLow + 1) % 2 ^ 32)) ∧
    (s.b.waitNames f = false → Completes (exec (.fenceRelease n f) s) fun t =>
      Frame [.fences, .slices] s t ∧ t.b.fence f = Fence.reset ∧ (t.b.slice n).ctxr.fenceResult = 0 ∧
      ∀ g, g ≠ f → t.b.fence g = s.b.fence g) ∧
    (s.b.waitNames f = true → Completes (exec (.fenceRelease n f) s) fun t =>
      Frame [.slices] s t ∧ (t.b.slice n).ctxr.fenceResult = 3)

/-! ### Transfers, faults and invalidation -/

/-- R210 to R215, R276: a transfer stops at a page that does not translate. A last request of a tile between device pages, whose
walks need not wait and whose source line has come, writes the line's bytes at the destination through the cluster cache, in whose
line they stand where that owns it, and the tile is moved; resuming a page is clearing the wait and running the transfer's tile, and
aborting it ends the transfer with DMA_ABORTED; the ring's base and size change only while HEAD = TAIL. -/
def Obligations.TransfersFaultResumeAndAbort : Prop :=
  (∀ (s : State) (agent ch : Nat) (d : Dma), s.b.dmaAt agent ch = some d → d.agent = agent → d.channel = ch →
    d.pos < d.bytes → s.b.dmaReady d = true → d.data = [] → s.b.mustWalk agent (8 + ch) d.ctx (d.src + d.pos) = false →
    let from' := s.b.translate d.ctx (d.src + d.pos) false
    let into := from'.1.translate d.ctx (d.dst + d.pos) true
    (∀ cause level adv, from'.2 = .fail cause level adv →
      Completes (exec (.dmaTile agent ch) s) fun t =>
        Frame [.dmas, .slices, .mem, .coh, .cores, .ports, .ctxs] s t ∧
        ∃ d', t.b.dmaAt agent ch = some d' ∧ d'.waits = some ((d.src + d.pos) / 65536) ∧ d'.pos = d.pos) ∧
    (∀ a k adv a2 k2 adv2 b3 bs, from'.2 = .dev a k adv → from'.1.mustWalk agent (8 + ch) d.ctx (d.dst + d.pos) = false →
      into.2 = .dev a2 k2 adv2 →
      into.1.dmaLine d (d.src + d.pos) (into.1.keyGen k) (gaKey a) adv = (b3, some (.data bs)) →
      d.pos + d.chunk a 128 = d.tileEnd → gaKey a2 % 128 + d.chunk a 128 ≤ 128 →
      b3.pageMoves d.ctx (d.dst + d.pos) = false → b3.mustWalk agent (8 + ch) d.ctx (d.dst + d.pos) = false →
      let last := b3.translate d.ctx (d.dst + d.pos) true
      let cache := last.1.dmaCluster d
      let line := gaKey a2 / 128
      let moved := (bs.drop (gaKey a % 128)).take (d.chunk a 128)
      let put := last.1.cacheWrite cache agent (last.1.keyGen k2) (gaKey a2) 1 moved
      last.2 = .dev a2 k2 adv2 → last.1.ownsLine cache line = true ∨ last.1.hasPassed agent d.ctx (d.dst + d.pos) = true →
      put.2 = true →
      Completes (exec (.dmaTile agent ch) s) fun t =>
        Frame [.dmas, .slices, .mem, .coh, .cores, .queues, .ctxs, .ports] s t ∧
        (d.tileEnd < d.bytes → ∃ d', t.b.dmaAt agent ch = some d' ∧ d'.pos = d.tileEnd) ∧
        (d.tileEnd = d.bytes → t.b.dmas = s.b.dmas.filter fun x => !(x.agent == agent && x.channel == ch)) ∧
        t.b.mem = put.1.mem ∧ t.b.coh = put.1.coh ∧
        (∀ l, last.1.coh.lineOf cache line = some l → (l.st = .m ∨ l.st = .e) →
          ∃ l' ∈ t.b.coh.lines, l'.agent = cache ∧ l'.line = line ∧ l'.st = .m ∧
            l'.data = patchLine l.data (gaKey a2 % 128) moved))) ∧
  (∀ (s : State) (n : Nat) (va : Dword) (d : Dma), s.b.gated = false →
    let x := (s.b.slice n).xlat
    s.b.ctxInRange n x.resumeCtx = true → (s.b.ctx x.resumeCtx).slice = n → (s.b.ctx x.resumeCtx).gen = x.resumeGen →
    (s.b.dmas.filter fun e => e.ctx == x.resumeCtx && e.waits == some (dfld va 56 16)) = [d] → x.migrating = none →
    s.b.ringReady n = true →
    (x.resumeAbort = false → Completes (exec (.dmaResume n va) s) fun t =>
      let resumed (e : Dma) : Dma := if e.ctx == x.resumeCtx && e.waits == some (dfld va 56 16) then { e with waits := none } else e
      exec (.dmaTile d.agent d.channel) { s with b := { s.b with dmas := s.b.dmas.map resumed } } = .next t) ∧
    (x.resumeAbort = true → Completes (exec (.dmaAborted n va) s) fun t =>
      Frame [.dmas, .ctxs, .queues, .ports] s t ∧ (t.b.ctx x.resumeCtx).lastCode = 0x2E ∧
      ∀ e ∈ t.b.dmas, ¬(e.ctx = x.resumeCtx ∧ e.waits = some (dfld va 56 16)))) ∧
  (∀ (s : State) (n : Nat), s.b.gated = false → (s.b.slice n).st ≠ .none →
    let x := (s.b.slice n).xlat
    (∀ v, Completes (exec (.zhFaultTailWrite n v) s) fun t =>
      Frame [.slices, .mem, .coh, .cores, .ports] s t ∧ (t.b.slice n).xlat.faultTail = v) ∧
    (∀ base size, x.faultHead = x.faultTail → Completes (exec (.faultRingConfig n base size) s) fun t =>
      Frame [.slices, .mem, .coh, .cores, .ports] s t ∧ (t.b.slice n).xlat.faultBase = base.getD x.faultBase ∧
      (t.b.slice n).xlat.faultSize = (size.map fun v => v.toNat % 16).getD x.faultSize) ∧
    (∀ base size, x.faultHead ≠ x.faultTail → exec (.faultRingConfig n base size) s = .next s))

/-- R212, R216 to R218, while the compute clock runs: an invalidation written while none of the register's is under way joins the
slice's engine; one written while GO reads 1 sets OVERRUN, and a write without GO changes the other fields only; and when every
acknowledgement has arrived the register's own ends with GO 0, counted in ZH_INVAL_DONE, and with a new generation of its context
where GEN_BUMP asks for one. -/
def Obligations.InvalidationsJoinAndComplete : Prop :=
  ∀ (s : State) (n : Nat), s.b.gated = false → (s.b.slice n).st ≠ .none →
    let x := (s.b.slice n).xlat
    (∀ ctrl : Word, x.go = false → ctrl.getLsbD 31 = true → Completes (exec (.invalidation n ctrl) s) fun t =>
      Frame [.slices, .mem, .coh, .cores, .ctxs] s t ∧ (t.b.slice n).xlat.go = true ∧
      (t.b.slice n).xlat.invals = x.invals ++
        [{ ctx := if ctrl.getLsbD 25 then none else some (fld ctrl.toNat 19 0), va := x.invalVa.toNat, len := x.invalLen.toNat
           bump := ctrl.getLsbD 26 && !ctrl.getLsbD 25, use := .reg }]) ∧
    (∀ ctrl : Word, x.go = true → ctrl.getLsbD 31 = true → Completes (exec (.invalidation n ctrl) s) fun t =>
      Frame [.slices] s t ∧ (t.b.slice n).xlat.overrun = true ∧ (t.b.slice n).xlat.invals = x.invals) ∧
    (∀ ctrl : Word, ctrl.getLsbD 31 = false → Completes (exec (.invalidation n ctrl) s) fun t =>
      Frame [.slices] s t ∧ (t.b.slice n).xlat.go = x.go ∧ (t.b.slice n).xlat.invals = x.invals ∧
      (t.b.slice n).xlat.genBump = ctrl.getLsbD 26 ∧ (t.b.slice n).xlat.allCtx = ctrl.getLsbD 25 ∧
      (t.b.slice n).xlat.ctx = fld ctrl.toNat 19 0) ∧
    (∀ i, x.invals = [i] → i.use = .reg → i.len ≠ 0 → s.b.invalAcked n i = true →
      Completes (exec (.invalidationComplete n) s) fun t =>
        Frame [.slices, .ctxs] s t ∧ (t.b.slice n).xlat.go = false ∧ (t.b.slice n).xlat.invals = [] ∧
        (t.b.slice n).xlat.invalDone = x.invalDone + 1 ∧
        (∀ c, i.ctx = some c → i.bump = true → s.b.ctxInRange n c = true → (t.b.ctx c).gen = (s.b.ctx c).gen + 1) ∧
        (i.bump = false → t.b.ctxs = s.b.ctxs))

/-- R226 to R229: a page joins the pool or is refused and counted; an amoswap.d to ALLOC_VA returns the result word of its
request in rd; a free's range joins the slice's invalidations once every queue has passed the free's points. -/
def Obligations.PoolAndDeviceAllocator : Prop :=
  (∀ (s : State) (n : Nat) (v : Dword), s.b.gated = false → (s.b.slice n).st ≠ .none →
    let x := (s.b.slice n).xlat
    (s.b.poolPage n v.toNat = true → s.b.poolReady n = true → x.poolCount < 2 ^ x.poolSize →
      Completes (exec (.zhPoolAdd n v) s) fun t =>
        Frame [.slices, .mem, .coh, .cores] s t ∧ (t.b.slice n).xlat.poolCount = x.poolCount + 1 ∧
        (s.b.ownGen n ≠ 0 → Calm s.b (gaKey (x.poolPlace x.poolCount)) 8 →
          t.b.rdOwn n (x.poolPlace x.poolCount) 8 = toLe 8 v.toNat)) ∧
    (s.b.poolPage n v.toNat = false → Completes (exec (.zhPoolAdd n v) s) fun t =>
      Frame [.slices] s t ∧ (t.b.slice n).xlat = { x with poolRefused := min 65535 (x.poolRefused + 1) })) ∧
  (∀ (s : State) (core rd rs2 : Nat), HartRuns s.b core →
    let h := (s.b.core core).hart
    let r := (h.reg rs2).toNat
    let x := s.b.ctx h.zhCtx
    x.allocVa ≠ 0 →
    (fld r 63 62 ≠ 2 → Completes (exec (.alloc core rd rs2) s) fun t =>
      Frame [.slices, .mem, .coh, .cores] s t ∧ (t.b.core core).hart.pc = h.pc + 4 ∧
      (∀ i, (t.b.core core).hart.reg i = if i = rd ∧ rd ≠ 0 then (s.b.allocPages h.zhCtx r).2 else h.reg i) ∧
      (fld r 15 0 = 0 → (s.b.allocPages h.zhCtx r).2 = BitVec.ofNat 64 (2 ^ 63 + 1))) ∧
    (fld r 63 62 = 2 → Completes (exec (.free core rd rs2) s) fun t =>
      Frame [.slices, .cores] s t ∧ (t.b.core core).hart.pc = h.pc + 4 ∧
      (∀ i, (t.b.core core).hart.reg i = if i = rd ∧ rd ≠ 0 then (s.b.freePages h.zhCtx r).2 else h.reg i) ∧
      ((s.b.freePages h.zhCtx r).2 = 0 → (t.b.slice x.slice).xlat.frees.length = (s.b.slice x.slice).xlat.frees.length + 1))) ∧
  (∀ (s : State) (n : Nat) (p : PendFree), (s.b.slice n).xlat.frees.find? s.b.pointsPassed = some p →
    s.b.gated = false →
    Completes (exec (.freePointPassed n) s) fun t =>
      Frame [.slices, .mem, .coh, .cores, .ctxs] s t ∧ (t.b.slice n).xlat.frees = (s.b.slice n).xlat.frees.erase p ∧
      ∃ pages, (t.b.slice n).xlat.invals = (s.b.slice n).xlat.invals ++
        [{ ctx := some p.ctx, va := p.va, len := 65536 * p.pages, bump := false, use := .free p pages }])

/-! ### Slices -/

/-- R178 to R183: a committed request that no rule of R180 refuses joins the accepted requests with the next ticket and the first
active stride at or after RECONF_NOTICE from now; any other sets REQ_STATUS 2 and its reason; a commit during a permanent
transition of the life cycle waits (R360). R188: a slice map's address is kept, and the map written whole. -/
def Obligations.SliceRequestsAreJudgedAtTheCommit : Prop :=
  (∀ (s : State) (eid : Nat) (tag : Byte), Admitted s.b eid 0x2001 0x10 [1] →
    let r := s.b.recon
    let judged (k : Nat) (act : Action) (n : Nat) (h : Holdings) (fw : Dword) (t : State) : Prop :=
      (s.b.reqReason k n h fw = 0 →
        Frame [.recon, .slices, .mem, .coh, .cores, .ports, .dict] s t ∧ t.b.recon.status = 1 ∧
        t.b.recon.ticket = (r.ticket + 1) % 65536 ∧
        t.b.recon.pend = r.pend ++ [{ act := act, slice := n, hold := h, fw := fw, ticket := (r.ticket + 1) % 65536
                                      stride := nextActive r.window (dfld s.b.stamp 63 16 + r.notice), ahead := false
                                      subst := none }]) ∧
      (s.b.reqReason k n h fw ≠ 0 →
        Frame [.recon, .ports, .dict] s t ∧ t.b.recon.status = 2 ∧ t.b.recon.refusal = s.b.reqReason k n h fw ∧
        t.b.recon.pend = r.pend ∧ t.b.recon.ticket = r.ticket)
    (s.b.life.inTransition = false →
      (∀ act, actionOf r.reqAction = some act →
        Completes (exec (.reqCommit eid tag 1) s) (judged r.reqAction act r.reqSlice r.reqHold r.reqFw)) ∧
      (∀ n h, Completes (exec (.create eid tag n h) s) (judged 1 .create n h r.reqFw)) ∧
      (∀ n h, Completes (exec (.resize eid tag n h) s) (judged 2 .resize n h r.reqFw)) ∧
      (∀ n, Completes (exec (.remove eid tag n) s) (judged 3 .remove n r.reqHold r.reqFw)) ∧
      (∀ n a, Completes (exec (.firmware eid tag n a) s) (judged 4 .firmware n r.reqHold a))) ∧
    (s.b.life.inTransition = true → Completes (exec (.reqCommit eid tag 1) s) fun t =>
      Frame [.recon] s t ∧ t.b.recon = { r with heldCommits := r.heldCommits ++ [(eid, tag)] })) ∧
  (∀ (s : State) (n eid : Nat) (tag : Byte) (v : Dword), Admitted s.b eid (0x2100 + n) 0x0C (toLe 8 v.toNat) →
    (v = 0 → Completes (exec (.sliceMapAddr n eid tag v) s) fun t =>
      Frame [.slices, .ports, .dict] s t ∧ (t.b.slice n).mapAddr = 0) ∧
    (v ≠ 0 → v.toNat % 128 = 0 → v.toNat < 2 ^ 57 → s.b.ownRange n v.toNat 520 = true →
      Completes (exec (.sliceMapAddr n eid tag v) s) fun t =>
        Frame [.slices, .mem, .coh, .cores, .ports, .dict] s t ∧ (t.b.slice n).mapAddr = v ∧
        (s.b.ownGen n ≠ 0 → Calm s.b (gaKey v.toNat) 520 →
          t.b.rdOwn n v.toNat 8 = toLe 8 (s.b.mapHeader n) ∧
          ∀ k c, k < 64 → (s.b.coresOf n)[k]? = some c →
            t.b.rdOwn n (v.toNat + 8 + 8 * k) 8 = toLe 8 ((s.b.core c).roleGen.toNat * 2 ^ 32 + s.b.zhCore c))))

/-- R181, R182, R184, R186: where no window is due to close first (R108) and no scrubbed group joins before it, the first request
due begins with stage 1 of its action in the open reconfiguration window, unless a case of R182 puts it off to a later one; a stage
that is over gives way to the next (the first of a REMOVE with its virtual instances removed too, R300); the last publishes the
slice or ends it; and a scrub that completes leaves zero ciphertext in the whole group and nowhere else. -/
def Obligations.ActionsRunThroughTheirStages : Prop :=
  (∀ (s : State) (w : Nat), s.b.reconfWindow = some w → s.b.windowDue = false →
    s.b.recon.run = none → s.b.recon.deferred ≠ some w →
    (2 ≤ s.b.power.level → Completes (exec .reconfActionStart s) fun t =>
      t.fuse = s.fuse ∧ s.b.Keeps [.recon] t.b ∧ t.b.recon = { s.b.recon with deferred := some w }) ∧
    (∀ r rest, s.b.power.level < 2 → (s.b.rungsDefer w).joinable w = none → s.b.recon.pend = r :: rest → (r.ahead = true ∨
      r.stride ≤ w) →
      r.slice ≠ 0 →
      (s.b.rungOn r.slice = true → Completes (exec .reconfActionStart s) fun t =>
        t.fuse = s.fuse ∧ s.b.Keeps [.recon] t.b ∧ t.b.recon = { (s.b.rungsDefer w).recon with deferred := some w }) ∧
      (s.b.rungOn r.slice = false → s.b.viBusy r.slice = false → Completes (exec .reconfActionStart s) fun t =>
        t.fuse = s.fuse ∧ t.b.recon.pend = rest ∧ (t.b.slice r.slice).st = .changing ∧
        t.b.recon.run = some { req := r, stage := 1, old := (s.b.slice r.slice).hold, joinOnly := none, win := w }))) ∧
  (∀ (s : State) (r : Running), s.b.recon.run = some r → s.b.power.level ≠ 5 →
    (if r.stage = 1 ∧ r.isRemove = true then s.b.visLeave r.req.slice else s.b).stageOver r = true →
    (r.stage < 7 → Completes (exec .reconfStageEnd s) fun t =>
      t.fuse = s.fuse ∧ t.b.recon.run = some { r with stage := r.stage + 1 }) ∧
    (7 = r.stage → r.req.slice ≠ 0 → Completes (exec .reconfStageEnd s) fun t =>
      t.fuse = s.fuse ∧ t.b.recon.run = none ∧
      (r.isRemove = true → t.b.slice r.req.slice =
        { Slice.reset with pendingStride := (t.b.slice r.req.slice).pendingStride }) ∧
      (r.isRemove = false → (t.b.slice r.req.slice).st = .active))) ∧
  (∀ (s : State) (g : Nat), g ∈ s.b.recon.scrubbing → s.b.power.level ≠ 5 → Completes (exec (.scrubComplete g) s) fun t =>
    Frame [.mem, .coh, .recon, .power] s t ∧ g ∉ t.b.recon.scrubbing ∧
    ∀ line, (line / 2 ^ 30 = g → Tab.get 0 t.b.mem.keyGen line = 0 ∧ Tab.get false t.b.mem.poison line = false) ∧
      (line / 2 ^ 30 ≠ g → Tab.get 0 t.b.mem.keyGen line = Tab.get 0 s.b.mem.keyGen line ∧
        ∀ i, i < 128 → t.b.mem.bytes.read (128 * line + i) = s.b.mem.bytes.read (128 * line + i)))

/-- R192 to R194, R223, R266 to R269: a NONCE sets NONCE_STATUS 1, and its signed ledger of 480 bytes sets 2 from the first phase
zero on that is stamped 100 ms after the write or later; a mediator's answer leaves at its time; a key request gives the lowest
selector that no slice holds a fresh key pair, a release replaces the pair where a draw succeeds (R373); and a sample moves its
point's estimator and its class's window. -/
def Obligations.LedgersKeysAndSamples : Prop :=
  (∀ (s : State) (n eid : Nat) (tag : Byte),
    (∀ v, Admitted s.b eid (0x2200 + n) 2 v → Completes (exec (.nonce n eid tag v) s) fun t =>
      Frame [.slices, .ports, .dict] s t ∧ (t.b.slice n).nonce = v ∧ (t.b.slice n).nonceStatus = 1 ∧
      (t.b.slice n).ledger = (s.b.slice n).ledger ∧ ∀ m, m ≠ n → t.b.slice m = s.b.slice m) ∧
    (∀ k, Admitted s.b eid (0x6100 + n) 2 [1] → s.b.life.rngFault = false →
      ((List.range 63).find? fun k => (s.b.key k).holder == 0) = some k →
      Completes (exec (.keyRequest n eid tag 1) s) fun t =>
        Frame [.keys, .keyGens, .slices, .ports, .dict] s t ∧ t.b.key k = { holder := n, gen := s.b.keyGens + 1 } ∧
        (∀ j, j ≠ k → t.b.key j = s.b.key j) ∧ (t.b.slice n).sec.keyLast = k) ∧
    (Admitted s.b eid (0x6100 + n) 2 [1] → (s.b.life.rngFault = true ∨ ∀ k, k < 63 → (s.b.key k).holder ≠ 0) →
      Completes (exec (.keyRequest n eid tag 1) s) fun t =>
        Frame [.slices, .ports, .dict] s t ∧ (t.b.slice n).sec.keyLast = 0xFF) ∧
    (∀ v : Byte, Admitted s.b eid (0x6100 + n) 4 [v] → s.b.holdsKey n v.toNat = true → s.b.life.rngFault = false →
      Completes (exec (.keyRelease n eid tag v) s) fun t =>
        Frame [.keys, .keyGens, .slices, .ports, .dict] s t ∧ t.b.key v.toNat = { holder := 0, gen := s.b.keyGens + 1 } ∧
        (∀ j, j ≠ v.toNat → t.b.key j = s.b.key j) ∧ ((s.b.slice n).aptKey = v.toNat → (t.b.slice n).aptValid = false))) ∧
  (∀ (s : State) (n : Nat), (s.b.slice n).nonceStatus = 1 → s.b.time.started = true →
    (s.b.slice n).nonceAt + 75000000 ≤ s.b.time.zeroAt → Completes (exec (.nonceLedgerReady n) s) fun t =>
    Frame [.slices] s t ∧ (t.b.slice n).nonceStatus = 2 ∧ (t.b.slice n).nonceLedger = s.b.ledgerOf n (s.b.slice n).nonce ∧
    (t.b.slice n).nonceLedger.length = 480 ∧ ∀ m, m ≠ n → t.b.slice m = s.b.slice m) ∧
  (∀ (s : State) (eid : Nat) (x : Nat × Nat × Out), (s.b.dict.med.find? fun y => y.1 == eid) = some x → x.2.1 ≤ s.b.time.mclk →
    Completes (exec (.medAnswer eid) s) fun t =>
      Frame [.dict, .ports] s t ∧ t.b.dict.med = s.b.dict.med.erase x ∧ t.b.ports.out = x.2.2 :: s.b.ports.out) ∧
  (∀ (s : State) (n point cls x bytes : Nat), s.b.gated = false → (s.b.slice n).st ≠ .none → cls < 16 →
    s.b.measures n point = true →
    let r := (s.b.slice n).rein
    let k := 16 * point + cls
    let v := min x (2 ^ 24 - 1)
    Completes (exec (.reinSample n point cls x bytes) s) fun t =>
      Frame [.slices] s t ∧ (∀ m, m ≠ n → t.b.slice m = s.b.slice m) ∧
      (∀ j, Tab.get 0 (t.b.slice n).rein.est j = if j = k then estNext (Tab.get 0 r.est k) v else Tab.get 0 r.est j) ∧
      (∀ c, (t.b.slice n).rein.class c = if c = cls then
          { n := (r.class c).n + 1, m := (r.class c).m + (if clsTarget (r.setting c) < v then 1 else 0)
            largest := max (r.class c).largest v, bytes := (r.class c).bytes + bytes }
        else r.class c))

/-- R301 to R306, while the compute clock runs: a virtual instance in a slice's range is activated, bound and unbound; a RESET or
REMOVE raises its generation, turns its queues off, and ends with them empty; and its PASID is written only while it is FREE. -/
def Obligations.VirtualInstanceOperations : Prop :=
  ∀ (s : State) (v n : Nat), s.b.gated = false → s.b.viSlice v = some n →
    let x := s.b.vi v
    (x.go = false → x.st = .free → (∀ y ∈ s.b.vis, y.1 ≠ v → y.2.st = .active → y.2.pasid ≠ x.pasid) →
      Completes (exec (.viActivate v) s) fun t =>
        Frame [.vis] s t ∧ t.b.vi v = { x with st := .active, op := 1, result := 0 } ∧ ∀ w, w ≠ v → t.b.vi w = s.b.vi w) ∧
    (∀ st op, (st = ViSt.resetting ∧ op = 2) ∨ (st = ViSt.removing ∧ op = 3) → x.go = false → x.st = .active →
      let starts (p : State → Prop) : Prop :=
        (op = 2 → Completes (exec (.viReset v) s) p) ∧ (op = 3 → Completes (exec (.viRemove v) s) p)
      (s.b.inAction n = true → starts fun t =>
        Frame [.vis] s t ∧ t.b.vi v = { x with go := true, op := op, result := 0 }) ∧
      (s.b.inAction n = false → starts fun t =>
        Frame [.vis, .queues, .ctxs, .slices, .mem, .coh, .cores, .dmas, .ports] s t ∧ (t.b.vi v).st = st ∧
          (t.b.vi v).gen = x.gen + 1 ∧ (t.b.vi v).go = true ∧
        (t.b.vi v).op = op ∧ ∀ q ∈ s.b.boundTo v, (t.b.queue q).enable = false ∧ (t.b.queue q).vi = some v)) ∧
    ((x.st = .resetting ∨ x.st = .removing) → s.b.viDrained v n = true → Completes (exec (.viDrainComplete v) s) fun t =>
      Frame [.vis, .queues] s t ∧ (t.b.vi v).go = false ∧ (t.b.vi v).st = (if x.st = .removing then .free else .active) ∧
      (∀ q ∈ s.b.boundTo v, (t.b.queue q).head = 0 ∧ (t.b.queue q).tail = 0 ∧ (t.b.queue q).done = 0 ∧ (t.b.queue q).cmds = [] ∧
        (t.b.queue q).vi = if x.st = .removing then none else some v) ∧
      ∀ q, q ∉ s.b.boundTo v → t.b.queue q = s.b.queue q) ∧
    (∀ q, s.b.queueOwner q = n → (s.b.queue q).enable = false → (s.b.queue q).vi = none → x.st = .active →
      Completes (exec (.viBind v q) s) fun t =>
        Frame [.vis, .queues] s t ∧ t.b.queue q = { s.b.queue q with vi := some v } ∧
        t.b.vi v = { x with qcount := x.qcount + 1, qbUnbind := false, qbQueue := q, qbResult := 0 } ∧
        ∀ p, p ≠ q → t.b.queue p = s.b.queue p) ∧
    (∀ q, s.b.queueOwner q = n → (s.b.queue q).enable = false → (∀ c ∈ (s.b.queue q).cmds, c.started = true → c.completed = true) →
      (s.b.queue q).vi = some v → x.st = .active →
      Completes (exec (.viUnbind v q) s) fun t =>
        Frame [.vis, .queues] s t ∧ t.b.queue q = { s.b.queue q with vi := none } ∧
        t.b.vi v = { x with qcount := x.qcount - 1, qbUnbind := true, qbQueue := q, qbResult := 0 } ∧
        ∀ p, p ≠ q → t.b.queue p = s.b.queue p) ∧
    (∀ w : Word, x.st = .free → Completes (exec (.zhViPasidWrite v w) s) fun t =>
      Frame [.vis] s t ∧ t.b.vi v = { x with pasid := fld w.toNat 19 0 } ∧ ∀ u, u ≠ v → t.b.vi u = s.b.vi u) ∧
    (∀ w : Word, x.st ≠ .free → exec (.zhViPasidWrite v w) s = .next s)

/-! ### Coherence -/

/-- No other transaction waits for the line's filter entry, and no request waits at the line's home (R282, R287). -/
def NothingWaits (b : Block) (line : Nat) : Prop :=
  b.coh.uncQueue = [] ∧ ∀ x ∈ b.coh.busy, x.2.waitsFor ≠ some line

/-- The home of a line takes an agent's request at once: the agent waits for nothing there that the request merges with, the line
is free and not reserved for another, and the home has a transaction and a filter entry to give (R284, R287, R289). -/
def HomeTakes (b : Block) (w : Want) : Prop :=
  b.inDomain w.agent w.line = true ∧
    (∀ x ∈ b.coh.waiting, x.agent = w.agent → x.line = w.line → w.req.merges x = false) ∧
    Tab.find b.coh.busy w.line = none ∧ (b.reservedFor w.line = none ∨ b.reservedFor w.line = some w.agent) ∧
    (b.coh.busy.filter fun x => homeOf x.1 == homeOf w.line).length < 64 ∧ b.setFull w = false

/-- R284 to R287, R293, R298: a home grants a line that no agent has with memory's data, in E, or answers Poison where the line is
poisoned; where its filter has an entry it snoops the domain first; it writes a whole line and a partial one, reads and updates for
uncached requesters; it turns a request for a busy line away with Nack, or lets it wait; and it accepts an owner's write-back, or
lets it wait behind a busy line. -/
def Obligations.HomesServeRequests : Prop :=
  ∀ (s : State) (a : Agent) (line : Nat), s.b.gated = false →
    let key := s.b.lineKey (agentSlice a) line
    let d := s.b.memLine key line
    let w (r : CohReq) : Want :=
      { agent := a, line := line, req := r, key := key, retryAt := none, since := s.b.time.clk, st := .sent, auto := false }
    (∀ r snoop, (r = CohReq.rds ∧ snoop = Snoop.shared) ∨ (r = CohReq.rdx ∧ snoop = .own) → HomeTakes s.b (w r) →
      let serves (p : State → Prop) : Prop :=
        (r = .rds → Completes (exec (.rds a line) s) p) ∧ (r = .rdx → Completes (exec (.rdx a line) s) p)
      (s.b.coh.filt line = none → s.b.linePoisoned line = false → serves fun t =>
        Frame [.coh] s t ∧ t.b.coh.msgs = s.b.coh.msgs ++ [.data a line (some .e) d key] ∧
        (t.b.coh.filt line).bind (·.owner) = some a ∧ t.b.coh.lines = s.b.coh.lines ∧ Tab.has t.b.coh.busy line = true) ∧
      (s.b.coh.filt line = none → s.b.linePoisoned line = true → NothingWaits s.b line → serves fun t =>
        Frame [.coh] s t ∧ t.b.coh.msgs = s.b.coh.msgs ++ [.poison a line] ∧ t.b.coh.filt line = none ∧
        t.b.coh.lines = s.b.coh.lines ∧ Tab.has t.b.coh.busy line = false) ∧
      (s.b.coh.filt line ≠ none → s.b.snooped (agentSlice a) ≠ [] → serves fun t =>
        Frame [.coh] s t ∧ t.b.coh.lines = s.b.coh.lines ∧ Tab.has t.b.coh.busy line = true ∧
        t.b.coh.msgs = s.b.coh.msgs ++ (s.b.snooped (agentSlice a)).map fun x => .snoop x line snoop a)) ∧
    (s.b.coh.filt line = none → NothingWaits s.b line →
      (∀ alloc bs, HomeTakes s.b (w (.wrline (alloc && !agentUncached a) (bytesLine bs))) → key ≠ 0 →
        Completes (exec (.wrline a line alloc bs) s) fun t =>
          Frame [.coh, .mem] s t ∧ t.b.memLine key line = bytesLine bs ∧ Tab.get false t.b.mem.poison line = false ∧
          ((alloc && !agentUncached a) = true → t.b.coh.msgs = s.b.coh.msgs ++ [.data a line (some .m) (bytesLine bs) key]) ∧
          ((alloc && !agentUncached a) = false → t.b.coh.msgs = s.b.coh.msgs ∧ Tab.has t.b.coh.busy line = false)) ∧
      (HomeTakes s.b (w .uncrd) → s.b.linePoisoned line = false → Completes (exec (.uncrd a line) s) fun t =>
        Frame [.coh] s t ∧ t.b.coh.msgs = s.b.coh.msgs ++ [.data a line none d key] ∧ Tab.has t.b.coh.busy line = false) ∧
      (∀ off bs, HomeTakes s.b (w (.uncwr off bs)) → key ≠ 0 → Completes (exec (.uncwr a line off bs) s) fun t =>
        Frame [.coh, .mem] s t ∧ t.b.memLine key line = patchLine d off bs ∧ t.b.coh.msgs = s.b.coh.msgs ∧
        t.b.mem.poison = s.b.mem.poison) ∧
      (∀ off op x y, HomeTakes s.b (w (.atomic off op x y)) → key ≠ 0 → s.b.linePoisoned line = false →
        Completes (exec (.atomicHome a line off op x y) s) fun t =>
          Frame [.coh, .mem] s t ∧ t.b.memLine key line = (atomicLine d off op x y).1 ∧
          t.b.coh.msgs = s.b.coh.msgs ++ [.data a line none (BitVec.ofNat 1024 (atomicLine d off op x y).2) key])) ∧
    (∀ x, Tab.find s.b.coh.busy line = some x → (x.snoops ≠ [] ∨ x.acked = false) → x.waitsFor = none →
      s.b.inDomain a line = true → (∀ y ∈ s.b.coh.waiting, ¬(y.agent = a ∧ y.line = line)) →
      (agentUncached a = false → Completes (exec (.rdx a line) s) fun t =>
        Frame [.coh, .slices] s t ∧ t.b.coh.msgs = s.b.coh.msgs ++ [.nack a line] ∧
        t.b.coh.waiting = s.b.coh.waiting ++ [w .rdx] ∧ t.b.coh.lines = s.b.coh.lines ∧
        (t.b.slice (agentSlice a)).cnt.cohNacks = up32 (s.b.slice (agentSlice a)).cnt.cohNacks) ∧
      (agentUncached a = true → Completes (exec (.uncrd a line) s) fun t =>
        Frame [.coh] s t ∧ t.b.coh.uncQueue = s.b.coh.uncQueue ++ [w .uncrd] ∧ t.b.coh.msgs = s.b.coh.msgs)) ∧
    (∀ l, s.b.coh.lineOf a line = some l → l.st = .m → s.b.lineHeld a line = false →
      (∀ x ∈ s.b.coh.wbuf, ¬(x.agent = a ∧ x.line = line)) →
      (Tab.has s.b.coh.busy line = false → (s.b.coh.filt line).bind (·.owner) = some a → l.key ≠ 0 →
        Completes (exec (.wb a line) s) fun t =>
          Frame [.coh, .mem, .cores] s t ∧ t.b.memLine l.key line = l.data ∧ t.b.coh.lineOf a line = none ∧
          t.b.coh.filt line = none ∧ t.b.coh.msgs = s.b.coh.msgs ++ [.cmpwb a line] ∧
          (∃ x ∈ t.b.coh.wbuf, x.agent = a ∧ x.line = line ∧ x.accepted = true)) ∧
      (Tab.has s.b.coh.busy line = true → Completes (exec (.wb a line) s) fun t =>
        Frame [.coh, .cores] s t ∧ t.b.coh.lineOf a line = none ∧ t.b.coh.msgs = s.b.coh.msgs ∧
        (∃ x ∈ t.b.coh.wbuf, x.agent = a ∧ x.line = line ∧ x.data = l.data ∧ x.accepted = false) ∧
        (∃ x ∈ t.b.coh.uncQueue, x.agent = a ∧ x.line = line ∧ x.req = .wb)))

/-- R281, R284 to R287, R290, R291, R298: an agent answers a snoop from the state in which it has the line, or from its write-back
buffer, and parks one that reaches a line it holds; a requester takes its data, its Nack, its CmpWB or its Poison; the home takes
responses and the Ack. -/
def Obligations.AgentsAnswerAndReceive : Prop :=
  ∀ (s : State) (a : Agent) (line : Nat), s.b.gated = false →
    let mem := s.b.coh.msgs
    (∀ k req,
      let answers (p : State → Prop) : Prop :=
        (k = .shared → Completes (exec (.snps a line) s) p) ∧ (k = .own → Completes (exec (.snpx a line) s) p) ∧
        (k = .cur → Completes (exec (.snpcur a line) s) p)
      (mem.find? fun m => match m with
        | .snoop d l j _ => d == a && l == line && j == k
        | _ => false) = some (.snoop a line k req) →
      let rest := mem.erase (.snoop a line k req)
      (s.b.coh.lineOf a line = none →
        ((∀ x ∈ s.b.coh.wbuf, ¬(x.agent = a ∧ x.line = line)) → answers fun t =>
          Frame [.coh] s t ∧ t.b.coh.msgs = rest ++ [.rsp a line none false none false] ∧ t.b.coh.lines = s.b.coh.lines) ∧
        (∀ x, (s.b.coh.wbuf.find? fun x => x.agent == a && x.line == line && !x.taken) = some x → answers fun t =>
          Frame [.coh] s t ∧ t.b.coh.msgs = rest ++ [.rsp a line none false (some x.data) true] ∧
          { x with taken := true } ∈ t.b.coh.wbuf ∧ t.b.coh.lines = s.b.coh.lines)) ∧
      (∀ l, s.b.coh.lineOf a line = some l → s.b.lineHeld a line = false →
        (k = .shared → l.st ≠ .s → answers fun t =>
          Frame [.coh] s t ∧ t.b.coh.lineOf a line = some { l with st := fwdState a } ∧
          t.b.coh.msgs = rest ++ [.data req line (some .s) l.data l.key,
            .rsp a line (some (fwdState a)) true (if l.st = .m then some l.data else none) false]) ∧
        (k = .shared → l.st = .s → answers fun t =>
          Frame [.coh] s t ∧ t.b.coh.msgs = rest ++ [.rsp a line (some .s) false none false] ∧ t.b.coh.lines = s.b.coh.lines) ∧
        (k = .own → l.st = .s → answers fun t =>
          Frame [.coh, .cores] s t ∧ t.b.coh.msgs = rest ++ [.rsp a line none false none false] ∧ t.b.coh.lineOf a line = none) ∧
        (k = .own → ∀ x, Tab.find s.b.coh.busy line = some x → (x.req = .rds ∨ x.req = .rdx) → l.st ≠ .s →
          answers fun t =>
            Frame [.coh, .cores] s t ∧ t.b.coh.lineOf a line = none ∧
            t.b.coh.msgs = rest ++ [.data req line (some (if l.st = .m then .m else .e)) l.data l.key, .rsp a line none true none false]) ∧
        (k = .cur → answers fun t =>
          Frame [.coh] s t ∧ t.b.coh.lines = s.b.coh.lines ∧
          t.b.coh.msgs = rest ++ [.rsp a line (some l.st) false (if l.st = .m ∨ l.st = .e then some l.data else none) false])) ∧
      (s.b.lineHeld a line = true → (s.b.coh.parks.filter fun p => p.1 == a).length < 16 → answers fun t =>
        Frame [.coh, .slices] s t ∧ t.b.coh.msgs = rest ∧ t.b.coh.parks = s.b.coh.parks ++ [(a, line, k, req)] ∧
        (t.b.slice (agentSlice a)).cnt.cohParked = up32 (s.b.slice (agentSlice a)).cnt.cohParked)) ∧
    (∀ st d key, (mem.find? fun m => match m with
        | .data x l _ _ _ => x == a && l == line
        | _ => false) = some (.data a line st d key) →
      Completes (exec (.data a line) s) fun t =>
        Frame [.coh, .cores] s t ∧
        (∀ x, st = some x → t.b.coh.msgs = mem.erase (.data a line st d key) ++ [.ack a line] ∧
          t.b.coh.waiting = (s.b.coh.dropWant a line fun w => w.req.fills).waiting ∧
          (s.b.noWays a = false → ∃ way, t.b.coh.lineOf a line = some
            { agent := a, line := line, st := x, data := d, key := key, way := way, age := 2
              holdTo := if s.b.holds (agentSlice a) = true ∧ (x = .e ∨ x = .m)
                then s.b.time.clk + (s.b.slice (agentSlice a)).holdClk else 0 }) ∧
          (s.b.noWays a = true → s.b.coh.lineOf a line = none → t.b.coh.lineOf a line = none)) ∧
        (st = none → t.b.coh.msgs = mem.erase (.data a line st d key) ∧ t.b.coh.lines = s.b.coh.lines ∧
          t.b.coh.waiting = (s.b.coh.dropWant a line fun w => w.req.reads && w.st == .served).waiting ∧
            (a, line, d) ∈ t.b.coh.returned)) ∧
    (∀ x st fwd wbd wbf, (mem.find? fun m => match m with
        | .rsp y l _ _ _ _ => y == a && l == line
        | _ => false) = some (.rsp a line st fwd wbd wbf) →
      let rest := mem.erase (.rsp a line st fwd wbd wbf)
      Tab.find s.b.coh.busy line = some x → a ∈ x.snoops → x.acked = false → x.waitsFor = none →
      ((∃ y ∈ x.snoops, y ≠ a) → Completes (exec (.rsp a line) s) fun t =>
        Frame [.coh, .mem] s t ∧ t.b.coh.msgs = rest ∧
        ∃ y, Tab.find t.b.coh.busy line = some y ∧ y.snoops = (x.snoops.filter fun z => z != a) ∧
          y.fwd = (x.fwd || fwd) ∧ y.kept = (x.kept || st.isSome) ∧ y.wbd = (if wbd.isSome then wbd else x.wbd)) ∧
      ((∀ y ∈ x.snoops, y = a) → fwd = true → (x.req = .rds ∨ x.req = .rdx) → Completes (exec (.rsp a line) s) fun t =>
        Frame [.coh, .mem] s t ∧ t.b.coh.msgs = rest ∧
        (t.b.coh.filt line).map (·.owner) = some (if x.req = .rds then none else some x.requester) ∧
        (∀ d, wbd = some d → x.key ≠ 0 → t.b.memLine x.key line = d)) ∧
      ((∀ y ∈ x.snoops, y = a) → fwd = false → st = none → wbd = none → x.fwd = false → x.kept = false → x.wbd = none →
        (x.req = .rds ∨ x.req = .rdx) → s.b.linePoisoned line = false → Completes (exec (.rsp a line) s) fun t =>
          Frame [.coh] s t ∧ t.b.coh.msgs = rest ++ [.data x.requester line (some .e) (s.b.memLine x.key line) x.key] ∧
          (t.b.coh.filt line).map (·.owner) = some (some x.requester))) ∧
    (CohMsg.ack a line ∈ mem → ∀ x, Tab.find s.b.coh.busy line = some x → x.requester = a → x.snoops = [] → x.waitsFor = none →
      NothingWaits s.b line → Completes (exec (.cohAck a line) s) fun t =>
        Frame [.coh] s t ∧ t.b.coh.msgs = mem.erase (.ack a line) ∧ Tab.has t.b.coh.busy line = false ∧
        t.b.coh.lines = s.b.coh.lines ∧
        (Tab.get [] s.b.coh.retry line = [] → t.b.coh.reserved = s.b.coh.reserved) ∧
        (∀ h l, Tab.get [] s.b.coh.retry line = h :: l → s.b.classes (s.b.groupOwner (homeOf line)) = true →
          t.b.coh.reserved = (s.b.coh.reserved.filter fun r => r.1 != line) ++ [(line, h, s.b.time.clk + 256)])) ∧
    (CohMsg.nack a line ∈ mem → Completes (exec (.nack a line) s) fun t =>
      Frame [.coh] s t ∧ t.b.coh.msgs = mem.erase (.nack a line) ∧
      ∀ x, (s.b.coh.waiting.find? fun w => w.agent == a && w.line == line && w.st == .sent) = some x →
        (s.b.classes (agentSlice a) = true → t.b.coh.waiting = s.b.coh.waiting.replace x { x with st := .nacked }) ∧
        (s.b.classes (agentSlice a) = false → ∃ c, 16 ≤ c ∧ c ≤ 1023 ∧
          t.b.coh.waiting = s.b.coh.waiting.replace x { x with st := .nacked, retryAt := some (s.b.time.clk + c) })) ∧
    (CohMsg.cmpwb a line ∈ mem → ∀ x, (s.b.coh.wbuf.find? fun x => x.agent == a && x.line == line && x.accepted) = some x →
      Completes (exec (.cmpwb a line) s) fun t =>
        Frame [.coh] s t ∧ t.b.coh.msgs = mem.erase (.cmpwb a line) ∧ t.b.coh.wbuf = s.b.coh.wbuf.erase x ∧
        t.b.coh.lines = s.b.coh.lines) ∧
    (CohMsg.poison a line ∈ mem → Completes (exec (.cohPoison a line) s) fun t =>
      Frame [.coh] s t ∧ t.b.coh.msgs = mem.erase (.poison a line) ∧
      t.b.coh.waiting = (s.b.coh.dropWant a line fun _ => true).waiting ∧ t.b.coh.lines = s.b.coh.lines)

/-- R289 to R291, R295 to R297: the end of a hold answers the parked snoops; a reservation lapses; a delayed request is tried
again; a privileged agent that does not answer costs the line, and a cluster that does not, or a request that gets nowhere,
the whole domain, whose control processors halt. Before its time has come, none of these has an effect. -/
def Obligations.CoherenceTimersExpire : Prop :=
  (∀ (s : State) (a : Agent) (line : Nat),
    (s.b.lineHeld a line = false → s.b.gated = false → Completes (exec (.holdEnd a line) s) fun t =>
      Frame [.coh, .cores] s t ∧ t.b.lineHeld a line = false ∧ (∀ p ∈ t.b.coh.parks, ¬(p.1 = a ∧ p.2.1 = line)) ∧
      s.b.coh.msgs.length + (s.b.coh.parks.filter fun p => p.1 == a && p.2.1 == line).length ≤ t.b.coh.msgs.length) ∧
    (s.b.lineHeld a line = true → exec (.holdEnd a line) s = .next s)) ∧
  (∀ (s : State) (line : Nat),
    (∀ r, (s.b.coh.reserved.find? fun x => x.1 == line && x.2.2 ≤ s.b.time.clk) = some r → (∀ w ∈ s.b.coh.uncQueue, w.line ≠ line) →
      s.b.gated = false → Completes (exec (.retryReservationLapse line) s) fun t =>
        Frame [.coh] s t ∧ r.2.1 ∉ Tab.get [] t.b.coh.retry line ∧ t.b.coh.lines = s.b.coh.lines ∧ t.b.coh.msgs = s.b.coh.msgs ∧
        (∀ x ∈ t.b.coh.reserved, x.1 = line → x.2.1 ≠ r.2.1 ∧ x.2.2 = s.b.time.clk + 256)) ∧
    ((∀ x ∈ s.b.coh.reserved, x.1 = line → s.b.time.clk < x.2.2) → exec (.retryReservationLapse line) s = .next s)) ∧
  (∀ (s : State) (w : Want),
    (s.b.coh.waiting.find? fun x => x.agent == w.agent && x.line == w.line && x.retryAt.any (· ≤ s.b.time.clk)) = some w →
    s.b.gated = false → (w.req = .rds ∨ w.req = .rdx) → Tab.find s.b.coh.busy w.line = none → s.b.reservedFor w.line = none →
    (s.b.coh.busy.filter fun x => homeOf x.1 == homeOf w.line).length < 64 → s.b.setFull w = false →
    s.b.coh.filt w.line = none → s.b.linePoisoned w.line = false →
    Completes (exec (.retryDelayExpiry w.agent w.line) s) fun t =>
      Frame [.coh] s t ∧ t.b.coh.msgs = s.b.coh.msgs ++ [.data w.agent w.line (some .e) (s.b.memLine w.key w.line) w.key] ∧
      Tab.has t.b.coh.busy w.line = true ∧ { w with retryAt := none, st := .served } ∈ t.b.coh.waiting) ∧
  (∀ (s : State) (a : Agent) (line : Nat) (x : Txn), Tab.find s.b.coh.busy line = some x → a ∈ x.snoops →
    (s.b.time.clk < x.since + s.b.ladder.cohSnoopTimeout → exec (.snoopTimeout a line) s = .next s) ∧
    (x.since + s.b.ladder.cohSnoopTimeout ≤ s.b.time.clk → s.b.gated = false →
      (agentPriv a = true → x.waitsFor = none → NothingWaits s.b line → Completes (exec (.snoopTimeout a line) s) fun t =>
        Frame [.coh, .mem, .slices, .tally] s t ∧ Tab.get false t.b.mem.poison line = true ∧ t.b.coh.lineOf a line = none ∧
        (x.req ≠ .evict → x.requester ≠ recaller (agentSlice x.requester) → CohMsg.poison x.requester line ∈ t.b.coh.msgs) ∧
        (x.req ≠ .evict → Tab.has t.b.coh.busy line = false) ∧
        (x.req = .evict → ∀ y, Tab.find t.b.coh.busy line = some y → y.snoops = x.snoops.filter fun z => z != a) ∧
        (t.b.slice (agentSlice a)).cnt.cohPoisoned = up32 (s.b.slice (agentSlice a)).cnt.cohPoisoned) ∧
      (agentPriv a = false → Completes (exec (.snoopTimeout a line) s) fun t =>
        Frame [.coh, .mem, .cores, .slices, .ports, .tally, .ladder] s t ∧
          (∀ c ∈ s.b.coresOf (agentSlice a), (t.b.core c).hart.halted = true) ∧
        (∀ l ∈ t.b.coh.lines, agentSlice l.agent ≠ agentSlice a) ∧
        Tab.get false t.b.ports.irq (16 * agentSlice a + 4) = true ∧
        t.b.ladder.dueSlice = s.b.ladder.dueSlice ++ [(agentSlice a, 5, s.b.time.clk, s.b.stamp)]))) ∧
  (∀ (s : State) (a : Agent) (line : Nat) (w : Want), w ∈ s.b.coh.waiting → w.agent = a → w.line = line →
    w.since + s.b.ladder.cohReqTimeout ≤ s.b.time.clk → s.b.gated = false → Completes (exec (.reqTimeout a line) s) fun t =>
      Frame [.coh, .mem, .cores, .slices, .ports, .tally, .ladder] s t ∧
        (∀ c ∈ s.b.coresOf (agentSlice a), (t.b.core c).hart.halted = true) ∧
      (∀ l ∈ t.b.coh.lines, agentSlice l.agent ≠ agentSlice a) ∧ Tab.get false t.b.ports.irq (16 * agentSlice a + 4) = true ∧
      CohMsg.poison a line ∈ t.b.coh.msgs ∧
      t.b.ladder.dueSlice = s.b.ladder.dueSlice ++ [(agentSlice a, 5, s.b.time.clk, s.b.stamp)])

/-! ### Start-up and power -/

/-- R357 to R359, R384 to R386, R390 to R392, R450: the fuse stage takes the life-cycle state and the fuses' values; the image stage
waits for CFG_RST_N and loads the newer slot that passes, else the other; the release stage powers its domains and ends once they
and the commons' memory are ready; the running stage follows; and a loss of power leaves the fuses and what the flash holds. -/
def Obligations.StartUpStages : Prop :=
  (∀ s : State, s.b.start.stage = 0 →
    (Completes (exec (.mgtRstNDeassert false) s) fun t => Frame [.start] s t ∧ t.b.start.stage = 15 ∧ t.b.start.fault = 2) ∧
    (Completes (exec (.mgtRstNDeassert true) s) fun t =>
      Frame [.life, .start, .power, .tally, .draws] s t ∧ t.b.life.lcs = lcsOf s.fuse ∧
      (∀ x ∈ repairsOf s.fuse, 118 ≤ Config.macroDomain x.1 → x.2 ∈ Tab.get [] t.b.power.repaired x.1) ∧
        t.b.life.svn = svnOf s.fuse ∧
      t.b.start.serial = s.fuse.extractLsb' 1760 64 ∧ t.b.start.maxSlices = maxSlicesOf s.fuse ∧
      ((lcsOf s.fuse = 7 ∨ lcsOf s.fuse = 15) → t.b.start.stage = 15 ∧ t.b.start.fault = 1) ∧
      ((lcsOf s.fuse ≠ 7 ∧ lcsOf s.fuse ≠ 15) → t.b.start.stage = 1))) ∧
  (∀ s : State, s.b.start.stage = 1 → s.b.start.cfgRstN = false → ∀ ok, exec (.imageStage ok) s = .next s) ∧
  (∀ s : State, s.b.start.stage = 1 → s.b.start.cfgRstN = true →
    let first := s.flash.firstSlot
    (Completes (exec (.imageStage false) s) fun t => Frame [.start] s t ∧ t.b.start.stage = 15 ∧ t.b.start.fault = 4) ∧
    (∀ x fell, (fell = false ∧ s.flash.slotImage s.fuse s.b first = some x) ∨
        (fell = true ∧ s.flash.slotImage s.fuse s.b first = none ∧ s.flash.slotImage s.fuse s.b (1 - first) = some x) →
      Completes (exec (.imageStage true) s) fun t =>
        Frame [.start, .parade, .dict, .recon, .ladder, .tally, .life, .draws, .keys, .keyGens] s t ∧ t.b.start.stage = 2 ∧
        t.b.start.slot = (if fell then 1 - first else first) ∧ t.b.start.fellBack = fell ∧
        t.b.start.configDigest = imageDigest x ∧ t.b.parade.map = x.map ∧ t.b.start.commons = x.commons ∧
        t.b.ladder.retCores = s.flash.retired.cores ∧ t.b.ladder.retGroups = s.flash.retired.groups) ∧
    (s.flash.slotImage s.fuse s.b first = none → s.flash.slotImage s.fuse s.b (1 - first) = none →
      Completes (exec (.imageStage true) s) fun t =>
        Frame [.start, .parade] s t ∧ t.b.start.stage = 15 ∧ t.b.start.fault = 3 ∧ t.b.parade.map = s.b.parade.map)) ∧
  (∀ s : State,
    (s.b.start.stage = 2 → s.b.power.level < 2 → Completes (exec .releaseStage s) fun t =>
      Frame [.start, .power, .ports] s t ∧ t.b.start.stage = 3 ∧ t.b.start.released = s.b.start.released ∧
      ∀ d ∈ s.b.releaseDomains, s.b.power.isReq d = false → d ∈ t.b.power.upWait) ∧
    (s.b.start.stage = 3 → s.b.start.released = false → s.b.releaseReady = true → Completes (exec .releaseStage s) fun t =>
      Frame [.time, .start, .parade, .draws] s t ∧ 500000000 ≤ t.b.time.computeHz ∧ t.b.time.computeHz ≤ 1500000000 ∧ t.b.time.clk = s.b.time.clk ∧ t.b.start.released = true ∧
        t.b.parade.st = .empty ∧ t.b.start.level = s.b.start.levelNow) ∧
    (s.b.start.stage = 3 → s.b.start.released = true → Completes (exec .runningStage s) fun t =>
      Frame [.start] s t ∧ t.b.start = { s.b.start with stage := 4 }) ∧
    (∀ p, Completes (exec (.mcpInitDone p) s) fun t =>
      Frame [.start] s t ∧ ∀ j, Tab.get false t.b.start.mcpInit j = if j = p then true else Tab.get false s.b.start.mcpInit j) ∧
    (∀ p ∈ s.b.commonsPorts, s.b.start.stage = 3 → s.b.start.released = false → Tab.get false s.b.start.mcpInit p = false →
      s.b.memoryLate p = true → Completes (exec (.mcpInitTimeout p) s) fun t => Frame [.start] s t ∧ t.b.start.stage = 15 ∧
        t.b.start.fault = 6) ∧
    (Completes (exec .lossOfPower s) fun t =>
      t.pending = s.pending ∧ t.fuse = s.fuse ∧ t.flash.bytes = s.flash.bytes ∧ t.flash.retired = s.flash.retired ∧
      t.flash.held = [] ∧
      (∀ k, Tab.find t.flash.sealed k =
        if (Tab.keys s.flash.held).any (fun r => (s.flash.sealNext r).1 == k) then none else Tab.find s.flash.sealed k) ∧
          t.b.start = StartUp.reset ∧ t.b.time = TimeBase.reset ∧ t.b.parade = Parade.reset ∧
        t.b.dict = Dict.reset ∧
      t.b.power = Power.reset ∧ t.b.keys = [] ∧ t.b.slices = [] ∧ t.b.cores = [] ∧ t.b.ctxs = [] ∧ t.b.queues = [] ∧
      t.b.fences = []))

/-- R394, R396: PD_REQ rises for a domain that may switch; the block sees PD_ACK two clocks after it rose, and the power-up takes 64
more and the loading of the repair entries, whose time is free; in the clock in which that ends the domain is on, its core cleared
and its macros repaired; PD_REQ falls for a domain that is to go off; and a domain whose PD_ACK has not come in PD_TIMEOUT, or falls
while PD_REQ is held, has failed for good. -/
def Obligations.PowerDomainsSwitchAndFail : Prop :=
  ∀ (s : State) (d : Nat),
    let p := s.b.power
    let off (t : State) : Prop := t.b.power.isReq d = false ∧ t.b.power.isOn d = false
    let failed (t : State) : Prop :=
      t.pending = s.pending ∧ t.fuse = s.fuse ∧ off t ∧ t.b.power.isFailed d = true ∧
      t.b.tallyGet 0x8010 9 = min 4294967295 (s.b.tallyGet 0x8010 9 + 1) ∧
      (∀ e, e ≠ d → t.b.power.isFailed e = p.isFailed e ∧ t.b.power.isOn e = p.isOn e) ∧
      (d < 64 → t.b.ladder.retCores.getLsbD d = true ∧ t.flash.retired.cores.getLsbD d = true ∧
        ((s.b.core d).owner ≠ 0 →
          t.b.ladder.dueSlice = s.b.ladder.dueSlice ++ [((s.b.core d).owner, 8, s.b.time.clk, s.b.stamp)]))
    (p.mayServe d = true → d ∈ p.upWait → p.isReq d = false → p.isAck d = false → Completes (exec (.pdReqRaise d) s) fun t =>
      Frame [.power] s t ∧ t.b.power.isReq d = true ∧ d ∉ t.b.power.upWait ∧ t.b.power.on = p.on ∧
      Tab.find t.b.power.reqAt d = some s.b.time.mclk ∧
      ∀ e, e ≠ d → t.b.power.isReq e = p.isReq e) ∧
    (p.isReq d = true → p.isAck d = false → p.isOn d = false → Completes (exec (.pdAckRise d) s) fun t =>
      Frame [.power, .draws] s t ∧ t.b.power.isAck d = true ∧ t.b.power.on = p.on ∧
      (∃ r, Tab.find t.b.power.upAt d = some (s.b.time.mclk + 66 + r)) ∧ ∀ e, e ≠ d → t.b.power.isAck e = p.isAck e) ∧
    (∀ at_, p.upAt = [(d, at_)] →
      (s.b.time.mclk < at_ → s.b.powerTick = s.b) ∧
      (at_ ≤ s.b.time.mclk → s.b.Keeps [.power, .cores, .coh, .ports] s.b.powerTick ∧ s.b.powerTick.power.isOn d = true ∧
        s.b.powerTick.power.upAt = [] ∧
        (∀ x ∈ s.b.start.repairs, Config.macroDomain x.1 = d → x.2 ∈ Tab.get [] s.b.powerTick.power.repaired x.1) ∧ (d < 64 →
          s.b.powerTick.core d = (s.b.core d).powerUp) ∧
        ∀ e, e ≠ d → s.b.powerTick.power.isOn e = p.isOn e ∧ s.b.powerTick.core e = s.b.core e)) ∧
    (p.mayServe d = true → d ∈ p.downWait → Completes (exec (.pdPowerDown d) s) fun t =>
      Frame [.power, .cores, .coh] s t ∧ off t ∧ d ∉ t.b.power.downWait ∧
      ∀ e, e ≠ d → t.b.power.isReq e = p.isReq e ∧ t.b.power.isOn e = p.isOn e) ∧
    (p.isReq d = true → p.isAck d = true → Completes (exec (.pdAckFall d) s) failed) ∧
    (p.isReq d = true → p.isAck d = false → p.ackLate d s.b.time.mclk = true → Completes (exec (.pdTimeout d) s) failed) ∧
    (p.isReq d = true → p.isAck d = false → p.ackLate d s.b.time.mclk = false →
      exec (.pdTimeout d) s = .next { s with flash := s.flash.retire s.b.ladder }) ∧
    (p.isReq d = false → Completes (exec (.pdAckFall d) s) fun t =>
      t.fuse = s.fuse ∧ s.b.Keeps [.power] t.b ∧ t.b.power.isAck d = false ∧ t.b.power.on = p.on ∧ t.b.power.failed = p.failed)

/-- R398 to R405: a sample takes the codes of the eight monitors, and the level rises at once to the highest whose entry
condition holds; POWER_WARN means level 4 and, held for WARN_HALT, level 5; a level is left one at a time, once its exit condition
has held for EXIT_HOLD; a shutdown is level 5
with a save, and is ready once the tallies and the retirement list are stored. -/
def Obligations.SheddingLevelsAndShutdown : Prop :=
  (∀ s : State, s.b.start.stage ≠ 0 →
    let changed : List Part := [.power, .tally, .ports, .dict, .parade, .slices, .fences, .queues, .ctxs, .mem, .coh, .cores]
    let raised (p : Power) (t : State) : Prop :=
      Frame changed s t ∧ t.b.power.level = max s.b.power.level ({ s.b with power := p }).entryLevel.1
    (∀ codes warn, Completes (exec (.droopSample codes warn) s) fun t =>
      raised { s.b.power.sees warn s.b.time.mclk with codes := (List.range 8).map fun i => codes.getD i 0 % 64 } t ∧
      t.b.power.warn = warn ∧ ∀ i, i < 8 → t.b.power.codes.getD i 0 = codes.getD i 0 % 64) ∧
    (Completes (exec .powerWarnRise s) fun t =>
      raised (s.b.power.sees true s.b.time.mclk) t ∧ 4 ≤ t.b.power.level ∧ t.b.power.warn = true) ∧
    (s.b.power.warn = true → s.b.power.warnAt + s.b.power.warnHalt * usClk ≤ s.b.time.mclk →
      Completes (exec .warnHaltExpiry s) fun t => raised { s.b.power with warnHalted := true } t ∧ 5 ≤ t.b.power.level) ∧
    (s.b.time.mclk < s.b.power.warnAt + s.b.power.warnHalt * usClk → exec .warnHaltExpiry s = .next s) ∧
    (s.b.power.exitDue s.b.time.mclk = false → exec .exitHoldExpiry s = .next s) ∧
    (s.b.power.exitDue s.b.time.mclk = true → 1 ≤ s.b.power.level → s.b.power.shutdown = false →
      Completes (exec .exitHoldExpiry s) fun t =>
      Frame (.time :: .draws :: changed) s t ∧ (s.b.power.level ≠ 5 → t.b.time = s.b.time) ∧
      (s.b.power.level = 5 → 500000000 ≤ t.b.time.computeHz ∧ t.b.time.computeHz ≤ 1500000000 ∧ t.b.time.clk = s.b.time.clk) ∧
        t.b.power.level = max (s.b.power.level - 1) s.b.entryLevel.1) ∧
    (∀ eid tag, Admitted s.b eid 0x7003 1 [1] → s.b.power.shutdown = false → s.b.power.level ≤ 5 →
      Completes (exec (.shutdown eid tag 1) s) fun t =>
        Frame changed s t ∧ t.b.power.shutdown = true ∧ t.b.power.level = 5 ∧ t.b.tally.savePending = true)) ∧
  (∀ s : State, s.b.power.shutdown = true → s.b.tally.saving = none → s.b.tally.savePending = false →
    Completes (exec .shutdownReady s) fun t =>
      t.pending = s.pending ∧ t.fuse = s.fuse ∧ s.b.Keeps [.power] t.b ∧ t.b.power = { s.b.power with shutdownReady := true } ∧
      t.flash.bytes = s.flash.bytes ∧ t.flash.sealed = s.flash.sealed ∧ t.flash.held = s.flash.held ∧
      t.flash.retired.cores = s.flash.retired.cores ||| s.b.ladder.retCores ∧
      t.flash.retired.groups = s.flash.retired.groups ||| s.b.ladder.retGroups ∧
      t.flash.retired.ways = s.flash.retired.ways ||| s.b.ladder.usedWays ∧
      t.flash.retired.banks = s.flash.retired.banks ||| s.b.ladder.usedBanks)

/-- R107, R424 to R430: a checkpoint, the timer of an unlocked stride and SAVE_NOW ask for a save; a save takes its record of 32,768
bytes, which stands in the flash at its own position when it ends; intervals and minutes are counted; TALLY_CLEAR clears every
tally in BLANK and TEST. -/
def Obligations.TalliesCountAndAreSaved : Prop :=
  ∀ s : State,
    (s.b.time.started = true → s.b.time.count.toNat % s.b.time.checkpointEvery = 0 → s.b.parade.tallyPhase ≤ s.b.phaseNow →
      s.b.tally.checkedIn ≠ some s.b.time.count.toNat → s.b.earlier s.fuse 9 = false →
      Completes (exec .tallyCheckpoint s) fun t =>
        Frame [.tally] s t ∧ t.b.tally = { s.b.tally with checkedIn := some s.b.time.count.toNat, savePending := true }) ∧
    (s.b.start.stage ≠ 0 → s.b.time.lock = .unlocked → s.b.tally.unlockedAt + msClks 600000 ≤ s.b.time.mclk →
      Completes (exec .tallyUnlockedTimer s) fun t =>
        Frame [.tally] s t ∧ t.b.tally = { s.b.tally with savePending := true, unlockedAt := s.b.time.mclk }) ∧
    (∀ eid tag, Admitted s.b eid 0x8000 7 [1] → (∀ t, s.b.tally.lastSaveAt = some t → t + 60 * 750000000 ≤ s.b.time.mclk) →
      Completes (exec (.saveNow eid tag 1) s) fun t =>
        Frame [.tally, .ports, .dict] s t ∧ t.b.tally = { s.b.tally with savePending := true }) ∧
    (s.b.tally.savePending = true → s.b.tally.saving = none → Completes (exec .tallySave s) fun t =>
      Frame [.tally] s t ∧ t.b.tally.t = s.b.tally.t ∧ t.b.tally.saveSeq = (s.b.tally.saveSeq + 1) % 2 ^ 32 ∧
      t.b.tally.savePending = false ∧ ∃ r, t.b.tally.saving = some r ∧ r.length = 32768 ∧ recordSeq r = t.b.tally.saveSeq) ∧
    (∀ r, s.b.tally.saving = some r →
      (Completes (exec (.tallySaveComplete true) s) fun t =>
        t.pending = s.pending ∧ t.fuse = s.fuse ∧ s.b.Keeps [.tally] t.b ∧ t.b.tally.saving = none ∧
        t.b.tallyGet 0x8000 1 = recordSeq r ∧ t.flash.sealed = s.flash.sealed ∧ t.flash.retired = s.flash.retired ∧
        t.flash.bytes.readN (recordAt (recordSeq r)) r.length = r ∧
        ∀ a, (a < recordAt (recordSeq r) ∨ recordAt (recordSeq r) + r.length ≤ a) → t.flash.bytes.read a = s.flash.bytes.read a) ∧
      (Completes (exec (.tallySaveComplete false) s) fun t =>
        t.pending = s.pending ∧ t.fuse = s.fuse ∧ s.b.Keeps [.tally, .draws] t.b ∧ t.b.tally.saving = none ∧
        t.b.tallyGet 0x8000 4 = min 4294967295 (s.b.tallyGet 0x8000 4 + 1) ∧
        ∀ a, (a < recordAt (recordSeq r) ∨ recordAt (recordSeq r) + 32768 ≤ a) → t.flash.bytes.read a = s.flash.bytes.read a)) ∧
    (s.b.start.stage ≠ 0 →
      (s.b.tally.droopAt + msClks 1 ≤ s.b.time.mclk → Completes (exec (.histogramInterval none) s) fun t =>
        Frame [.tally, .power] s t ∧ ∀ i, i < 8 → s.b.power.dmEnable.getLsbD i = true →
          let bin := droopBin (s.b.power.maxDroop.getD i 0) + 1
          t.b.tallyGet (0x8100 + i) bin = min (2 ^ 64 - 1) (s.b.tallyGet (0x8100 + i) bin + 1) ∧
          ∀ k, k < 256 → k ≠ bin → t.b.tallyGet (0x8100 + i) k = s.b.tallyGet (0x8100 + i) k) ∧
      (∀ l, s.b.tally.tempAt + msClks 1000 ≤ s.b.time.mclk → Completes (exec (.histogramInterval (some l)) s) fun t =>
        Frame [.tally] s t ∧ ∀ i, i < 8 →
          let bin := tempBin (l.getD i 0 + s.b.start.thermTrim.getD i 0) + 1
          t.b.tallyGet (0x8110 + i) bin = min 4294967295 (s.b.tallyGet (0x8110 + i) bin + 1) ∧
          ∀ k, k < 256 → k ≠ bin → t.b.tallyGet (0x8110 + i) k = s.b.tallyGet (0x8110 + i) k) ∧
      (s.b.tally.minuteAt + msClks 60000 ≤ s.b.time.mclk → Completes (exec .powerOnMinute s) fun t =>
        Frame [.tally] s t ∧ t.b.tallyGet 0x8000 2 = min 4294967295 (s.b.tallyGet 0x8000 2 + 1) ∧
        ∀ i k, k < 256 → (i ≠ 0x8000 ∨ k ≠ 2) → t.b.tallyGet i k = s.b.tallyGet i k)) ∧
    (∀ eid tag, Admitted s.b eid 0x8000 6 [1] → (s.b.life.lcs = 1 ∨ s.b.life.lcs = 2) →
      Completes (exec (.tallyClear eid tag 1) s) fun t =>
        Frame [.tally, .ports, .dict] s t ∧ ∀ i k, t.b.tallyGet i k = 0)

/-! ### The reset ladder -/

/-- R310 to R315, R320, R331, R334: a unit's watchdog that has counted to its end, an uncorrectable error, on whose core Farrier
then acts, a heartbeat, a failed shared unit, a launch that does not end in LAUNCH_GRACE and the operator each ask for their rung
with its cause; a rung that passes its bound asks for the next; and TRAY_REQ follows TRAY_HOLD. A timer that is not over asks for
nothing. -/
def Obligations.FailuresAskForTheirRung : Prop :=
  ∀ s : State,
    let l := s.b.ladder
    (∀ core unit, (s.b.core core).owner ≠ 0 → unit ≤ 5 →
      let n := (s.b.core core).owner
      (s.b.unitHangs core unit = false → exec (.unitWatchdog core unit) s = .next s) ∧
      (s.b.unitHangs core unit = true → (∀ d ∈ l.dueUnit, ¬(d.1 = core ∧ d.2.1 = unit)) →
        (s.b.turnOn n core unit = none → Completes (exec (.unitWatchdog core unit) s) fun t =>
          Frame [.ladder, .cores] s t ∧ t.b.ladder = { l with dueUnit := l.dueUnit ++ [(core, unit, 1, s.b.stamp)] } ∧
          t.b.cores = (s.b.progress core unit).cores) ∧
        (∀ c, s.b.turnOn n core unit = some c → (s.b.ctx c).st = .active → Completes (exec (.unitWatchdog core unit) s) fun t =>
          Frame [.ladder, .ctxs, .queues, .slices, .ports, .mem, .coh, .cores] s t ∧ (t.b.ctx c).st = .faulted ∧
          t.b.ladder = { l with dueUnit := l.dueUnit ++ [(core, unit, 3, s.b.stamp)] })) ∧
      Completes (exec (.unitUncorr core unit) s) fun t =>
        Frame [.ladder] s t ∧ t.b.ladder = { l with dueUnit := l.dueUnit ++ [(core, unit, 2, s.b.stamp)]
                                                    substDue := l.substDue.filter (· != core) ++ [core] }) ∧
    (∀ u, Completes (exec (.feHang u) s) fun t =>
      Frame [.ladder] s t ∧ t.b.ladder = { l with dueBlock := some (l.dueBlock.getD (7, s.b.stamp)) }) ∧
    (∀ cl,
      (s.b.start.clusterEn.getLsbD cl = true → s.b.power.isReq (72 + cl) = true →
        Completes (exec (.sharedUnitFailure cl) s) fun t =>
          Frame [.ladder, .power] s t ∧
          t.b.ladder = { l with dueSlice := l.dueSlice ++ (s.b.slicesIn cl).map (·, 8, s.b.time.clk, s.b.stamp) } ∧
          72 + cl ∈ t.b.power.upWait ∧ 72 + cl ∈ t.b.power.downWait) ∧
      (s.b.start.clusterEn.getLsbD cl = false → exec (.sharedUnitFailure cl) s = .next s)) ∧
    (∀ core x, (s.b.core core).owner ≠ 0 → (s.b.core core).hart.launch = some x → x.resetReq = true →
      (s.b.core core).launchOver = false → x.resetAt + l.launchGrace * usClk ≤ s.b.time.mclk →
        Completes (exec (.launchGraceExpiry core) s) fun t =>
        Frame [.ladder] s t ∧
          t.b.ladder = { l with dueSlice := l.dueSlice ++ [((s.b.core core).owner, 4, s.b.time.clk, s.b.stamp)] }) ∧
    (∀ i, i < 4 → i ∉ l.mgmtHalted → s.b.start.stage ≠ 0 → Completes (exec (.mgmtCoreWatchdog i) s) fun t =>
      Frame [.ladder, .coh, .mem, .slices, .tally, .ports, .dict] s t ∧
      t.b.tallyGet 0x8010 0x0B = min 4294967295 (s.b.tallyGet 0x8010 0x0B + 1) ∧
      ((∃ x ∈ l.mgmtExp, x.1 = i ∧ s.b.time.mclk < x.2 + hourClk) → i ∈ t.b.ladder.mgmtHalted) ∧
      ((∀ x ∈ l.mgmtExp, x.1 = i → x.2 + hourClk ≤ s.b.time.mclk) → t.b.ladder.mgmtHalted = l.mgmtHalted)) ∧
    (∀ eid tag, Admitted s.b eid 0x9000 7 [4] → s.b.dict.roleMask eid = rOP →
      Completes (exec (.rungRequestBlock eid tag) s) fun t =>
      Frame [.ladder, .ports, .dict] s t ∧ t.b.ladder = { l with dueBlock := some (l.dueBlock.getD (9, s.b.stamp)) }) ∧
    (∀ eid tag, Admitted s.b eid 0x9000 7 [5] → Completes (exec (.rungRequestPower eid tag) s) fun t =>
      Frame [.ladder, .ports, .dict] s t ∧ t.b.ladder = { l with duePower := some (l.duePower.getD (9, s.b.stamp)) }) ∧
    (∀ n eid tag, Admitted s.b eid (0x9100 + n) 6 [1] → Completes (exec (.sliceReset n eid tag 1) s) fun t =>
      Frame [.ladder, .ports, .dict] s t ∧ t.b.ladder = { l with dueSlice := l.dueSlice ++ [(n, 9, s.b.time.clk, s.b.stamp)] }) ∧
    (∀ k, s.b.power.level ≠ 5 → l.blockBusy = some k → s.b.rungBound 4 ≤ k → Completes (exec .rungEscalation s) fun t =>
      Frame [.ladder] s t ∧ t.b.ladder = { l with blockBusy := none, duePower := some (l.duePower.getD (6, s.b.stamp)) }) ∧
    (s.b.power.level ≠ 5 → (∀ k, l.blockBusy = some k → k < s.b.rungBound 4) → s.b.rungsLate = [] →
      exec .rungEscalation s = .next s) ∧
    (∀ n r k, s.b.power.level ≠ 5 → l.blockBusy = none → n ∈ s.b.live → s.b.rungDone n = false →
      (s.b.slice n).ladder.busy = some (r, k) → s.b.rungBound r ≤ k →
      (∀ m ∈ s.b.live, m ≠ n → s.b.rungDone m = true ∨ ∀ x, (s.b.slice m).ladder.busy = some x → x.2 < s.b.rungBound x.1) →
      Completes (exec .rungEscalation s) fun t =>
        Frame [.ladder, .slices] s t ∧ (t.b.slice n).ladder.busy = none ∧
        t.b.ladder = (if r = 2 then { l with dueSlice := l.dueSlice ++ [(n, 6, s.b.time.clk, s.b.stamp)] }
          else { l with dueBlock := some (l.dueBlock.getD (6, s.b.stamp)) })) ∧
    (s.b.trayOver = false → exec .trayHoldExpiry s = .next s) ∧
    (s.b.trayOver = true → l.trayReq = false → Completes (exec .trayHoldExpiry s) fun t =>
      Frame [.ladder, .tally] s t ∧ t.b.ladder = { l with trayReq := true } ∧
      t.b.tallyGet 0x8010 0x15 = min 4294967295 (s.b.tallyGet 0x8010 0x15 + 1))

/-- R24, R316 to R320, R324, R329: the engine rung resets its unit and turns its contexts to reset for SUSPECT, and reports itself
and begins their replay once its record is written and every one of them is in SUSPECT; the slice rung halts every control
processor, resets every context and disables every queue of the slice, and slices that one failure reaches report the same stride;
the block rung disables every queue of the block, raises every GEN, loads the sweep map of the image in force, hashes the commons
again and discards the pending requests; the power rung saves the tallies and waits TRAY_HOLD. Each reports itself where it reaches.
-/
def Obligations.RungsRunOnTheirScope : Prop :=
  ∀ s : State,
    let l := s.b.ladder
    (∀ core unit d, (s.b.core core).owner ≠ 0 → (l.dueUnit.find? fun x => x.1 == core && x.2.1 == unit) = some d →
      s.b.rungDone (s.b.core core).owner = true →
      (∀ x ∈ l.dueUnit, (s.b.core x.1).owner = (s.b.core core).owner → dueBefore x d = false) →
      Completes (exec (.engineRung core unit) s) fun t =>
        let y := (t.b.slice (s.b.core core).owner).ladder
        let suspects := if d.2.2.1 = 3 then [] else s.b.unitCtxs core unit
        let late := y.sampling.isSome = true ∨ ∃ c ∈ suspects, (t.b.ctx c).st = .resetting
        t.pending = s.pending ∧ t.fuse = s.fuse ∧ t.flash = s.flash ∧ t.b.ladder = { l with dueUnit := l.dueUnit.erase d } ∧
        y.busy = some (2, 0) ∧
        (late → y.engRung = some { core := core, unit := unit, cause := d.2.2.1, suspects := suspects, stamp := d.2.2.2 }) ∧
        (¬late → y.engRung = none ∧ y.rung = 2 ∧ y.cause = d.2.2.1 ∧ y.unit = unit ∧ y.irqEvent = true) ∧
        (unit < 4 → (t.b.eng core unit).queue = [] ∧
          ∀ o, s.b.runningOp core unit = some o → ∀ x ∈ (t.b.eng core unit).active, x.ticket ≠ o.ticket) ∧
        (unit = 4 → (t.b.core core).vec.run = none ∧ (t.b.core core).vec.queue = []) ∧
        (unit = 5 → (t.b.core core).adapter.steps = [] ∧ (t.b.core core).adapter.fires = []) ∧
        (d.2.2.1 ≠ 3 → ∀ c ∈ s.b.unitCtxs core unit, (s.b.ctx c).st = .active →
          (t.b.ctx c).st = .resetting ∧ (t.b.ctx c).toSuspect = true)) ∧
    (∀ n e, (s.b.slice n).ladder.engRung = some e → (s.b.slice n).ladder.sampling = none →
      (∀ c ∈ e.suspects, (s.b.ctx c).st ≠ .resetting) →
      let y := ((s.b.engineReport n).slice n).ladder
      y.engRung = none ∧ y.rung = 2 ∧ y.cause = e.cause ∧ y.unit = e.unit ∧ y.irqEvent = true ∧
      y.stride = BitVec.ofNat 48 (dfld e.stamp 63 16) ∧
      (e.suspects = [] → y.replay = (s.b.slice n).ladder.replay) ∧
      (e.suspects ≠ [] → (s.b.slice n).ladder.replay = none → y.suspects = e.suspects ∧ y.replay = some
        { core := e.core, unit := e.unit, left := e.suspects, turn := none, turnStride := 0, reserved := false })) ∧
    (∀ n d, (l.dueSlice.find? fun x => x.1 == n) = some d → (s.b.slice n).st ≠ .none → Completes (exec (.sliceRung n) s) fun t =>
      let y := (t.b.slice n).ladder
      t.pending = s.pending ∧ t.fuse = s.fuse ∧ t.flash = s.flash ∧ (∀ x ∈ t.b.ladder.dueSlice, x.1 ≠ n) ∧
      y.rung = 3 ∧ y.cause = d.2.1 ∧ y.irqEvent = true ∧ y.replay = none ∧ y.busy = some (3, 0) ∧
      y.stride = BitVec.ofNat 48 (dfld d.2.2.2 63 16) ∧
      (∀ m, d.2.1 = 8 → (m, d.2) ∈ l.dueSlice → (s.b.slice m).st ≠ .none →
        (t.b.slice m).ladder.rung = 3 ∧ (t.b.slice m).ladder.cause = 8 ∧ (t.b.slice m).ladder.stride = y.stride) ∧
      (∀ c ∈ s.b.coresOf n, (t.b.core c).hart.halted = true ∧ (t.b.core c).hart.launch = none) ∧
      (∀ q ∈ s.b.queuesOf n, (t.b.queue q).enable = false ∧ (t.b.queue q).cmds = []) ∧
      ∀ c ∈ s.b.ctxsOf n, (t.b.ctx c).st = .active) ∧
    (∀ c, l.dueBlock = some c → Completes (exec .blockComputeRung s) fun t =>
      t.pending = s.pending ∧ t.fuse = s.fuse ∧ t.flash = s.flash ∧ t.b.ladder.dueBlock = none ∧ t.b.ladder.dueUnit = [] ∧
      t.b.ladder.dueSlice = [] ∧ t.b.life.debugOpen = false ∧ t.b.queues = [] ∧ t.b.parade.st = .loading ∧
        t.b.parade.staged = none ∧
      (∀ x, s.flash.slotImage s.fuse s.b s.b.start.slot = some x → imageDigest x = s.b.start.configDigest →
        t.b.parade.map = x.map) ∧
      (∀ r ∈ t.b.recon.pend, r.ahead = true) ∧ (∀ v, v < 2048 → (t.b.vi v).gen = (s.b.vi v).gen + 1) ∧
      ∀ n ∈ s.b.live, (t.b.slice n).ladder.rung = 4 ∧ (t.b.slice n).ladder.cause = c.1) ∧
    (∀ c, l.duePower = some c → l.trayFrom = none → Completes (exec .powerCycleRung s) fun t =>
      t.pending = s.pending ∧ t.fuse = s.fuse ∧ t.flash = s.flash ∧ t.b.ladder.duePower = none ∧
      t.b.ladder.trayFrom = some s.b.time.mclk ∧ t.b.tally.savePending = true ∧ t.b.life.debugOpen = false ∧
      ∀ n ∈ s.b.live, (t.b.slice n).ladder.rung = 5 ∧ (t.b.slice n).ladder.cause = c.1)

/-- R323 to R327: a turn makes its suspect ACTIVE and raises REPLAY_TURN; it ends by TURN_END of its context or by TURN_LIMIT, and
the last one to end cleanly counts an unexplained hang; ABANDON makes the remaining suspects ACTIVE; a record that SAMPLE_LIMIT
finds under way ends. -/
def Obligations.ReplayTurnsAndRecordsEnd : Prop :=
  ∀ (s : State) (n : Nat) (r : Replay),
    (∀ off bytes bad, (s.b.slice n).ladder.sampling = some (off, bytes, bad) → s.b.power.level ≠ 5 →
      s.b.ladder.sampleClks ≤ (s.b.slice n).ladder.sampleRan →
      Completes (exec (.sampleLimitExpiry n) s) fun t =>
        Frame [.slices, .mem, .coh, .cores, .draws] s t ∧ (t.b.slice n).ladder.sampling = none ∧
        (t.b.slice n).ladder.crashSeq = ((s.b.slice n).ladder.crashSeq + 1) % 2 ^ 32) ∧
    ((s.b.slice n).ladder.replay = some r →
      (∀ c rest, r.turn = none → r.left = c :: rest → (s.b.ctx c).st = .suspect → Completes (exec (.replayTurn n) s) fun t =>
        Frame [.slices, .ctxs, .queues, .ports, .mem, .coh, .cores] s t ∧ (t.b.ctx c).st = .active ∧
        (t.b.slice n).ladder.irqTurn = true ∧
        (t.b.slice n).ladder.replay = some { r with turn := some c, left := rest, turnStride := s.b.time.count.toNat, reserved := true } ∧
        ((s.b.slice n).ladder.irqTurn = false → Tab.get false t.b.ports.irq (16 * n + 6) = true)) ∧
      (∀ c, (s.b.slice n).st ≠ .none → s.b.gated = false → r.turn = some c →
        (r.left ≠ [] → Completes (exec (.turnEnd n c) s) fun t =>
          t.fuse = s.fuse ∧ s.b.Keeps [.slices] t.b ∧ (t.b.slice n).ladder.replay = some { r with turn := none } ∧
          (t.b.slice n).ladder.ctrlCtx = c) ∧
        (r.left = [] → (s.b.slice n).ladder.waitingReplays = [] → Completes (exec (.turnEnd n c) s) fun t =>
          t.fuse = s.fuse ∧ (t.b.slice n).ladder.replay = none ∧
          t.b.tallyGet (0x8400 + n) 5 = min 4294967295 (s.b.tallyGet (0x8400 + n) 5 + 1) ∧
          Tab.get 0 t.b.ladder.hangs (8 * r.core + r.unit) = Tab.get 0 s.b.ladder.hangs (8 * r.core + r.unit) + 1)) ∧
      (∀ c, r.turn = some c → r.left ≠ [] → r.turnStride + s.b.ladder.turnLimit ≤ s.b.time.count.toNat →
        Completes (exec (.turnLimitExpiry n) s) fun t =>
          t.fuse = s.fuse ∧ s.b.Keeps [.slices] t.b ∧ (t.b.slice n).ladder.replay = some { r with turn := none }) ∧
      (s.b.gated = false → (s.b.slice n).ladder.waitingReplays = [] → (s.b.slice n).ladder.engRung = none →
        Completes (exec (.abandon n) s) fun t =>
        Frame [.slices, .ctxs, .queues, .mem, .coh, .cores] s t ∧ (t.b.slice n).ladder.replay = none ∧
        (t.b.slice n).ladder.suspects = [] ∧ ∀ c ∈ r.left, (s.b.ctx c).st = .suspect → (t.b.ctx c).st = .active))

/-- R330 to R333, R404: Farrier queues the substitution of an owned core or group ahead of every request, a core's once no rung is
in progress on its slice, a group's once its memory is copied, and reports the lack of a spare core; it retires one that no slice
owns, and lets a spare bank, once its lines are copied, or a spare way take a failed one's place; from level 2 on copies stand still
and a way waits; what is retired or used stands in the flash. -/
def Obligations.FarrierSubstitutesAndRetires : Prop :=
  ∀ s : State, s.b.ladder.farrier = true →
    let ahead (n : Nat) (x : Bool × Nat × Nat) : List Request :=
      (s.b.recon.pend.filter (·.ahead)) ++ [{ act := .resize, slice := n, hold := Holdings.reset, fw := 0, ticket := 0, stride := 0
                                              ahead := true, subst := some x }] ++ s.b.recon.pend.filter fun r => !r.ahead
    (∀ core, core < 64 → s.b.substWaits true core = false →
      (∀ k, (s.b.core core).owner ≠ 0 → s.b.rungOn (s.b.core core).owner = false → s.b.spareCore core = some k →
        Completes (exec (.substituteCore core) s) fun t =>
        t.fuse = s.fuse ∧ s.b.Keeps [.recon] t.b ∧
        t.b.recon = { s.b.recon with pend := ahead (s.b.core core).owner (true, core, k) }) ∧
      ((s.b.core core).owner ≠ 0 → s.b.rungOn (s.b.core core).owner = true → Completes (exec (.substituteCore core) s) fun t =>
        t.fuse = s.fuse ∧ s.b.Keeps [.ladder] t.b ∧
        t.b.ladder = { s.b.ladder with substDue := (s.b.ladder.substDue.filter (· != core)) ++ [core] }) ∧
      ((s.b.core core).owner ≠ 0 → s.b.rungOn (s.b.core core).owner = false → s.b.spareCore core = none →
        Completes (exec (.substituteCore core) s) fun t =>
          t.fuse = s.fuse ∧ s.b.Keeps [.slices, .ports, .dict, .tally] t.b ∧
          (t.b.slice (s.b.core core).owner).ladder.rung = 0 ∧ (t.b.slice (s.b.core core).owner).ladder.cause = 8) ∧
      ((s.b.core core).owner = 0 → Completes (exec (.substituteCore core) s) fun t =>
        t.fuse = s.fuse ∧ s.b.Keeps [.ladder, .power] t.b ∧ t.b.ladder.retCores = bvSet s.b.ladder.retCores core ∧
        t.flash.retired.cores.getLsbD core = true)) ∧
    (∀ g, g < 32 → s.b.start.commons.contains g = false → s.b.substWaits false g = false →
      (∀ k, s.b.groupOwner g ≠ 0 → s.b.spareGroup g = some k → Completes (exec (.substituteGroup g) s) fun t =>
        t.fuse = s.fuse ∧ s.b.Keeps [.ladder] t.b ∧
        t.b.ladder = { s.b.ladder with groupCopies := s.b.ladder.groupCopies ++ [(g, k, s.b.groupBytes g)] }) ∧
      (s.b.groupOwner g = 0 → Completes (exec (.substituteGroup g) s) fun t =>
        t.fuse = s.fuse ∧ s.b.Keeps [.ladder, .power] t.b ∧
        t.b.ladder.retGroups = bvSet s.b.ladder.retGroups (s.b.recon.shimOf g) ∧
        (s.b.recon.shimOf g < 32 → t.flash.retired.groups.getLsbD (s.b.recon.shimOf g) = true))) ∧
    (∀ g k left, s.b.ladder.groupCopies = [(g, k, left)] →
      (2 ≤ s.b.power.level → s.b.groupTick = s.b) ∧
      (s.b.power.level < 2 → 256 < left → s.b.Keeps [.ladder] s.b.groupTick ∧
        s.b.groupTick.ladder = { s.b.ladder with groupCopies := [(g, k, left - 256)] }) ∧
      (s.b.power.level < 2 → left ≤ 256 → s.b.Keeps [.ladder, .recon] s.b.groupTick ∧ s.b.groupTick.ladder.groupCopies = [] ∧
        s.b.groupTick.recon = { s.b.recon with pend := ahead (s.b.groupOwner g) (false, g, k) })) ∧
    (∀ core bank, core < 64 → bank < 16 → (s.b.core core).spareBank = none → s.b.ladder.usedBanks.getLsbD core = false →
      (∀ x ∈ s.b.ladder.bankCopies, x.1 ≠ core) → Completes (exec (.substituteBank core bank) s) fun t =>
        t.fuse = s.fuse ∧ s.b.Keeps [.ladder] t.b ∧
        t.b.ladder = { s.b.ladder with bankCopies := s.b.ladder.bankCopies ++ [(core, bank, 1536)] }) ∧
    (∀ core bank left, core < 64 → s.b.ladder.bankCopies = [(core, bank, left)] →
      (2 ≤ s.b.power.level → s.b.bankTick = s.b) ∧
      (s.b.power.level < 2 → 1 < left → s.b.Keeps [.ladder] s.b.bankTick ∧
        s.b.bankTick.ladder = { s.b.ladder with bankCopies := [(core, bank, left - 1)] }) ∧
      (s.b.power.level < 2 → left ≤ 1 → s.b.Keeps [.ladder, .cores, .tally] s.b.bankTick ∧
        s.b.bankTick.core core = { s.b.core core with spareBank := some bank } ∧
        (∀ c, c ≠ core → s.b.bankTick.core c = s.b.core c) ∧ s.b.bankTick.ladder.usedBanks.getLsbD core = true ∧
        s.b.bankTick.tallyGet 0x8010 0x11 = min 4294967295 (s.b.tallyGet 0x8010 0x11 + 1))) ∧
    (∀ cl way, cl < 8 → way < 16 → s.b.ladder.usedWays.getLsbD cl = false → (∀ x ∈ s.b.ladder.wayDue, x.1 ≠ cl) →
      2 ≤ s.b.power.level → Completes (exec (.substituteWay cl way) s) fun t =>
        t.fuse = s.fuse ∧ s.b.Keeps [.ladder] t.b ∧ t.b.ladder = { s.b.ladder with wayDue := s.b.ladder.wayDue ++ [(cl, way)] }) ∧
    (∀ cl way, cl < 8 → way < 16 → s.b.ladder.usedWays.getLsbD cl = false → (∀ x ∈ s.b.ladder.wayDue, x.1 ≠ cl) →
      s.b.power.level < 2 → Completes (exec (.substituteWay cl way) s) fun t =>
      t.fuse = s.fuse ∧ s.b.Keeps [.ladder, .mem, .coh, .cores, .tally] t.b ∧ t.b.ladder.usedWays = bvSet s.b.ladder.usedWays cl ∧
      t.flash.retired.ways.getLsbD cl = true ∧ t.b.tallyGet 0x8010 0x12 = min 4294967295 (s.b.tallyGet 0x8010 0x12 + 1) ∧
      (s.b.wayOwner cl way ≠ 0 → ∀ l ∈ t.b.coh.lines, ¬(l.agent = .cluster (s.b.wayOwner cl way) cl ∧ l.way = way)) ∧
      ∀ l ∈ s.b.coh.lines, (∀ x ∈ s.b.coh.lines, x.agent = .cluster (s.b.wayOwner cl way) cl → x.way = way →
        ¬(x.agent = l.agent ∧ x.line = l.line)) → l ∈ t.b.coh.lines)

/-! ### Securing -/

/-- R339, R340, R347, R349, R351: ARM takes what the job's entries hold where no condition of R340 stands against it, and keeps the
snapshot of its step fence's last signal (the model's choice for what was not snapshot then: notes/assumptions/52.md); DISARM ends
what runs; RESTORE opens bank 0 of the holding area; a new PARTNER makes the copy invalid, at the end of a running one; and a copy
or restore whose answers stop for SECURE_TIMEOUT ends as TIMEOUT or SOURCE_LOST. -/
def Obligations.SecuringJobsAreArmedAndEnded : Prop :=
  ∀ (s : State) (n j eid : Nat) (tag : Byte),
    let x := s.b.job n j
    let ended (t : State) : Prop :=
      Frame [.slices, .ports, .dict, .fences, .queues, .ctxs, .mem, .coh, .cores, .tally] s t ∧ (t.b.job n j).copy = none
    let same : Prop := x.armed.isSome = true ∧ stepFence x.armedFences = stepFence x.fences
    (Admitted s.b eid (jobIndex n j) 2 [1] →
      (∀ m, s.b.armReason n j = (m, 0) → Completes (exec (.arm n j eid tag) s) fun t =>
        let y := t.b.job n j
        Frame [.slices, .ports, .dict] s t ∧
        y = { x with st := .armed, armed := some m, armedFences := x.fences, armedWindow := x.window, armedAddr := x.manifestAddr
                     snapshot := y.snapshot, held := y.held } ∧
        (¬same → y.snapshot = s.b.srState m ∧ y.held = s.b.regionBytes m) ∧
        (same → y.snapshot.map (·.1) = (s.b.srState m).map (·.1) ∧
          (∀ e ∈ y.snapshot, e ∈ x.snapshot ∨ (e ∈ s.b.srState m ∧ ∀ z ∈ x.snapshot, z.1 ≠ e.1)) ∧
          (x.armed.map (·.regions) = some m.regions → y.held = x.held)) ∧
        ∀ i, i ≠ n → t.b.slice i = s.b.slice i) ∧
      (∀ m r, s.b.armReason n j = (m, r + 1) → Completes (exec (.arm n j eid tag) s) fun t => Frame [.ports, .dict] s t)) ∧
    (Admitted s.b eid (jobIndex n j) 2 [2] → j < 8 → Completes (exec (.disarm n j eid tag) s) fun t =>
      ended t ∧ (t.b.job n j).st = .off ∧ (t.b.job n j).restore = none ∧ (t.b.job n j).partner = x.partner) ∧
    (∀ m, Admitted s.b eid (jobIndex n j) 2 [3] → s.b.restoreReason n j = (m, 0) →
      Completes (exec (.restore n j eid tag) s) fun t =>
      Frame [.slices, .ports, .dict] s t ∧ (t.b.job n j).st = .restoring ∧ (t.b.job n j).before = x.st ∧
      (t.b.job n j).exposed = x.exposed ++ [s.b.time.mclk] ∧
      ∃ r, (t.b.job n j).restore = some r ∧ r.manifest = m ∧ r.ph = .opening 0 false ∧ r.trailers = []) ∧
    (∀ v : Dword, Admitted s.b eid (jobIndex n j) 6 (toLe 8 v.toNat) → Completes (exec (.partnerWrite n j eid tag v) s) fun t =>
      Frame [.slices, .ports, .dict] s t ∧
      (x.copy = none → t.b.job n j = { x with partner := v, valid := false }) ∧
      (x.copy ≠ none → t.b.job n j = { x with partner := v, clearValid := true })) ∧
    (∀ c, x.copy = some c → s.b.secureLate c.heardAt = false → exec (.secureTimeout n j) s = .next s) ∧
    (∀ c, x.copy = some c → c.ph ≠ .acked → s.b.secureLate c.heardAt = true → Completes (exec (.secureTimeout n j) s) fun t =>
      ended t ∧ (t.b.job n j).result = 7 ∧ (t.b.job n j).failed = up32 x.failed ∧
      (x.st = .copying → (t.b.job n j).st = .armed) ∧ (t.b.slice n).secureIrq = bvSet (s.b.slice n).secureIrq j ∧
      ((s.b.slice n).secureIrq = 0 → Tab.get false t.b.ports.irq (16 * n + 7) = true)) ∧
    (∀ r, x.copy = none → x.restore = some r → (∀ k, r.ph ≠ .ended k) → s.b.secureLate r.heardAt = true →
      Completes (exec (.secureTimeout n j) s) fun t =>
      Frame [.slices, .ports] s t ∧ (t.b.job n j).st = .restoreFailed ∧ (t.b.job n j).result = 13 ∧ (t.b.job n j).restore = none)

/-- R342 to R351: a copy starts in its securing window, with what stood at its START, into the bank that the last one did not use,
or ends at once with its result; a complete copy makes its bank the valid one; a restore ends with RESTORED or RESTORE_FAILED; and
the holding side opens a bank of its area, writes its trailer and body, and queues what it holds for a restore, which leaves at
REFILL_MBPS. -/
def Obligations.CopiesRunAndBanksAreHeld : Prop :=
  (∀ (s : State) (n j : Nat),
    let x := s.b.job n j
    let shared : List Part := [.slices, .ports, .dict, .fences, .queues, .ctxs, .mem, .coh, .cores]
    (∀ c0, s.b.copyDue n j = true → s.b.earlier s.fuse 7 = false → x.startDue = some c0 →
      let f := c0.step
      let goes : Prop := c0.verdict = 0 ∧ x.st = .armed
      let fresh : Prop := x.valid = true → 1 ≤ (f - x.lastStep).toNat ∧ (f - x.lastStep).toNat < 2 ^ 63
      (goes → s.b.power.level < 4 → fresh → x.partnerAt ≠ 0 → s.b.isOwn x.partnerAt = false →
        Completes (exec (.secureCopyStart n j) s) fun t =>
          Frame [.slices, .ports] s t ∧ (t.b.job n j).st = .copying ∧ (t.b.job n j).startDue = none ∧
          ∃ c, (t.b.job n j).copy = some c ∧ c.ph = .opening ∧ c.start = c0 ∧ c.sent = [] ∧
            c.bank = if x.valid then 1 - x.bank else 0) ∧
      (∀ r, (c0.verdict ≠ 0 ∧ r = c0.verdict) ∨ (goes ∧ 4 ≤ s.b.power.level ∧ r = 10) ∨
          (goes ∧ s.b.power.level < 4 ∧ ¬fresh ∧ r = 2) ∨ (goes ∧ s.b.power.level < 4 ∧ fresh ∧ x.partnerAt = 0 ∧ r = 4) ∨
          (goes ∧ s.b.power.level < 4 ∧ fresh ∧ x.partnerAt ≠ 0 ∧ s.b.isOwn x.partnerAt = true ∧ r = 5) →
        Completes (exec (.secureCopyStart n j) s) fun t =>
          Frame shared s t ∧ (t.b.job n j).st = x.st ∧ (t.b.job n j).result = r ∧ (t.b.job n j).copy = x.copy ∧
          (t.b.job n j).startDue = none) ∧
      (c0.verdict = 0 → x.st ≠ .armed → Completes (exec (.secureCopyStart n j) s) fun t =>
        Frame [.slices] s t ∧ t.b.job n j = { x with startDue := none })) ∧
    (∀ c, x.copy = some c → c.ph = .acked → Completes (exec (.secureCopyComplete n j) s) fun t =>
      Frame (.tally :: shared) s t ∧ (t.b.job n j).copy = none ∧ (t.b.job n j).lastStep = c.start.step ∧
        (t.b.job n j).bank = c.bank ∧
      (t.b.job n j).lastStride = c.start.stride ∧ (t.b.job n j).valid = !x.clearValid ∧ (t.b.job n j).result = 1 ∧
      (t.b.job n j).copies = up32 x.copies ∧ (x.st = .copying → (t.b.job n j).st = .armed)) ∧
    (∀ r k, x.restore = some r → r.ph = .ended k → Completes (exec (.restoreComplete n j) s) fun t =>
      Frame (.tally :: shared) s t ∧ (t.b.job n j).restore = none ∧ (t.b.job n j).result = k ∧
      (k = 11 → (t.b.job n j).st = x.before ∧ (t.b.job n j).valid = true ∧ (t.b.job n j).bank = r.left.headD 0 ∧
        (t.b.job n j).restores = up32 x.restores) ∧
      (k ≠ 11 → (t.b.job n j).st = .restoreFailed ∧ (t.b.job n j).valid = x.valid))) ∧
  (∀ (s : State) (port : Nat) (src : FlitSrc), s.b.gated = false →
    let answer (n kind : Nat) (body : List Byte) : Out := .flit port (s.b.sliceFlit n kind src.tag body)
    (∀ (base : Dword) bank job pk sl reading n key, s.b.areaFor (dfld base 56 0) job pk sl = some (n, key) → bank < 2 →
      let size := bankBytes (dfld base 56 0) job pk sl
      Completes (exec (.streamOpen port src base bank job pk sl reading) s) fun t =>
        Frame [.ports] s t ∧ t.b.ports.out = answer n 0x11 (toLe 8 s.b.dict.feedGroup) :: s.b.ports.out ∧
        t.b.inStream port src = some { port := port, package := src.package, slice := src.slice, tag := src.tag
                                       addr := dfld base 56 0 + bank * size, key := key, len := size, pos := 0
                                       reading := reading }) ∧
    (∀ (base : Dword) bank job pk sl reading, s.b.areaFor (dfld base 56 0) job pk sl = none →
      Completes (exec (.streamOpen port src base bank job pk sl reading) s) fun t =>
        Frame [.ports] s t ∧ t.b.ports.inStreams = s.b.ports.inStreams ∧
        Tab.get 0 t.b.ports.remoteRefused (min port 4) = up32 (Tab.get 0 s.b.ports.remoteRefused (min port 4))) ∧
    (∀ st n, s.b.inStream port src = some st → s.b.streamOwner st = some n → s.b.holdsKey n st.key = true →
      (st.reading = false → s.b.coh.busy = [] → s.b.coh.msgs = [] → ∀ tr : List Byte, tr.length = 128 → s.b.keyGen st.key ≠ 0 →
        Completes (exec (.streamMark port src tr) s) fun t =>
          Frame [.ports, .mem, .coh, .cores, .slices] s t ∧ t.b.rdMem (s.b.keyGen st.key) (gaKey st.addr) 128 = tr ∧
          t.b.ports.out = answer n 0x11 (toLe 8 st.pos) :: s.b.ports.out) ∧
      (st.reading = false → s.b.coh.busy = [] → s.b.coh.msgs = [] → ∀ bs : List Byte, 128 + st.pos + bs.length ≤ st.len →
        s.b.keyGen st.key ≠ 0 →
        Completes (exec (.streamData port src bs) s) fun t =>
          Frame [.ports, .mem, .coh, .cores, .slices] s t ∧
          t.b.rdMem (s.b.keyGen st.key) (gaKey (st.addr + 128 + st.pos)) bs.length = bs ∧
          t.b.ports.out = answer n 0x11 (toLe 8 (st.pos + bs.length)) :: s.b.ports.out ∧
          t.b.inStream port src = some { st with pos := st.pos + bs.length }) ∧
      (st.reading = true → ∀ off bytes, off + bytes ≤ st.len → Completes (exec (.streamRead port src off bytes) s) fun t =>
        Frame [.ports] s t ∧ t.b.ports.out = s.b.ports.out ∧
        t.b.ports.refills = s.b.ports.refills ++
          (flitChunks (bytes + 1) (s.b.rdMem (s.b.keyGen st.key) (gaKey (st.addr + off)) bytes)).map fun c =>
            { port := port, src := src, flit := s.b.sliceFlit n 0x0B src.tag c })) ∧
    (∀ r, s.b.ports.nextRefill port = some r → (s.b.ports.link port).st = .up → (s.b.ports.link port).rspCredits ≠ 0 →
      let have_ := Tab.get 0 s.b.ports.refillPart port + s.b.dict.refillMbps
      (750 * r.flit.body.length ≤ have_ → (s.b.refillPort port).ports.out = .flit port r.flit :: s.b.ports.out ∧
        (s.b.refillPort port).ports.refills = s.b.ports.refills.erase r) ∧
      (have_ < 750 * r.flit.body.length → (s.b.refillPort port).ports.out = s.b.ports.out ∧
        Tab.get 0 (s.b.refillPort port).ports.refillPart port = have_)) ∧
    (∀ n j r bs, s.b.inStream port src = none → s.b.restoreTag src.tag = some (n, j) → (s.b.job n j).restore = some r →
      r.ph = .trailer 0 → (r.bytes ++ bs).length < 128 → Completes (exec (.streamData port src bs) s) fun t =>
        Frame [.slices, .ports] s t ∧ (t.b.job n j).restore = some { r with bytes := r.bytes ++ bs, heardAt := s.b.time.mclk }))

/-! ### The life cycle -/

/-- R358 to R363, R381, R451: a move between life-cycle states that its row of R360 allows queues its bits, the intent bits first; a
completion request in INVALID queues what is missing; a fuse burnt and read back is done, a second failure stops the move; the
restart at the end reads the new state; and SVN_ADVANCE queues the bits up to a value that the image's SVN and the fuses' 128 allow.
-/
def Obligations.LifeCycleMovesBurnFuses : Prop :=
  ∀ s : State,
    let l := s.b.life
    let queued (steps : List BurnStep) (t : State) : Prop :=
      t.fuse = s.fuse ∧ t.flash = s.flash ∧ t.b.life.burn = l.burn ++ steps ∧ t.b.life.transResult = 0 ∧
      t.b.life.debugOpen = false ∧ t.b.life.lcs = l.lcs ∧ t.b.start = s.b.start
    (∀ eid tag, l.inTransition = false → s.b.dict.roleMask eid = rFAC →
      (Admitted s.b eid 0x6002 2 [1] → l.lcs = 1 → Completes (exec (.transTest eid tag) s) (queued (plainMove segTest))) ∧
      (Admitted s.b eid 0x6002 2 [2] → l.lcs = 3 → Completes (exec (.transField eid tag) s) (queued (plainMove segField))) ∧
      (Admitted s.b eid 0x6002 2 [4] → l.lcs = 2 → provFormatBad l.transReq = false → l.rngFault = false →
        Completes (exec (.transProvision eid tag) s) (queued (provMove l.transReq))) ∧
      (Admitted s.b eid 0x6002 2 [4] → l.lcs = 2 → reqField l.transReq 0 2 = 1 → reqField l.transReq 2 1 = 2 →
        (reqField l.transReq 3 1 = 6 → s.b.notQuiet = false →
          Completes (exec (.transAnalysis eid tag) s) (queued (wipeMove segAnalysis))) ∧
        (reqField l.transReq 3 1 = 7 → Completes (exec (.transScrap eid tag) s) (queued (wipeMove segScrap))))) ∧
    (∀ eid tag, l.inTransition = false → Admitted s.b eid 0x6002 2 [4] → (l.lcs = 3 ∨ l.lcs = 4) → l.rngFault = false →
      s.b.certBad s.fuse l.transReq 2 = 0 → s.b.notQuiet = false →
      (reqField l.transReq 3 1 = 6 → Completes (exec (.transAnalysis eid tag) s) (queued (wipeMove segAnalysis))) ∧
      (reqField l.transReq 3 1 = 7 → Completes (exec (.transScrap eid tag) s) (queued (wipeMove segScrap)))) ∧
    (∀ eid tag n rest, l.lcs = 15 → l.burn = [] → completion s.fuse l.transReq l.rngFault = (0, .bit n :: rest) →
      Completes (exec (.transComplete eid tag) s) (queued (.bit n :: rest))) ∧
    (∀ eid tag r, l.lcs = 15 → l.inTransition = false → (completion s.fuse l.transReq l.rngFault).1 = r + 1 →
      Completes (exec (.transComplete eid tag) s) fun t =>
        Frame [.life, .ports, .dict] s t ∧ t.b.life = { l with transResult := r + 1 }) ∧
    (∀ n rest, l.burn = .bit n :: rest →
      ((rest = [] ∨ ∃ k more, rest = .bit k :: more) → Completes (exec (.fuseDone true) s) fun t =>
        t.pending = s.pending ∧ t.flash = s.flash ∧ s.b.Keeps [.life] t.b ∧ t.fuse = s.fuse ||| BitVec.twoPow 4096 n ∧
        t.b.life = { l with burn := rest, tries := 0, svn := svnOf t.fuse }) ∧
      (∀ more, rest = .restart :: more → Completes (exec (.fuseDone true) s) fun t =>
        t.fuse = s.fuse ||| BitVec.twoPow 4096 n ∧ t.b.life.lcs = lcsOf t.fuse ∧ t.b.life.burn = [] ∧ t.b.slices = [] ∧
        t.b.start.slot = 0 ∧ (t.b.start.stage = 1 ∨ t.b.start.stage = 15)) ∧
      (s.fuse.getLsbD n = false → l.tries = 0 → Completes (exec (.fuseDone false) s) fun t =>
        t.fuse = s.fuse ∧ t.flash = s.flash ∧ s.b.Keeps [.life] t.b ∧ t.b.life = { l with tries := 1 }) ∧
      (s.fuse.getLsbD n = false → l.tries ≠ 0 → s.b.recon.heldCommits = [] → Completes (exec (.fuseDone false) s) fun t =>
        t.fuse = s.fuse ∧ t.flash = s.flash ∧ s.b.Keeps [.life, .recon] t.b ∧ t.b.life = { l with burn := [], tries := 0 })) ∧
    (∀ eid tag (v : Byte), Admitted s.b eid 0x6003 1 [v] →
      (v.toNat ≤ s.b.start.imageSvn → v.toNat ≤ 128 → l.burn = [] → Completes (exec (.svnAdvance eid tag v) s) fun t =>
        Frame [.life, .ports, .dict] s t ∧
        t.b.life.burn = (List.range (v.toNat - l.svn)).map fun i => BurnStep.bit (1824 + l.svn + i)) ∧
      (s.b.start.imageSvn < v.toNat ∨ 128 < v.toNat →
        Completes (exec (.svnAdvance eid tag v) s) fun t => Frame [.ports, .dict] s t))

/-- R366 to R370: FIELD-DEBUG opens for a certificate that passes every check and for the strides that it gives; it closes by a
write, at its closing stride after every start of that clock, or for a slice whose consent is withdrawn; and a readout gives bytes
only where the life cycle or the session's rights allow it, and never ROOT. -/
def Obligations.DebugSessionsOpenAndClose : Prop :=
  ∀ s : State,
    let l := s.b.life
    let closed (t : State) : Prop := t.b.life.debugOpen = false ∧ t.b.life.rights = 0 ∧ t.b.life.dslices = 0
    (∀ eid tag, Admitted s.b eid 0x6001 3 [1] → l.debugOpen = false →
      (s.b.certBad s.fuse l.cert 1 = 0 → l.lcs = 4 → l.inTransition = false → Completes (exec (.debugOpen eid tag) s) fun t =>
        Frame [.life, .draws, .slices, .tally, .dict, .ports] s t ∧ t.b.life.debugOpen = true ∧ t.b.life.debugResult = 0 ∧
        t.b.life.rights = BitVec.ofNat 32 (reqField l.cert 4 4) ∧ t.b.life.dslices = BitVec.ofNat 32 (reqField l.cert 48 4) ∧
        t.b.life.closeStride = BitVec.ofNat 64 (dfld s.b.stamp 63 16 + reqField l.cert 52 2) ∧
        t.b.tallyGet 0x8010 0x0F = min 4294967295 (s.b.tallyGet 0x8010 0x0F + 1)) ∧
      (∀ r, s.b.certBad s.fuse l.cert 1 = r + 1 → Completes (exec (.debugOpen eid tag) s) fun t =>
        Frame [.life, .draws, .dict, .ports] s t ∧ t.b.life.debugOpen = false ∧ t.b.life.debugResult = r + 1)) ∧
    (∀ eid tag, Admitted s.b eid 0x6001 3 [2] → l.debugOpen = true → Completes (exec (.debugClose eid tag) s) fun t =>
      Frame [.life, .slices, .cores, .dict, .ports] s t ∧ closed t ∧ t.b.life.debugResult = 0 ∧
      ∀ n ∈ s.b.live, (s.b.slice n).sec.fwUnsigned = true →
        (t.b.slice n).sec.fwDigest = 0 ∧ ∀ c ∈ s.b.coresOf n, (t.b.core c).hart.halted = true) ∧
    (l.debugOpen = true → l.closeStride.toNat ≤ s.b.time.count.toNat → s.b.zeroNow = false → s.b.earlier s.fuse 10 = false →
      Completes (exec .debugDurationExpiry s) fun t =>
      Frame [.life, .slices, .cores, .dict] s t ∧ closed t) ∧
    (∀ n eid tag (v : Byte), Admitted s.b eid (0x6200 + n) 1 [v] → Completes (exec (.debugConsent n eid tag v) s) fun t =>
      Frame [.slices, .cores, .dict, .ports] s t ∧ (t.b.slice n).sec.consent = (v != 0) ∧
      (v = 0 → l.debugOpen = true → (s.b.slice n).sec.fwUnsigned = true → ∀ c ∈ s.b.coresOf n, (t.b.core c).hart.halted = true)) ∧
    (∀ d off len,
      (s.b.readoutOk d off len = true → Completes (exec (.debugReadout d off len) s) fun t =>
        Frame [.life, .draws] s t ∧ ∃ bs, t.b.life.readout = some bs ∧ bs.length = len) ∧
      (s.b.readoutOk d off len = false → Completes (exec (.debugReadout d off len) s) fun t =>
        Frame [.life, .draws] s t ∧ t.b.life.readout = none) ∧
      (d = .fuses → off < 76 → 40 < off + len → s.b.readoutOk d off len = false))

/-- R371 to R374, R377, R416, R430: an extend folds its range into ADAPTER_DIGEST; a sealed record is held at once under its tag,
written to the flash later into the copy that is not in force, and read back only with that tag, or with a flash error; a fault of
the random source is counted, and ends. -/
def Obligations.SealedStoreExtendAndRandomSource : Prop :=
  ∀ (s : State) (n : Nat),
    let x := (s.b.slice n).sec
    let r := sealRecord n x.sealIndex
    (∀ eid tag (v : List Byte), Admitted s.b eid (0x6200 + n) 2 v → x.extendStatus ≠ 1 →
      s.b.extendOk n (leNat (v.take 8)) (leNat ((v.drop 8).take 8)) = true →
        Completes (exec (.adapterExtend n eid tag v) s) fun t =>
        Frame [.slices, .ports, .dict] s t ∧ (t.b.slice n).sec =
          { x with extendStatus := 1, extendRange := (leNat (v.take 8), leNat ((v.drop 8).take 8))
                   extendAt := s.b.time.mclk + extendClks (leNat ((v.drop 8).take 8)) }) ∧
    (s.b.time.mclk < x.extendAt → exec (.extendDone n) s = .next s) ∧
    (x.extendStatus = 1 → x.extendAt ≤ s.b.time.mclk → Completes (exec (.extendDone n) s) fun t =>
      Frame [.slices] s t ∧ (t.b.slice n).sec = { x with
        extendStatus := 2
        adapterDigest := Config.sha384 (digestBytes x.adapterDigest ++
          digestBytes (Config.sha384 (s.b.rdOwn n x.extendRange.1 x.extendRange.2)) ++ toLe 8 x.extendRange.2) }) ∧
    (∀ eid tag v, Admitted s.b eid (0x6300 + n) 3 v → s.b.life.debugOpen = false → s.b.life.lcs ≠ 6 →
      s.flash.sealTooSoon s.b r = false → Completes (exec (.sealWrite n eid tag v) s) fun t =>
        t.pending = s.pending ∧ t.fuse = s.fuse ∧ s.b.Keeps [.slices, .ports, .dict] t.b ∧ t.flash.bytes = s.flash.bytes ∧
        t.flash.sealed = s.flash.sealed ∧
        t.flash.sealedAt r = some { key := sealKey s.fuse x.tag, aad := x.tag, data := v } ∧ (t.b.slice n).sec.sealStatus = 0) ∧
    (∀ eid tag e, s.b.busyMed eid = false → s.b.locked = false → dictEntry (0x6300 + n) 3 = some e →
      e.canRead s.b.dict eid = true →
      (s.b.slice n).st ≠ .none → s.b.start.stage ≠ 0 → s.b.dict.isMed eid = true →
      let meets (p : State → Prop) : Prop :=
        Completes (exec (.sealRead n eid tag) s) fun t => Frame [.slices, .dict] s t ∧ p t
      let gives (d : List Byte) (t : State) : Prop := (t.b.slice n).sec.sealStatus = 0 ∧
        t.b.dict.med = s.b.dict.med ++ [(eid, s.b.time.mclk + 1000 * usClk, .dict
          { eid := eid, kind := 1, tag := tag, index := 0x6300 + n, sub := 3, code := cSuccess, reason := 0, data := d })]
      let refuses (st : Nat) (t : State) : Prop := (t.b.slice n).sec.sealStatus = st ∧
        t.b.dict.med = s.b.dict.med ++ [(eid, s.b.time.mclk + 1000 * usClk, .dict
          { eid := eid, kind := 1, tag := tag, index := 0x6300 + n, sub := 3, code := cRefused, reason := 1, data := [] })]
      (s.b.life.debugOpen = true → meets (refuses 3)) ∧
      (s.b.life.debugOpen = false →
        (s.flash.unread.contains r = true → Tab.find s.flash.held r = none → meets (refuses 4)) ∧
        ((s.flash.unread.contains r = false ∨ Tab.find s.flash.held r ≠ none) →
          (s.flash.sealedAt r = none → meets (refuses 1)) ∧
          (∀ y, s.flash.sealedAt r = some y →
            ((y.aad = x.tag ∧ y.key = sealKey s.fuse x.tag) → meets (gives y.data)) ∧
            ((y.aad ≠ x.tag ∨ y.key ≠ sealKey s.fuse x.tag) → meets (refuses 2)))))) ∧
    (∀ k y, let r := sealRecord n k
      Tab.find s.flash.held r = some y →
      (Completes (exec (.sealRecordWritten n k true) s) fun t =>
        t.fuse = s.fuse ∧ t.b = s.b ∧ Tab.find t.flash.held r = none ∧ t.flash.sealedAt r = some y ∧
        ∀ i, i ≠ (s.flash.sealNext r).1 → Tab.find t.flash.sealed i = Tab.find s.flash.sealed i) ∧
      (Completes (exec (.sealRecordWritten n k false) s) fun t =>
        t.fuse = s.fuse ∧ s.b.Keeps [.slices] t.b ∧ t.flash.sealCopy r = s.flash.sealCopy r ∧
        (t.b.slice n).sec.sealStatus = 4)) ∧
    (Completes (exec .rngFault s) fun t =>
      Frame [.life, .tally] s t ∧ t.b.life = { s.b.life with rngFault := true } ∧
      t.b.tallyGet 0x8010 0x0A = min 4294967295 (s.b.tallyGet 0x8010 0x0A + 1)) ∧
    (Completes (exec .healthTestPass s) fun t =>
      Frame [.life, .draws] s t ∧ t.b.life.rngFault = false ∧
      (s.b.life.challenge ≠ [] → t.b.life.challenge = s.b.life.challenge))

/-- R375, R376: every SPDM request is answered, with what it asks for where the block can attest, and with an error where it
cannot; a mediator's answer waits for its fixed time. -/
def Obligations.AttestationRequestsAreAnswered : Prop :=
  ∀ (s : State) (eid : Nat), s.b.start.stage ≠ 0 →
    let answers (code : Nat) (body : List Byte) (t : State) : Prop :=
      Frame [.ports, .dict, .draws] s t ∧
      (s.b.dict.isMed eid = false → t.b.ports.out = .spdm eid code body :: s.b.ports.out ∧ t.b.dict = s.b.dict) ∧
      (s.b.dict.isMed eid = true → t.b.ports = s.b.ports ∧
        t.b.dict.med = s.b.dict.med ++ [(eid, s.b.time.mclk + 1000 * usClk, .spdm eid code body)])
    let own := (s.b.draw 32).1
    (s.b.locked = false → Completes (exec (.getVersion eid) s) (answers 0x04 (toLe 2 0x1300)) ∧
      Completes (exec (.getCapabilities eid) s) (answers 0x61 (toLe 4 0x16)) ∧
      Completes (exec (.negotiateAlgorithms eid true true true) s) (answers 0x63 (toLe 4 0x80 ++ toLe 4 0x02 ++ toLe 4 0x04))) ∧
    (s.b.attests = true →
      Completes (exec (.getDigests eid) s) (answers 0x01 (toLe 1 1 ++ digestBytes (Config.sha384 (s.b.chain s.flash)))) ∧
      (∀ off len, off < (s.b.chain s.flash).length →
        let part := ((s.b.chain s.flash).drop off).take len
        Completes (exec (.getCertificate eid 0 off len) s) (answers 0x02 (toLe 2 part.length ++ toLe 2 ((s.b.chain s.flash).length - off - part.length) ++ part))) ∧
      (∀ nonce, s.b.life.rngFault = false →
        let body := digestBytes (Config.sha384 (s.b.chain s.flash)) ++ own ++ nonce
        Completes (exec (.challenge eid 0 nonce) s) (answers 0x03 (body ++ s.b.sign body))) ∧
      (∀ index nonce, s.b.life.rngFault = false → s.b.measurements s.fuse eid index ≠ [] →
        let body := s.b.measurements s.fuse eid index ++ own ++ nonce
        Completes (exec (.getMeasurements eid index nonce) s) (answers 0x60 (body ++ s.b.sign body)))) ∧
    (s.b.attests = false → Completes (exec (.getDigests eid) s) (answers 0x7F (toLe 1 7)) ∧
      (∀ slot off len, Completes (exec (.getCertificate eid slot off len) s) (answers 0x7F (toLe 1 7))) ∧
      (∀ slot nonce, Completes (exec (.challenge eid slot nonce) s) (answers 0x7F (toLe 1 7))) ∧
      ∀ index nonce, Completes (exec (.getMeasurements eid index nonce) s) (answers 0x7F (toLe 1 7)))

/-! ### The object dictionary, links, messages and accesses from outside -/

/-- R390, R408 to R420, R449, R455: reads, writes, descriptors and malformed messages are answered by the entry tables and the
roles; a write of an entry that has a command of its own is that command; an image is written to the slot not in use; events are
queued with their number, sent, sent again after EVENT_RETRY and acknowledged; and the four MCTP control messages are answered. -/
def Obligations.DictionaryEventsAndImages : Prop :=
  ∀ (s : State) (eid : Nat) (tag : Byte),
    let d := s.b.dict
    let tells (t : State) (kind i k code reason : Nat) (data : List Byte) : Prop :=
      s.b.start.stage ≠ 0 → d.isMed eid = false → t.b.ports.out =
        .dict { eid := eid, kind := kind, tag := tag, index := i, sub := k, code := code, reason := reason, data := data } :: s.b.ports.out
    (∀ i k, sealSlice i k = none → s.b.busyMed eid = false →
      (∀ e, dictEntry i k = some e → s.b.mayRead e eid i k = true → (i ≠ 0x9030 ∨ k ≠ 5) →
        Completes (exec (.read eid tag i k) s) fun t =>
        Frame [.dict, .ports] s t ∧ tells t 1 i k 0 0 (s.b.entryValue e i k)) ∧
      ((∀ e, dictEntry i k = some e → s.b.mayRead e eid i k = false) → Completes (exec (.read eid tag i k) s) fun t =>
        Frame [.dict, .ports] s t ∧ tells t 1 i k 1 0 [])) ∧
    (∀ i k, s.b.busyMed eid = false → s.b.locked = false →
      (∀ e, dictEntry i k = some e → (e.canWrite d eid = true ∨ e.canRead d eid = true) →
        Completes (exec (.describe eid tag i k) s) fun t => Frame [.dict, .ports] s t ∧ tells t 3 i k 0 0 e.descriptor) ∧
      (dictEntry i k = none → Completes (exec (.describe eid tag i k) s) fun t => Frame [.dict, .ports] s t ∧
        tells t 3 i k 1 0 [])) ∧
    (∀ (kind : Byte) i k, s.b.busyMed eid = false → Completes (exec (.malformed eid tag kind i k) s) fun t =>
      Frame [.dict, .ports] s t ∧ tells t kind.toNat i k 6 0 []) ∧
    (∀ i k v c r, sliceIndex i = none → ownLow eid tag i k v = none → s.b.life.lcs ≠ 15 → s.b.busyMed eid = false →
      s.b.writeCheck eid i k v = some (c, r) → Completes (exec (.write eid tag i k v) s) fun t =>
        s.b.Keeps [.dict, .ports] t.b ∧ t.fuse = s.fuse ∧ t.flash.bytes = s.flash.bytes ∧ tells t 2 i k c r []) ∧
    (∀ v, Admitted s.b eid 0x1030 1 v → s.b.life.lcs ≠ 15 → Completes (exec (.write eid tag 0x1030 1 v) s) fun t =>
      s.b.Keeps [.dict, .ports] t.b ∧ t.fuse = s.fuse ∧ t.flash.bytes = s.flash.bytes ∧
      (10 ≤ leNat v ∧ leNat v ≤ 10000 → t.b.dict.eventRetry = leNat v ∧ tells t 2 0x1030 1 0 0 []) ∧
      (¬(10 ≤ leNat v ∧ leNat v ≤ 10000) → t.b.dict.eventRetry = d.eventRetry ∧ tells t 2 0x1030 1 4 1 [])) ∧
    (∀ v : List Byte, v.length = 8 →
      exec (.write eid tag 0x3012 1 v) s = exec (.switchStride eid tag (BitVec.ofNat 64 (leNat v))) s) ∧
    (Admitted s.b eid 0x1010 1 [1] → s.b.start.imageStatus ≠ 1 → s.b.start.imageCount ≠ 0 →
      Completes (exec (.imageCtrl eid tag 1) s) fun t => Frame [.start, .dict, .ports] s t ∧ t.b.start = { s.b.start with
        imageStatus := 1, imageLeft := s.b.start.imageCount, imageBytes := [] }) ∧
    (s.b.start.imageStatus = 1 → s.b.imageWhole = true →
      (Completes (exec (.imageWriteComplete true) s) fun t =>
        t.fuse = s.fuse ∧ s.b.Keeps [.start] t.b ∧ t.b.start.imageStatus = 0 ∧
        t.flash = { s.flash with bytes := s.flash.bytes.writeN (slotAt (1 - s.b.start.slot)) s.b.start.imageBytes }) ∧
      Completes (exec (.imageWriteComplete false) s) fun t => Frame [.start] s t ∧ t.b.start.imageStatus = 2) ∧
    (∀ e l, d.evDue = e :: l → d.evQueue.length < 64 → d.evOwed = 0 → d.evSeq < 2 ^ 32 → Completes (exec .event s) fun t =>
      Frame [.dict, .ports] s t ∧ t.b.dict = { d with evDue := l, evSeq := (d.evSeq + 1) % 2 ^ 32
                                                      evQueue := d.evQueue ++ [{ e with seq := d.evSeq, sentAt := s.b.time.mclk }] } ∧
      (e.acked = [] → t.b.ports.out =
        (d.fms.map fun x => Out.event x { e with seq := d.evSeq, sentAt := s.b.time.mclk }).reverse ++ s.b.ports.out)) ∧
    (∀ e, d.evQueue = [e] → s.b.time.mclk < e.sentAt + d.eventRetry * 750000 → Completes (exec .eventRetry s) fun t =>
      Frame [] s t) ∧
    (∀ e, d.evQueue = [e] → e.sentAt + d.eventRetry * 750000 ≤ s.b.time.mclk → Completes (exec .eventRetry s) fun t =>
      Frame [.ports, .dict] s t ∧ t.b.dict = { d with evQueue := [{ e with sentAt := s.b.time.mclk }] } ∧ t.b.ports.out =
        ((d.fms.filter fun x => !e.acked.contains x).map fun x => Out.event x e).reverse ++ s.b.ports.out) ∧
    (∀ seq : Word, d.fms = [eid] → s.b.locked = false → Completes (exec (.eventAck eid seq) s) fun t =>
      Frame [.dict] s t ∧ ∀ e ∈ t.b.dict.evQueue, e.seq ≠ seq.toNat) ∧
    (s.b.start.stage ≠ 0 → d.isMed eid = false →
      let mctp (code : Nat) (body : List Byte) (t : State) : Prop :=
        Frame [.dict, .ports] s t ∧ t.b.ports.out = .mctp eid code body :: s.b.ports.out
      (∀ e, 8 ≤ e → e ≤ 254 → Completes (exec (.setEndpointId eid e) s) fun t =>
        mctp 1 [0, 0, BitVec.ofNat 8 e, 0] t ∧ t.b.dict = { d with mctpEid := e }) ∧
      Completes (exec (.getEndpointId eid) s) (mctp 2 (toLe 1 0 ++ toLe 1 d.mctpEid ++ toLe 1 0 ++ toLe 1 0)) ∧
      Completes (exec (.getMessageTypeSupport eid) s) (mctp 5 [0, 2, 5, 0x7F]) ∧
      Completes (exec (.getMctpVersionSupport eid) s) fun t => Frame [.ports, .draws] s t ∧
        ∃ v, v.length = 4 ∧ t.b.ports.out = .mctp eid 4 ([0, 1] ++ v) :: s.b.ports.out)

/-- R121, R423, R437, R439, R443, R448: the states of a link, its credits, its 10 ms of training and its replay, and TRAIN and NAK,
which wait for a block position; a read of the commons brings its line to the lookahead buffer, and an uncorrectable read of another
group poisons its line; and the pending vectors leave in ascending order. -/
def Obligations.LinksReplayAndInterruptsLeave : Prop :=
  ∀ (s : State) (port : Nat),
    let l := s.b.ports.link port
    let only (t : State) (l' : Link) : Prop :=
      t = { s with b := { s.b with ports := t.b.ports } } ∧ t.b.ports.link port = l' ∧ ∀ p, p ≠ port →
        t.b.ports.link p = s.b.ports.link p
    (∀ src q r, Completes (exec (.null port src q r) s) fun t => only t { l with
      seqRx := (l.seqRx + 1) % 4096, reqCredits := min 1024 (l.reqCredits + q), rspCredits := min 1024 (l.rspCredits + r) }) ∧
    (l.st = .training → Completes (exec (.linkTrain port) s) fun t => only t { l with st := .up } ∧
      t.b.ports = { s.b.ports with links := t.b.ports.links }) ∧
    (l.st ≠ .training → exec (.linkTrain port) s = .next s) ∧
    (l.phy = true → exec (.phyUpRise port) s = .next s) ∧
    (l.st = .down → l.phy = false → Tab.get false s.b.power.on (portDomain port) = true →
      Completes (exec (.phyUpRise port) s) fun t =>
      only t { l with st := .training, phy := true, seqTx := 0, seqRx := 0, replay := [], retrainAt := [], reqCredits := 1024
                      rspCredits := 1024, trainAt := s.b.time.mclk } ∧
      t.b.ports = { s.b.ports with links := t.b.ports.links, own := s.b.ports.own ++ [(port, .link port 1 0)] }) ∧
    (l.st = .up → l.phy = false → (l.retrainAt.filter fun c => s.b.time.mclk < c + 750000000).length < 3 →
      Completes (exec (.phyUpRise port) s) fun t =>
        Frame [.ports] s t ∧ (t.b.ports.link port).st = .training ∧ (t.b.ports.link port).replay = l.replay ∧
        t.b.ports.remote = s.b.ports.remote ∧ t.b.ports.own = s.b.ports.own ++ [(port, .link port 1 0)] ∧
          Tab.get 0 t.b.ports.retrains (min port 4) = up32 (Tab.get 0 s.b.ports.retrains (min port 4))) ∧
    (Completes (exec (.phyUpFall port) s) fun t =>
      only t { l with phy := false, st := if l.st = .failed then .down else l.st }) ∧
    (s.b.time.mclk < l.trainAt + 10000 * usClk → exec (.trainingTimeout port) s = .next s) ∧
    (l.st = .training → l.trainAt + 10000 * usClk ≤ s.b.time.mclk → Completes (exec (.trainingTimeout port) s) fun t =>
      t.pending = s.pending ∧ t.fuse = s.fuse ∧ t.flash = s.flash ∧ (t.b.ports.link port).st = .failed) ∧
    (l.st = .training → l.trainAt + 10000 * usClk ≤ s.b.time.mclk → (∀ x ∈ s.b.ports.tagPort, x.2 ≠ port) →
      Completes (exec (.trainingTimeout port) s) fun t =>
      Frame [.ports, .slices, .dict, .tally] s t ∧ (t.b.ports.link port).st = .failed ∧ (t.b.ports.link port).replay = [] ∧
      ∀ n ∈ s.b.portSlices port, (t.b.slice n).ladder.cause = 11) ∧
    (Completes (exec (.rxBad port) s) fun t =>
      t = { s with b := { s.b with ports := { s.b.ports with own := s.b.ports.own ++ [(port, .link port 2 l.seqRx)] } } }) ∧
    (∀ seq, (∀ x ∈ l.replay, x.1 ≠ seq) → exec (.linkNak port seq) s = .next s) ∧
    (∀ seq n f freed rest, l.replay = freed ++ (seq, n, f) :: rest → (∀ x ∈ freed, x.1 ≠ seq) → n < 7 → (∀ x ∈ rest, x.2.1 < 7) →
      Completes (exec (.linkNak port seq) s) fun t =>
      only t { l with replay := (seq, n + 1, f) :: rest.map fun x => (x.1, x.2.1 + 1, x.2.2) } ∧
      t.b.ports.out = (((seq, n, f) :: rest).map fun x => Out.flit port x.2.2).reverse ++ s.b.ports.out) ∧
    (∀ line g err, s.b.gated = false → s.b.groupBehind (port / 4) = some g → s.b.groupOwner g = 31 →
      (∀ a, (s.b.parade.outstanding s.b.start.commons g (port % 4)).find?
          (fun x => (commonsPlace s.b.start.commons x).2.2 == line) = some a →
        Completes (exec (.mcpReadReturn port line err) s) fun t => Frame [.parade] s t ∧
          t.b.parade = { s.b.parade with look := t.b.parade.look } ∧ t.b.parade.look.length = s.b.parade.look.length ∧
          ∀ (i : Nat) (x y : LookTile), s.b.parade.look[i]? = some x → t.b.parade.look[i]? = some y →
            (a ∉ x.missing → y = x) ∧ (a ∈ x.missing → a ∉ y.missing ∧ (∀ z, z ≠ a → (z ∈ y.missing ↔ z ∈ x.missing)) ∧
              y.ready = s.b.time.clk ∧ y.bad = if err then x.bad ++ [a] else x.bad)) ∧
      ((∀ a ∈ s.b.parade.outstanding s.b.start.commons g (port % 4), (commonsPlace s.b.start.commons a).2.2 ≠ line) →
        exec (.mcpReadReturn port line err) s = .next s)) ∧
    (∀ line g, s.b.gated = false → s.b.groupBehind (port / 4) = some g → s.b.groupOwner g ≠ 31 →
      (Completes (exec (.mcpReadReturn port line true) s) fun t => Frame [.mem] s t ∧ t.b.mem.bytes = s.b.mem.bytes ∧
        t.b.poisoned (128 * (g * 2 ^ 30 + 4 * line + port % 4)) = true) ∧
      exec (.mcpReadReturn port line false) s = .next s) ∧
    (∀ v x rest, s.b.ports.irq = (v, x) :: rest → Completes (exec .irqSend s) fun t =>
      t = { s with b := { s.b with ports := { s.b.ports with irq := rest, out := .irq v :: s.b.ports.out } } })

/-- No access waits at a home, no line is busy, reserved or held, and no write of the block's own waits: an uncached access has its
turn at once (R287, R289, R291). -/
def HomesFree (b : Block) : Prop :=
  b.ports.atHome = [] ∧ b.coh.busy = [] ∧ b.coh.reserved = [] ∧ b.coh.waiting = [] ∧ b.coh.late = [] ∧
    ∀ l ∈ b.coh.lines, l.holdTo ≤ b.time.clk

/-- R189, R225, R261, R287, R293, R298, R402, R442: a request that arrives on a link, after release and below level 5, waits behind
one that waits at its home, and else is served where a grant covers it, and else refused with cause GRANT, or with cause FORMAT
where it breaks its format; and an answer ends the request whose tag it carries. -/
def Obligations.RemoteRequestsAndAnswers : Prop :=
  ∀ (s : State) (port : Nat) (src : FlitSrc), s.b.gated = false →
    let p := s.b.ports
    let heads (t : State) (f : Flit) : Prop := t.b.ports.out = .flit port f :: p.out
    let refused (cause : Nat) : Flit := s.b.ownFlit 0x12 1 src.tag [BitVec.ofNat 8 cause]
    let same (t : State) (a len : Nat) : Prop := ∀ g k, (k / 128 < gaKey a / 128 ∨ (gaKey a + len - 1) / 128 < k / 128) →
      t.b.rdByte g k = s.b.rdByte g k
    (∀ (addr : Dword) (bytes : Nat),
      let a := dfld addr 56 0
      (badBytes bytes = true → (Completes (exec (.rd port src addr bytes) s) fun t => Frame [.ports] s t ∧ heads t (refused 3)) ∧
        Completes (exec (.wr port src addr bytes) s) fun t => Frame [.ports] s t ∧ heads t (refused 3)) ∧
      (badBytes bytes = false → s.b.elsewhere a = false →
        (∀ n, s.b.granted? src.package src.slice a bytes 1 = some n → (p.atHome.any (HomeUse.rd port src a bytes).behind) = true →
          Completes (exec (.rd port src addr bytes) s) fun t => Frame [.ports] s t ∧ t.b.ports.out = p.out ∧
            t.b.ports.atHome = p.atHome ++ [.rd port src a bytes]) ∧
        (∀ n, s.b.granted? src.package src.slice a bytes 1 = some n → s.b.poisonIn a bytes = none → HomesFree s.b →
          Completes (exec (.rd port src addr bytes) s) fun t => Frame [.ports] s t ∧ t.b.ports.out =
            ((flitChunks (bytes + 1) (s.b.rdOwn n a bytes)).map fun x => Out.flit port (s.b.sliceFlit n 0x10 src.tag x)).reverse ++ p.out) ∧
        (∀ n k, s.b.granted? src.package src.slice a bytes 1 = some n → s.b.poisonIn a bytes = some k → HomesFree s.b →
          Completes (exec (.rd port src addr bytes) s) fun t =>
            Frame [.ports] s t ∧ heads t (s.b.sliceFlit n 0x13 src.tag (toLe 8 (s.b.gaOf (128 * k))))) ∧
        (s.b.granted? src.package src.slice a bytes 1 = none → Completes (exec (.rd port src addr bytes) s) fun t =>
          Frame [.ports] s t ∧ heads t (refused 6) ∧
          Tab.get 0 t.b.ports.remoteRefused (min port 4) = up32 (Tab.get 0 p.remoteRefused (min port 4))) ∧
        (∀ n, s.b.granted? src.package src.slice a bytes 2 = some n → Completes (exec (.wr port src addr bytes) s) fun t =>
          Frame [.ports] s t ∧ t.b.ports.out = p.out ∧
            t.b.inWrite port src = some { port := port, src := src, addr := a, left := bytes }) ∧
        (s.b.granted? src.package src.slice a bytes 2 = none → Completes (exec (.wr port src addr bytes) s) fun t =>
          Frame [.ports] s t ∧ heads t (refused 6) ∧ t.b.inWrite port src = none)) ∧
      (∀ op x y o, atomicOf op = some o → a % 8 = 0 → s.b.elsewhere a = false →
        (∀ n, s.b.granted? src.package src.slice a 8 4 = some n → s.b.poisoned (gaKey a) = false → HomesFree s.b →
          s.b.coh.msgs = [] →
          OwnCopy s.b (s.b.ownGen n) (gaKey a / 128) → Completes (exec (.atomic port src addr op x y) s) fun t =>
            let at_ := a + (if o = .gradAdd then y.toNat / 4 % 2 * 4 else 0)
            let old := leNat (s.b.rdOwn n at_ (atomicBytes o))
            Frame [.ports, .mem, .coh, .cores, .slices] s t ∧ heads t (s.b.sliceFlit n 0x15 src.tag (toLe 8 old)) ∧
              same t at_ (atomicBytes o) ∧
            (s.b.ownGen n ≠ 0 → t.b.rdMem (s.b.ownGen n) (gaKey at_) (atomicBytes o) =
              toLe (atomicBytes o) (atomicNew o old x.toNat y.toNat))) ∧
        (s.b.granted? src.package src.slice a 8 4 = none → Completes (exec (.atomic port src addr op x y) s) fun t =>
          Frame [.ports] s t ∧ heads t (refused 6)))) ∧
    (∀ (bs : List Byte) w n, s.b.inWrite port src = some w → bs.length = w.left → bs ≠ [] → s.b.elsewhere w.addr = false →
      HomesFree s.b → s.b.coh.msgs = [] →
      s.b.granted? src.package src.slice w.addr w.left 2 = some n → Completes (exec (.wrData port src bs) s) fun t =>
        Frame [.ports, .mem, .coh, .cores, .slices] s t ∧ heads t (s.b.sliceFlit n 0x11 src.tag (toLe 8 0)) ∧
          same t w.addr bs.length ∧
        (s.b.ownGen n ≠ 0 → t.b.rdMem (s.b.ownGen n) (gaKey w.addr) bs.length = bs) ∧ t.b.inWrite port src = none) ∧
    (∀ (target : Dword) body,
      let n := dfld target 4 0
      (dfld target 15 13 = s.b.start.inst → n ≠ 0 → s.b.roleMatches n target = true →
        Completes (exec (.msg port src target body) s) fun t =>
        OnlyHart (targetCore (dfld target 15 0)) { s with b := { s.b with ports := t.b.ports } } t ∧
        heads t (s.b.sliceFlit n 0x11 src.tag (toLe 8 0)) ∧
        (t.b.core (targetCore (dfld target 15 0))).hart.inbox = (s.b.core (targetCore (dfld target 15 0))).hart.inbox ++ [body]) ∧
      (dfld target 15 13 = s.b.start.inst → s.b.roleMatches n target = false →
        Completes (exec (.msg port src target body) s) fun t =>
        Frame [.ports] s t ∧ heads t (s.b.ownFlit 0x14 1 src.tag []) ∧
        Tab.get 0 t.b.ports.staleRole (min port 4) = up32 (Tab.get 0 p.staleRole (min port 4)))) ∧
    (∀ handle value : Dword, hPackage handle = s.b.dict.package → hInstance handle = s.b.start.inst →
      let x := s.b.fence (hFence handle)
      let good := (s.b.fenceSlice (hFence handle)).isSome = true ∧ x.exported = true ∧ x.key.toNat = hKey handle
      (good → 0 < (value - x.value).toNat → (value - x.value).toNat < 2 ^ 63 →
        Completes (exec (.fence port src handle value) s) fun t =>
        t.fuse = s.fuse ∧ t.flash = s.flash ∧ (t.b.fence (hFence handle)).value = value ∧
        ∃ rest, t.b.ports.out = .flit port (s.b.ownFlit 0x11 1 src.tag (toLe 8 0)) :: rest) ∧
      (¬ good → Completes (exec (.fence port src handle value) s) fun t => Frame [.ports] s t ∧ heads t (refused 6))) ∧
    (Completes (exec (.flitUnknownKind port src) s) fun t => Frame [.ports] s t ∧ heads t (refused 3)) ∧
    (∀ core, (s.b.core core).hart.stall = some .access →
      let h := (s.b.core core).hart
      let gone (t : State) (h' : Hart) : Prop :=
        OnlyHart core { s with b := { s.b with ports := t.b.ports } } t ∧ (t.b.core core).hart = h' ∧
        t.b.ports = { p with remote := Tab.erase p.remote src.tag, tagPort := Tab.erase p.tagPort src.tag
                             waiting := p.waiting.filter (fun x => match x.what with
                               | .flit f => f.tag != src.tag
                               | _ => true)
                             links := Tab.upd Link.reset p.links port fun l => { l with seqRx := (l.seqRx + 1) % 4096 } }
      (∀ rd l uns i va, Tab.find p.remote src.tag = some (.load core rd l uns i va) →
        (∀ bs, Completes (exec (.rdData port src bs) s) fun t =>
          gone t (h.loaded rd (extend (2 ^ l) uns (leNat ((bs.drop i).take (2 ^ l)))))) ∧
        (∀ c, Completes (exec (.refused port src c) s) fun t => gone t (h.trap 5 (BitVec.ofNat 64 va))) ∧
        ∀ line, Completes (exec (.poison port src line) s) fun t => gone t (h.trap 5 (BitVec.ofNat 64 va))) ∧
      (∀ va, Tab.find p.remote src.tag = some (.store core va) →
        (∀ v, Completes (exec (.ack port src v) s) fun t => gone t { h with pc := h.pc + 4, stall := none }) ∧
        ∀ c, Completes (exec (.refused port src c) s) fun t => gone t (h.trap 7 (BitVec.ofNat 64 va))) ∧
      (∀ rd va, Tab.find p.remote src.tag = some (.atomic core rd va) →
        (∀ old, Completes (exec (.atomicRsp port src old) s) fun t => gone t (h.loaded rd old)) ∧
        ∀ line, Completes (exec (.poison port src line) s) fun t => gone t (h.trap 5 (BitVec.ofNat 64 va))) ∧
      (Tab.find p.remote src.tag = some (.message core) →
        (∀ v, Completes (exec (.ack port src v) s) fun t => gone t { h with pc := h.pc + 4, stall := none }) ∧
        Completes (exec (.staleRole port src) s) fun t => ∃ v, (t.b.core core).hart = h.trap 7 v ∧
          Tab.find t.b.ports.remote src.tag = none))

/-- R28, R30, R86 to R88, R189, R204, R206, R227, R238, R276, R432, R444 to R447: federation flits act here or pass on; the aperture
reads and writes a slice's groups under its key; a register write is what its register does; a host completion ends its read; and a
control processor's accesses and messages act as their place tells, its CSR instructions as the mode lets them, and a custom-0
instruction that R87 does not list is an illegal instruction. -/
def Obligations.FederationApertureRegistersAndCores : Prop :=
  ∀ s : State,
    (∀ q (v : Word), s.b.gated = false → (s.b.queue q).takes v = true → s.b.start.leadLost = false →
      Completes (exec (.doorbellFwd q [v.setWidth 64]) s) fun t =>
        Frame [.queues, .ctxs, .mem, .coh, .cores, .slices, .ports] s t ∧ t.b.queue q = { (s.b.queue q).pend with tail := v }) ∧
    (∀ q (v : Word), 4096 ≤ q → s.b.gated = false → s.b.start.lead = true → q / 4096 ≠ s.b.start.inst → q / 4096 ∈ s.b.otherInsts →
      Completes (exec (.doorbell q v) s) fun t => Frame [.ports] s t ∧ t.b.ports.own = s.b.ports.own ++ [(s.b.fedTo (q / 4096),
        .flit (s.b.fedTo (q / 4096)) { s.b.ownFlit 0x18 0 0 (toLe 2 (q % 4096) ++ toLe 4 v.toNat) with
          fed := some (q / 4096, s.b.start.inst, false) })]) ∧
    (∀ src bs l, s.b.gated = false → s.b.start.lead = false → s.b.parade.load = some l →
      Completes (exec (.fedCtrl 1 src bs) s) fun t => Frame [.parade, .ports] s t ∧
        t.b.parade.load = some { l with written := l.written + bs.length } ∧
        t.b.parade.commons = s.b.parade.commons.writeN l.written (bs.take (s.b.commonsBytes - l.written))) ∧
    (∀ src x rest, Completes (exec (.fedCtrl 3 src (x :: rest)) s) fun t => Frame [.start, .ports] s t ∧
      t.b.start = { s.b.start with levelMax := Tab.put s.b.start.levelMax src x.toNat }) ∧
    (∀ src bs, s.b.gated = false → s.b.start.lead = false →
      (∀ st, s.b.parade.staged = some st → 8 < bs.length → Completes (exec (.fedCtrl 2 src bs) s) fun t =>
        Frame [.parade, .ports] s t ∧ t.b.parade.staged = some { st with bytes := st.bytes ++ bs.drop 8 }) ∧
      (bs.length = 8 → Completes (exec (.fedCtrl 2 src bs) s) fun t =>
        Frame [.parade, .ports] s t ∧ t.b.parade.switchStride = BitVec.ofNat 64 (leNat bs) ∧
        ∃ st, t.b.parade.staged = some st ∧ st.bytes = [] ∧ st.switchAt = dfld (BitVec.ofNat 64 (leNat bs)) 47 0)) ∧
    (∀ east dst src kind origin body, kind < 0x10 → Completes (exec (.fedForward east dst src kind origin body) s) fun t =>
      Frame [.ports] s t ∧ t.b.ports.forwarded = s.b.ports.forwarded + 1 ∧ t.b.ports.out = .flit (if east then 4 else 5)
        { fed := some (dst, src, true), kind := kind, cls := 0, package := origin.package, slice := origin.slice, tag := origin.tag, body := body } :: s.b.ports.out) ∧
    (∀ i, i ≠ s.b.start.inst → i < s.b.start.instCount → i ∉ s.b.start.lost → Completes (exec (.instanceLost i) s) fun t =>
      Frame [.start, .dict] s t ∧ (s.b.start.lead = false → t.b.dict = s.b.dict) ∧
      (s.b.start.lead = true → t.b.dict.evDue.length = s.b.dict.evDue.length + 28) ∧ i ∈ t.b.start.lost ∧ (i = 0 →
        t.b.start.leadLost = true)) ∧
    (∀ (off : Dword) len g, s.b.gated = false → s.b.apertureKey off.toNat len = some g → HomesFree s.b →
      (s.b.poisonIn off.toNat len = none → Completes (exec (.apertureAccess off len none) s) fun t => Frame [.ports] s t ∧
        t.b.ports.out = .aperture (some (s.b.rdMem g off.toNat len)) :: s.b.ports.out) ∧
      (s.b.poisonIn off.toNat len ≠ none → Completes (exec (.apertureAccess off len none) s) fun t => Frame [.ports] s t ∧
        t.b.ports.out = .aperturePoison :: s.b.ports.out) ∧
      (∀ bs : List Byte, bs.length = len → bs ≠ [] → s.b.coh.msgs = [] →
        Completes (exec (.apertureAccess off len (some bs)) s) fun t =>
        Frame [.mem, .coh, .cores, .slices] s t ∧ (g ≠ 0 → t.b.rdMem g off.toNat len = bs) ∧
        ∀ k, (k / 128 < off.toNat / 128 ∨ (off.toNat + len - 1) / 128 < k / 128) → t.b.rdByte g k = s.b.rdByte g k)) ∧
    (∀ (off : Dword) len, s.b.gated = false → s.b.apertureKey off.toNat len = none →
      (Completes (exec (.apertureAccess off len none) s) fun t => Frame [.ports] s t ∧
        t.b.ports.out = .aperture none :: s.b.ports.out) ∧
      ∀ bs : List Byte, bs.length = len → exec (.apertureAccess off len (some bs)) s = .next s) ∧
    (∀ n (v : Word), (s.b.slice n).st ≠ .none → s.b.gated = false →
      (s.b.holdsKey n (fld v.toNat 5 0) = true → Completes (exec (.zhAptKeyWrite n v) s) fun t => Frame [.slices] s t ∧
        t.b.slice n = { s.b.slice n with aptValid := v.getLsbD 31, aptKey := fld v.toNat 5 0 } ∧ ∀ m, m ≠ n →
          t.b.slice m = s.b.slice m) ∧
      (s.b.holdsKey n (fld v.toNat 5 0) = false → exec (.zhAptKeyWrite n v) s = .next s)) ∧
    (∀ off size v, s.b.gated = true → exec (.registerWrite off size v) s = .next s) ∧
    (s.b.gated = false →
      (∀ q (v : Word), q < 4096 → (s.b.queue q).takes v = true → s.b.start.leadLost = false →
        Completes (exec (.registerWrite (0x1000000 + 4096 * q) 4 (v.setWidth 64)) s) fun t =>
          Frame [.queues, .ctxs, .mem, .coh, .cores, .slices] s t ∧ t.b.queue q = { (s.b.queue q).pend with tail := v }) ∧
      (∀ q (v : Word), q < 4096 → exec (.registerWrite (0x1000000 + 4096 * q) 4 (v.setWidth 64)) s = exec (.doorbell q v) s) ∧
      (∀ n (v : Word), 1 ≤ n → n ≤ 28 →
        exec (.registerWrite (0xB0000 + 256 * n) 4 (v.setWidth 64)) s = exec (.zhAptKeyWrite n v) s) ∧
      (∀ q (v : Dword), q < 4096 → (s.b.queue q).enable = false →
        exec (.registerWrite (0x800008 + 64 * q) 8 v) s = exec (.queueEnable q v) s) ∧
      ∀ off size v, regAt off = .nowhere → regAt (off + 4) = .nowhere → (off % 8 = 0 ∨ size ≠ 8) →
        exec (.registerWrite off size v) s = .next s) ∧
    (∀ tag r core rd l uns va, Tab.find s.b.ports.hostReads tag = some r → r.use = .load core rd l uns va →
      s.b.ports.hostWait = [] →
      s.b.gated = false → (s.b.core core).hart.stall = some .access →
      (∀ bs : List Byte, bs.length = r.len → Completes (exec (.hostCompletion tag true bs) s) fun t => Frame [.ports, .cores] s t ∧
        t.b.ports.hostReads = Tab.erase s.b.ports.hostReads tag ∧
        (t.b.core core).hart = (s.b.core core).hart.loaded rd (extend (2 ^ l) uns (leNat bs))) ∧
      ∀ bs, Completes (exec (.hostCompletion tag false bs) s) fun t => Frame [.ports, .cores] s t ∧
        (t.b.core core).hart = (s.b.core core).hart.trap 5 (BitVec.ofNat 64 va)) ∧
    (∀ core, HartRuns s.b core → (∀ x ∈ s.b.ports.remote, x.2.hart ≠ some core) →
      (∀ x ∈ s.b.ports.hostReads, x.2.use.hart ≠ some core) →
      (∀ x ∈ s.b.ports.hostWait, x.use.hart ≠ some core) →
      (∀ x ∈ s.b.ports.waiting, ∀ r, x.what = .read r → r.use.hart ≠ some core) →
      let h := (s.b.core core).hart
      (∀ rd rs1 l uns off, (effAddr h rs1 off).toNat < scratchEnd →
        let a := (effAddr h rs1 off).toNat
        a % 128 + 2 ^ l ≤ 128 →
          Completes (exec (.controlProcessorAccess core (.access (.load rd rs1 l uns off))) s) fun t => OnlyHart core s t ∧
          (Tab.get false (s.b.core core).poison (a / 128) = false → (t.b.core core).hart =
            h.loaded rd (extend (2 ^ l) uns (leNat ((s.b.core core).rdSN a (2 ^ l))))) ∧
          (Tab.get false (s.b.core core).poison (a / 128) = true → (t.b.core core).hart = h.trap 5 (BitVec.ofNat 64 a))) ∧
      (∀ rs1 rs2 l off, (effAddr h rs1 off).toNat < scratchEnd →
        let a := (effAddr h rs1 off).toNat
        a % 128 + 2 ^ l ≤ 128 →
          Completes (exec (.controlProcessorAccess core (.access (.store rs1 rs2 l off))) s) fun t => OnlyCore core s t ∧
          (t.b.core core).rdSN a (2 ^ l) = toLe (2 ^ l) (h.reg rs2).toNat ∧
            (t.b.core core).hart = { h with pc := h.pc + 4, stall := none } ∧
          ∀ k, (k < a ∨ a + 2 ^ l ≤ k) → (t.b.core core).rdSN k 1 = (s.b.core core).rdSN k 1) ∧
      (∀ rd rs1 l, (h.reg rs1).toNat < scratchEnd → (h.reg rs1).toNat % 2 ^ l = 0 → l ≤ 3 →
        let a := (h.reg rs1).toNat
        let old := leNat ((s.b.core core).rdSN a (2 ^ l))
        (Tab.get false (s.b.core core).poison (a / 128) = false →
          (Completes (exec (.controlProcessorAccess core (.access (.lr rd rs1 l))) s) fun t => OnlyHart core s t ∧
            (t.b.core core).hart = { h.loaded rd (extend (2 ^ l) false old) with reservation := some (scratchLine a) }) ∧
          ∀ rs2, l = 3 →
            Completes (exec (.controlProcessorAccess core (.access (.amo (.add true) rd rs1 rs2))) s) fun t => OnlyCore core s t ∧
            (t.b.core core).hart = h.loaded rd (BitVec.ofNat 64 old) ∧
            (t.b.core core).rdSN a 8 = toLe 8 ((old + (h.reg rs2).toNat) % 2 ^ 64)) ∧
        ∀ rs2, (h.reservation = some (scratchLine a) →
          Completes (exec (.controlProcessorAccess core (.access (.sc rd rs1 rs2 l))) s) fun t =>
            OnlyCore core s t ∧ (t.b.core core).hart = { h.loaded rd 0 with reservation := none } ∧
            (t.b.core core).rdSN a (2 ^ l) = toLe (2 ^ l) (h.reg rs2).toNat) ∧
          (h.reservation ≠ some (scratchLine a) →
            Completes (exec (.controlProcessorAccess core (.access (.sc rd rs1 rs2 l))) s) fun t =>
            OnlyHart core s t ∧ (t.b.core core).hart = { h.loaded rd 1 with reservation := none })) ∧
      (∀ rd rs1 k uns off p key adv l,
        let va := effAddr h rs1 off
        scratchEnd ≤ va.toNat → va.toNat < 2 ^ 57 → va.toNat % 128 + 2 ^ k ≤ 128 → s.b.pageMoves h.zhCtx va.toNat = false →
        (s.b.ctx h.zhCtx).cached ≠ none → s.b.mustWalk core 7 h.zhCtx va.toNat = false →
        ((s.b.ctx h.zhCtx).allocVa = 0 ∨ va.toNat / 65536 ≠ (s.b.ctx h.zhCtx).allocVa / 65536) →
        (s.b.translate h.zhCtx va.toNat false).2 = .dev p key adv → s.b.coh.lineOf (s.b.clusterOf core) (gaKey p / 128) = some l →
        Completes (exec (.controlProcessorAccess core (.access (.load rd rs1 k uns off))) s) fun t =>
          Frame [.cores, .coh, .ctxs, .slices, .ports] s t ∧
          let h' := h.loaded rd (extend (2 ^ k) uns (leNat (((lineBytes l.data).drop (gaKey p % 128)).take (2 ^ k))))
          (t.b.core core).hart = { h' with reservation := (t.b.core core).hart.reservation } ∧
          ((s.b.coh.dcache.filter fun x => x.1 == core).length < 256 → (t.b.core core).hart = h')) ∧
      (∀ rd rs1 l uns off, scratchEnd ≤ (effAddr h rs1 off).toNat → (s.b.ctx h.zhCtx).allocVa ≠ 0 →
        (effAddr h rs1 off).toNat % 2 ^ 57 / 65536 = (s.b.ctx h.zhCtx).allocVa / 65536 →
        Completes (exec (.controlProcessorAccess core (.access (.load rd rs1 l uns off))) s) fun t =>
          OnlyHart core s t ∧ (t.b.core core).hart = h.trap 5 (effAddr h rs1 off)) ∧
      (∀ rd n, csrAllowed h.machine n false = true → Completes (exec (.controlProcessorAccess core (.csr rd n none)) s) fun t =>
        OnlyHart core s t ∧ (t.b.core core).hart = h.loaded rd (s.b.csrRead core n)) ∧
      (∀ rd rs, h.machine = true →
        Completes (exec (.controlProcessorAccess core (.csr rd 0xCC1 (some (.write, rs)))) s) fun t => OnlyHart core s t ∧
          (t.b.core core).hart = { h with zhCtx := dfld (h.reg rs) 19 0 }.loaded rd (BitVec.ofNat 64 h.zhCtx)) ∧
      (∀ rd n w, csrAllowed h.machine n w.isSome = false →
        Completes (exec (.controlProcessorAccess core (.csr rd n w)) s) fun t =>
          OnlyHart core s t ∧ (t.b.core core).hart = h.trap 2 0) ∧
      (∀ funct3 funct7, Completes (exec (.controlProcessorAccess core (.custom funct3 funct7)) s) fun t =>
        OnlyHart core s t ∧ (t.b.core core).hart = h.trap 2 0) ∧
      (∀ rd rs1 l uns off,
        ((effAddr h rs1 off).toNat < scratchEnd ∨ (s.b.ctx h.zhCtx).allocVa = 0 ∨
          (effAddr h rs1 off).toNat % 2 ^ 57 / 65536 ≠ (s.b.ctx h.zhCtx).allocVa / 65536) →
        128 < (effAddr h rs1 off).toNat % 2 ^ 57 % 128 + 2 ^ l →
        Completes (exec (.controlProcessorAccess core (.access (.load rd rs1 l uns off))) s) fun t =>
          OnlyHart core s t ∧ (t.b.core core).hart = h.trap 4 (effAddr h rs1 off)) ∧
      ∀ (target : Dword) body, (dfld target 15 13 = s.b.start.inst ∨ s.b.start.instCount ≤ dfld target 15 13) →
        let c := targetCore (dfld target 15 0)
        (s.b.roleMatches (s.b.core core).owner target = true → c ≠ core →
          Completes (exec (.coreMessage core target body) s) fun t =>
          Frame [.cores] s t ∧ (t.b.core c).hart.inbox = (s.b.core c).hart.inbox ++ [body] ∧ (t.b.core core).hart.pc = h.pc + 4) ∧
        (s.b.roleMatches (s.b.core core).owner target = false → Completes (exec (.coreMessage core target body) s) fun t =>
          Frame [.cores, .ctxs, .slices, .ports, .draws] s t ∧ ∃ v, (t.b.core core).hart = h.trap 7 v))

/-! ### Stated rules, invariants and reset -/

/-- R42: with TRANSPOSE set, element (i, j) of the presented Q4m tile is the stored element (j, i), under the stored scale of block
2 × ⌊j / 32⌋ + ⌊i / 32⌋; no code and no scale byte changes. -/
def Obligations.TransposedTileIsTheStoredTileTurned : Prop :=
  ∀ (d : List Dword) (tile : List Byte) (i j : Nat), tile.length = 2052 → dRfmt d = 0 → dTranspose d = true → i < 64 → j < 64 →
    let x := (tile.getD ((64 * j + i) / 2) 0).toNat
    let e := resElem d (tile.map fun v => { val := v, bad := false, code := 0 }) i j
    e.val = elemVal .q4m (if i % 2 = 0 then x % 16 else x / 16) ∧
    e.exp = scaleExp (tile.getD (2048 + (2 * (j / 32) + i / 32)) 0).toNat

/-- R247: a write of v to ZH_DOORBELL is accepted exactly where ENABLE is 1, (v − TAIL) mod 2^32 < 2^31 and (v − DONE) mod 2^32 ≤
2^RING_LOG2, and then sets TAIL to v; any other changes nothing and increments ZH_DB_REFUSED. It holds for the queues of this
instance while the host port takes writes and the lead stands. -/
def Obligations.DoorbellAcceptedOrRefused : Prop :=
  ∀ (s : State) (q : Nat) (v : Word), q < 4096 → s.b.gated = false → s.b.start.leadLost = false →
    let x := s.b.queue q
    let accepted := x.enable = true ∧ (v - x.tail).toNat < 2 ^ 31 ∧ (v - x.done).toNat ≤ 2 ^ x.ringLog2
    Completes (exec (.doorbell q v) s) fun t =>
      (accepted → (t.b.queue q).tail = v ∧ (t.b.queue q).refused = x.refused ∧ ∀ p, p ≠ q → t.b.queue p = s.b.queue p) ∧
      (¬ accepted → t = { s with b := s.b.modQueue q fun y => { y with refused := (t.b.queue q).refused } } ∧
        (x.refused ≠ BitVec.allOnes 32 → (t.b.queue q).refused = x.refused + 1) ∧
        (x.refused = BitVec.allOnes 32 → (t.b.queue q).refused = x.refused))

/-- R357, over every command and every clock: a burnt fuse bit stays burnt, and the bytes of the configuration flash keep their
canonical form. -/
def Obligations.FusesStayBurntAndTheFlashKeepsItsForm : Prop :=
  ∀ s t : State, step s = .next t →
    (∀ i, s.fuse.getLsbD i = true → t.fuse.getLsbD i = true) ∧ (s.flash.bytes.wf = true → t.flash.bytes.wf = true)

/-- R384, R392 and the reset values of the spec's tables: the block in reset, with the fuse array of R357 unburnt. -/
def Obligations.ResetHoldsTheSpecsValues : Prop :=
  let s := State.reset
  s.pending = [] ∧ s.fuse = 0 ∧ s.flash.bytes.wf = true ∧ s.b.start.stage = 0 ∧ s.b.start.fault = 0 ∧ s.b.start.released = false ∧
  s.b.gated = true ∧ s.b.slices = [] ∧ s.b.time.lock = .unlocked ∧ s.b.time.count = 0 ∧
  s.b.time.timingPorts = 0x0F ∧ s.b.time.grace = 64 ∧ s.b.parade.st = .empty ∧ s.b.dict.eventRetry = 100 ∧ s.b.dict.evSeq = 0 ∧
  (∀ i, (s.b.ports.link i).st = .down) ∧ (∀ q, (s.b.queue q).enable = false ∧ (s.b.queue q).tail = 0) ∧ s.b.live = [] ∧
    ∀ n, (s.b.slice n).st = .none
end

