-- ==== Sys2Proof/Laws/Tab.lean ====
section
/-! SUPPORT. The laws of sparse tables and of memory: what a read gives after a write, and that every operation keeps the
canonical form. -/

namespace Sys2Proof.Machine

variable {α : Type}

theorem Tab.get_put_same (d : α) (t : Tab α) (k : Nat) (v : α) : Tab.get d (Tab.put t k v) k = v := by
  induction t with
  | nil => simp [Tab.put, Tab.get]
  | cons e t ih =>
    obtain ⟨j, x⟩ := e
    simp only [Tab.put]
    split
    · simp [Tab.get]
    · split
      · simp [Tab.get]
      · rename_i h; simp [Tab.get, Ne.symm h, ih]

theorem Tab.get_put_ne (d : α) (t : Tab α) {k k' : Nat} (v : α) (h : k' ≠ k) :
    Tab.get d (Tab.put t k v) k' = Tab.get d t k' := by
  induction t with
  | nil => simp [Tab.put, Tab.get, Ne.symm h]
  | cons e t ih =>
    obtain ⟨j, x⟩ := e
    simp only [Tab.put]
    split
    · simp [Tab.get, Ne.symm h]
    · split
      · rename_i h2; subst h2; simp [Tab.get, Ne.symm h]
      · simp [Tab.get, ih]

theorem Tab.get_erase_same (d : α) (t : Tab α) (k : Nat) : Tab.get d (Tab.erase t k) k = d := by
  induction t with
  | nil => rfl
  | cons e t ih =>
    obtain ⟨j, x⟩ := e
    simp only [Tab.erase]
    split
    · exact ih
    · rename_i h; simp [Tab.get, h, ih]

theorem Tab.get_erase_ne (d : α) (t : Tab α) {k k' : Nat} (h : k' ≠ k) : Tab.get d (Tab.erase t k) k' = Tab.get d t k' := by
  induction t with
  | nil => rfl
  | cons e t ih =>
    obtain ⟨j, x⟩ := e
    simp only [Tab.erase]
    split
    · rename_i h2; subst h2; simp [Tab.get, Ne.symm h, ih]
    · simp [Tab.get, ih]

/-- A table reads what was last written to a key. -/
@[simp] theorem Tab.get_set_same [DecidableEq α] (d : α) (t : Tab α) (k : Nat) (v : α) : Tab.get d (Tab.set d t k v) k = v := by
  unfold Tab.set
  split
  · rename_i h; rw [h]; exact Tab.get_erase_same d t k
  · exact Tab.get_put_same d t k v

/-- A write leaves every other key alone. -/
theorem Tab.get_set_ne [DecidableEq α] (d : α) (t : Tab α) {k k' : Nat} (v : α) (h : k' ≠ k) :
    Tab.get d (Tab.set d t k v) k' = Tab.get d t k' := by
  unfold Tab.set
  split
  · exact Tab.get_erase_ne d t h
  · exact Tab.get_put_ne d t v h

/-- Both laws at once. -/
theorem Tab.get_set [DecidableEq α] (d : α) (t : Tab α) (k k' : Nat) (v : α) :
    Tab.get d (Tab.set d t k v) k' = if k' = k then v else Tab.get d t k' := by
  split
  · rename_i h; rw [h]; exact Tab.get_set_same d t k v
  · rename_i h; exact Tab.get_set_ne d t v h

@[simp] theorem Tab.get_upd_same [DecidableEq α] (d : α) (t : Tab α) (k : Nat) (f : α → α) :
    Tab.get d (Tab.upd d t k f) k = f (Tab.get d t k) := Tab.get_set_same d t k _

theorem Tab.get_upd_ne [DecidableEq α] (d : α) (t : Tab α) {k k' : Nat} (f : α → α) (h : k' ≠ k) :
    Tab.get d (Tab.upd d t k f) k' = Tab.get d t k' := Tab.get_set_ne d t _ h

/-! ### The canonical form -/

/-- Rising above a lower bound. -/
theorem Tab.rising_mono (t : Tab α) {a b : Nat} (h : a ≤ b) (hr : Tab.rising (some b) t = true) : Tab.rising (some a) t = true := by
  cases t with
  | nil => rfl
  | cons e t =>
    obtain ⟨k, x⟩ := e
    simp only [Tab.rising, Bool.and_eq_true, decide_eq_true_eq] at hr ⊢
    exact ⟨by omega, hr.2⟩

theorem Tab.rising_none {t : Tab α} {a : Nat} (hr : Tab.rising (some a) t = true) : Tab.rising none t = true := by
  cases t with
  | nil => rfl
  | cons e t => simp only [Tab.rising, Bool.and_eq_true] at hr ⊢; exact hr.2

theorem Tab.rising_put (t : Tab α) (k : Nat) (v : α) {lo : Nat} (h : lo < k) (hr : Tab.rising (some lo) t = true) :
    Tab.rising (some lo) (Tab.put t k v) = true := by
  induction t generalizing lo with
  | nil => simp [Tab.put, Tab.rising, h]
  | cons e t ih =>
    obtain ⟨j, x⟩ := e
    simp only [Tab.rising, Bool.and_eq_true, decide_eq_true_eq] at hr
    simp only [Tab.put]
    split
    · rename_i h2; simp [Tab.rising, h, h2, hr.2]
    · split
      · rename_i h2; subst h2; simp [Tab.rising, hr.1, hr.2]
      · simp only [Tab.rising, Bool.and_eq_true, decide_eq_true_eq]
        exact ⟨hr.1, ih (by omega) hr.2⟩

theorem Tab.rising_erase (t : Tab α) (k : Nat) {lo : Nat} (hr : Tab.rising (some lo) t = true) :
    Tab.rising (some lo) (Tab.erase t k) = true := by
  induction t generalizing lo with
  | nil => rfl
  | cons e t ih =>
    obtain ⟨j, x⟩ := e
    simp only [Tab.rising, Bool.and_eq_true, decide_eq_true_eq] at hr
    simp only [Tab.erase]
    split
    · exact ih (Tab.rising_mono t (Nat.le_of_lt hr.1) hr.2)
    · simp only [Tab.rising, Bool.and_eq_true, decide_eq_true_eq]; exact ⟨hr.1, ih hr.2⟩

/-- A table is rising exactly when its tail rises above its head. -/
theorem Tab.rising_none_put (t : Tab α) (k : Nat) (v : α) (hr : Tab.rising none t = true) :
    Tab.rising none (Tab.put t k v) = true := by
  cases t with
  | nil => rfl
  | cons e t =>
    obtain ⟨j, x⟩ := e
    simp only [Tab.rising] at hr
    simp only [Tab.put]
    split
    · rename_i h; simp [Tab.rising, h, hr]
    · split
      · rename_i h; subst h; simpa [Tab.rising] using hr
      · simp only [Tab.rising]; exact Tab.rising_put t k v (by omega) hr

theorem Tab.rising_none_erase (t : Tab α) (k : Nat) (hr : Tab.rising none t = true) : Tab.rising none (Tab.erase t k) = true := by
  cases t with
  | nil => rfl
  | cons e t =>
    obtain ⟨j, x⟩ := e
    simp only [Tab.rising] at hr
    simp only [Tab.erase]
    split
    · exact Tab.rising_none (Tab.rising_erase t k hr)
    · simp only [Tab.rising]; exact Tab.rising_erase t k hr

theorem Tab.mem_put {t : Tab α} {k : Nat} {v : α} {e : Nat × α} (h : e ∈ Tab.put t k v) : e = (k, v) ∨ e ∈ t := by
  induction t with
  | nil => simpa [Tab.put] using h
  | cons a t ih =>
    obtain ⟨j, x⟩ := a
    simp only [Tab.put] at h
    split at h
    · simpa using h
    · split at h
      · rcases List.mem_cons.mp h with h | h
        · exact .inl h
        · exact .inr (List.mem_cons_of_mem _ h)
      · rcases List.mem_cons.mp h with h | h
        · exact .inr (h ▸ List.mem_cons_self)
        · rcases ih h with h | h
          · exact .inl h
          · exact .inr (List.mem_cons_of_mem _ h)

theorem Tab.mem_erase {t : Tab α} {k : Nat} {e : Nat × α} (h : e ∈ Tab.erase t k) : e ∈ t := by
  induction t with
  | nil => exact h
  | cons a t ih =>
    obtain ⟨j, x⟩ := a
    simp only [Tab.erase] at h
    split at h
    · exact List.mem_cons_of_mem _ (ih h)
    · rcases List.mem_cons.mp h with h | h
      · exact h ▸ List.mem_cons_self
      · exact List.mem_cons_of_mem _ (ih h)

/-- A write keeps the canonical form. -/
theorem Tab.set_wf [DecidableEq α] (d : α) (t : Tab α) (k : Nat) (v : α) (h : Tab.wf d t = true) :
    Tab.wf d (Tab.set d t k v) = true := by
  simp only [Tab.wf, Bool.and_eq_true, List.all_eq_true, decide_eq_true_eq] at h ⊢
  unfold Tab.set
  split
  · exact ⟨Tab.rising_none_erase t k h.1, fun e he => h.2 e (Tab.mem_erase he)⟩
  · rename_i hv
    refine ⟨Tab.rising_none_put t k v h.1, fun e he => ?_⟩
    rcases Tab.mem_put he with he | he
    · rw [he]; exact hv
    · exact h.2 e he

theorem Tab.upd_wf [DecidableEq α] (d : α) (t : Tab α) (k : Nat) (f : α → α) (h : Tab.wf d t = true) :
    Tab.wf d (Tab.upd d t k f) = true := Tab.set_wf d t k _ h

/-! ### Memory -/

@[simp] theorem Mem.read_write_same (m : Mem) (a : Nat) (x : Byte) : (m.write a x).read a = x := Tab.get_set_same 0 m a x

theorem Mem.read_write_ne (m : Mem) {a a' : Nat} (x : Byte) (h : a' ≠ a) : (m.write a x).read a' = m.read a' :=
  Tab.get_set_ne 0 m x h

/-- A write of one byte keeps the canonical form. -/
theorem Mem.write_wf (m : Mem) (a : Nat) (x : Byte) (h : m.wf = true) : (m.write a x).wf = true := Tab.set_wf 0 m a x h

/-- A write of several bytes keeps the canonical form. -/
theorem Mem.writeN_wf (m : Mem) (a : Nat) (l : List Byte) (h : m.wf = true) : (m.writeN a l).wf = true := by
  induction l generalizing m a with
  | nil => exact h
  | cons x l ih => exact ih _ _ (Mem.write_wf m a x h)

/-- Outside the bytes written, memory reads as before. -/
theorem Mem.read_writeN_out (m : Mem) (a : Nat) (l : List Byte) (k : Nat) (h : k < a ∨ a + l.length ≤ k) :
    (m.writeN a l).read k = m.read k := by
  induction l generalizing m a with
  | nil => rfl
  | cons x l ih =>
    simp only [List.length_cons] at h
    rw [Mem.writeN, ih _ _ (by omega), Mem.read_write_ne _ _ (by omega)]

/-- Within the bytes written, memory reads what was written. -/
theorem Mem.read_writeN_in (m : Mem) (a : Nat) (l : List Byte) (i : Nat) (h : i < l.length) :
    (m.writeN a l).read (a + i) = l[i] := by
  induction l generalizing m a i with
  | nil => simp at h
  | cons x l ih =>
    rw [Mem.writeN]
    cases i with
    | zero => rw [Mem.read_writeN_out _ _ _ _ (by omega)]; simp
    | succ i =>
      have := ih (m.write a x) (a + 1) i (by simpa using h)
      simpa [Nat.add_assoc, Nat.add_comm 1 i] using this

theorem Mem.readN_length (m : Mem) (a n : Nat) : (Mem.readN m a n).length = n := by
  induction n generalizing a with
  | zero => rfl
  | succ n ih => simp [Mem.readN, ih]

end Sys2Proof.Machine
end

