-- ==== Sys2Proof/Laws/State.lean ====
section
/-! SUPPORT. What each update of State leaves and changes, one lemma a field, so that no proof unfolds a record update. -/

namespace Sys2Proof.Machine

/-! ### The whole state -/

@[simp] theorem State.withPending_fuse (s : State) (q : List Instr) : (s.withPending q).fuse = s.fuse := rfl
@[simp] theorem State.withPending_flash (s : State) (q : List Instr) : (s.withPending q).flash = s.flash := rfl
@[simp] theorem State.withPending_b (s : State) (q : List Instr) : (s.withPending q).b = s.b := rfl
@[simp] theorem State.withPending_pending (s : State) (q : List Instr) : (s.withPending q).pending = q := rfl
@[simp] theorem State.idle_pending (s : State) : s.idle.pending = s.pending := rfl
@[simp] theorem State.idle_fuse (s : State) : s.idle.fuse = s.fuse := rfl
@[simp] theorem State.idle_b (s : State) : s.idle.b = s.b.tick := rfl

/-- A command that changes the block only: its next state, and what it keeps. -/
theorem State.onBlock_eq (s : State) (f : Block → Block) : s.onBlock f = .next { s with b := f s.b } := rfl

/-- A command that changes the block and the flash. -/
theorem State.onFlash_eq (s : State) (f : Flash → Block → Flash × Block) :
    s.onFlash f = .next { s with flash := (f s.flash s.b).1, b := (f s.flash s.b).2 } := rfl

/-- A command that may burn fuses: the array only gains bits. -/
theorem State.onAll_eq (s : State) (f : BitVec 4096 → Flash → Block → BitVec 4096 × Flash × Block) :
    s.onAll f = .next { s with fuse := s.fuse ||| (f s.fuse s.flash s.b).1, flash := (f s.fuse s.flash s.b).2.1,
                               b := (f s.fuse s.flash s.b).2.2 } := rfl

/-! ### The parts of the block -/

@[simp] theorem Block.modCore_time (b : Block) (c : Nat) (f : Core → Core) : (b.modCore c f).time = b.time := rfl
@[simp] theorem Block.modCore_parade (b : Block) (c : Nat) (f : Core → Core) : (b.modCore c f).parade = b.parade := rfl
@[simp] theorem Block.modCore_life (b : Block) (c : Nat) (f : Core → Core) : (b.modCore c f).life = b.life := rfl
@[simp] theorem Block.modCore_start (b : Block) (c : Nat) (f : Core → Core) : (b.modCore c f).start = b.start := rfl
@[simp] theorem Block.modCore_power (b : Block) (c : Nat) (f : Core → Core) : (b.modCore c f).power = b.power := rfl
@[simp] theorem Block.modCore_dict (b : Block) (c : Nat) (f : Core → Core) : (b.modCore c f).dict = b.dict := rfl
@[simp] theorem Block.modCore_tally (b : Block) (c : Nat) (f : Core → Core) : (b.modCore c f).tally = b.tally := rfl
@[simp] theorem Block.modCore_recon (b : Block) (c : Nat) (f : Core → Core) : (b.modCore c f).recon = b.recon := rfl
@[simp] theorem Block.modCore_ladder (b : Block) (c : Nat) (f : Core → Core) : (b.modCore c f).ladder = b.ladder := rfl
@[simp] theorem Block.modCore_ports (b : Block) (c : Nat) (f : Core → Core) : (b.modCore c f).ports = b.ports := rfl
@[simp] theorem Block.modCore_coh (b : Block) (c : Nat) (f : Core → Core) : (b.modCore c f).coh = b.coh := rfl
@[simp] theorem Block.modCore_mem (b : Block) (c : Nat) (f : Core → Core) : (b.modCore c f).mem = b.mem := rfl
@[simp] theorem Block.modCore_keys (b : Block) (c : Nat) (f : Core → Core) : (b.modCore c f).keys = b.keys := rfl
@[simp] theorem Block.modCore_keyGens (b : Block) (c : Nat) (f : Core → Core) : (b.modCore c f).keyGens = b.keyGens := rfl
@[simp] theorem Block.modCore_slices (b : Block) (c : Nat) (f : Core → Core) : (b.modCore c f).slices = b.slices := rfl
@[simp] theorem Block.modCore_ctxs (b : Block) (c : Nat) (f : Core → Core) : (b.modCore c f).ctxs = b.ctxs := rfl
@[simp] theorem Block.modCore_queues (b : Block) (c : Nat) (f : Core → Core) : (b.modCore c f).queues = b.queues := rfl
@[simp] theorem Block.modCore_fences (b : Block) (c : Nat) (f : Core → Core) : (b.modCore c f).fences = b.fences := rfl
@[simp] theorem Block.modCore_dmas (b : Block) (c : Nat) (f : Core → Core) : (b.modCore c f).dmas = b.dmas := rfl
@[simp] theorem Block.modCore_vis (b : Block) (c : Nat) (f : Core → Core) : (b.modCore c f).vis = b.vis := rfl
@[simp] theorem Block.modCore_draws (b : Block) (c : Nat) (f : Core → Core) : (b.modCore c f).draws = b.draws := rfl
@[simp] theorem Block.modCore_upsets (b : Block) (c : Nat) (f : Core → Core) : (b.modCore c f).upsets = b.upsets := rfl

@[simp] theorem Block.modSlice_time (b : Block) (n : Nat) (f : Slice → Slice) : (b.modSlice n f).time = b.time := rfl
@[simp] theorem Block.modSlice_parade (b : Block) (n : Nat) (f : Slice → Slice) : (b.modSlice n f).parade = b.parade := rfl
@[simp] theorem Block.modSlice_life (b : Block) (n : Nat) (f : Slice → Slice) : (b.modSlice n f).life = b.life := rfl
@[simp] theorem Block.modSlice_start (b : Block) (n : Nat) (f : Slice → Slice) : (b.modSlice n f).start = b.start := rfl
@[simp] theorem Block.modSlice_power (b : Block) (n : Nat) (f : Slice → Slice) : (b.modSlice n f).power = b.power := rfl
@[simp] theorem Block.modSlice_dict (b : Block) (n : Nat) (f : Slice → Slice) : (b.modSlice n f).dict = b.dict := rfl
@[simp] theorem Block.modSlice_tally (b : Block) (n : Nat) (f : Slice → Slice) : (b.modSlice n f).tally = b.tally := rfl
@[simp] theorem Block.modSlice_recon (b : Block) (n : Nat) (f : Slice → Slice) : (b.modSlice n f).recon = b.recon := rfl
@[simp] theorem Block.modSlice_ladder (b : Block) (n : Nat) (f : Slice → Slice) : (b.modSlice n f).ladder = b.ladder := rfl
@[simp] theorem Block.modSlice_ports (b : Block) (n : Nat) (f : Slice → Slice) : (b.modSlice n f).ports = b.ports := rfl
@[simp] theorem Block.modSlice_coh (b : Block) (n : Nat) (f : Slice → Slice) : (b.modSlice n f).coh = b.coh := rfl
@[simp] theorem Block.modSlice_mem (b : Block) (n : Nat) (f : Slice → Slice) : (b.modSlice n f).mem = b.mem := rfl
@[simp] theorem Block.modSlice_keys (b : Block) (n : Nat) (f : Slice → Slice) : (b.modSlice n f).keys = b.keys := rfl
@[simp] theorem Block.modSlice_keyGens (b : Block) (n : Nat) (f : Slice → Slice) : (b.modSlice n f).keyGens = b.keyGens := rfl
@[simp] theorem Block.modSlice_cores (b : Block) (n : Nat) (f : Slice → Slice) : (b.modSlice n f).cores = b.cores := rfl
@[simp] theorem Block.modSlice_ctxs (b : Block) (n : Nat) (f : Slice → Slice) : (b.modSlice n f).ctxs = b.ctxs := rfl
@[simp] theorem Block.modSlice_queues (b : Block) (n : Nat) (f : Slice → Slice) : (b.modSlice n f).queues = b.queues := rfl
@[simp] theorem Block.modSlice_fences (b : Block) (n : Nat) (f : Slice → Slice) : (b.modSlice n f).fences = b.fences := rfl
@[simp] theorem Block.modSlice_dmas (b : Block) (n : Nat) (f : Slice → Slice) : (b.modSlice n f).dmas = b.dmas := rfl
@[simp] theorem Block.modSlice_vis (b : Block) (n : Nat) (f : Slice → Slice) : (b.modSlice n f).vis = b.vis := rfl
@[simp] theorem Block.modSlice_draws (b : Block) (n : Nat) (f : Slice → Slice) : (b.modSlice n f).draws = b.draws := rfl
@[simp] theorem Block.modSlice_upsets (b : Block) (n : Nat) (f : Slice → Slice) : (b.modSlice n f).upsets = b.upsets := rfl

@[simp] theorem Block.modCtx_time (b : Block) (c : Nat) (f : Ctx → Ctx) : (b.modCtx c f).time = b.time := rfl
@[simp] theorem Block.modCtx_parade (b : Block) (c : Nat) (f : Ctx → Ctx) : (b.modCtx c f).parade = b.parade := rfl
@[simp] theorem Block.modCtx_life (b : Block) (c : Nat) (f : Ctx → Ctx) : (b.modCtx c f).life = b.life := rfl
@[simp] theorem Block.modCtx_start (b : Block) (c : Nat) (f : Ctx → Ctx) : (b.modCtx c f).start = b.start := rfl
@[simp] theorem Block.modCtx_power (b : Block) (c : Nat) (f : Ctx → Ctx) : (b.modCtx c f).power = b.power := rfl
@[simp] theorem Block.modCtx_dict (b : Block) (c : Nat) (f : Ctx → Ctx) : (b.modCtx c f).dict = b.dict := rfl
@[simp] theorem Block.modCtx_tally (b : Block) (c : Nat) (f : Ctx → Ctx) : (b.modCtx c f).tally = b.tally := rfl
@[simp] theorem Block.modCtx_recon (b : Block) (c : Nat) (f : Ctx → Ctx) : (b.modCtx c f).recon = b.recon := rfl
@[simp] theorem Block.modCtx_ladder (b : Block) (c : Nat) (f : Ctx → Ctx) : (b.modCtx c f).ladder = b.ladder := rfl
@[simp] theorem Block.modCtx_ports (b : Block) (c : Nat) (f : Ctx → Ctx) : (b.modCtx c f).ports = b.ports := rfl
@[simp] theorem Block.modCtx_coh (b : Block) (c : Nat) (f : Ctx → Ctx) : (b.modCtx c f).coh = b.coh := rfl
@[simp] theorem Block.modCtx_mem (b : Block) (c : Nat) (f : Ctx → Ctx) : (b.modCtx c f).mem = b.mem := rfl
@[simp] theorem Block.modCtx_keys (b : Block) (c : Nat) (f : Ctx → Ctx) : (b.modCtx c f).keys = b.keys := rfl
@[simp] theorem Block.modCtx_keyGens (b : Block) (c : Nat) (f : Ctx → Ctx) : (b.modCtx c f).keyGens = b.keyGens := rfl
@[simp] theorem Block.modCtx_slices (b : Block) (c : Nat) (f : Ctx → Ctx) : (b.modCtx c f).slices = b.slices := rfl
@[simp] theorem Block.modCtx_cores (b : Block) (c : Nat) (f : Ctx → Ctx) : (b.modCtx c f).cores = b.cores := rfl
@[simp] theorem Block.modCtx_queues (b : Block) (c : Nat) (f : Ctx → Ctx) : (b.modCtx c f).queues = b.queues := rfl
@[simp] theorem Block.modCtx_fences (b : Block) (c : Nat) (f : Ctx → Ctx) : (b.modCtx c f).fences = b.fences := rfl
@[simp] theorem Block.modCtx_dmas (b : Block) (c : Nat) (f : Ctx → Ctx) : (b.modCtx c f).dmas = b.dmas := rfl
@[simp] theorem Block.modCtx_vis (b : Block) (c : Nat) (f : Ctx → Ctx) : (b.modCtx c f).vis = b.vis := rfl
@[simp] theorem Block.modCtx_draws (b : Block) (c : Nat) (f : Ctx → Ctx) : (b.modCtx c f).draws = b.draws := rfl
@[simp] theorem Block.modCtx_upsets (b : Block) (c : Nat) (f : Ctx → Ctx) : (b.modCtx c f).upsets = b.upsets := rfl

@[simp] theorem Block.modQueue_time (b : Block) (q : Nat) (f : Queue → Queue) : (b.modQueue q f).time = b.time := rfl
@[simp] theorem Block.modQueue_parade (b : Block) (q : Nat) (f : Queue → Queue) : (b.modQueue q f).parade = b.parade := rfl
@[simp] theorem Block.modQueue_life (b : Block) (q : Nat) (f : Queue → Queue) : (b.modQueue q f).life = b.life := rfl
@[simp] theorem Block.modQueue_start (b : Block) (q : Nat) (f : Queue → Queue) : (b.modQueue q f).start = b.start := rfl
@[simp] theorem Block.modQueue_power (b : Block) (q : Nat) (f : Queue → Queue) : (b.modQueue q f).power = b.power := rfl
@[simp] theorem Block.modQueue_dict (b : Block) (q : Nat) (f : Queue → Queue) : (b.modQueue q f).dict = b.dict := rfl
@[simp] theorem Block.modQueue_tally (b : Block) (q : Nat) (f : Queue → Queue) : (b.modQueue q f).tally = b.tally := rfl
@[simp] theorem Block.modQueue_recon (b : Block) (q : Nat) (f : Queue → Queue) : (b.modQueue q f).recon = b.recon := rfl
@[simp] theorem Block.modQueue_ladder (b : Block) (q : Nat) (f : Queue → Queue) : (b.modQueue q f).ladder = b.ladder := rfl
@[simp] theorem Block.modQueue_ports (b : Block) (q : Nat) (f : Queue → Queue) : (b.modQueue q f).ports = b.ports := rfl
@[simp] theorem Block.modQueue_coh (b : Block) (q : Nat) (f : Queue → Queue) : (b.modQueue q f).coh = b.coh := rfl
@[simp] theorem Block.modQueue_mem (b : Block) (q : Nat) (f : Queue → Queue) : (b.modQueue q f).mem = b.mem := rfl
@[simp] theorem Block.modQueue_keys (b : Block) (q : Nat) (f : Queue → Queue) : (b.modQueue q f).keys = b.keys := rfl
@[simp] theorem Block.modQueue_keyGens (b : Block) (q : Nat) (f : Queue → Queue) : (b.modQueue q f).keyGens = b.keyGens := rfl
@[simp] theorem Block.modQueue_slices (b : Block) (q : Nat) (f : Queue → Queue) : (b.modQueue q f).slices = b.slices := rfl
@[simp] theorem Block.modQueue_cores (b : Block) (q : Nat) (f : Queue → Queue) : (b.modQueue q f).cores = b.cores := rfl
@[simp] theorem Block.modQueue_ctxs (b : Block) (q : Nat) (f : Queue → Queue) : (b.modQueue q f).ctxs = b.ctxs := rfl
@[simp] theorem Block.modQueue_fences (b : Block) (q : Nat) (f : Queue → Queue) : (b.modQueue q f).fences = b.fences := rfl
@[simp] theorem Block.modQueue_dmas (b : Block) (q : Nat) (f : Queue → Queue) : (b.modQueue q f).dmas = b.dmas := rfl
@[simp] theorem Block.modQueue_vis (b : Block) (q : Nat) (f : Queue → Queue) : (b.modQueue q f).vis = b.vis := rfl
@[simp] theorem Block.modQueue_draws (b : Block) (q : Nat) (f : Queue → Queue) : (b.modQueue q f).draws = b.draws := rfl
@[simp] theorem Block.modQueue_upsets (b : Block) (q : Nat) (f : Queue → Queue) : (b.modQueue q f).upsets = b.upsets := rfl

@[simp] theorem Block.modFence_time (b : Block) (i : Nat) (f : Fence → Fence) : (b.modFence i f).time = b.time := rfl
@[simp] theorem Block.modFence_parade (b : Block) (i : Nat) (f : Fence → Fence) : (b.modFence i f).parade = b.parade := rfl
@[simp] theorem Block.modFence_life (b : Block) (i : Nat) (f : Fence → Fence) : (b.modFence i f).life = b.life := rfl
@[simp] theorem Block.modFence_start (b : Block) (i : Nat) (f : Fence → Fence) : (b.modFence i f).start = b.start := rfl
@[simp] theorem Block.modFence_power (b : Block) (i : Nat) (f : Fence → Fence) : (b.modFence i f).power = b.power := rfl
@[simp] theorem Block.modFence_dict (b : Block) (i : Nat) (f : Fence → Fence) : (b.modFence i f).dict = b.dict := rfl
@[simp] theorem Block.modFence_tally (b : Block) (i : Nat) (f : Fence → Fence) : (b.modFence i f).tally = b.tally := rfl
@[simp] theorem Block.modFence_recon (b : Block) (i : Nat) (f : Fence → Fence) : (b.modFence i f).recon = b.recon := rfl
@[simp] theorem Block.modFence_ladder (b : Block) (i : Nat) (f : Fence → Fence) : (b.modFence i f).ladder = b.ladder := rfl
@[simp] theorem Block.modFence_ports (b : Block) (i : Nat) (f : Fence → Fence) : (b.modFence i f).ports = b.ports := rfl
@[simp] theorem Block.modFence_coh (b : Block) (i : Nat) (f : Fence → Fence) : (b.modFence i f).coh = b.coh := rfl
@[simp] theorem Block.modFence_mem (b : Block) (i : Nat) (f : Fence → Fence) : (b.modFence i f).mem = b.mem := rfl
@[simp] theorem Block.modFence_keys (b : Block) (i : Nat) (f : Fence → Fence) : (b.modFence i f).keys = b.keys := rfl
@[simp] theorem Block.modFence_keyGens (b : Block) (i : Nat) (f : Fence → Fence) : (b.modFence i f).keyGens = b.keyGens := rfl
@[simp] theorem Block.modFence_slices (b : Block) (i : Nat) (f : Fence → Fence) : (b.modFence i f).slices = b.slices := rfl
@[simp] theorem Block.modFence_cores (b : Block) (i : Nat) (f : Fence → Fence) : (b.modFence i f).cores = b.cores := rfl
@[simp] theorem Block.modFence_ctxs (b : Block) (i : Nat) (f : Fence → Fence) : (b.modFence i f).ctxs = b.ctxs := rfl
@[simp] theorem Block.modFence_queues (b : Block) (i : Nat) (f : Fence → Fence) : (b.modFence i f).queues = b.queues := rfl
@[simp] theorem Block.modFence_dmas (b : Block) (i : Nat) (f : Fence → Fence) : (b.modFence i f).dmas = b.dmas := rfl
@[simp] theorem Block.modFence_vis (b : Block) (i : Nat) (f : Fence → Fence) : (b.modFence i f).vis = b.vis := rfl
@[simp] theorem Block.modFence_draws (b : Block) (i : Nat) (f : Fence → Fence) : (b.modFence i f).draws = b.draws := rfl
@[simp] theorem Block.modFence_upsets (b : Block) (i : Nat) (f : Fence → Fence) : (b.modFence i f).upsets = b.upsets := rfl

@[simp] theorem Block.modVi_time (b : Block) (v : Nat) (f : Vi → Vi) : (b.modVi v f).time = b.time := rfl
@[simp] theorem Block.modVi_parade (b : Block) (v : Nat) (f : Vi → Vi) : (b.modVi v f).parade = b.parade := rfl
@[simp] theorem Block.modVi_life (b : Block) (v : Nat) (f : Vi → Vi) : (b.modVi v f).life = b.life := rfl
@[simp] theorem Block.modVi_start (b : Block) (v : Nat) (f : Vi → Vi) : (b.modVi v f).start = b.start := rfl
@[simp] theorem Block.modVi_power (b : Block) (v : Nat) (f : Vi → Vi) : (b.modVi v f).power = b.power := rfl
@[simp] theorem Block.modVi_dict (b : Block) (v : Nat) (f : Vi → Vi) : (b.modVi v f).dict = b.dict := rfl
@[simp] theorem Block.modVi_tally (b : Block) (v : Nat) (f : Vi → Vi) : (b.modVi v f).tally = b.tally := rfl
@[simp] theorem Block.modVi_recon (b : Block) (v : Nat) (f : Vi → Vi) : (b.modVi v f).recon = b.recon := rfl
@[simp] theorem Block.modVi_ladder (b : Block) (v : Nat) (f : Vi → Vi) : (b.modVi v f).ladder = b.ladder := rfl
@[simp] theorem Block.modVi_ports (b : Block) (v : Nat) (f : Vi → Vi) : (b.modVi v f).ports = b.ports := rfl
@[simp] theorem Block.modVi_coh (b : Block) (v : Nat) (f : Vi → Vi) : (b.modVi v f).coh = b.coh := rfl
@[simp] theorem Block.modVi_mem (b : Block) (v : Nat) (f : Vi → Vi) : (b.modVi v f).mem = b.mem := rfl
@[simp] theorem Block.modVi_keys (b : Block) (v : Nat) (f : Vi → Vi) : (b.modVi v f).keys = b.keys := rfl
@[simp] theorem Block.modVi_keyGens (b : Block) (v : Nat) (f : Vi → Vi) : (b.modVi v f).keyGens = b.keyGens := rfl
@[simp] theorem Block.modVi_slices (b : Block) (v : Nat) (f : Vi → Vi) : (b.modVi v f).slices = b.slices := rfl
@[simp] theorem Block.modVi_cores (b : Block) (v : Nat) (f : Vi → Vi) : (b.modVi v f).cores = b.cores := rfl
@[simp] theorem Block.modVi_ctxs (b : Block) (v : Nat) (f : Vi → Vi) : (b.modVi v f).ctxs = b.ctxs := rfl
@[simp] theorem Block.modVi_queues (b : Block) (v : Nat) (f : Vi → Vi) : (b.modVi v f).queues = b.queues := rfl
@[simp] theorem Block.modVi_fences (b : Block) (v : Nat) (f : Vi → Vi) : (b.modVi v f).fences = b.fences := rfl
@[simp] theorem Block.modVi_dmas (b : Block) (v : Nat) (f : Vi → Vi) : (b.modVi v f).dmas = b.dmas := rfl
@[simp] theorem Block.modVi_draws (b : Block) (v : Nat) (f : Vi → Vi) : (b.modVi v f).draws = b.draws := rfl
@[simp] theorem Block.modVi_upsets (b : Block) (v : Nat) (f : Vi → Vi) : (b.modVi v f).upsets = b.upsets := rfl

@[simp] theorem Block.modLink_time (b : Block) (i : Nat) (f : Link → Link) : (b.modLink i f).time = b.time := rfl
@[simp] theorem Block.modLink_parade (b : Block) (i : Nat) (f : Link → Link) : (b.modLink i f).parade = b.parade := rfl
@[simp] theorem Block.modLink_life (b : Block) (i : Nat) (f : Link → Link) : (b.modLink i f).life = b.life := rfl
@[simp] theorem Block.modLink_start (b : Block) (i : Nat) (f : Link → Link) : (b.modLink i f).start = b.start := rfl
@[simp] theorem Block.modLink_power (b : Block) (i : Nat) (f : Link → Link) : (b.modLink i f).power = b.power := rfl
@[simp] theorem Block.modLink_dict (b : Block) (i : Nat) (f : Link → Link) : (b.modLink i f).dict = b.dict := rfl
@[simp] theorem Block.modLink_tally (b : Block) (i : Nat) (f : Link → Link) : (b.modLink i f).tally = b.tally := rfl
@[simp] theorem Block.modLink_recon (b : Block) (i : Nat) (f : Link → Link) : (b.modLink i f).recon = b.recon := rfl
@[simp] theorem Block.modLink_ladder (b : Block) (i : Nat) (f : Link → Link) : (b.modLink i f).ladder = b.ladder := rfl
@[simp] theorem Block.modLink_coh (b : Block) (i : Nat) (f : Link → Link) : (b.modLink i f).coh = b.coh := rfl
@[simp] theorem Block.modLink_mem (b : Block) (i : Nat) (f : Link → Link) : (b.modLink i f).mem = b.mem := rfl
@[simp] theorem Block.modLink_keys (b : Block) (i : Nat) (f : Link → Link) : (b.modLink i f).keys = b.keys := rfl
@[simp] theorem Block.modLink_keyGens (b : Block) (i : Nat) (f : Link → Link) : (b.modLink i f).keyGens = b.keyGens := rfl
@[simp] theorem Block.modLink_slices (b : Block) (i : Nat) (f : Link → Link) : (b.modLink i f).slices = b.slices := rfl
@[simp] theorem Block.modLink_cores (b : Block) (i : Nat) (f : Link → Link) : (b.modLink i f).cores = b.cores := rfl
@[simp] theorem Block.modLink_ctxs (b : Block) (i : Nat) (f : Link → Link) : (b.modLink i f).ctxs = b.ctxs := rfl
@[simp] theorem Block.modLink_queues (b : Block) (i : Nat) (f : Link → Link) : (b.modLink i f).queues = b.queues := rfl
@[simp] theorem Block.modLink_fences (b : Block) (i : Nat) (f : Link → Link) : (b.modLink i f).fences = b.fences := rfl
@[simp] theorem Block.modLink_dmas (b : Block) (i : Nat) (f : Link → Link) : (b.modLink i f).dmas = b.dmas := rfl
@[simp] theorem Block.modLink_vis (b : Block) (i : Nat) (f : Link → Link) : (b.modLink i f).vis = b.vis := rfl
@[simp] theorem Block.modLink_draws (b : Block) (i : Nat) (f : Link → Link) : (b.modLink i f).draws = b.draws := rfl
@[simp] theorem Block.modLink_upsets (b : Block) (i : Nat) (f : Link → Link) : (b.modLink i f).upsets = b.upsets := rfl

@[simp] theorem Block.modTime_parade (b : Block) (f : TimeBase → TimeBase) : (b.modTime f).parade = b.parade := rfl
@[simp] theorem Block.modTime_life (b : Block) (f : TimeBase → TimeBase) : (b.modTime f).life = b.life := rfl
@[simp] theorem Block.modTime_start (b : Block) (f : TimeBase → TimeBase) : (b.modTime f).start = b.start := rfl
@[simp] theorem Block.modTime_power (b : Block) (f : TimeBase → TimeBase) : (b.modTime f).power = b.power := rfl
@[simp] theorem Block.modTime_dict (b : Block) (f : TimeBase → TimeBase) : (b.modTime f).dict = b.dict := rfl
@[simp] theorem Block.modTime_tally (b : Block) (f : TimeBase → TimeBase) : (b.modTime f).tally = b.tally := rfl
@[simp] theorem Block.modTime_recon (b : Block) (f : TimeBase → TimeBase) : (b.modTime f).recon = b.recon := rfl
@[simp] theorem Block.modTime_ladder (b : Block) (f : TimeBase → TimeBase) : (b.modTime f).ladder = b.ladder := rfl
@[simp] theorem Block.modTime_ports (b : Block) (f : TimeBase → TimeBase) : (b.modTime f).ports = b.ports := rfl
@[simp] theorem Block.modTime_coh (b : Block) (f : TimeBase → TimeBase) : (b.modTime f).coh = b.coh := rfl
@[simp] theorem Block.modTime_mem (b : Block) (f : TimeBase → TimeBase) : (b.modTime f).mem = b.mem := rfl
@[simp] theorem Block.modTime_keys (b : Block) (f : TimeBase → TimeBase) : (b.modTime f).keys = b.keys := rfl
@[simp] theorem Block.modTime_keyGens (b : Block) (f : TimeBase → TimeBase) : (b.modTime f).keyGens = b.keyGens := rfl
@[simp] theorem Block.modTime_slices (b : Block) (f : TimeBase → TimeBase) : (b.modTime f).slices = b.slices := rfl
@[simp] theorem Block.modTime_cores (b : Block) (f : TimeBase → TimeBase) : (b.modTime f).cores = b.cores := rfl
@[simp] theorem Block.modTime_ctxs (b : Block) (f : TimeBase → TimeBase) : (b.modTime f).ctxs = b.ctxs := rfl
@[simp] theorem Block.modTime_queues (b : Block) (f : TimeBase → TimeBase) : (b.modTime f).queues = b.queues := rfl
@[simp] theorem Block.modTime_fences (b : Block) (f : TimeBase → TimeBase) : (b.modTime f).fences = b.fences := rfl
@[simp] theorem Block.modTime_dmas (b : Block) (f : TimeBase → TimeBase) : (b.modTime f).dmas = b.dmas := rfl
@[simp] theorem Block.modTime_vis (b : Block) (f : TimeBase → TimeBase) : (b.modTime f).vis = b.vis := rfl
@[simp] theorem Block.modTime_draws (b : Block) (f : TimeBase → TimeBase) : (b.modTime f).draws = b.draws := rfl
@[simp] theorem Block.modTime_upsets (b : Block) (f : TimeBase → TimeBase) : (b.modTime f).upsets = b.upsets := rfl
@[simp] theorem Block.modTime_time (b : Block) (f : TimeBase → TimeBase) : (b.modTime f).time = f b.time := rfl

@[simp] theorem Block.modParade_time (b : Block) (f : Parade → Parade) : (b.modParade f).time = b.time := rfl
@[simp] theorem Block.modParade_life (b : Block) (f : Parade → Parade) : (b.modParade f).life = b.life := rfl
@[simp] theorem Block.modParade_start (b : Block) (f : Parade → Parade) : (b.modParade f).start = b.start := rfl
@[simp] theorem Block.modParade_power (b : Block) (f : Parade → Parade) : (b.modParade f).power = b.power := rfl
@[simp] theorem Block.modParade_dict (b : Block) (f : Parade → Parade) : (b.modParade f).dict = b.dict := rfl
@[simp] theorem Block.modParade_tally (b : Block) (f : Parade → Parade) : (b.modParade f).tally = b.tally := rfl
@[simp] theorem Block.modParade_recon (b : Block) (f : Parade → Parade) : (b.modParade f).recon = b.recon := rfl
@[simp] theorem Block.modParade_ladder (b : Block) (f : Parade → Parade) : (b.modParade f).ladder = b.ladder := rfl
@[simp] theorem Block.modParade_ports (b : Block) (f : Parade → Parade) : (b.modParade f).ports = b.ports := rfl
@[simp] theorem Block.modParade_coh (b : Block) (f : Parade → Parade) : (b.modParade f).coh = b.coh := rfl
@[simp] theorem Block.modParade_mem (b : Block) (f : Parade → Parade) : (b.modParade f).mem = b.mem := rfl
@[simp] theorem Block.modParade_keys (b : Block) (f : Parade → Parade) : (b.modParade f).keys = b.keys := rfl
@[simp] theorem Block.modParade_keyGens (b : Block) (f : Parade → Parade) : (b.modParade f).keyGens = b.keyGens := rfl
@[simp] theorem Block.modParade_slices (b : Block) (f : Parade → Parade) : (b.modParade f).slices = b.slices := rfl
@[simp] theorem Block.modParade_cores (b : Block) (f : Parade → Parade) : (b.modParade f).cores = b.cores := rfl
@[simp] theorem Block.modParade_ctxs (b : Block) (f : Parade → Parade) : (b.modParade f).ctxs = b.ctxs := rfl
@[simp] theorem Block.modParade_queues (b : Block) (f : Parade → Parade) : (b.modParade f).queues = b.queues := rfl
@[simp] theorem Block.modParade_fences (b : Block) (f : Parade → Parade) : (b.modParade f).fences = b.fences := rfl
@[simp] theorem Block.modParade_dmas (b : Block) (f : Parade → Parade) : (b.modParade f).dmas = b.dmas := rfl
@[simp] theorem Block.modParade_vis (b : Block) (f : Parade → Parade) : (b.modParade f).vis = b.vis := rfl
@[simp] theorem Block.modParade_draws (b : Block) (f : Parade → Parade) : (b.modParade f).draws = b.draws := rfl
@[simp] theorem Block.modParade_upsets (b : Block) (f : Parade → Parade) : (b.modParade f).upsets = b.upsets := rfl
@[simp] theorem Block.modParade_parade (b : Block) (f : Parade → Parade) : (b.modParade f).parade = f b.parade := rfl

@[simp] theorem Block.modPower_time (b : Block) (f : Power → Power) : (b.modPower f).time = b.time := rfl
@[simp] theorem Block.modPower_parade (b : Block) (f : Power → Power) : (b.modPower f).parade = b.parade := rfl
@[simp] theorem Block.modPower_life (b : Block) (f : Power → Power) : (b.modPower f).life = b.life := rfl
@[simp] theorem Block.modPower_start (b : Block) (f : Power → Power) : (b.modPower f).start = b.start := rfl
@[simp] theorem Block.modPower_dict (b : Block) (f : Power → Power) : (b.modPower f).dict = b.dict := rfl
@[simp] theorem Block.modPower_tally (b : Block) (f : Power → Power) : (b.modPower f).tally = b.tally := rfl
@[simp] theorem Block.modPower_recon (b : Block) (f : Power → Power) : (b.modPower f).recon = b.recon := rfl
@[simp] theorem Block.modPower_ladder (b : Block) (f : Power → Power) : (b.modPower f).ladder = b.ladder := rfl
@[simp] theorem Block.modPower_ports (b : Block) (f : Power → Power) : (b.modPower f).ports = b.ports := rfl
@[simp] theorem Block.modPower_coh (b : Block) (f : Power → Power) : (b.modPower f).coh = b.coh := rfl
@[simp] theorem Block.modPower_mem (b : Block) (f : Power → Power) : (b.modPower f).mem = b.mem := rfl
@[simp] theorem Block.modPower_keys (b : Block) (f : Power → Power) : (b.modPower f).keys = b.keys := rfl
@[simp] theorem Block.modPower_keyGens (b : Block) (f : Power → Power) : (b.modPower f).keyGens = b.keyGens := rfl
@[simp] theorem Block.modPower_slices (b : Block) (f : Power → Power) : (b.modPower f).slices = b.slices := rfl
@[simp] theorem Block.modPower_cores (b : Block) (f : Power → Power) : (b.modPower f).cores = b.cores := rfl
@[simp] theorem Block.modPower_ctxs (b : Block) (f : Power → Power) : (b.modPower f).ctxs = b.ctxs := rfl
@[simp] theorem Block.modPower_queues (b : Block) (f : Power → Power) : (b.modPower f).queues = b.queues := rfl
@[simp] theorem Block.modPower_fences (b : Block) (f : Power → Power) : (b.modPower f).fences = b.fences := rfl
@[simp] theorem Block.modPower_dmas (b : Block) (f : Power → Power) : (b.modPower f).dmas = b.dmas := rfl
@[simp] theorem Block.modPower_vis (b : Block) (f : Power → Power) : (b.modPower f).vis = b.vis := rfl
@[simp] theorem Block.modPower_draws (b : Block) (f : Power → Power) : (b.modPower f).draws = b.draws := rfl
@[simp] theorem Block.modPower_upsets (b : Block) (f : Power → Power) : (b.modPower f).upsets = b.upsets := rfl
@[simp] theorem Block.modPower_power (b : Block) (f : Power → Power) : (b.modPower f).power = f b.power := rfl

@[simp] theorem Block.modStart_time (b : Block) (f : StartUp → StartUp) : (b.modStart f).time = b.time := rfl
@[simp] theorem Block.modStart_parade (b : Block) (f : StartUp → StartUp) : (b.modStart f).parade = b.parade := rfl
@[simp] theorem Block.modStart_life (b : Block) (f : StartUp → StartUp) : (b.modStart f).life = b.life := rfl
@[simp] theorem Block.modStart_power (b : Block) (f : StartUp → StartUp) : (b.modStart f).power = b.power := rfl
@[simp] theorem Block.modStart_dict (b : Block) (f : StartUp → StartUp) : (b.modStart f).dict = b.dict := rfl
@[simp] theorem Block.modStart_tally (b : Block) (f : StartUp → StartUp) : (b.modStart f).tally = b.tally := rfl
@[simp] theorem Block.modStart_recon (b : Block) (f : StartUp → StartUp) : (b.modStart f).recon = b.recon := rfl
@[simp] theorem Block.modStart_ladder (b : Block) (f : StartUp → StartUp) : (b.modStart f).ladder = b.ladder := rfl
@[simp] theorem Block.modStart_ports (b : Block) (f : StartUp → StartUp) : (b.modStart f).ports = b.ports := rfl
@[simp] theorem Block.modStart_coh (b : Block) (f : StartUp → StartUp) : (b.modStart f).coh = b.coh := rfl
@[simp] theorem Block.modStart_mem (b : Block) (f : StartUp → StartUp) : (b.modStart f).mem = b.mem := rfl
@[simp] theorem Block.modStart_keys (b : Block) (f : StartUp → StartUp) : (b.modStart f).keys = b.keys := rfl
@[simp] theorem Block.modStart_keyGens (b : Block) (f : StartUp → StartUp) : (b.modStart f).keyGens = b.keyGens := rfl
@[simp] theorem Block.modStart_slices (b : Block) (f : StartUp → StartUp) : (b.modStart f).slices = b.slices := rfl
@[simp] theorem Block.modStart_cores (b : Block) (f : StartUp → StartUp) : (b.modStart f).cores = b.cores := rfl
@[simp] theorem Block.modStart_ctxs (b : Block) (f : StartUp → StartUp) : (b.modStart f).ctxs = b.ctxs := rfl
@[simp] theorem Block.modStart_queues (b : Block) (f : StartUp → StartUp) : (b.modStart f).queues = b.queues := rfl
@[simp] theorem Block.modStart_fences (b : Block) (f : StartUp → StartUp) : (b.modStart f).fences = b.fences := rfl
@[simp] theorem Block.modStart_dmas (b : Block) (f : StartUp → StartUp) : (b.modStart f).dmas = b.dmas := rfl
@[simp] theorem Block.modStart_vis (b : Block) (f : StartUp → StartUp) : (b.modStart f).vis = b.vis := rfl
@[simp] theorem Block.modStart_draws (b : Block) (f : StartUp → StartUp) : (b.modStart f).draws = b.draws := rfl
@[simp] theorem Block.modStart_upsets (b : Block) (f : StartUp → StartUp) : (b.modStart f).upsets = b.upsets := rfl
@[simp] theorem Block.modStart_start (b : Block) (f : StartUp → StartUp) : (b.modStart f).start = f b.start := rfl

@[simp] theorem Block.modRecon_time (b : Block) (f : Recon → Recon) : (b.modRecon f).time = b.time := rfl
@[simp] theorem Block.modRecon_parade (b : Block) (f : Recon → Recon) : (b.modRecon f).parade = b.parade := rfl
@[simp] theorem Block.modRecon_life (b : Block) (f : Recon → Recon) : (b.modRecon f).life = b.life := rfl
@[simp] theorem Block.modRecon_start (b : Block) (f : Recon → Recon) : (b.modRecon f).start = b.start := rfl
@[simp] theorem Block.modRecon_power (b : Block) (f : Recon → Recon) : (b.modRecon f).power = b.power := rfl
@[simp] theorem Block.modRecon_dict (b : Block) (f : Recon → Recon) : (b.modRecon f).dict = b.dict := rfl
@[simp] theorem Block.modRecon_tally (b : Block) (f : Recon → Recon) : (b.modRecon f).tally = b.tally := rfl
@[simp] theorem Block.modRecon_ladder (b : Block) (f : Recon → Recon) : (b.modRecon f).ladder = b.ladder := rfl
@[simp] theorem Block.modRecon_ports (b : Block) (f : Recon → Recon) : (b.modRecon f).ports = b.ports := rfl
@[simp] theorem Block.modRecon_coh (b : Block) (f : Recon → Recon) : (b.modRecon f).coh = b.coh := rfl
@[simp] theorem Block.modRecon_mem (b : Block) (f : Recon → Recon) : (b.modRecon f).mem = b.mem := rfl
@[simp] theorem Block.modRecon_keys (b : Block) (f : Recon → Recon) : (b.modRecon f).keys = b.keys := rfl
@[simp] theorem Block.modRecon_keyGens (b : Block) (f : Recon → Recon) : (b.modRecon f).keyGens = b.keyGens := rfl
@[simp] theorem Block.modRecon_slices (b : Block) (f : Recon → Recon) : (b.modRecon f).slices = b.slices := rfl
@[simp] theorem Block.modRecon_cores (b : Block) (f : Recon → Recon) : (b.modRecon f).cores = b.cores := rfl
@[simp] theorem Block.modRecon_ctxs (b : Block) (f : Recon → Recon) : (b.modRecon f).ctxs = b.ctxs := rfl
@[simp] theorem Block.modRecon_queues (b : Block) (f : Recon → Recon) : (b.modRecon f).queues = b.queues := rfl
@[simp] theorem Block.modRecon_fences (b : Block) (f : Recon → Recon) : (b.modRecon f).fences = b.fences := rfl
@[simp] theorem Block.modRecon_dmas (b : Block) (f : Recon → Recon) : (b.modRecon f).dmas = b.dmas := rfl
@[simp] theorem Block.modRecon_vis (b : Block) (f : Recon → Recon) : (b.modRecon f).vis = b.vis := rfl
@[simp] theorem Block.modRecon_draws (b : Block) (f : Recon → Recon) : (b.modRecon f).draws = b.draws := rfl
@[simp] theorem Block.modRecon_upsets (b : Block) (f : Recon → Recon) : (b.modRecon f).upsets = b.upsets := rfl
@[simp] theorem Block.modRecon_recon (b : Block) (f : Recon → Recon) : (b.modRecon f).recon = f b.recon := rfl

@[simp] theorem Block.modLadder_time (b : Block) (f : Ladder → Ladder) : (b.modLadder f).time = b.time := rfl
@[simp] theorem Block.modLadder_parade (b : Block) (f : Ladder → Ladder) : (b.modLadder f).parade = b.parade := rfl
@[simp] theorem Block.modLadder_life (b : Block) (f : Ladder → Ladder) : (b.modLadder f).life = b.life := rfl
@[simp] theorem Block.modLadder_start (b : Block) (f : Ladder → Ladder) : (b.modLadder f).start = b.start := rfl
@[simp] theorem Block.modLadder_power (b : Block) (f : Ladder → Ladder) : (b.modLadder f).power = b.power := rfl
@[simp] theorem Block.modLadder_dict (b : Block) (f : Ladder → Ladder) : (b.modLadder f).dict = b.dict := rfl
@[simp] theorem Block.modLadder_tally (b : Block) (f : Ladder → Ladder) : (b.modLadder f).tally = b.tally := rfl
@[simp] theorem Block.modLadder_recon (b : Block) (f : Ladder → Ladder) : (b.modLadder f).recon = b.recon := rfl
@[simp] theorem Block.modLadder_ports (b : Block) (f : Ladder → Ladder) : (b.modLadder f).ports = b.ports := rfl
@[simp] theorem Block.modLadder_coh (b : Block) (f : Ladder → Ladder) : (b.modLadder f).coh = b.coh := rfl
@[simp] theorem Block.modLadder_mem (b : Block) (f : Ladder → Ladder) : (b.modLadder f).mem = b.mem := rfl
@[simp] theorem Block.modLadder_keys (b : Block) (f : Ladder → Ladder) : (b.modLadder f).keys = b.keys := rfl
@[simp] theorem Block.modLadder_keyGens (b : Block) (f : Ladder → Ladder) : (b.modLadder f).keyGens = b.keyGens := rfl
@[simp] theorem Block.modLadder_slices (b : Block) (f : Ladder → Ladder) : (b.modLadder f).slices = b.slices := rfl
@[simp] theorem Block.modLadder_cores (b : Block) (f : Ladder → Ladder) : (b.modLadder f).cores = b.cores := rfl
@[simp] theorem Block.modLadder_ctxs (b : Block) (f : Ladder → Ladder) : (b.modLadder f).ctxs = b.ctxs := rfl
@[simp] theorem Block.modLadder_queues (b : Block) (f : Ladder → Ladder) : (b.modLadder f).queues = b.queues := rfl
@[simp] theorem Block.modLadder_fences (b : Block) (f : Ladder → Ladder) : (b.modLadder f).fences = b.fences := rfl
@[simp] theorem Block.modLadder_dmas (b : Block) (f : Ladder → Ladder) : (b.modLadder f).dmas = b.dmas := rfl
@[simp] theorem Block.modLadder_vis (b : Block) (f : Ladder → Ladder) : (b.modLadder f).vis = b.vis := rfl
@[simp] theorem Block.modLadder_draws (b : Block) (f : Ladder → Ladder) : (b.modLadder f).draws = b.draws := rfl
@[simp] theorem Block.modLadder_upsets (b : Block) (f : Ladder → Ladder) : (b.modLadder f).upsets = b.upsets := rfl
@[simp] theorem Block.modLadder_ladder (b : Block) (f : Ladder → Ladder) : (b.modLadder f).ladder = f b.ladder := rfl

@[simp] theorem Block.modLife_time (b : Block) (f : Life → Life) : (b.modLife f).time = b.time := rfl
@[simp] theorem Block.modLife_parade (b : Block) (f : Life → Life) : (b.modLife f).parade = b.parade := rfl
@[simp] theorem Block.modLife_start (b : Block) (f : Life → Life) : (b.modLife f).start = b.start := rfl
@[simp] theorem Block.modLife_power (b : Block) (f : Life → Life) : (b.modLife f).power = b.power := rfl
@[simp] theorem Block.modLife_dict (b : Block) (f : Life → Life) : (b.modLife f).dict = b.dict := rfl
@[simp] theorem Block.modLife_tally (b : Block) (f : Life → Life) : (b.modLife f).tally = b.tally := rfl
@[simp] theorem Block.modLife_recon (b : Block) (f : Life → Life) : (b.modLife f).recon = b.recon := rfl
@[simp] theorem Block.modLife_ladder (b : Block) (f : Life → Life) : (b.modLife f).ladder = b.ladder := rfl
@[simp] theorem Block.modLife_ports (b : Block) (f : Life → Life) : (b.modLife f).ports = b.ports := rfl
@[simp] theorem Block.modLife_coh (b : Block) (f : Life → Life) : (b.modLife f).coh = b.coh := rfl
@[simp] theorem Block.modLife_mem (b : Block) (f : Life → Life) : (b.modLife f).mem = b.mem := rfl
@[simp] theorem Block.modLife_keys (b : Block) (f : Life → Life) : (b.modLife f).keys = b.keys := rfl
@[simp] theorem Block.modLife_keyGens (b : Block) (f : Life → Life) : (b.modLife f).keyGens = b.keyGens := rfl
@[simp] theorem Block.modLife_slices (b : Block) (f : Life → Life) : (b.modLife f).slices = b.slices := rfl
@[simp] theorem Block.modLife_cores (b : Block) (f : Life → Life) : (b.modLife f).cores = b.cores := rfl
@[simp] theorem Block.modLife_ctxs (b : Block) (f : Life → Life) : (b.modLife f).ctxs = b.ctxs := rfl
@[simp] theorem Block.modLife_queues (b : Block) (f : Life → Life) : (b.modLife f).queues = b.queues := rfl
@[simp] theorem Block.modLife_fences (b : Block) (f : Life → Life) : (b.modLife f).fences = b.fences := rfl
@[simp] theorem Block.modLife_dmas (b : Block) (f : Life → Life) : (b.modLife f).dmas = b.dmas := rfl
@[simp] theorem Block.modLife_vis (b : Block) (f : Life → Life) : (b.modLife f).vis = b.vis := rfl
@[simp] theorem Block.modLife_draws (b : Block) (f : Life → Life) : (b.modLife f).draws = b.draws := rfl
@[simp] theorem Block.modLife_upsets (b : Block) (f : Life → Life) : (b.modLife f).upsets = b.upsets := rfl
@[simp] theorem Block.modLife_life (b : Block) (f : Life → Life) : (b.modLife f).life = f b.life := rfl

@[simp] theorem Block.modDict_time (b : Block) (f : Dict → Dict) : (b.modDict f).time = b.time := rfl
@[simp] theorem Block.modDict_parade (b : Block) (f : Dict → Dict) : (b.modDict f).parade = b.parade := rfl
@[simp] theorem Block.modDict_life (b : Block) (f : Dict → Dict) : (b.modDict f).life = b.life := rfl
@[simp] theorem Block.modDict_start (b : Block) (f : Dict → Dict) : (b.modDict f).start = b.start := rfl
@[simp] theorem Block.modDict_power (b : Block) (f : Dict → Dict) : (b.modDict f).power = b.power := rfl
@[simp] theorem Block.modDict_tally (b : Block) (f : Dict → Dict) : (b.modDict f).tally = b.tally := rfl
@[simp] theorem Block.modDict_recon (b : Block) (f : Dict → Dict) : (b.modDict f).recon = b.recon := rfl
@[simp] theorem Block.modDict_ladder (b : Block) (f : Dict → Dict) : (b.modDict f).ladder = b.ladder := rfl
@[simp] theorem Block.modDict_ports (b : Block) (f : Dict → Dict) : (b.modDict f).ports = b.ports := rfl
@[simp] theorem Block.modDict_coh (b : Block) (f : Dict → Dict) : (b.modDict f).coh = b.coh := rfl
@[simp] theorem Block.modDict_mem (b : Block) (f : Dict → Dict) : (b.modDict f).mem = b.mem := rfl
@[simp] theorem Block.modDict_keys (b : Block) (f : Dict → Dict) : (b.modDict f).keys = b.keys := rfl
@[simp] theorem Block.modDict_keyGens (b : Block) (f : Dict → Dict) : (b.modDict f).keyGens = b.keyGens := rfl
@[simp] theorem Block.modDict_slices (b : Block) (f : Dict → Dict) : (b.modDict f).slices = b.slices := rfl
@[simp] theorem Block.modDict_cores (b : Block) (f : Dict → Dict) : (b.modDict f).cores = b.cores := rfl
@[simp] theorem Block.modDict_ctxs (b : Block) (f : Dict → Dict) : (b.modDict f).ctxs = b.ctxs := rfl
@[simp] theorem Block.modDict_queues (b : Block) (f : Dict → Dict) : (b.modDict f).queues = b.queues := rfl
@[simp] theorem Block.modDict_fences (b : Block) (f : Dict → Dict) : (b.modDict f).fences = b.fences := rfl
@[simp] theorem Block.modDict_dmas (b : Block) (f : Dict → Dict) : (b.modDict f).dmas = b.dmas := rfl
@[simp] theorem Block.modDict_vis (b : Block) (f : Dict → Dict) : (b.modDict f).vis = b.vis := rfl
@[simp] theorem Block.modDict_draws (b : Block) (f : Dict → Dict) : (b.modDict f).draws = b.draws := rfl
@[simp] theorem Block.modDict_upsets (b : Block) (f : Dict → Dict) : (b.modDict f).upsets = b.upsets := rfl
@[simp] theorem Block.modDict_dict (b : Block) (f : Dict → Dict) : (b.modDict f).dict = f b.dict := rfl

@[simp] theorem Block.modPorts_time (b : Block) (f : Ports → Ports) : (b.modPorts f).time = b.time := rfl
@[simp] theorem Block.modPorts_parade (b : Block) (f : Ports → Ports) : (b.modPorts f).parade = b.parade := rfl
@[simp] theorem Block.modPorts_life (b : Block) (f : Ports → Ports) : (b.modPorts f).life = b.life := rfl
@[simp] theorem Block.modPorts_start (b : Block) (f : Ports → Ports) : (b.modPorts f).start = b.start := rfl
@[simp] theorem Block.modPorts_power (b : Block) (f : Ports → Ports) : (b.modPorts f).power = b.power := rfl
@[simp] theorem Block.modPorts_dict (b : Block) (f : Ports → Ports) : (b.modPorts f).dict = b.dict := rfl
@[simp] theorem Block.modPorts_tally (b : Block) (f : Ports → Ports) : (b.modPorts f).tally = b.tally := rfl
@[simp] theorem Block.modPorts_recon (b : Block) (f : Ports → Ports) : (b.modPorts f).recon = b.recon := rfl
@[simp] theorem Block.modPorts_ladder (b : Block) (f : Ports → Ports) : (b.modPorts f).ladder = b.ladder := rfl
@[simp] theorem Block.modPorts_coh (b : Block) (f : Ports → Ports) : (b.modPorts f).coh = b.coh := rfl
@[simp] theorem Block.modPorts_mem (b : Block) (f : Ports → Ports) : (b.modPorts f).mem = b.mem := rfl
@[simp] theorem Block.modPorts_keys (b : Block) (f : Ports → Ports) : (b.modPorts f).keys = b.keys := rfl
@[simp] theorem Block.modPorts_keyGens (b : Block) (f : Ports → Ports) : (b.modPorts f).keyGens = b.keyGens := rfl
@[simp] theorem Block.modPorts_slices (b : Block) (f : Ports → Ports) : (b.modPorts f).slices = b.slices := rfl
@[simp] theorem Block.modPorts_cores (b : Block) (f : Ports → Ports) : (b.modPorts f).cores = b.cores := rfl
@[simp] theorem Block.modPorts_ctxs (b : Block) (f : Ports → Ports) : (b.modPorts f).ctxs = b.ctxs := rfl
@[simp] theorem Block.modPorts_queues (b : Block) (f : Ports → Ports) : (b.modPorts f).queues = b.queues := rfl
@[simp] theorem Block.modPorts_fences (b : Block) (f : Ports → Ports) : (b.modPorts f).fences = b.fences := rfl
@[simp] theorem Block.modPorts_dmas (b : Block) (f : Ports → Ports) : (b.modPorts f).dmas = b.dmas := rfl
@[simp] theorem Block.modPorts_vis (b : Block) (f : Ports → Ports) : (b.modPorts f).vis = b.vis := rfl
@[simp] theorem Block.modPorts_draws (b : Block) (f : Ports → Ports) : (b.modPorts f).draws = b.draws := rfl
@[simp] theorem Block.modPorts_upsets (b : Block) (f : Ports → Ports) : (b.modPorts f).upsets = b.upsets := rfl
@[simp] theorem Block.modPorts_ports (b : Block) (f : Ports → Ports) : (b.modPorts f).ports = f b.ports := rfl

@[simp] theorem Block.modCoh_time (b : Block) (f : Coh → Coh) : (b.modCoh f).time = b.time := rfl
@[simp] theorem Block.modCoh_parade (b : Block) (f : Coh → Coh) : (b.modCoh f).parade = b.parade := rfl
@[simp] theorem Block.modCoh_life (b : Block) (f : Coh → Coh) : (b.modCoh f).life = b.life := rfl
@[simp] theorem Block.modCoh_start (b : Block) (f : Coh → Coh) : (b.modCoh f).start = b.start := rfl
@[simp] theorem Block.modCoh_power (b : Block) (f : Coh → Coh) : (b.modCoh f).power = b.power := rfl
@[simp] theorem Block.modCoh_dict (b : Block) (f : Coh → Coh) : (b.modCoh f).dict = b.dict := rfl
@[simp] theorem Block.modCoh_tally (b : Block) (f : Coh → Coh) : (b.modCoh f).tally = b.tally := rfl
@[simp] theorem Block.modCoh_recon (b : Block) (f : Coh → Coh) : (b.modCoh f).recon = b.recon := rfl
@[simp] theorem Block.modCoh_ladder (b : Block) (f : Coh → Coh) : (b.modCoh f).ladder = b.ladder := rfl
@[simp] theorem Block.modCoh_ports (b : Block) (f : Coh → Coh) : (b.modCoh f).ports = b.ports := rfl
@[simp] theorem Block.modCoh_mem (b : Block) (f : Coh → Coh) : (b.modCoh f).mem = b.mem := rfl
@[simp] theorem Block.modCoh_keys (b : Block) (f : Coh → Coh) : (b.modCoh f).keys = b.keys := rfl
@[simp] theorem Block.modCoh_keyGens (b : Block) (f : Coh → Coh) : (b.modCoh f).keyGens = b.keyGens := rfl
@[simp] theorem Block.modCoh_slices (b : Block) (f : Coh → Coh) : (b.modCoh f).slices = b.slices := rfl
@[simp] theorem Block.modCoh_cores (b : Block) (f : Coh → Coh) : (b.modCoh f).cores = b.cores := rfl
@[simp] theorem Block.modCoh_ctxs (b : Block) (f : Coh → Coh) : (b.modCoh f).ctxs = b.ctxs := rfl
@[simp] theorem Block.modCoh_queues (b : Block) (f : Coh → Coh) : (b.modCoh f).queues = b.queues := rfl
@[simp] theorem Block.modCoh_fences (b : Block) (f : Coh → Coh) : (b.modCoh f).fences = b.fences := rfl
@[simp] theorem Block.modCoh_dmas (b : Block) (f : Coh → Coh) : (b.modCoh f).dmas = b.dmas := rfl
@[simp] theorem Block.modCoh_vis (b : Block) (f : Coh → Coh) : (b.modCoh f).vis = b.vis := rfl
@[simp] theorem Block.modCoh_draws (b : Block) (f : Coh → Coh) : (b.modCoh f).draws = b.draws := rfl
@[simp] theorem Block.modCoh_upsets (b : Block) (f : Coh → Coh) : (b.modCoh f).upsets = b.upsets := rfl
@[simp] theorem Block.modCoh_coh (b : Block) (f : Coh → Coh) : (b.modCoh f).coh = f b.coh := rfl

/-! ### The parts by number -/

@[simp] theorem Block.modCore_core_same (b : Block) (k : Nat) (f : Core → Core) : (b.modCore k f).core k = f (b.core k) :=
  Tab.get_upd_same _ _ _ _

theorem Block.modCore_core_ne (b : Block) {k k' : Nat} (f : Core → Core) (h : k' ≠ k) : (b.modCore k f).core k' = b.core k' :=
  Tab.get_upd_ne _ _ _ h

@[simp] theorem Block.modSlice_slice_same (b : Block) (k : Nat) (f : Slice → Slice) : (b.modSlice k f).slice k = f (b.slice k) :=
  Tab.get_upd_same _ _ _ _

theorem Block.modSlice_slice_ne (b : Block) {k k' : Nat} (f : Slice → Slice) (h : k' ≠ k) : (b.modSlice k f).slice k' = b.slice k' :=
  Tab.get_upd_ne _ _ _ h

@[simp] theorem Block.modCtx_ctx_same (b : Block) (k : Nat) (f : Ctx → Ctx) : (b.modCtx k f).ctx k = f (b.ctx k) :=
  Tab.get_upd_same _ _ _ _

theorem Block.modCtx_ctx_ne (b : Block) {k k' : Nat} (f : Ctx → Ctx) (h : k' ≠ k) : (b.modCtx k f).ctx k' = b.ctx k' :=
  Tab.get_upd_ne _ _ _ h

@[simp] theorem Block.modQueue_queue_same (b : Block) (k : Nat) (f : Queue → Queue) : (b.modQueue k f).queue k = f (b.queue k) :=
  Tab.get_upd_same _ _ _ _

theorem Block.modQueue_queue_ne (b : Block) {k k' : Nat} (f : Queue → Queue) (h : k' ≠ k) : (b.modQueue k f).queue k' = b.queue k' :=
  Tab.get_upd_ne _ _ _ h

@[simp] theorem Block.modFence_fence_same (b : Block) (k : Nat) (f : Fence → Fence) : (b.modFence k f).fence k = f (b.fence k) :=
  Tab.get_upd_same _ _ _ _

theorem Block.modFence_fence_ne (b : Block) {k k' : Nat} (f : Fence → Fence) (h : k' ≠ k) : (b.modFence k f).fence k' = b.fence k' :=
  Tab.get_upd_ne _ _ _ h

@[simp] theorem Block.modVi_vi_same (b : Block) (k : Nat) (f : Vi → Vi) : (b.modVi k f).vi k = f (b.vi k) :=
  Tab.get_upd_same _ _ _ _

theorem Block.modVi_vi_ne (b : Block) {k k' : Nat} (f : Vi → Vi) (h : k' ≠ k) : (b.modVi k f).vi k' = b.vi k' :=
  Tab.get_upd_ne _ _ _ h

@[simp] theorem Block.modCore_slice (b : Block) (c : Nat) (f : Core → Core) (k : Nat) : (b.modCore c f).slice k = b.slice k := rfl
@[simp] theorem Block.modCore_ctx (b : Block) (c : Nat) (f : Core → Core) (k : Nat) : (b.modCore c f).ctx k = b.ctx k := rfl
@[simp] theorem Block.modCore_queue (b : Block) (c : Nat) (f : Core → Core) (k : Nat) : (b.modCore c f).queue k = b.queue k := rfl
@[simp] theorem Block.modCore_fence (b : Block) (c : Nat) (f : Core → Core) (k : Nat) : (b.modCore c f).fence k = b.fence k := rfl
@[simp] theorem Block.modCore_vi (b : Block) (c : Nat) (f : Core → Core) (k : Nat) : (b.modCore c f).vi k = b.vi k := rfl
@[simp] theorem Block.modCore_key (b : Block) (c : Nat) (f : Core → Core) (k : Nat) : (b.modCore c f).key k = b.key k := rfl
@[simp] theorem Block.modSlice_core (b : Block) (n : Nat) (f : Slice → Slice) (k : Nat) : (b.modSlice n f).core k = b.core k := rfl
@[simp] theorem Block.modSlice_ctx (b : Block) (n : Nat) (f : Slice → Slice) (k : Nat) : (b.modSlice n f).ctx k = b.ctx k := rfl
@[simp] theorem Block.modSlice_queue (b : Block) (n : Nat) (f : Slice → Slice) (k : Nat) : (b.modSlice n f).queue k = b.queue k := rfl
@[simp] theorem Block.modSlice_fence (b : Block) (n : Nat) (f : Slice → Slice) (k : Nat) : (b.modSlice n f).fence k = b.fence k := rfl
@[simp] theorem Block.modSlice_vi (b : Block) (n : Nat) (f : Slice → Slice) (k : Nat) : (b.modSlice n f).vi k = b.vi k := rfl
@[simp] theorem Block.modSlice_key (b : Block) (n : Nat) (f : Slice → Slice) (k : Nat) : (b.modSlice n f).key k = b.key k := rfl
@[simp] theorem Block.modCtx_core (b : Block) (c : Nat) (f : Ctx → Ctx) (k : Nat) : (b.modCtx c f).core k = b.core k := rfl
@[simp] theorem Block.modCtx_slice (b : Block) (c : Nat) (f : Ctx → Ctx) (k : Nat) : (b.modCtx c f).slice k = b.slice k := rfl
@[simp] theorem Block.modCtx_queue (b : Block) (c : Nat) (f : Ctx → Ctx) (k : Nat) : (b.modCtx c f).queue k = b.queue k := rfl
@[simp] theorem Block.modCtx_fence (b : Block) (c : Nat) (f : Ctx → Ctx) (k : Nat) : (b.modCtx c f).fence k = b.fence k := rfl
@[simp] theorem Block.modCtx_vi (b : Block) (c : Nat) (f : Ctx → Ctx) (k : Nat) : (b.modCtx c f).vi k = b.vi k := rfl
@[simp] theorem Block.modCtx_key (b : Block) (c : Nat) (f : Ctx → Ctx) (k : Nat) : (b.modCtx c f).key k = b.key k := rfl
@[simp] theorem Block.modQueue_core (b : Block) (q : Nat) (f : Queue → Queue) (k : Nat) : (b.modQueue q f).core k = b.core k := rfl
@[simp] theorem Block.modQueue_slice (b : Block) (q : Nat) (f : Queue → Queue) (k : Nat) : (b.modQueue q f).slice k = b.slice k := rfl
@[simp] theorem Block.modQueue_ctx (b : Block) (q : Nat) (f : Queue → Queue) (k : Nat) : (b.modQueue q f).ctx k = b.ctx k := rfl
@[simp] theorem Block.modQueue_fence (b : Block) (q : Nat) (f : Queue → Queue) (k : Nat) : (b.modQueue q f).fence k = b.fence k := rfl
@[simp] theorem Block.modQueue_vi (b : Block) (q : Nat) (f : Queue → Queue) (k : Nat) : (b.modQueue q f).vi k = b.vi k := rfl
@[simp] theorem Block.modQueue_key (b : Block) (q : Nat) (f : Queue → Queue) (k : Nat) : (b.modQueue q f).key k = b.key k := rfl
@[simp] theorem Block.modFence_core (b : Block) (i : Nat) (f : Fence → Fence) (k : Nat) : (b.modFence i f).core k = b.core k := rfl
@[simp] theorem Block.modFence_slice (b : Block) (i : Nat) (f : Fence → Fence) (k : Nat) : (b.modFence i f).slice k = b.slice k := rfl
@[simp] theorem Block.modFence_ctx (b : Block) (i : Nat) (f : Fence → Fence) (k : Nat) : (b.modFence i f).ctx k = b.ctx k := rfl
@[simp] theorem Block.modFence_queue (b : Block) (i : Nat) (f : Fence → Fence) (k : Nat) : (b.modFence i f).queue k = b.queue k := rfl
@[simp] theorem Block.modFence_vi (b : Block) (i : Nat) (f : Fence → Fence) (k : Nat) : (b.modFence i f).vi k = b.vi k := rfl
@[simp] theorem Block.modFence_key (b : Block) (i : Nat) (f : Fence → Fence) (k : Nat) : (b.modFence i f).key k = b.key k := rfl
@[simp] theorem Block.modVi_core (b : Block) (v : Nat) (f : Vi → Vi) (k : Nat) : (b.modVi v f).core k = b.core k := rfl
@[simp] theorem Block.modVi_slice (b : Block) (v : Nat) (f : Vi → Vi) (k : Nat) : (b.modVi v f).slice k = b.slice k := rfl
@[simp] theorem Block.modVi_ctx (b : Block) (v : Nat) (f : Vi → Vi) (k : Nat) : (b.modVi v f).ctx k = b.ctx k := rfl
@[simp] theorem Block.modVi_queue (b : Block) (v : Nat) (f : Vi → Vi) (k : Nat) : (b.modVi v f).queue k = b.queue k := rfl
@[simp] theorem Block.modVi_fence (b : Block) (v : Nat) (f : Vi → Vi) (k : Nat) : (b.modVi v f).fence k = b.fence k := rfl
@[simp] theorem Block.modVi_key (b : Block) (v : Nat) (f : Vi → Vi) (k : Nat) : (b.modVi v f).key k = b.key k := rfl
@[simp] theorem Block.modLink_core (b : Block) (i : Nat) (f : Link → Link) (k : Nat) : (b.modLink i f).core k = b.core k := rfl
@[simp] theorem Block.modLink_slice (b : Block) (i : Nat) (f : Link → Link) (k : Nat) : (b.modLink i f).slice k = b.slice k := rfl
@[simp] theorem Block.modLink_ctx (b : Block) (i : Nat) (f : Link → Link) (k : Nat) : (b.modLink i f).ctx k = b.ctx k := rfl
@[simp] theorem Block.modLink_queue (b : Block) (i : Nat) (f : Link → Link) (k : Nat) : (b.modLink i f).queue k = b.queue k := rfl
@[simp] theorem Block.modLink_fence (b : Block) (i : Nat) (f : Link → Link) (k : Nat) : (b.modLink i f).fence k = b.fence k := rfl
@[simp] theorem Block.modLink_vi (b : Block) (i : Nat) (f : Link → Link) (k : Nat) : (b.modLink i f).vi k = b.vi k := rfl
@[simp] theorem Block.modLink_key (b : Block) (i : Nat) (f : Link → Link) (k : Nat) : (b.modLink i f).key k = b.key k := rfl
@[simp] theorem Block.modTime_core (b : Block) (f : TimeBase → TimeBase) (k : Nat) : (b.modTime f).core k = b.core k := rfl
@[simp] theorem Block.modTime_slice (b : Block) (f : TimeBase → TimeBase) (k : Nat) : (b.modTime f).slice k = b.slice k := rfl
@[simp] theorem Block.modTime_ctx (b : Block) (f : TimeBase → TimeBase) (k : Nat) : (b.modTime f).ctx k = b.ctx k := rfl
@[simp] theorem Block.modTime_queue (b : Block) (f : TimeBase → TimeBase) (k : Nat) : (b.modTime f).queue k = b.queue k := rfl
@[simp] theorem Block.modTime_fence (b : Block) (f : TimeBase → TimeBase) (k : Nat) : (b.modTime f).fence k = b.fence k := rfl
@[simp] theorem Block.modTime_vi (b : Block) (f : TimeBase → TimeBase) (k : Nat) : (b.modTime f).vi k = b.vi k := rfl
@[simp] theorem Block.modTime_key (b : Block) (f : TimeBase → TimeBase) (k : Nat) : (b.modTime f).key k = b.key k := rfl
@[simp] theorem Block.modParade_core (b : Block) (f : Parade → Parade) (k : Nat) : (b.modParade f).core k = b.core k := rfl
@[simp] theorem Block.modParade_slice (b : Block) (f : Parade → Parade) (k : Nat) : (b.modParade f).slice k = b.slice k := rfl
@[simp] theorem Block.modParade_ctx (b : Block) (f : Parade → Parade) (k : Nat) : (b.modParade f).ctx k = b.ctx k := rfl
@[simp] theorem Block.modParade_queue (b : Block) (f : Parade → Parade) (k : Nat) : (b.modParade f).queue k = b.queue k := rfl
@[simp] theorem Block.modParade_fence (b : Block) (f : Parade → Parade) (k : Nat) : (b.modParade f).fence k = b.fence k := rfl
@[simp] theorem Block.modParade_vi (b : Block) (f : Parade → Parade) (k : Nat) : (b.modParade f).vi k = b.vi k := rfl
@[simp] theorem Block.modParade_key (b : Block) (f : Parade → Parade) (k : Nat) : (b.modParade f).key k = b.key k := rfl
@[simp] theorem Block.modPower_core (b : Block) (f : Power → Power) (k : Nat) : (b.modPower f).core k = b.core k := rfl
@[simp] theorem Block.modPower_slice (b : Block) (f : Power → Power) (k : Nat) : (b.modPower f).slice k = b.slice k := rfl
@[simp] theorem Block.modPower_ctx (b : Block) (f : Power → Power) (k : Nat) : (b.modPower f).ctx k = b.ctx k := rfl
@[simp] theorem Block.modPower_queue (b : Block) (f : Power → Power) (k : Nat) : (b.modPower f).queue k = b.queue k := rfl
@[simp] theorem Block.modPower_fence (b : Block) (f : Power → Power) (k : Nat) : (b.modPower f).fence k = b.fence k := rfl
@[simp] theorem Block.modPower_vi (b : Block) (f : Power → Power) (k : Nat) : (b.modPower f).vi k = b.vi k := rfl
@[simp] theorem Block.modPower_key (b : Block) (f : Power → Power) (k : Nat) : (b.modPower f).key k = b.key k := rfl
@[simp] theorem Block.modStart_core (b : Block) (f : StartUp → StartUp) (k : Nat) : (b.modStart f).core k = b.core k := rfl
@[simp] theorem Block.modStart_slice (b : Block) (f : StartUp → StartUp) (k : Nat) : (b.modStart f).slice k = b.slice k := rfl
@[simp] theorem Block.modStart_ctx (b : Block) (f : StartUp → StartUp) (k : Nat) : (b.modStart f).ctx k = b.ctx k := rfl
@[simp] theorem Block.modStart_queue (b : Block) (f : StartUp → StartUp) (k : Nat) : (b.modStart f).queue k = b.queue k := rfl
@[simp] theorem Block.modStart_fence (b : Block) (f : StartUp → StartUp) (k : Nat) : (b.modStart f).fence k = b.fence k := rfl
@[simp] theorem Block.modStart_vi (b : Block) (f : StartUp → StartUp) (k : Nat) : (b.modStart f).vi k = b.vi k := rfl
@[simp] theorem Block.modStart_key (b : Block) (f : StartUp → StartUp) (k : Nat) : (b.modStart f).key k = b.key k := rfl
@[simp] theorem Block.modRecon_core (b : Block) (f : Recon → Recon) (k : Nat) : (b.modRecon f).core k = b.core k := rfl
@[simp] theorem Block.modRecon_slice (b : Block) (f : Recon → Recon) (k : Nat) : (b.modRecon f).slice k = b.slice k := rfl
@[simp] theorem Block.modRecon_ctx (b : Block) (f : Recon → Recon) (k : Nat) : (b.modRecon f).ctx k = b.ctx k := rfl
@[simp] theorem Block.modRecon_queue (b : Block) (f : Recon → Recon) (k : Nat) : (b.modRecon f).queue k = b.queue k := rfl
@[simp] theorem Block.modRecon_fence (b : Block) (f : Recon → Recon) (k : Nat) : (b.modRecon f).fence k = b.fence k := rfl
@[simp] theorem Block.modRecon_vi (b : Block) (f : Recon → Recon) (k : Nat) : (b.modRecon f).vi k = b.vi k := rfl
@[simp] theorem Block.modRecon_key (b : Block) (f : Recon → Recon) (k : Nat) : (b.modRecon f).key k = b.key k := rfl
@[simp] theorem Block.modLadder_core (b : Block) (f : Ladder → Ladder) (k : Nat) : (b.modLadder f).core k = b.core k := rfl
@[simp] theorem Block.modLadder_slice (b : Block) (f : Ladder → Ladder) (k : Nat) : (b.modLadder f).slice k = b.slice k := rfl
@[simp] theorem Block.modLadder_ctx (b : Block) (f : Ladder → Ladder) (k : Nat) : (b.modLadder f).ctx k = b.ctx k := rfl
@[simp] theorem Block.modLadder_queue (b : Block) (f : Ladder → Ladder) (k : Nat) : (b.modLadder f).queue k = b.queue k := rfl
@[simp] theorem Block.modLadder_fence (b : Block) (f : Ladder → Ladder) (k : Nat) : (b.modLadder f).fence k = b.fence k := rfl
@[simp] theorem Block.modLadder_vi (b : Block) (f : Ladder → Ladder) (k : Nat) : (b.modLadder f).vi k = b.vi k := rfl
@[simp] theorem Block.modLadder_key (b : Block) (f : Ladder → Ladder) (k : Nat) : (b.modLadder f).key k = b.key k := rfl
@[simp] theorem Block.modLife_core (b : Block) (f : Life → Life) (k : Nat) : (b.modLife f).core k = b.core k := rfl
@[simp] theorem Block.modLife_slice (b : Block) (f : Life → Life) (k : Nat) : (b.modLife f).slice k = b.slice k := rfl
@[simp] theorem Block.modLife_ctx (b : Block) (f : Life → Life) (k : Nat) : (b.modLife f).ctx k = b.ctx k := rfl
@[simp] theorem Block.modLife_queue (b : Block) (f : Life → Life) (k : Nat) : (b.modLife f).queue k = b.queue k := rfl
@[simp] theorem Block.modLife_fence (b : Block) (f : Life → Life) (k : Nat) : (b.modLife f).fence k = b.fence k := rfl
@[simp] theorem Block.modLife_vi (b : Block) (f : Life → Life) (k : Nat) : (b.modLife f).vi k = b.vi k := rfl
@[simp] theorem Block.modLife_key (b : Block) (f : Life → Life) (k : Nat) : (b.modLife f).key k = b.key k := rfl
@[simp] theorem Block.modDict_core (b : Block) (f : Dict → Dict) (k : Nat) : (b.modDict f).core k = b.core k := rfl
@[simp] theorem Block.modDict_slice (b : Block) (f : Dict → Dict) (k : Nat) : (b.modDict f).slice k = b.slice k := rfl
@[simp] theorem Block.modDict_ctx (b : Block) (f : Dict → Dict) (k : Nat) : (b.modDict f).ctx k = b.ctx k := rfl
@[simp] theorem Block.modDict_queue (b : Block) (f : Dict → Dict) (k : Nat) : (b.modDict f).queue k = b.queue k := rfl
@[simp] theorem Block.modDict_fence (b : Block) (f : Dict → Dict) (k : Nat) : (b.modDict f).fence k = b.fence k := rfl
@[simp] theorem Block.modDict_vi (b : Block) (f : Dict → Dict) (k : Nat) : (b.modDict f).vi k = b.vi k := rfl
@[simp] theorem Block.modDict_key (b : Block) (f : Dict → Dict) (k : Nat) : (b.modDict f).key k = b.key k := rfl
@[simp] theorem Block.modPorts_core (b : Block) (f : Ports → Ports) (k : Nat) : (b.modPorts f).core k = b.core k := rfl
@[simp] theorem Block.modPorts_slice (b : Block) (f : Ports → Ports) (k : Nat) : (b.modPorts f).slice k = b.slice k := rfl
@[simp] theorem Block.modPorts_ctx (b : Block) (f : Ports → Ports) (k : Nat) : (b.modPorts f).ctx k = b.ctx k := rfl
@[simp] theorem Block.modPorts_queue (b : Block) (f : Ports → Ports) (k : Nat) : (b.modPorts f).queue k = b.queue k := rfl
@[simp] theorem Block.modPorts_fence (b : Block) (f : Ports → Ports) (k : Nat) : (b.modPorts f).fence k = b.fence k := rfl
@[simp] theorem Block.modPorts_vi (b : Block) (f : Ports → Ports) (k : Nat) : (b.modPorts f).vi k = b.vi k := rfl
@[simp] theorem Block.modPorts_key (b : Block) (f : Ports → Ports) (k : Nat) : (b.modPorts f).key k = b.key k := rfl
@[simp] theorem Block.modCoh_core (b : Block) (f : Coh → Coh) (k : Nat) : (b.modCoh f).core k = b.core k := rfl
@[simp] theorem Block.modCoh_slice (b : Block) (f : Coh → Coh) (k : Nat) : (b.modCoh f).slice k = b.slice k := rfl
@[simp] theorem Block.modCoh_ctx (b : Block) (f : Coh → Coh) (k : Nat) : (b.modCoh f).ctx k = b.ctx k := rfl
@[simp] theorem Block.modCoh_queue (b : Block) (f : Coh → Coh) (k : Nat) : (b.modCoh f).queue k = b.queue k := rfl
@[simp] theorem Block.modCoh_fence (b : Block) (f : Coh → Coh) (k : Nat) : (b.modCoh f).fence k = b.fence k := rfl
@[simp] theorem Block.modCoh_vi (b : Block) (f : Coh → Coh) (k : Nat) : (b.modCoh f).vi k = b.vi k := rfl
@[simp] theorem Block.modCoh_key (b : Block) (f : Coh → Coh) (k : Nat) : (b.modCoh f).key k = b.key k := rfl

end Sys2Proof.Machine
end

