-- ==== Sys2Proof/Laws/Memory.lean ====
section
/-! SUPPORT. What the memories of the block do: bytes read back as they were written, and every operation that changes the device memory or a
scratchpad keeps its canonical form. -/

namespace Sys2Proof.Machine

/-! ### Bytes -/

@[simp] theorem toLe_length (n v : Nat) : (toLe n v).length = n := by
  induction n generalizing v with
  | zero => rfl
  | succ n ih => simp [toLe, ih]

/-- Little-endian bytes give their value back (Notation). -/
theorem leNat_toLe (n v : Nat) (h : v < 256 ^ n) : leNat (toLe n v) = v := by
  induction n generalizing v with
  | zero => simp at h; simp [toLe, leNat, h]
  | succ n ih =>
    have h' : v / 256 < 256 ^ n := by rw [Nat.div_lt_iff_lt_mul (by omega)]; rw [Nat.pow_succ] at h; exact h
    rw [toLe, leNat, ih _ h', BitVec.toNat_ofNat]
    omega

/-- What was written is read back. -/
theorem Mem.readN_writeN (m : Mem) (a : Nat) (l : List Byte) : (m.writeN a l).readN a l.length = l := by
  induction l generalizing m a with
  | nil => rfl
  | cons x l ih =>
    have hx : (Mem.writeN (m.write a x) (a + 1) l).read a = x := by
      rw [Mem.read_writeN_out _ _ _ _ (by omega), Mem.read_write_same]
    rw [List.length_cons, Mem.writeN, Mem.readN, hx, ih]

/-- A read is the read of its first part followed by the read of the rest. -/
theorem Mem.readN_add (m : Mem) (a j k : Nat) : m.readN a (j + k) = m.readN a j ++ m.readN (a + j) k := by
  induction j generalizing a with
  | zero => simp [Mem.readN]
  | succ j ih => rw [Nat.add_right_comm, Mem.readN, ih, Mem.readN, Nat.add_assoc, Nat.add_comm 1 j]; rfl

/-- A read within what was written. -/
theorem Mem.readN_writeN_in (m : Mem) (a : Nat) (l : List Byte) (i j : Nat) (h : i + j ≤ l.length) :
    (m.writeN a l).readN (a + i) j = (l.drop i).take j := by
  have hw := m.readN_writeN a l
  obtain ⟨k, hk⟩ := Nat.le.dest h
  rw [← hk, Mem.readN_add, Mem.readN_add] at hw
  have hi := Mem.readN_length (m.writeN a l) a i
  have hj := Mem.readN_length (m.writeN a l) (a + i) j
  generalize hx : (m.writeN a l).readN a i = x at hw hi
  generalize hy : (m.writeN a l).readN (a + i) j = y at hw hj ⊢
  rw [← hw, List.append_assoc, List.drop_append_of_le_length (by omega), List.drop_eq_nil_of_le (by omega), List.nil_append,
    List.take_append_of_le_length (by omega), List.take_of_length_le (by omega)]

/-- A read outside what was written. -/
theorem Mem.readN_writeN_out (m : Mem) (a : Nat) (l : List Byte) (c n : Nat) (h : c + n ≤ a ∨ a + l.length ≤ c) :
    (m.writeN a l).readN c n = m.readN c n := by
  induction n generalizing c with
  | zero => rfl
  | succ n ih => rw [Mem.readN, Mem.readN, ih _ (by omega), Mem.read_writeN_out _ _ _ _ (by omega)]

/-! ### Tables whose entries are dropped by their key -/

theorem Tab.rising_filter {α : Type} (p : Nat × α → Bool) (t : Tab α) (lo : Option Nat) (h : Tab.rising lo t = true) :
    Tab.rising lo (t.filter p) = true := by
  induction t generalizing lo with
  | nil => cases lo <;> rfl
  | cons e t ih =>
    have ht : Tab.rising (some e.1) t = true := by
      cases lo with
      | none => exact h
      | some a => simp only [Tab.rising, Bool.and_eq_true] at h; exact h.2
    rw [List.filter_cons]
    split
    · cases lo with
      | none => exact ih _ ht
      | some a =>
        simp only [Tab.rising, Bool.and_eq_true] at h ⊢
        exact ⟨h.1, ih _ ht⟩
    · cases lo with
      | none => exact ih none (Tab.rising_none ht)
      | some a =>
        simp only [Tab.rising, Bool.and_eq_true, decide_eq_true_eq] at h
        exact ih _ (Tab.rising_mono t (Nat.le_of_lt h.1) ht)

theorem Tab.wf_filter {α : Type} [DecidableEq α] (d : α) (p : Nat × α → Bool) (t : Tab α) (h : Tab.wf d t = true) :
    Tab.wf d (t.filter p) = true := by
  simp only [Tab.wf, Bool.and_eq_true, List.all_eq_true] at h ⊢
  exact ⟨Tab.rising_filter p t none h.1, fun e he => h.2 e (List.mem_filter.mp he).1⟩

/-- A key that is dropped reads as an unlisted one, and every other as before. -/
theorem Tab.get_filter {α : Type} (d : α) (p : Nat → Bool) (t : Tab α) (k : Nat) :
    Tab.get d (t.filter fun x => p x.1) k = if p k then Tab.get d t k else d := by
  induction t with
  | nil => simp [Tab.get]
  | cons e t ih =>
    by_cases hk : e.1 = k <;> by_cases hp : p e.1 = true <;> simp_all [Tab.get]

/-! ### The device memory (R222 to R224, R298) -/

theorem DevMem.wf_iff (m : DevMem) : m.wf = true ↔ m.bytes.wf = true ∧ Tab.wf 0 m.keyGen = true ∧ Tab.wf false m.poison = true := by
  simp [DevMem.wf, and_assoc]

/-- After reset the device memory has its form: nothing is listed. -/
theorem State.reset_mem_wf : State.reset.b.mem.wf = true := by decide +kernel

/-- Losing data-cache copies changes no byte of the device memory. -/
@[simp] theorem Block.loseCopies_mem (b : Block) (line : Nat) (p : Nat → Bool) : (b.loseCopies line p).mem = b.mem := by
  have hf : ∀ (l : List Nat) (b : Block) (f : Hart → Hart), (b.each l fun core b => b.modHart core f).mem = b.mem := by
    intro l
    induction l with
    | nil => intro b f; rfl
    | cons n l ih => intro b f; exact (ih (b.modHart n f) f).trans rfl
  simp only [Block.loseCopies]
  split
  · rfl
  · exact hf _ b _

theorem Block.storeLine_mem_wf (b : Block) (line key : Nat) (d : BitVec 1024) (h : b.mem.wf = true) : (b.storeLine line key d).mem.wf = true := by
  rw [DevMem.wf_iff] at h ⊢
  exact ⟨Mem.writeN_wf _ _ _ h.1, Tab.set_wf _ _ _ _ h.2.1, h.2.2⟩

theorem Block.setPoison_mem_wf (b : Block) (line : Nat) (v : Bool) (h : b.mem.wf = true) : (b.setPoison line v).mem.wf = true := by
  rw [DevMem.wf_iff] at h ⊢
  exact ⟨h.1, h.2.1, Tab.set_wf _ _ _ _ h.2.2⟩

theorem Block.scrubGroup_mem_wf (b : Block) (g : Nat) (h : b.mem.wf = true) : (b.scrubGroup g).mem.wf = true := by
  have hm : (if b.coh.late.isEmpty then b
      else b.modCoh fun c => { c with late := c.late.filter fun x => x.2.1 / 2 ^ 37 != g }).mem = b.mem := by split <;> rfl
  rw [DevMem.wf_iff] at h ⊢
  simp only [Block.scrubGroup, hm]
  exact ⟨Tab.wf_filter _ _ _ h.1, Tab.wf_filter _ _ _ h.2.1, Tab.wf_filter _ _ _ h.2.2⟩

/-! ### The scratchpad (R80, R81, R91) -/

theorem Core.scratchWf_iff (c : Core) :
    c.scratchWf = true ↔ c.scratch.wf = true ∧ Tab.wf false c.tags = true ∧ Tab.wf false c.poison = true := by
  simp [Core.scratchWf, and_assoc]

theorem Core.reset_scratchWf : Core.reset.scratchWf = true := by decide +kernel

theorem Core.wrLineS_wf (c : Core) (a : Nat) (bs : List Byte) (h : c.scratchWf = true) : (c.wrLineS a bs).scratchWf = true := by
  rw [Core.scratchWf_iff] at h ⊢
  simp only [Core.wrLineS]
  refine ⟨Mem.writeN_wf _ _ _ h.1, Tab.set_wf _ _ _ _ h.2.1, ?_⟩
  split
  · exact Tab.set_wf _ _ _ _ h.2.2
  · exact h.2.2

theorem Core.wrS_wf (c : Core) (a : Nat) (bs : List Byte) (h : c.scratchWf = true) : (c.wrS a bs).scratchWf = true := by
  rw [Core.wrS]
  generalize lineChunks (bs.length + 1) a bs = l
  induction l generalizing c with
  | nil => exact h
  | cons x l ih => exact ih _ (c.wrLineS_wf _ _ h)

theorem Core.clearLine_wf (c : Core) (line : Nat) (h : c.scratchWf = true) : (c.clearLine line).scratchWf = true := by
  rw [Core.scratchWf_iff] at h ⊢
  simp only [Core.clearLine]
  exact ⟨Tab.wf_filter _ _ _ h.1, Tab.set_wf _ _ _ _ h.2.1, Tab.set_wf _ _ _ _ h.2.2⟩

theorem Core.tagClr_wf (c : Core) (a n : Nat) (h : c.scratchWf = true) : (c.tagClr a n).scratchWf = true := by
  rw [Core.scratchWf_iff] at h ⊢
  exact ⟨Tab.wf_filter _ _ _ h.1, Tab.wf_filter _ _ _ h.2.1, Tab.wf_filter _ _ _ h.2.2⟩

/-- What tag.clr leaves in the scratchpad: zero in every line wholly covered, and every other byte as it was (R81). -/
theorem Core.tagClr_read (c : Core) (a n k : Nat) :
    (c.tagClr a n).scratch.read k = if lineWithin a n (k / 128) then 0 else c.scratch.read k := by
  rw [Core.tagClr, Mem.read, Tab.get_filter 0 fun k => !lineWithin a n (k / 128)]
  cases lineWithin a n (k / 128) <;> rfl

end Sys2Proof.Machine
end

