-- ==== Sys2Proof/Laws/Frames.lean ====
section
/-! SUPPORT. What the shared operations of the block can do: for each of them which parts of the block it leaves alone, and the one thing that it
does. Statements about commands cite these and unfold none of them. -/

namespace Sys2Proof.Machine

/-! ### Unchanged parts compose -/

theorem Block.Keeps.refl (L : List Part) (b : Block) : b.Keeps L b := by
  intro p _; cases p <;> rfl

theorem Part.same_trans {b c d : Block} {p : Part} (h : p.same b c) (g : p.same c d) : p.same b d := by
  cases p <;> exact Eq.trans g h

theorem Block.Keeps.trans {L : List Part} {b c d : Block} (h : b.Keeps L c) (g : c.Keeps L d) : b.Keeps L d :=
  fun p hp => Part.same_trans (h p hp) (g p hp)

theorem Block.Keeps.mono {L M : List Part} {b c : Block} (h : b.Keeps L c) (hs : L ⊆ M) : b.Keeps M c :=
  fun p hp => h p fun hl => hp (hs hl)

/-- A fold of operations that each keep the same parts. -/
theorem Block.Keeps.foldl {α : Type} {L : List Part} (f : Block → α → Block) (hf : ∀ (b : Block) (x : α), b.Keeps L (f b x)) (l : List α) (b : Block) :
    b.Keeps L (l.foldl f b) := by
  induction l generalizing b with
  | nil => exact Block.Keeps.refl L b
  | cons x l ih => exact (hf b x).trans (ih (f b x))

theorem Block.Keeps.each {L : List Part} (f : Nat → Block → Block) (hf : ∀ (n : Nat) (b : Block), b.Keeps L (f n b)) (l : List Nat) (b : Block) :
    b.Keeps L (b.each l f) := Block.Keeps.foldl (fun b n => f n b) (fun b n => hf n b) l b

theorem Frame.refl (L : List Part) (s : State) : Frame L s s := ⟨rfl, rfl, rfl, Block.Keeps.refl L s.b⟩

theorem Frame.trans {L : List Part} {s t u : State} (h : Frame L s t) (g : Frame L t u) : Frame L s u :=
  ⟨g.1.trans h.1, g.2.1.trans h.2.1, g.2.2.1.trans h.2.2.1, h.2.2.2.trans g.2.2.2⟩

theorem Frame.mono {L M : List Part} {s t : State} (h : Frame L s t) (hs : L ⊆ M) : Frame M s t := ⟨h.1, h.2.1, h.2.2.1, h.2.2.2.mono hs⟩

/-! ### Commands that change the block only -/

/-- A command that changes the block completes, and what it changes of the machine is what its operation changes of the block. -/
theorem State.onBlock_completes {s : State} {f : Block → Block} {L : List Part} {p : State → Prop} (hk : s.b.Keeps L (f s.b))
    (hp : p { s with b := f s.b }) : Completes (s.onBlock f) fun t => Frame L s t ∧ p t :=
  ⟨_, rfl, ⟨rfl, rfl, rfl, hk⟩, hp⟩

/-- The fuses only ever gain bits (R357). -/
theorem State.onAll_fuse (s : State) (f : BitVec 4096 → Flash → Block → BitVec 4096 × Flash × Block) :
    Completes (s.onAll f) fun t => t.pending = s.pending ∧ ∀ i, s.fuse.getLsbD i = true → t.fuse.getLsbD i = true :=
  ⟨_, rfl, rfl, fun i h => by simp [h]⟩

theorem Completes.mono {o : Host.Outcome State Fault Refusal} {p q : State → Prop} (h : Completes o p) (hpq : ∀ t, p t → q t) : Completes o q :=
  let ⟨t, ht, hp⟩ := h; ⟨t, ht, hpq t hp⟩

/-! ### A change of one part -/

theorem Block.modTime_keeps (b : Block) (f : TimeBase → TimeBase) : b.Keeps [.time] (b.modTime f) := by
  intro p hp; cases p <;> first | rfl | exact absurd (by simp) hp

theorem Block.modParade_keeps (b : Block) (f : Parade → Parade) : b.Keeps [.parade] (b.modParade f) := by
  intro p hp; cases p <;> first | rfl | exact absurd (by simp) hp

theorem Block.modPower_keeps (b : Block) (f : Power → Power) : b.Keeps [.power] (b.modPower f) := by
  intro p hp; cases p <;> first | rfl | exact absurd (by simp) hp

theorem Block.modStart_keeps (b : Block) (f : StartUp → StartUp) : b.Keeps [.start] (b.modStart f) := by
  intro p hp; cases p <;> first | rfl | exact absurd (by simp) hp

theorem Block.modRecon_keeps (b : Block) (f : Recon → Recon) : b.Keeps [.recon] (b.modRecon f) := by
  intro p hp; cases p <;> first | rfl | exact absurd (by simp) hp

theorem Block.modLadder_keeps (b : Block) (f : Ladder → Ladder) : b.Keeps [.ladder] (b.modLadder f) := by
  intro p hp; cases p <;> first | rfl | exact absurd (by simp) hp

theorem Block.modLife_keeps (b : Block) (f : Life → Life) : b.Keeps [.life] (b.modLife f) := by
  intro p hp; cases p <;> first | rfl | exact absurd (by simp) hp

theorem Block.modDict_keeps (b : Block) (f : Dict → Dict) : b.Keeps [.dict] (b.modDict f) := by
  intro p hp; cases p <;> first | rfl | exact absurd (by simp) hp

theorem Block.modPorts_keeps (b : Block) (f : Ports → Ports) : b.Keeps [.ports] (b.modPorts f) := by
  intro p hp; cases p <;> first | rfl | exact absurd (by simp) hp

theorem Block.modLink_keeps (b : Block) (i : Nat) (f : Link → Link) : b.Keeps [.ports] (b.modLink i f) := by
  intro p hp; cases p <;> first | rfl | exact absurd (by simp) hp


theorem Block.modCoh_keeps (b : Block) (f : Coh → Coh) : b.Keeps [.coh] (b.modCoh f) := by
  intro p hp; cases p <;> first | rfl | exact absurd (by simp) hp

theorem Block.modCore_keeps (b : Block) (c : Nat) (f : Core → Core) : b.Keeps [.cores] (b.modCore c f) := by
  intro p hp; cases p <;> first | rfl | exact absurd (by simp) hp

theorem Block.modHart_keeps (b : Block) (c : Nat) (f : Hart → Hart) : b.Keeps [.cores] (b.modHart c f) := b.modCore_keeps c _
theorem Block.modEng_keeps (b : Block) (c e : Nat) (f : Engine → Engine) : b.Keeps [.cores] (b.modEng c e f) := b.modCore_keeps c _
theorem Block.modVec_keeps (b : Block) (c : Nat) (f : Vec → Vec) : b.Keeps [.cores] (b.modVec c f) := b.modCore_keeps c _
theorem Block.modAdapter_keeps (b : Block) (c : Nat) (f : Adapter → Adapter) : b.Keeps [.cores] (b.modAdapter c f) := b.modCore_keeps c _

theorem Block.modSlice_keeps (b : Block) (n : Nat) (f : Slice → Slice) : b.Keeps [.slices] (b.modSlice n f) := by
  intro p hp; cases p <;> first | rfl | exact absurd (by simp) hp

theorem Block.modXlat_keeps (b : Block) (n : Nat) (f : XlatRegs → XlatRegs) : b.Keeps [.slices] (b.modXlat n f) := b.modSlice_keeps n _
theorem Block.modCtxr_keeps (b : Block) (n : Nat) (f : CtxRegs → CtxRegs) : b.Keeps [.slices] (b.modCtxr n f) := b.modSlice_keeps n _
theorem Block.modCnt_keeps (b : Block) (n : Nat) (f : Counters → Counters) : b.Keeps [.slices] (b.modCnt n f) := b.modSlice_keeps n _
theorem Block.modLad_keeps (b : Block) (n : Nat) (f : LadderRegs → LadderRegs) : b.Keeps [.slices] (b.modLad n f) := b.modSlice_keeps n _
theorem Block.modSec_keeps (b : Block) (n : Nat) (f : SliceSec → SliceSec) : b.Keeps [.slices] (b.modSec n f) := b.modSlice_keeps n _
theorem Block.modJob_keeps (b : Block) (n j : Nat) (f : Job → Job) : b.Keeps [.slices] (b.modJob n j f) := b.modSlice_keeps n _

theorem Block.modCtx_keeps (b : Block) (c : Nat) (f : Ctx → Ctx) : b.Keeps [.ctxs] (b.modCtx c f) := by
  intro p hp; cases p <;> first | rfl | exact absurd (by simp) hp

theorem Block.modQueue_keeps (b : Block) (q : Nat) (f : Queue → Queue) : b.Keeps [.queues] (b.modQueue q f) := by
  intro p hp; cases p <;> first | rfl | exact absurd (by simp) hp

theorem Block.modCmd_keeps (b : Block) (q k : Nat) (f : Cmd → Cmd) : b.Keeps [.queues] (b.modCmd q k f) := b.modQueue_keeps q _
theorem Block.cmdDone_keeps (b : Block) (q k : Nat) : b.Keeps [.queues] (b.cmdDone q k) := b.modCmd_keeps q k _

theorem Block.modFence_keeps (b : Block) (i : Nat) (f : Fence → Fence) : b.Keeps [.fences] (b.modFence i f) := by
  intro p hp; cases p <;> first | rfl | exact absurd (by simp) hp

theorem Block.modVi_keeps (b : Block) (v : Nat) (f : Vi → Vi) : b.Keeps [.vis] (b.modVi v f) := by
  intro p hp; cases p <;> first | rfl | exact absurd (by simp) hp

theorem Block.modDma_keeps (b : Block) (agent ch : Nat) (f : Dma → Dma) : b.Keeps [.dmas] (b.modDma agent ch f) := by
  intro p hp; cases p <;> first | rfl | exact absurd (by simp) hp

theorem Block.draw_keeps (b : Block) (n : Nat) : b.Keeps [.draws] (b.draw n).2 := by
  intro p hp; cases p <;> first | rfl | exact absurd (by simp) hp

/-! ### Interrupts, tallies, events, rungs -/

theorem Block.irq_keeps (b : Block) (n k : Nat) : b.Keeps [.ports] (b.irq n k) := b.modPorts_keeps _
theorem Block.irqAll_keeps (b : Block) (k : Nat) : b.Keeps [.ports] (b.irqAll k) := Block.Keeps.each _ (fun n b => b.irq_keeps n k) _ b

/-- The interrupt is pending; every other one is as it was (R448). -/
@[simp] theorem Block.irq_pending (b : Block) (n k : Nat) : Tab.get false (b.irq n k).ports.irq (16 * n + k) = true := by simp [Block.irq]
theorem Block.irq_other (b : Block) (n k : Nat) {j : Nat} (h : j ≠ 16 * n + k) :
    Tab.get false (b.irq n k).ports.irq j = Tab.get false b.ports.irq j := by simp [Block.irq, Tab.get_set_ne _ _ _ h]

theorem Block.tallyAdd_keeps (b : Block) (i sub n : Nat) : b.Keeps [.tally] (b.tallyAdd i sub n) := by
  intro p hp; cases p <;> first | rfl | exact absurd (by simp) hp
theorem Block.tallyUp_keeps (b : Block) (i sub : Nat) : b.Keeps [.tally] (b.tallyUp i sub) := b.tallyAdd_keeps i sub 1

/-- One event is counted, up to the tally's maximum (R424). -/
theorem Block.tallyUp_get (b : Block) (i sub : Nat) : (b.tallyUp i sub).tallyGet i sub = min (tallyMax (256 * i + sub)) (b.tallyGet i sub + 1) := by
  simp [Block.tallyUp, Block.tallyAdd, Block.tallyGet]

theorem Block.tallyUp_get_ne (b : Block) (i sub : Nat) {j t : Nat} (h : 256 * j + t ≠ 256 * i + sub) :
    (b.tallyUp i sub).tallyGet j t = b.tallyGet j t := by
  simp [Block.tallyUp, Block.tallyAdd, Block.tallyGet, Tab.get_upd_ne _ _ _ h]

theorem Block.report_keeps (b : Block) (code pkg a0 a1 : Nat) : b.Keeps [.dict] (b.report code pkg a0 a1) := b.modDict_keeps _
theorem Block.keep_keeps (b : Block) (i sub v : Nat) : b.Keeps [.dict] (b.keep i sub v) := b.modDict_keeps _
theorem Block.askUnit_keeps (b : Block) (core unit cause : Nat) : b.Keeps [.ladder] (b.askUnit core unit cause) := b.modLadder_keeps _
theorem Block.askSlice_keeps (b : Block) (n cause : Nat) : b.Keeps [.ladder] (b.askSlice n cause) := b.modLadder_keeps _
theorem Block.askBlock_keeps (b : Block) (cause : Nat) : b.Keeps [.ladder] (b.askBlock cause) := b.modLadder_keeps _
theorem Block.askPower_keeps (b : Block) (cause : Nat) : b.Keeps [.ladder] (b.askPower cause) := b.modLadder_keeps _

/-! ### What the block drives -/

theorem Block.emit_keeps (b : Block) (o : Out) : b.Keeps [.ports] (b.emit o) := by
  cases o <;> first | exact b.modPorts_keeps _ | exact (b.modLink_keeps _ _).trans (Block.modPorts_keeps _ _)

/-- What is driven stands first in the list of what the block drove. -/
theorem Block.emit_out (b : Block) (o : Out) : (b.emit o).ports.out = o :: b.ports.out := by cases o <;> rfl

theorem Block.rx_keeps (b : Block) (port : Nat) : b.Keeps [.ports] (b.rx port) := b.modLink_keeps _ _
theorem Block.takeTag_keeps (b : Block) (u : RemoteUse) (port : Nat) : b.Keeps [.ports] (b.takeTag u port).1 := b.modPorts_keeps _
theorem Block.dropTag_keeps (b : Block) (tag : Nat) : b.Keeps [.ports] (b.dropTag tag) := b.modPorts_keeps _

theorem Block.hostRead_keeps (b : Block) (r : HostRead) : b.Keeps [.ports] (b.hostRead r) := by
  rw [Block.hostRead]
  split
  · exact b.modPorts_keeps _
  · exact (b.modPorts_keeps _).trans (Block.emit_keeps _ _)

/-- What waits at a regulation point is in the ports (R265). -/
theorem Block.waitAt_keeps (b : Block) (path n : Nat) (m : Maker) (addr : Nat) (gen : Option (Nat × Nat)) (what : PortWhat) :
    b.Keeps [.ports] (b.waitAt path n m addr gen what) := b.modPorts_keeps _

theorem Block.hostWrite_keeps (b : Block) (n : Nat) (m : Maker) (gen : Option (Nat × Nat)) (a : Nat) (bs : List Byte) (pasid : Nat)
    (dma : Option (Nat × Nat)) : b.Keeps [.ports] (b.hostWrite n m gen a bs pasid dma) :=
  Block.Keeps.foldl _ (fun b _ => b.waitAt_keeps _ _ _ _ _ _) _ b

theorem Block.respond_keeps (b : Block) (n port tag kind : Nat) (body : List Byte) : b.Keeps [.ports] (b.respond n port tag kind body) :=
  b.emit_keeps _

theorem Block.refuse_keeps (b : Block) (port tag cause : Nat) : b.Keeps [.ports] (b.refuse port tag cause) := by
  rw [Block.refuse]
  split
  · exact (b.modPorts_keeps _).trans (Block.emit_keeps _ _)
  · exact b.emit_keeps _

/-- An answer that a mediator waits for joins its list, and any other is driven; before the fuse stage there is none. -/
theorem Block.answer_keeps (b : Block) (r : DictRsp) : b.Keeps [.ports, .dict] (b.answer r) := by
  rw [Block.answer]
  split
  · exact Block.Keeps.refl _ b
  · split
    · exact (b.modDict_keeps _).mono (by simp)
    · exact (b.emit_keeps _).mono (by simp)

theorem Block.spdm_keeps (b : Block) (eid code : Nat) (body : List Byte) : b.Keeps [.ports, .dict] (b.spdm eid code body) := by
  rw [Block.spdm]
  split
  · exact Block.Keeps.refl _ b
  · split
    · exact (b.modDict_keeps _).mono (by simp)
    · exact (b.emit_keeps _).mono (by simp)

theorem Block.mctp_keeps (b : Block) (eid code : Nat) (body : List Byte) : b.Keeps [.ports, .dict] (b.mctp eid code body) := by
  rw [Block.mctp]
  split
  · exact Block.Keeps.refl _ b
  · split
    · exact (b.modDict_keeps _).mono (by simp)
    · exact (b.emit_keeps _).mono (by simp)

/-! ### Writes of the object dictionary (R408, R409, R416) -/

/-- The block that an entry's own rule leaves. -/
def WriteRes.block : WriteRes → Block
  | .done b => b
  | .refused _ b => b

/-- A dictionary write changes what its entry's rule changes, and answers; one that is not admitted only answers. -/
theorem Block.dictWrite_keeps (b : Block) (eid : Nat) (tag : Byte) (i s : Nat) (v : List Byte) (f : Block → WriteRes) {L : List Part}
    (hf : b.Keeps L (f b).block) (hp : [.ports, .dict] ⊆ L) : b.Keeps L (b.dictWrite eid tag i s v f) := by
  simp only [Block.dictWrite]
  split
  · exact (b.answer_keeps _).mono hp
  · split
    · exact (b.answer_keeps _).mono hp
    · split
      · rename_i b' hb
        rw [hb] at hf
        exact hf.trans ((Block.answer_keeps _ _).mono hp)
      · rename_i r b' hb
        rw [hb] at hf
        exact hf.trans ((Block.answer_keeps _ _).mono hp)

/-- A write that is admitted is the entry's own rule and the answer to it. -/
theorem Block.dictWrite_admitted (b : Block) (eid : Nat) (tag : Byte) (i s : Nat) (v : List Byte) (f : Block → WriteRes)
    (h : Admitted b eid i s v) :
    ∃ code reason, b.dictWrite eid tag i s v f = (f b).block.answer
      { eid := eid, kind := 2, tag := tag, index := i, sub := s, code := code, reason := reason, data := [] } := by
  simp only [Block.dictWrite, h.1, h.2, Bool.false_eq_true, if_false]
  cases f b <;> exact ⟨_, _, rfl⟩

/-! ### Codes of a context (R75, R236) -/

/-- A code goes to its context; a read that waits for another instance's answer is noted in the ports. -/
theorem Block.ctxCode_keeps (b : Block) (c code : Nat) : b.Keeps [.ctxs, .ports] (b.ctxCode c code) := by
  rw [Block.ctxCode]
  split
  · exact (b.modPorts_keeps _).mono (by simp)
  · exact (b.modCtx_keeps c _).mono (by simp)

theorem Block.ctxCodes_keeps (b : Block) (c : Nat) (codes : List Nat) : b.Keeps [.ctxs, .ports] (b.ctxCodes c codes) :=
  Block.Keeps.foldl _ (fun b k => b.ctxCode_keeps c k) codes b

@[simp] theorem Ctx.code_lastCode (x : Ctx) (code : Nat) (stamp : Dword) : (x.code code stamp).lastCode = code := rfl
/-- Every code of R236 is below 65536. -/
theorem Block.ctxCode_lastCode (b : Block) (c code : Nat) (h : code < 65536) : ((b.ctxCode c code).ctx c).lastCode = code := by
  simp [Block.ctxCode, Nat.not_le.2 h]

theorem Block.ctxCode_other (b : Block) (c code : Nat) {d : Nat} (h : d ≠ c) : (b.ctxCode c code).ctx d = b.ctx d := by
  rw [Block.ctxCode]
  split
  · rfl
  · exact Block.modCtx_ctx_ne b _ h

/-! ### The device memory -/

theorem Block.setPoison_keeps (b : Block) (line : Nat) (v : Bool) : b.Keeps [.mem] (b.setPoison line v) := by
  intro p hp; cases p <;> first | rfl | exact absurd (by simp) hp

theorem Block.storeLine_keeps (b : Block) (line key : Nat) (d : BitVec 1024) : b.Keeps [.mem] (b.storeLine line key d) := by
  intro p hp; cases p <;> first | rfl | exact absurd (by simp) hp

theorem Block.send_keeps (b : Block) (m : CohMsg) : b.Keeps [.coh] (b.send m) := b.modCoh_keeps _

theorem Block.loseCopies_keeps (b : Block) (line : Nat) (p : Nat → Bool) : b.Keeps [.coh, .cores] (b.loseCopies line p) := by
  simp only [Block.loseCopies]
  split
  · exact Block.Keeps.refl _ b
  · exact (Block.Keeps.each (L := [.coh, .cores]) _ (fun n b => (b.modHart_keeps n _).mono (by simp)) _ b).trans ((Block.modCoh_keeps _ _).mono (by simp))

/-! ### Control processors (R86, R87, R206) -/

@[simp] theorem Hart.setReg_reg_same (h : Hart) {r : Nat} (v : Dword) (hr : r ≠ 0) : (h.setReg r v).reg r = v := by
  simp [Hart.setReg, Hart.reg, hr]

theorem Hart.setReg_reg_ne (h : Hart) (r : Nat) (v : Dword) {k : Nat} (hk : k ≠ r) : (h.setReg r v).reg k = h.reg k := by
  by_cases hr : r = 0 <;> simp [Hart.setReg, Hart.reg, hr, Tab.get_set_ne _ _ _ hk]

/-- x0 reads as zero, whatever is written to it. -/
theorem Hart.reg_zero (h : Hart) : h.reg 0 = 0 := by simp [Hart.reg]

@[simp] theorem Hart.step4_pc (h : Hart) : h.step4.pc = h.pc + 4 := rfl
@[simp] theorem Hart.step4_reg (h : Hart) (r : Nat) : h.step4.reg r = h.reg r := rfl
@[simp] theorem Hart.setReg_pc (h : Hart) (r : Nat) (v : Dword) : (h.setReg r v).pc = h.pc := by
  simp only [Hart.setReg]
  split <;> rfl

/-- A trap enters machine mode at the vector's base, with no stall and no reservation left. -/
theorem Hart.trap_enters (h : Hart) (cause : Nat) (tval : Dword) :
    (h.trap cause tval).machine = true ∧ (h.trap cause tval).stall = none ∧ (h.trap cause tval).reservation = none ∧
      (h.trap cause tval).pc = h.csrGet 0x305 &&& ~~~(3 : Dword) := ⟨rfl, rfl, rfl, rfl⟩

/-- A command of a control processor that may run is its effect. -/
theorem Block.onHart_runs (b : Block) (core : Nat) (retry : Stall → Bool) (f : Hart → Block) (h : HartRuns b core) :
    b.onHart core retry f = f (b.core core).hart := by
  simp [Block.onHart, Hart.canRun, h.1, h.2.1, h.2.2]

end Sys2Proof.Machine
end

