-- ==== Sys2Proof/Laws/Homes.lean ====
section
/-! SUPPORT. What the homes and the agents of a domain can do to the block, and what every access to device memory can: which parts they leave
alone, and that the memory keeps its canonical form. -/

namespace Sys2Proof.Machine

/-- What an operation on lines at their homes can do: memory in its form, the homes' own state, reservations and data caches of cores, and
counters of slices. -/
structure Homely (b b' : Block) : Prop where
  keeps : b.Keeps [.mem, .coh, .cores, .slices] b'
  wf : b.mem.wf = true → b'.mem.wf = true

namespace Homely

theorem refl (b : Block) : Homely b b := ⟨Block.Keeps.refl _ b, id⟩

theorem trans {b c d : Block} (h : Homely b c) (g : Homely c d) : Homely b d := ⟨h.keeps.trans g.keeps, fun w => g.wf (h.wf w)⟩

theorem of_eq {b b' : Block} (h : b' = b) : Homely b b' := h ▸ refl b

/-- An operation that leaves memory alone. -/
theorem of_keeps {b b' : Block} {L : List Part} (h : b.Keeps L b') (hs : L ⊆ [.coh, .cores, .slices]) : Homely b b' :=
  ⟨h.mono (fun p hp => List.mem_cons_of_mem _ (hs hp)), fun w => by
    have hm : b'.mem = b.mem := h .mem fun hl => by have := hs hl; simp at this
    rw [hm]; exact w⟩

theorem foldl {α : Type} (f : Block → α → Block) (hf : ∀ (b : Block) (x : α), Homely b (f b x)) (l : List α) (b : Block) :
    Homely b (l.foldl f b) := by
  induction l generalizing b with
  | nil => exact refl b
  | cons x l ih => exact (hf b x).trans (ih (f b x))

theorem ite {b x y : Block} {p : Prop} [Decidable p] (hx : Homely b x) (hy : Homely b y) : Homely b (if p then x else y) := by
  split
  · exact hx
  · exact hy

theorem modCoh (b : Block) (f : Coh → Coh) : Homely b (b.modCoh f) := of_keeps (b.modCoh_keeps f) (by simp)
theorem modCnt (b : Block) (n : Nat) (f : Counters → Counters) : Homely b (b.modCnt n f) := of_keeps (b.modCnt_keeps n f) (by simp)
theorem send (b : Block) (m : CohMsg) : Homely b (b.send m) := modCoh b _
theorem loseCopies (b : Block) (line : Nat) (p : Nat → Bool) : Homely b (b.loseCopies line p) := of_keeps (b.loseCopies_keeps line p) (by simp)
theorem storeLine (b : Block) (line key : Nat) (d : BitVec 1024) : Homely b (b.storeLine line key d) :=
  ⟨(b.storeLine_keeps line key d).mono (by simp), b.storeLine_mem_wf line key d⟩
theorem setPoison (b : Block) (line : Nat) (v : Bool) : Homely b (b.setPoison line v) :=
  ⟨(b.setPoison_keeps line v).mono (by simp), b.setPoison_mem_wf line v⟩

/-- A message that is taken out. -/
theorem takeMsg {b b' : Block} {p : CohMsg → Bool} {m : CohMsg} (h : b.takeMsg p = some (m, b')) : Homely b b' := by
  simp only [Block.takeMsg] at h
  split at h
  · cases h
  · cases h; exact modCoh b _

/-! ### The home -/

theorem dropCopy (b : Block) (a : Agent) (line : Nat) : Homely b (b.dropCopy a line) := by
  simp only [Block.dropCopy]
  split
  · exact (loseCopies b line _).trans (modCoh _ _)
  · exact modCoh b _

theorem modTxn (b : Block) (line : Nat) (f : Txn → Txn) : Homely b (b.modTxn line f) := modCoh b _
theorem grantLine (b : Block) (a : Agent) (line : Nat) (st : LineSt) (d : BitVec 1024) (key : Nat) : Homely b (b.grantLine a line st d key) :=
  send b _
theorem poisonReq (b : Block) (a : Agent) (line : Nat) : Homely b (b.poisonReq a line) :=
  (modTxn b _ _).trans (ite (refl _) (send _ _))

theorem freeFilt (b : Block) (line : Nat) (kept : Bool) : Homely b (b.freeFilt line kept) := by
  rw [Block.freeFilt]
  split
  · exact refl b
  · exact modCoh b _

theorem resolve (b : Block) (line : Nat) : Homely b (b.resolve line) := by
  simp only [Block.resolve]
  split
  · exact refl b
  · rename_i t _
    have hm : ∀ f : Block → Block, Homely b (f b) → Homely b
        (if (t.wbd.isNone && b.linePoisoned line) = true then
          (b.poisonReq t.requester line).freeFilt line (t.kept || (!((b.coh.filt line).map fun x => x.owner.isSome).getD false && t.req == .uncrd))
         else f b) := by
      intro f hf
      split
      · exact (poisonReq b _ _).trans (freeFilt _ _ _)
      · exact hf
    split
    · split
      · exact modCoh b _
      · refine hm (fun b' => if t.kept = true then _ else _) ?_
        split
        · exact (grantLine b _ _ _ _ _).trans (modCoh _ _)
        · exact (grantLine b _ _ _ _ _).trans (modCoh _ _)
    · split
      · exact modCoh b _
      · exact hm (fun b' => _) ((grantLine b _ _ _ _ _).trans (modCoh _ _))
    · split
      · exact ((storeLine b _ _ _).trans (setPoison _ _ _)).trans ((grantLine _ _ _ _ _ _).trans (modCoh _ _))
      · exact ((storeLine b _ _ _).trans (setPoison _ _ _)).trans ((modCoh _ _).trans (modCoh _ _))
    · exact ite (refl b) (hm (fun b' => _) ((send b _).trans (freeFilt _ _ _)))
    · exact (storeLine b _ _ _).trans (modCoh _ _)
    · exact hm (fun b' => _) (((storeLine b _ _ _).trans (send _ _)).trans (modCoh _ _))
    · exact refl b
    · split
      · exact modCoh b _
      · exact (storeLine b _ _ _).trans (modCoh _ _)

theorem openTxn (b : Block) (w : Want) (v : Option Nat) : Homely b (b.openTxn w v) := by
  simp only [Block.openTxn]
  split
  · exact (modCoh b _).trans (ite (refl _) (resolve _ _))
  · exact (modCoh b _).trans (ite (resolve _ _) (foldl _ (fun b _ => send b _) _ _))

theorem turnAway (b : Block) (w : Want) : Homely b (b.turnAway w) :=
  ite (modCoh b _) (((send b _).trans (modCnt _ _ _)).trans (ite (modCoh _ _) (refl _)))

theorem handleReq (b : Block) (w : Want) : Homely b (b.handleReq w) := by
  refine ite (turnAway _ w) ?_
  split
  · exact (modCoh _ _).trans (openTxn _ _ _)
  · exact (modCoh _ _).trans (((openTxn _ _ _).trans (openTxn _ _ _)).trans (modCnt _ _ _))

theorem request (b : Block) (a : Agent) (line key : Nat) (r : CohReq) (auto : Bool) : Homely b (b.request a line key r auto) := by
  refine ite (refl b) ?_
  split
  · exact (modCoh b _).trans (handleReq _ _)
  · exact ite (refl b) ((modCoh b _).trans (handleReq _ _))

theorem takeNack (b : Block) (a : Agent) (line : Nat) : Homely b (b.takeNack a line) := by
  rw [Block.takeNack]
  split
  · exact refl b
  · rename_i h
    refine (takeMsg h).trans ?_
    split
    · exact refl _
    · exact ite (modCoh _ _) (modCoh _ _)

theorem acceptWb (b : Block) (a : Agent) (line : Nat) : Homely b (b.acceptWb a line) := by
  simp only [Block.acceptWb]
  split
  · exact refl b
  · refine ite (ite (refl b) (modCoh b _)) ((ite ((storeLine b _ _ _).trans (modCoh _ _)) (refl b)).trans ((modCoh _ _).trans (send _ _)))

theorem acceptWbs (b : Block) (line : Nat) : Homely b (b.acceptWbs line) :=
  ite (refl b) ((modCoh b _).trans (foldl _ (fun b _ => acceptWb b _ _) _ _))

theorem freeLine (b : Block) (line : Nat) : Homely b (b.freeLine line).1 := by
  simp only [Block.freeLine]
  refine (acceptWbs b line).trans ?_
  split
  · dsimp only; exact modCoh _ _
  · split
    · exact refl _
    · exact (modCoh _ _).trans (handleReq _ _)

theorem wake (b : Block) (line : Nat) : Homely b (b.wake line) :=
  foldl _ (fun b _ => (modTxn b _ _).trans (resolve _ _)) _ b

theorem settleLine (line n : Nat) (b : Block) : Homely b (Block.settleLine line n b) := by
  induction n generalizing b with
  | zero => exact refl b
  | succ n ih =>
    rw [Block.settleLine]
    split
    · exact refl b
    · split
      · have h := (modCoh b fun c => { c with busy := Tab.erase c.busy line }).trans ((wake _ line).trans (freeLine _ line))
        dsimp only
        split
        · exact h.trans (ih _)
        · exact h
      · exact refl b

theorem settleTxn (b : Block) (line : Nat) : Homely b (b.settleTxn line) := settleLine line _ b

theorem settleReq (b : Block) (line : Nat) : Homely b (b.settleReq line) := by
  rw [Block.settleReq]
  split
  · exact settleTxn b line
  · exact (settleTxn b _).trans (settleTxn _ _)

/-! ### Agents -/

theorem answerSnoop (b : Block) (a : Agent) (line : Nat) (s : Snoop) (req : Agent) : Homely b (b.answerSnoop a line s req) := by
  rw [Block.answerSnoop]
  dsimp only
  split
  · split
    · exact (modCoh b _).trans (send _ _)
    · exact send b _
  · split
    · exact send b _
    · exact (modCoh b _).trans ((grantLine _ _ _ _ _ _).trans (send _ _))
    · exact (dropCopy b _ _).trans (send _ _)
    · exact (dropCopy b _ _).trans (ite ((grantLine _ _ _ _ _ _).trans (send _ _)) (send _ _))
    · exact send b _
    · exact send b _
    · exact send b _

theorem deliverSnoop (b : Block) (a : Agent) (line : Nat) (s : Snoop) : Homely b (b.deliverSnoop a line s) := by
  rw [Block.deliverSnoop]
  split
  · rename_i h
    refine (takeMsg h).trans ?_
    split
    · exact (modCoh _ _).trans (modCnt _ _ _)
    · exact answerSnoop _ _ _ _ _
  · exact refl b

theorem holdEnds (b : Block) (a : Agent) (line : Nat) : Homely b (b.holdEnds a line) :=
  (modCoh b _).trans (foldl _ (fun b _ => answerSnoop b _ _ _ _) _ _)

theorem useLine (b : Block) (a : Agent) (line : Nat) (first : Bool) : Homely b (b.useLine a line first) := by
  cases a with
  | cluster n c => rw [Block.useLine]; exact modCoh b _
  | priv n i => exact refl b
  | uncached n i => exact refl b

theorem evictCopy (b : Block) (l : CLine) : Homely b (b.evictCopy l) := (dropCopy b _ _).trans (ite (modCoh _ _) (refl _))

theorem makeRoom (b : Block) (a : Agent) (line : Nat) : Homely b (b.makeRoom a line).1 := by
  cases a with
  | cluster n c =>
    simp only [Block.makeRoom]
    split
    · exact refl b
    · split
      · exact refl b
      · split
        · exact refl b
        · exact evictCopy b _
  | priv n i => exact refl b
  | uncached n i => exact refl b

theorem install (b : Block) (a : Agent) (line : Nat) (st : LineSt) (d : BitVec 1024) (key : Nat) : Homely b (b.install a line st d key) :=
  (makeRoom b a line).trans (((modCoh _ _).trans (useLine _ _ _ _)).trans ((ite (evictCopy _ _) (refl _)).trans (send _ _)))

theorem takeData (b : Block) (a : Agent) (line : Nat) : Homely b (b.takeData a line) := by
  rw [Block.takeData]
  split
  · rename_i h; exact (takeMsg h).trans (install _ _ _ _ _ _)
  · rename_i h; exact (takeMsg h).trans (modCoh _ _)
  · exact refl b

theorem takeRsp (b : Block) (a : Agent) (line : Nat) : Homely b (b.takeRsp a line) := by
  rw [Block.takeRsp]
  split
  · rename_i h
    refine (takeMsg h).trans ?_
    split
    · exact refl _
    · rename_i b' _ t _
      have hs : ∀ b'' : Block, Homely b' b'' → ∀ f : Txn → Txn, ∀ p : Bool,
          Homely b' (if p = true then ((b''.modTxn line f).resolve line).settleTxn line else (b''.modTxn line f).settleTxn line) := by
        intro b'' h f p
        split
        · exact h.trans ((modTxn _ _ _).trans ((resolve _ _).trans (settleTxn _ _)))
        · exact h.trans ((modTxn _ _ _).trans (settleTxn _ _))
      dsimp only
      apply hs
      split
      · exact storeLine _ _ _ _
      · exact storeLine _ _ _ _
      · split
        · exact storeLine _ _ _ _
        · exact refl _
      · exact refl _
  · exact refl b

theorem takeAck (b : Block) (a : Agent) (line : Nat) : Homely b (b.takeAck a line) := by
  rw [Block.takeAck]
  split
  · rename_i h; exact (takeMsg h).trans ((modTxn _ _ _).trans (settleTxn _ _))
  · exact refl b

/-! ### A transaction made whole -/

theorem answerNow (b : Block) (a : Agent) (line : Nat) : Homely b (b.answerNow a line) := by
  refine Homely.trans (foldl _ (fun b m => ?_) _ b) ((ite (refl _) (holdEnds _ _ _)).trans (takeRsp _ _ _))
  split
  · exact ite (deliverSnoop b _ _ _) (refl b)
  · exact refl b

theorem pushGo (line n : Nat) (b : Block) : Homely b (Block.pushGo line n b) := by
  induction n generalizing line b with
  | zero => exact refl b
  | succ n ih =>
    rw [Block.pushGo]
    split
    · exact refl b
    · rename_i t _
      refine ite (refl b) ?_
      have h1 : Homely b (match t.waitsFor with | none => b | some v => Block.pushGo v n b) := by
        split
        · exact refl b
        · exact ih _ b
      refine h1.trans ((foldl _ (fun b x => answerNow b x line) t.snoops _).trans (Homely.trans ?_ (ih line _)))
      exact ite ((takeData _ _ _).trans (takeAck _ _ _)) (settleTxn _ _)

theorem push (b : Block) (line : Nat) : Homely b (b.push line) := ite (pushGo _ _ _) (refl b)

theorem whole (b : Block) (a : Agent) (line key : Nat) (r : CohReq) : Homely b (b.whole a line key r).1 := by
  rw [Block.whole]
  dsimp only
  refine ((request b a line key r true).trans (push _ line)).trans ?_
  generalize (b.request a line key r true).push line = b
  split
  · dsimp only; exact modCoh _ _
  · split
    · exact takeNack _ _ _
    · dsimp only; exact modCoh _ _

theorem recallLine (b : Block) (line : Nat) (own : Bool) : Homely b (b.recall line own) := (openTxn b _ _).trans (push _ _)

theorem nackHome (b : Block) (a : Agent) (line : Nat) : Homely b (b.nackHome a line) :=
  ite (refl b) ((modCoh b _).trans ((turnAway _ _).trans (takeNack _ _ _)))

/-- The turn of an access at a line's home, and that of an access to several lines. -/
theorem homeTurn (b : Block) (a : Agent) (line : Nat) (own : Bool) : Homely b (b.homeTurn a line own).1 := by
  rw [Block.homeTurn]
  refine (push b line).trans ?_
  split
  · exact refl _
  · split
    · exact nackHome _ _ _
    · generalize (if own = true then CohReq.evict else CohReq.uncrd) = q
      split
      · exact recallLine _ _ _
      · split
        · dsimp only; exact modCoh _ _
        · exact refl _

/-! ### Accesses to device memory -/

theorem takeLine (b : Block) (line : Nat) : Homely b (b.takeLine line) := by
  simp only [Block.takeLine]
  have h1 : ∀ b : Block, Homely b (match b.coh.newest line with | none => b | some x => b.storeLine line x.2 x.1) := by
    intro b
    split
    · exact refl b
    · exact storeLine b _ _ _
  exact ((h1 b).trans (loseCopies _ line fun _ => true)).trans (ite (modCoh _ _) (refl _))

theorem homeAtomic (b : Block) (key k : Nat) (op : AtomicOp) (x y : Dword) : Homely b (b.homeAtomic key k op x y).1 := by
  rw [Block.homeAtomic]
  dsimp only
  split
  · exact takeLine b _
  · exact (takeLine b _).trans (storeLine _ _ _ _)

theorem wrLater (b : Block) (g k : Nat) (bs : List Byte) : Homely b (b.wrLater g k bs) :=
  (modCoh b _).trans (ite (refl _) (recallLine _ _ _))

theorem wrLine (b : Block) (g k : Nat) (bs : List Byte) : Homely b (b.wrLine g k bs) := by
  rw [Block.wrLine]
  refine ite (wrLater b g k bs) ?_
  have h := takeLine b (k / 128)
  constructor
  · have hm : ∀ (b : Block) (m : DevMem), b.Keeps [.mem, .coh, .cores, .slices] { b with mem := m } := by
      intro b m p hp; cases p <;> first | rfl | exact absurd (by simp) hp
    exact h.keeps.trans (hm _ _)
  · intro w
    have ht := (DevMem.wf_iff _).1 (h.wf w)
    rw [DevMem.wf_iff]
    refine ⟨Mem.writeN_wf _ _ _ ?_, Tab.set_wf _ _ _ _ ht.2.1, ?_⟩
    · split
      · exact ht.1
      · exact Mem.writeN_wf _ _ _ ht.1
    · dsimp only
      split
      · exact Tab.set_wf _ _ _ _ ht.2.2
      · exact ht.2.2

/-- A write of device memory under a key. -/
theorem wrMem (b : Block) (g k : Nat) (bs : List Byte) : Homely b (b.wrMem g k bs) := by
  rw [Block.wrMem]
  generalize lineChunks (bs.length + 1) k bs = l
  induction l generalizing b with
  | nil => exact refl b
  | cons c l ih => exact (wrLine b g c.1 c.2).trans (ih _)

end Homely

theorem Block.wrMem_mem_wf (b : Block) (g k : Nat) (bs : List Byte) (h : b.mem.wf = true) : (b.wrMem g k bs).mem.wf = true :=
  (Homely.wrMem b g k bs).wf h

/-- The block's own writes that wait are made (R287, R291). -/
theorem Homely.lateTick (b : Block) : Homely b b.lateTick := by
  rw [Block.lateTick]
  exact Homely.ite (Homely.refl b) ((Homely.modCoh b _).trans (Homely.foldl _ (fun b x => Homely.wrLine b _ _ _) _ _))

/-- A clock in the domains. -/
theorem Homely.cohTick (b : Block) : Homely b b.cohTick := by
  rw [Block.cohTick]
  exact Homely.ite (Homely.refl b) (Homely.foldl _ (fun b _ => Homely.ite (Homely.push b _) (Homely.refl b)) _ b)

/-- The block's own writes: a range that R200 refuses is not written. -/
theorem Homely.wrOwn (b : Block) (n a : Nat) (bs : List Byte) : Homely b (b.wrOwn n a bs) := by
  rw [Block.wrOwn]
  split
  · exact Homely.wrMem b _ _ _
  · exact Homely.refl b

theorem Homely.ctxWriteBack (b : Block) (c : Nat) : Homely b (b.ctxWriteBack c) := by
  simp only [Block.ctxWriteBack]
  split
  · exact Homely.wrOwn b _ _ _
  · exact Homely.refl b

/-! ### Contexts in memory (R232, R237) -/

theorem Block.setCtxSt_keeps (b : Block) (c : Nat) (st : CtxSt) :
    b.Keeps [.ctxs, .mem, .coh, .cores, .slices] (b.setCtxSt c st) :=
  ((b.modCtx_keeps c _).mono (by simp)).trans ((Homely.ctxWriteBack _ c).keeps.mono (by simp))

theorem Block.touchCtx_keeps (b : Block) (c : Nat) : b.Keeps [.ctxs, .mem, .coh, .cores, .slices] (b.touchCtx c) := by
  rw [Block.touchCtx]
  dsimp only
  split
  · exact Block.Keeps.refl _ b
  · refine Block.Keeps.trans ?_ ((Block.modCtx_keeps _ c _).mono (by simp))
    split
    · exact Block.Keeps.refl _ b
    · split
      · exact Block.Keeps.refl _ b
      · exact ((Homely.ctxWriteBack b _).keeps.mono (by simp)).trans ((Block.modCtx_keeps _ _ _).mono (by simp))

/-- A translation uses the context's descriptor and fills the slice's translation cache (R205, R237). -/
theorem Block.translate_keeps (b : Block) (c va : Nat) (write : Bool) :
    b.Keeps [.ctxs, .mem, .coh, .cores, .slices] (b.translate c va write).1 := by
  simp only [Block.translate]
  refine (b.touchCtx_keeps c).trans ?_
  split
  · exact Block.Keeps.refl _ _
  · exact Block.Keeps.refl _ _
  · split
    · exact Block.Keeps.refl _ _
    · exact (Block.modXlat_keeps _ _ _).mono (by simp)

end Sys2Proof.Machine
end

