-- ==== Sys2Proof/Laws/PerInstr.lean ====
section
/-! SUPPORT. Facts about each command as syntax, one lemma a constructor. Family Named: no word of the table spells the command,
since spec/opcode_table.json gives its rows no bits. -/

namespace Sys2Proof.Laws.Named

/-- No word of the table spells the command: each command is a message or an event. -/
def Statement (i : Instr) : Prop := ∀ nbits w, decodeTableWord nbits w ≠ some i

theorem mgtRstNDeassert (fuseOk : Bool) : Statement (.mgtRstNDeassert fuseOk) := fun _ _ h => nomatch h
theorem imageStage (flashOk : Bool) : Statement (.imageStage flashOk) := fun _ _ h => nomatch h
theorem releaseStage : Statement .releaseStage := fun _ _ h => nomatch h
theorem runningStage : Statement (.runningStage) := fun _ _ h => nomatch h
theorem mcpInitDone (port : Nat) : Statement (.mcpInitDone port) := fun _ _ h => nomatch h
theorem mcpInitTimeout (port : Nat) : Statement (.mcpInitTimeout port) := fun _ _ h => nomatch h
theorem pdReqRaise (d : Nat) : Statement (.pdReqRaise d) := fun _ _ h => nomatch h
theorem pdAckRise (d : Nat) : Statement (.pdAckRise d) := fun _ _ h => nomatch h
theorem pdPowerDown (d : Nat) : Statement (.pdPowerDown d) := fun _ _ h => nomatch h
theorem pdAckFall (d : Nat) : Statement (.pdAckFall d) := fun _ _ h => nomatch h
theorem pdTimeout (d : Nat) : Statement (.pdTimeout d) := fun _ _ h => nomatch h
theorem droopSample (codes : List Nat) (warn : Bool) : Statement (.droopSample codes warn) := fun _ _ h => nomatch h
theorem powerWarnRise : Statement (.powerWarnRise) := fun _ _ h => nomatch h
theorem warnHaltExpiry : Statement (.warnHaltExpiry) := fun _ _ h => nomatch h
theorem exitHoldExpiry : Statement .exitHoldExpiry := fun _ _ h => nomatch h
theorem shutdown (eid : Nat) (tag : Byte) (value : Byte) : Statement (.shutdown eid tag value) := fun _ _ h => nomatch h
theorem shutdownReady : Statement (.shutdownReady) := fun _ _ h => nomatch h
theorem stridePulseEdge : Statement (.stridePulseEdge) := fun _ _ h => nomatch h
theorem graceExpiry : Statement (.graceExpiry) := fun _ _ h => nomatch h
theorem holdoverWrap : Statement (.holdoverWrap) := fun _ _ h => nomatch h
theorem phaseZero : Statement (.phaseZero) := fun _ _ h => nomatch h
theorem windowOpen (w : WindowId) : Statement (.windowOpen w) := fun _ _ h => nomatch h
theorem windowClose (w : WindowId) : Statement (.windowClose w) := fun _ _ h => nomatch h
theorem timing (port : Nat) (payload : BitVec 128) : Statement (.timing port payload) := fun _ _ h => nomatch h
theorem loadCtrl (eid : Nat) (tag : Byte) (value : Byte) : Statement (.loadCtrl eid tag value) := fun _ _ h => nomatch h
theorem baseImageVerify : Statement (.baseImageVerify) := fun _ _ h => nomatch h
theorem switchStride (eid : Nat) (tag : Byte) (value : Dword) : Statement (.switchStride eid tag value) := fun _ _ h => nomatch h
theorem stagedMapComplete : Statement (.stagedMapComplete) := fun _ _ h => nomatch h
theorem paradeRunStart : Statement (.paradeRunStart) := fun _ _ h => nomatch h
theorem tileEmit (failing : List Nat) : Statement (.tileEmit failing) := fun _ _ h => nomatch h
theorem runDrop : Statement (.runDrop) := fun _ _ h => nomatch h
theorem tallyCheckpoint : Statement (.tallyCheckpoint) := fun _ _ h => nomatch h
theorem tallySave : Statement (.tallySave) := fun _ _ h => nomatch h
theorem tallySaveComplete (ok : Bool) : Statement (.tallySaveComplete ok) := fun _ _ h => nomatch h
theorem tallyUnlockedTimer : Statement (.tallyUnlockedTimer) := fun _ _ h => nomatch h
theorem histogramInterval (temps : Option (List Int)) : Statement (.histogramInterval temps) := fun _ _ h => nomatch h
theorem powerOnMinute : Statement (.powerOnMinute) := fun _ _ h => nomatch h
theorem engIssue (core rd rs1 rs2 : Nat) : Statement (.engIssue core rd rs1 rs2) := fun _ _ h => nomatch h
theorem engWait (core rs1 rs2 : Nat) : Statement (.engWait core rs1 rs2) := fun _ _ h => nomatch h
theorem engStat (core rd rs2 : Nat) : Statement (.engStat core rd rs2) := fun _ _ h => nomatch h
theorem vecIssue (core rd rs1 : Nat) : Statement (.vecIssue core rd rs1) := fun _ _ h => nomatch h
theorem tagClr (core rs1 rs2 : Nat) : Statement (.tagClr core rs1 rs2) := fun _ _ h => nomatch h
theorem fenceEng (core : Nat) : Statement (.fenceEng core) := fun _ _ h => nomatch h
theorem zhLaunchWrite (core : Nat) (value : Dword) : Statement (.zhLaunchWrite core value) := fun _ _ h => nomatch h
theorem zhFnoteRead (core rd : Nat) : Statement (.zhFnoteRead core rd) := fun _ _ h => nomatch h
theorem cpAccessFault (core : Nat) (kind : AccessKind) (va : Dword) : Statement (.cpAccessFault core kind va) := fun _ _ h => nomatch h
theorem coreMessage (src : Nat) (target : Dword) (body : List Byte) : Statement (.coreMessage src target body) := fun _ _ h => nomatch h
theorem opAccept (core eng : Nat) : Statement (.opAccept core eng) := fun _ _ h => nomatch h
theorem paradeHeadCheck (core eng : Nat) : Statement (.paradeHeadCheck core eng) := fun _ _ h => nomatch h
theorem matmul (core eng : Nat) : Statement (.matmul core eng) := fun _ _ h => nomatch h
theorem residentLoad (core eng : Nat) : Statement (.residentLoad core eng) := fun _ _ h => nomatch h
theorem paradeTileCapture (core eng : Nat) : Statement (.paradeTileCapture core eng) := fun _ _ h => nomatch h
theorem writeout (core eng : Nat) : Statement (.writeout core eng) := fun _ _ h => nomatch h
theorem loadacc (core eng : Nat) : Statement (.loadacc core eng) := fun _ _ h => nomatch h
theorem zeroacc (core eng : Nat) : Statement (.zeroacc core eng) := fun _ _ h => nomatch h
theorem opComplete (core eng : Nat) : Statement (.opComplete core eng) := fun _ _ h => nomatch h
theorem adaptDownStep (core : Nat) : Statement (.adaptDownStep core) := fun _ _ h => nomatch h
theorem adaptUpStep (core : Nat) : Statement (.adaptUpStep core) := fun _ _ h => nomatch h
theorem adaptTransposedDown (core : Nat) : Statement (.adaptTransposedDown core) := fun _ _ h => nomatch h
theorem adaptTransposedUp (core : Nat) : Statement (.adaptTransposedUp core) := fun _ _ h => nomatch h
theorem adaptStepComplete (core : Nat) : Statement (.adaptStepComplete core) := fun _ _ h => nomatch h
theorem prefetchFire (core slot idx : Nat) : Statement (.prefetchFire core slot idx) := fun _ _ h => nomatch h
theorem panelPresent (core slot : Nat) : Statement (.panelPresent core slot) := fun _ _ h => nomatch h
theorem adaptMiss (core slot : Nat) : Statement (.adaptMiss core slot) := fun _ _ h => nomatch h
theorem vectorProgramStart (core : Nat) : Statement (.vectorProgramStart core) := fun _ _ h => nomatch h
theorem vld (core : Nat) : Statement (.vld core) := fun _ _ h => nomatch h
theorem vst (core : Nat) : Statement (.vst core) := fun _ _ h => nomatch h
theorem vldb (core : Nat) : Statement (.vldb core) := fun _ _ h => nomatch h
theorem vstb (core : Nat) : Statement (.vstb core) := fun _ _ h => nomatch h
theorem vldn (core : Nat) : Statement (.vldn core) := fun _ _ h => nomatch h
theorem vstn (core : Nat) : Statement (.vstn core) := fun _ _ h => nomatch h
theorem vseta (core : Nat) : Statement (.vseta core) := fun _ _ h => nomatch h
theorem vadd (core : Nat) : Statement (.vadd core) := fun _ _ h => nomatch h
theorem vsub (core : Nat) : Statement (.vsub core) := fun _ _ h => nomatch h
theorem vmul (core : Nat) : Statement (.vmul core) := fun _ _ h => nomatch h
theorem vfma (core : Nat) : Statement (.vfma core) := fun _ _ h => nomatch h
theorem vdiv (core : Nat) : Statement (.vdiv core) := fun _ _ h => nomatch h
theorem vsqrt (core : Nat) : Statement (.vsqrt core) := fun _ _ h => nomatch h
theorem vmax (core : Nat) : Statement (.vmax core) := fun _ _ h => nomatch h
theorem vmin (core : Nat) : Statement (.vmin core) := fun _ _ h => nomatch h
theorem vabs (core : Nat) : Statement (.vabs core) := fun _ _ h => nomatch h
theorem vcmplt (core : Nat) : Statement (.vcmplt core) := fun _ _ h => nomatch h
theorem vsel (core : Nat) : Statement (.vsel core) := fun _ _ h => nomatch h
theorem vbcast (core : Nat) : Statement (.vbcast core) := fun _ _ h => nomatch h
theorem vredadd (core : Nat) : Statement (.vredadd core) := fun _ _ h => nomatch h
theorem vredmax (core : Nat) : Statement (.vredmax core) := fun _ _ h => nomatch h
theorem vscupd (core : Nat) : Statement (.vscupd core) := fun _ _ h => nomatch h
theorem vadamw (core : Nat) : Statement (.vadamw core) := fun _ _ h => nomatch h
theorem vsgdm (core : Nat) : Statement (.vsgdm core) := fun _ _ h => nomatch h
theorem vend (core : Nat) : Statement (.vend core) := fun _ _ h => nomatch h
theorem doorbell (q : Nat) (v : Word) : Statement (.doorbell q v) := fun _ _ h => nomatch h
theorem doorbellInline (q : Nat) (entry : List Dword) : Statement (.doorbellInline q entry) := fun _ _ h => nomatch h
theorem ringFetch (q : Nat) : Statement (.ringFetch q) := fun _ _ h => nomatch h
theorem arbiterGrant (slice : Nat) : Statement (.arbiterGrant slice) := fun _ _ h => nomatch h
theorem nop (q : Nat) : Statement (.nop q) := fun _ _ h => nomatch h
theorem ops (q : Nat) : Statement (.ops q) := fun _ _ h => nomatch h
theorem launch (q : Nat) : Statement (.launch q) := fun _ _ h => nomatch h
theorem dma (q : Nat) : Statement (.dma q) := fun _ _ h => nomatch h
theorem fenceWait (q : Nat) : Statement (.fenceWait q) := fun _ _ h => nomatch h
theorem fenceSignal (q : Nat) : Statement (.fenceSignal q) := fun _ _ h => nomatch h
theorem setWindow (q : Nat) : Statement (.setWindow q) := fun _ _ h => nomatch h
theorem prefetch (q : Nat) : Statement (.prefetch q) := fun _ _ h => nomatch h
theorem advise (q : Nat) : Statement (.advise q) := fun _ _ h => nomatch h
theorem stamp (q : Nat) : Statement (.stamp q) := fun _ _ h => nomatch h
theorem commandComplete (q k : Nat) : Statement (.commandComplete q k) := fun _ _ h => nomatch h
theorem queueWatchdog (q : Nat) : Statement (.queueWatchdog q) := fun _ _ h => nomatch h
theorem ctxCreate (slice ctx : Nat) : Statement (.ctxCreate slice ctx) := fun _ _ h => nomatch h
theorem ctxReset (slice ctx : Nat) : Statement (.ctxReset slice ctx) := fun _ _ h => nomatch h
theorem ctxResetComplete (slice ctx : Nat) : Statement (.ctxResetComplete slice ctx) := fun _ _ h => nomatch h
theorem ctxDestroy (slice ctx : Nat) : Statement (.ctxDestroy slice ctx) := fun _ _ h => nomatch h
theorem ctxClearFault (slice ctx : Nat) : Statement (.ctxClearFault slice ctx) := fun _ _ h => nomatch h
theorem ctxSync (slice ctx : Nat) : Statement (.ctxSync slice ctx) := fun _ _ h => nomatch h
theorem zhCtxTableWrite (slice : Nat) (v : Dword) : Statement (.zhCtxTableWrite slice v) := fun _ _ h => nomatch h
theorem queueEnable (q : Nat) (cfg : Dword) : Statement (.queueEnable q cfg) := fun _ _ h => nomatch h
theorem queueDisable (q : Nat) : Statement (.queueDisable q) := fun _ _ h => nomatch h
theorem fenceSetup (slice fence : Nat) (exported : Bool) : Statement (.fenceSetup slice fence exported) := fun _ _ h => nomatch h
theorem fenceCtrlSignal (slice fence : Nat) : Statement (.fenceCtrlSignal slice fence) := fun _ _ h => nomatch h
theorem fenceRelease (slice fence : Nat) : Statement (.fenceRelease slice fence) := fun _ _ h => nomatch h
theorem dmaTile (agent channel : Nat) : Statement (.dmaTile agent channel) := fun _ _ h => nomatch h
theorem zhFaultTailWrite (slice : Nat) (v : Word) : Statement (.zhFaultTailWrite slice v) := fun _ _ h => nomatch h
theorem faultRingConfig (slice : Nat) (base : Option Dword) (size : Option Word) : Statement (.faultRingConfig slice base size) := fun _ _ h => nomatch h
theorem dmaResume (slice : Nat) (va : Dword) : Statement (.dmaResume slice va) := fun _ _ h => nomatch h
theorem dmaAborted (slice : Nat) (va : Dword) : Statement (.dmaAborted slice va) := fun _ _ h => nomatch h
theorem invalidation (slice : Nat) (ctrl : Word) : Statement (.invalidation slice ctrl) := fun _ _ h => nomatch h
theorem invalidationComplete (slice : Nat) : Statement (.invalidationComplete slice) := fun _ _ h => nomatch h
theorem zhPoolAdd (slice : Nat) (v : Dword) : Statement (.zhPoolAdd slice v) := fun _ _ h => nomatch h
theorem alloc (core rd rs2 : Nat) : Statement (.alloc core rd rs2) := fun _ _ h => nomatch h
theorem free (core rd rs2 : Nat) : Statement (.free core rd rs2) := fun _ _ h => nomatch h
theorem freePointPassed (slice : Nat) : Statement (.freePointPassed slice) := fun _ _ h => nomatch h
theorem keyRequest (slice eid : Nat) (tag : Byte) (value : Byte) : Statement (.keyRequest slice eid tag value) := fun _ _ h => nomatch h
theorem keyRelease (slice eid : Nat) (tag : Byte) (value : Byte) : Statement (.keyRelease slice eid tag value) := fun _ _ h => nomatch h
theorem reqCommit (eid : Nat) (tag : Byte) (value : Byte) : Statement (.reqCommit eid tag value) := fun _ _ h => nomatch h
theorem create (eid : Nat) (tag : Byte) (slice : Nat) (h : Holdings) : Statement (.create eid tag slice h) := fun _ _ h => nomatch h
theorem resize (eid : Nat) (tag : Byte) (slice : Nat) (h : Holdings) : Statement (.resize eid tag slice h) := fun _ _ h => nomatch h
theorem remove (eid : Nat) (tag : Byte) (slice : Nat) : Statement (.remove eid tag slice) := fun _ _ h => nomatch h
theorem firmware (eid : Nat) (tag : Byte) (slice : Nat) (addr : Dword) : Statement (.firmware eid tag slice addr) := fun _ _ h => nomatch h
theorem reconfActionStart : Statement (.reconfActionStart) := fun _ _ h => nomatch h
theorem reconfStageEnd : Statement (.reconfStageEnd) := fun _ _ h => nomatch h
theorem scrubComplete (g : Nat) : Statement (.scrubComplete g) := fun _ _ h => nomatch h
theorem sliceMapAddr (slice eid : Nat) (tag : Byte) (value : Dword) : Statement (.sliceMapAddr slice eid tag value) := fun _ _ h => nomatch h
theorem nonce (slice eid : Nat) (tag : Byte) (value : List Byte) : Statement (.nonce slice eid tag value) := fun _ _ h => nomatch h
theorem nonceLedgerReady (slice : Nat) : Statement (.nonceLedgerReady slice) := fun _ _ h => nomatch h
theorem medAnswer (eid : Nat) : Statement (.medAnswer eid) := fun _ _ h => nomatch h
theorem reinSample (slice point cls x bytes : Nat) : Statement (.reinSample slice point cls x bytes) := fun _ _ h => nomatch h
theorem rds (agent : Agent) (line : Nat) : Statement (.rds agent line) := fun _ _ h => nomatch h
theorem rdx (agent : Agent) (line : Nat) : Statement (.rdx agent line) := fun _ _ h => nomatch h
theorem wrline (agent : Agent) (line : Nat) (alloc : Bool) (bytes : List Byte) : Statement (.wrline agent line alloc bytes) := fun _ _ h => nomatch h
theorem uncrd (agent : Agent) (line : Nat) : Statement (.uncrd agent line) := fun _ _ h => nomatch h
theorem uncwr (agent : Agent) (line off : Nat) (bytes : List Byte) : Statement (.uncwr agent line off bytes) := fun _ _ h => nomatch h
theorem atomicHome (agent : Agent) (line off : Nat) (op : AtomicOp) (a b : Dword) : Statement (.atomicHome agent line off op a b) := fun _ _ h => nomatch h
theorem wb (agent : Agent) (line : Nat) : Statement (.wb agent line) := fun _ _ h => nomatch h
theorem snps (agent : Agent) (line : Nat) : Statement (.snps agent line) := fun _ _ h => nomatch h
theorem snpx (agent : Agent) (line : Nat) : Statement (.snpx agent line) := fun _ _ h => nomatch h
theorem snpcur (agent : Agent) (line : Nat) : Statement (.snpcur agent line) := fun _ _ h => nomatch h
theorem data (agent : Agent) (line : Nat) : Statement (.data agent line) := fun _ _ h => nomatch h
theorem rsp (agent : Agent) (line : Nat) : Statement (.rsp agent line) := fun _ _ h => nomatch h
theorem nack (agent : Agent) (line : Nat) : Statement (.nack agent line) := fun _ _ h => nomatch h
theorem cohAck (agent : Agent) (line : Nat) : Statement (.cohAck agent line) := fun _ _ h => nomatch h
theorem cmpwb (agent : Agent) (line : Nat) : Statement (.cmpwb agent line) := fun _ _ h => nomatch h
theorem cohPoison (agent : Agent) (line : Nat) : Statement (.cohPoison agent line) := fun _ _ h => nomatch h
theorem holdEnd (agent : Agent) (line : Nat) : Statement (.holdEnd agent line) := fun _ _ h => nomatch h
theorem retryReservationLapse (line : Nat) : Statement (.retryReservationLapse line) := fun _ _ h => nomatch h
theorem retryDelayExpiry (agent : Agent) (line : Nat) : Statement (.retryDelayExpiry agent line) := fun _ _ h => nomatch h
theorem snoopTimeout (agent : Agent) (line : Nat) : Statement (.snoopTimeout agent line) := fun _ _ h => nomatch h
theorem reqTimeout (agent : Agent) (line : Nat) : Statement (.reqTimeout agent line) := fun _ _ h => nomatch h
theorem viActivate (v : Nat) : Statement (.viActivate v) := fun _ _ h => nomatch h
theorem viReset (v : Nat) : Statement (.viReset v) := fun _ _ h => nomatch h
theorem viRemove (v : Nat) : Statement (.viRemove v) := fun _ _ h => nomatch h
theorem viDrainComplete (v : Nat) : Statement (.viDrainComplete v) := fun _ _ h => nomatch h
theorem viBind (v q : Nat) : Statement (.viBind v q) := fun _ _ h => nomatch h
theorem viUnbind (v q : Nat) : Statement (.viUnbind v q) := fun _ _ h => nomatch h
theorem zhViPasidWrite (v : Nat) (value : Word) : Statement (.zhViPasidWrite v value) := fun _ _ h => nomatch h
theorem unitWatchdog (core unit : Nat) : Statement (.unitWatchdog core unit) := fun _ _ h => nomatch h
theorem unitUncorr (core unit : Nat) : Statement (.unitUncorr core unit) := fun _ _ h => nomatch h
theorem feHang (unit : SharedUnit) : Statement (.feHang unit) := fun _ _ h => nomatch h
theorem sharedUnitFailure (cluster : Nat) : Statement (.sharedUnitFailure cluster) := fun _ _ h => nomatch h
theorem engineRung (core unit : Nat) : Statement (.engineRung core unit) := fun _ _ h => nomatch h
theorem sliceRung (slice : Nat) : Statement (.sliceRung slice) := fun _ _ h => nomatch h
theorem blockComputeRung : Statement (.blockComputeRung) := fun _ _ h => nomatch h
theorem powerCycleRung : Statement (.powerCycleRung) := fun _ _ h => nomatch h
theorem trayHoldExpiry : Statement (.trayHoldExpiry) := fun _ _ h => nomatch h
theorem rungEscalation : Statement (.rungEscalation) := fun _ _ h => nomatch h
theorem launchGraceExpiry (core : Nat) : Statement (.launchGraceExpiry core) := fun _ _ h => nomatch h
theorem sliceReset (slice eid : Nat) (tag : Byte) (value : Byte) : Statement (.sliceReset slice eid tag value) := fun _ _ h => nomatch h
theorem rungRequestBlock (eid : Nat) (tag : Byte) : Statement (.rungRequestBlock eid tag) := fun _ _ h => nomatch h
theorem rungRequestPower (eid : Nat) (tag : Byte) : Statement (.rungRequestPower eid tag) := fun _ _ h => nomatch h
theorem replayTurn (slice : Nat) : Statement (.replayTurn slice) := fun _ _ h => nomatch h
theorem turnEnd (slice ctx : Nat) : Statement (.turnEnd slice ctx) := fun _ _ h => nomatch h
theorem turnLimitExpiry (slice : Nat) : Statement (.turnLimitExpiry slice) := fun _ _ h => nomatch h
theorem abandon (slice : Nat) : Statement (.abandon slice) := fun _ _ h => nomatch h
theorem substituteCore (core : Nat) : Statement (.substituteCore core) := fun _ _ h => nomatch h
theorem substituteBank (core bank : Nat) : Statement (.substituteBank core bank) := fun _ _ h => nomatch h
theorem substituteWay (cluster way : Nat) : Statement (.substituteWay cluster way) := fun _ _ h => nomatch h
theorem substituteGroup (g : Nat) : Statement (.substituteGroup g) := fun _ _ h => nomatch h
theorem mgmtCoreWatchdog (i : Nat) : Statement (.mgmtCoreWatchdog i) := fun _ _ h => nomatch h
theorem arm (slice job eid : Nat) (tag : Byte) : Statement (.arm slice job eid tag) := fun _ _ h => nomatch h
theorem disarm (slice job eid : Nat) (tag : Byte) : Statement (.disarm slice job eid tag) := fun _ _ h => nomatch h
theorem restore (slice job eid : Nat) (tag : Byte) : Statement (.restore slice job eid tag) := fun _ _ h => nomatch h
theorem restoreComplete (slice job : Nat) : Statement (.restoreComplete slice job) := fun _ _ h => nomatch h
theorem secureCopyStart (slice job : Nat) : Statement (.secureCopyStart slice job) := fun _ _ h => nomatch h
theorem secureCopyComplete (slice job : Nat) : Statement (.secureCopyComplete slice job) := fun _ _ h => nomatch h
theorem secureTimeout (slice job : Nat) : Statement (.secureTimeout slice job) := fun _ _ h => nomatch h
theorem partnerWrite (slice job eid : Nat) (tag : Byte) (value : Dword) : Statement (.partnerWrite slice job eid tag value) := fun _ _ h => nomatch h
theorem transTest (eid : Nat) (tag : Byte) : Statement (.transTest eid tag) := fun _ _ h => nomatch h
theorem transField (eid : Nat) (tag : Byte) : Statement (.transField eid tag) := fun _ _ h => nomatch h
theorem transComplete (eid : Nat) (tag : Byte) : Statement (.transComplete eid tag) := fun _ _ h => nomatch h
theorem transProvision (eid : Nat) (tag : Byte) : Statement (.transProvision eid tag) := fun _ _ h => nomatch h
theorem transAnalysis (eid : Nat) (tag : Byte) : Statement (.transAnalysis eid tag) := fun _ _ h => nomatch h
theorem transScrap (eid : Nat) (tag : Byte) : Statement (.transScrap eid tag) := fun _ _ h => nomatch h
theorem fuseDone (burnt : Bool) : Statement (.fuseDone burnt) := fun _ _ h => nomatch h
theorem debugOpen (eid : Nat) (tag : Byte) : Statement (.debugOpen eid tag) := fun _ _ h => nomatch h
theorem debugClose (eid : Nat) (tag : Byte) : Statement (.debugClose eid tag) := fun _ _ h => nomatch h
theorem debugDurationExpiry : Statement (.debugDurationExpiry) := fun _ _ h => nomatch h
theorem debugConsent (slice eid : Nat) (tag : Byte) (value : Byte) : Statement (.debugConsent slice eid tag value) := fun _ _ h => nomatch h
theorem svnAdvance (eid : Nat) (tag : Byte) (value : Byte) : Statement (.svnAdvance eid tag value) := fun _ _ h => nomatch h
theorem adapterExtend (slice eid : Nat) (tag : Byte) (value : List Byte) : Statement (.adapterExtend slice eid tag value) := fun _ _ h => nomatch h
theorem extendDone (slice : Nat) : Statement (.extendDone slice) := fun _ _ h => nomatch h
theorem sealWrite (slice eid : Nat) (tag : Byte) (value : List Byte) : Statement (.sealWrite slice eid tag value) := fun _ _ h => nomatch h
theorem sealRead (slice eid : Nat) (tag : Byte) : Statement (.sealRead slice eid tag) := fun _ _ h => nomatch h
theorem rngFault : Statement (.rngFault) := fun _ _ h => nomatch h
theorem getVersion (eid : Nat) : Statement (.getVersion eid) := fun _ _ h => nomatch h
theorem getCapabilities (eid : Nat) : Statement (.getCapabilities eid) := fun _ _ h => nomatch h
theorem negotiateAlgorithms (eid : Nat) (asymP384 hashSha384 measSha384 : Bool) : Statement (.negotiateAlgorithms eid asymP384 hashSha384 measSha384) := fun _ _ h => nomatch h
theorem getDigests (eid : Nat) : Statement (.getDigests eid) := fun _ _ h => nomatch h
theorem getCertificate (eid slot off len : Nat) : Statement (.getCertificate eid slot off len) := fun _ _ h => nomatch h
theorem challenge (eid slot : Nat) (nonce : List Byte) : Statement (.challenge eid slot nonce) := fun _ _ h => nomatch h
theorem getMeasurements (eid index : Nat) (nonce : List Byte) : Statement (.getMeasurements eid index nonce) := fun _ _ h => nomatch h
theorem imageCtrl (eid : Nat) (tag : Byte) (value : Byte) : Statement (.imageCtrl eid tag value) := fun _ _ h => nomatch h
theorem read (eid : Nat) (tag : Byte) (index sub : Nat) : Statement (.read eid tag index sub) := fun _ _ h => nomatch h
theorem write (eid : Nat) (tag : Byte) (index sub : Nat) (value : List Byte) : Statement (.write eid tag index sub value) := fun _ _ h => nomatch h
theorem describe (eid : Nat) (tag : Byte) (index sub : Nat) : Statement (.describe eid tag index sub) := fun _ _ h => nomatch h
theorem eventAck (eid : Nat) (seq : Word) : Statement (.eventAck eid seq) := fun _ _ h => nomatch h
theorem event : Statement (.event) := fun _ _ h => nomatch h
theorem eventRetry : Statement (.eventRetry) := fun _ _ h => nomatch h
theorem tallyClear (eid : Nat) (tag : Byte) (value : Byte) : Statement (.tallyClear eid tag value) := fun _ _ h => nomatch h
theorem saveNow (eid : Nat) (tag : Byte) (value : Byte) : Statement (.saveNow eid tag value) := fun _ _ h => nomatch h
theorem setEndpointId (src newEid : Nat) : Statement (.setEndpointId src newEid) := fun _ _ h => nomatch h
theorem getEndpointId (src : Nat) : Statement (.getEndpointId src) := fun _ _ h => nomatch h
theorem getMctpVersionSupport (src : Nat) : Statement (.getMctpVersionSupport src) := fun _ _ h => nomatch h
theorem getMessageTypeSupport (src : Nat) : Statement (.getMessageTypeSupport src) := fun _ _ h => nomatch h
theorem mcpReadReturn (port line : Nat) (err : Bool) : Statement (.mcpReadReturn port line err) := fun _ _ h => nomatch h
theorem null (port : Nat) (src : FlitSrc) (reqCredits rspCredits : Nat) : Statement (.null port src reqCredits rspCredits) := fun _ _ h => nomatch h
theorem linkTrain (port : Nat) : Statement (.linkTrain port) := fun _ _ h => nomatch h
theorem linkNak (port seq : Nat) : Statement (.linkNak port seq) := fun _ _ h => nomatch h
theorem rxBad (port : Nat) : Statement (.rxBad port) := fun _ _ h => nomatch h
theorem phyUpRise (port : Nat) : Statement (.phyUpRise port) := fun _ _ h => nomatch h
theorem phyUpFall (port : Nat) : Statement (.phyUpFall port) := fun _ _ h => nomatch h
theorem trainingTimeout (port : Nat) : Statement (.trainingTimeout port) := fun _ _ h => nomatch h
theorem rd (port : Nat) (src : FlitSrc) (addr : Dword) (bytes : Nat) : Statement (.rd port src addr bytes) := fun _ _ h => nomatch h
theorem wr (port : Nat) (src : FlitSrc) (addr : Dword) (bytes : Nat) : Statement (.wr port src addr bytes) := fun _ _ h => nomatch h
theorem wrData (port : Nat) (src : FlitSrc) (bytes : List Byte) : Statement (.wrData port src bytes) := fun _ _ h => nomatch h
theorem atomic (port : Nat) (src : FlitSrc) (addr : Dword) (op : Nat) (a b : Dword) : Statement (.atomic port src addr op a b) := fun _ _ h => nomatch h
theorem msg (port : Nat) (src : FlitSrc) (target : Dword) (body : List Byte) : Statement (.msg port src target body) := fun _ _ h => nomatch h
theorem fence (port : Nat) (src : FlitSrc) (handle value : Dword) : Statement (.fence port src handle value) := fun _ _ h => nomatch h
theorem streamOpen (port : Nat) (src : FlitSrc) (base : Dword) (bank job : Nat) (srcPackage srcSlice : Nat) (reading : Bool) : Statement (.streamOpen port src base bank job srcPackage srcSlice reading) := fun _ _ h => nomatch h
theorem streamMark (port : Nat) (src : FlitSrc) (trailer : List Byte) : Statement (.streamMark port src trailer) := fun _ _ h => nomatch h
theorem streamData (port : Nat) (src : FlitSrc) (bytes : List Byte) : Statement (.streamData port src bytes) := fun _ _ h => nomatch h
theorem streamRead (port : Nat) (src : FlitSrc) (off bytes : Nat) : Statement (.streamRead port src off bytes) := fun _ _ h => nomatch h
theorem rdData (port : Nat) (src : FlitSrc) (bytes : List Byte) : Statement (.rdData port src bytes) := fun _ _ h => nomatch h
theorem ack (port : Nat) (src : FlitSrc) (value : Dword) : Statement (.ack port src value) := fun _ _ h => nomatch h
theorem refused (port : Nat) (src : FlitSrc) (cause : Nat) : Statement (.refused port src cause) := fun _ _ h => nomatch h
theorem poison (port : Nat) (src : FlitSrc) (line : Dword) : Statement (.poison port src line) := fun _ _ h => nomatch h
theorem staleRole (port : Nat) (src : FlitSrc) : Statement (.staleRole port src) := fun _ _ h => nomatch h
theorem atomicRsp (port : Nat) (src : FlitSrc) (old : Dword) : Statement (.atomicRsp port src old) := fun _ _ h => nomatch h
theorem doorbellFwd (q : Nat) (payload : List Dword) : Statement (.doorbellFwd q payload) := fun _ _ h => nomatch h
theorem fedCtrl (op : Nat) (src : Nat) (payload : List Byte) : Statement (.fedCtrl op src payload) := fun _ _ h => nomatch h
theorem fedForward (east : Bool) (dst src kind : Nat) (origin : FlitSrc) (body : List Byte) : Statement (.fedForward east dst src kind origin body) := fun _ _ h => nomatch h
theorem instanceLost (i : Nat) : Statement (.instanceLost i) := fun _ _ h => nomatch h
theorem apertureAccess (off : Dword) (len : Nat) (wdata : Option (List Byte)) : Statement (.apertureAccess off len wdata) := fun _ _ h => nomatch h
theorem zhAptKeyWrite (slice : Nat) (value : Word) : Statement (.zhAptKeyWrite slice value) := fun _ _ h => nomatch h
theorem registerWrite (off size : Nat) (value : Dword) : Statement (.registerWrite off size value) := fun _ _ h => nomatch h
theorem irqSend : Statement (.irqSend) := fun _ _ h => nomatch h
theorem lossOfPower : Statement (.lossOfPower) := fun _ _ h => nomatch h
theorem hostCompletion (tag : Nat) (ok : Bool) (bytes : List Byte) : Statement (.hostCompletion tag ok bytes) := fun _ _ h => nomatch h
theorem controlProcessorAccess (core : Nat) (op : CpOp) : Statement (.controlProcessorAccess core op) := fun _ _ h => nomatch h
theorem debugReadout (t : DebugTarget) (off n : Nat) : Statement (.debugReadout t off n) := fun _ _ h => nomatch h
theorem healthTestPass : Statement (.healthTestPass) := fun _ _ h => nomatch h
theorem imageWriteComplete (ok : Bool) : Statement (.imageWriteComplete ok) := fun _ _ h => nomatch h
theorem sealRecordWritten (slice k : Nat) (ok : Bool) : Statement (.sealRecordWritten slice k ok) := fun _ _ h => nomatch h
theorem sampleLimitExpiry (slice : Nat) : Statement (.sampleLimitExpiry slice) := fun _ _ h => nomatch h
theorem flitUnknownKind (port : Nat) (src : FlitSrc) : Statement (.flitUnknownKind port src) := fun _ _ h => nomatch h
theorem malformed (eid : Nat) (tag kind : Byte) (index sub : Nat) : Statement (.malformed eid tag kind index sub) := fun _ _ h => nomatch h

end Sys2Proof.Laws.Named
end

