-- ==== Sys2Proof/Tests/Slice0.lean ====
section
/-! SUPPORT. The model's own tests: ill-formed commands that each check refuses, a few single steps, and for every statement that has hypotheses a
concrete state and operands that meet them, clause by clause. -/

namespace Sys2Proof.Tests

open Sys2Proof.Machine

/- One theorem after another, so that the file takes the memory of one. -/
set_option Elab.async false

/-! ### Each check of WellFormed refuses an ill-formed command -/

/-- Every command of the list is refused by `Instr.wf`. -/
def refuses (l : List Instr) : Bool := l.all fun c => !c.wf

theorem test_wf_refuses_slice : refuses [.sliceRung 0, .sliceRung 29, .arbiterGrant 29, .ctxCreate 0 5, .windowOpen (.secure 29 0),
    .snpx (.cluster 0 1) 3, .zhAptKeyWrite 0 1] = true := by decide +kernel

theorem test_wf_refuses_core : refuses [.fenceEng 64, .vadd 64, .opAccept 64 0, .cpAccessFault 64 .load 0, .debugReadout (.scratchpad 64) 0 8,
    .controlProcessorAccess 64 (.access (.lr 1 2 3))] = true := by decide +kernel

theorem test_wf_refuses_engine_and_bank : refuses [.matmul 0 4, .opComplete 0 4, .debugReadout (.accumulator 0 4 0) 0 8,
    .debugReadout (.accumulator 0 0 2) 0 8] = true := by decide +kernel

theorem test_wf_refuses_register : refuses [.engIssue 0 32 1 2, .engIssue 0 1 32 2, .engIssue 0 1 2 32, .zhFnoteRead 0 32,
    .alloc 0 1 32] = true := by decide +kernel

theorem test_wf_refuses_access_width : refuses [.controlProcessorAccess 0 (.access (.load 1 2 4 false 0)), .controlProcessorAccess 0 (.access (.store 32 2 3 0)),
    .controlProcessorAccess 0 (.access (.lr 1 2 1)), .controlProcessorAccess 0 (.access (.sc 1 2 3 0)), .controlProcessorAccess 0 (.access (.amo (.swap true) 1 2 32)),
    .registerWrite 0 2 0, .registerWrite (2 ^ 26) 4 0] = true := by decide +kernel

theorem test_wf_refuses_queue : refuses [.doorbell 4096 0, .ringFetch 4096, .commandComplete 0 (2 ^ 32), .viBind 0 4096,
    .doorbellFwd 4096 [0]] = true := by decide +kernel

theorem test_wf_refuses_entry_length : refuses [.doorbellInline 0 [], .doorbellInline 0 (List.replicate 9 0),
    .doorbellFwd 0 [0, 0]] = true := by decide +kernel

theorem test_wf_refuses_context_fence_job : refuses [.ctxReset 1 (2 ^ 20), .turnEnd 1 (2 ^ 20), .fenceSetup 1 65536 false, .arm 1 8 0 0,
    .secureTimeout 1 8, .sealRecordWritten 1 8 true] = true := by decide +kernel

theorem test_wf_refuses_endpoint : refuses [.getVersion 256, .eventAck 256 0, .setEndpointId 0 256, .setEndpointId 256 0, .shutdown 256 0 1,
    .read 256 0 0 0] = true := by decide +kernel

theorem test_wf_refuses_dictionary_key : refuses [.read 0 0 65536 0, .write 0 0 0 256 [], .describe 0 0 65536 0,
    .malformed 0 0 9 0 256] = true := by decide +kernel

theorem test_wf_refuses_csr_and_custom : refuses [.controlProcessorAccess 0 (.csr 32 0xCC0 none), .controlProcessorAccess 0 (.csr 1 0xC00 none),
    .controlProcessorAccess 0 (.csr 1 0xCC1 (some (.write, 32))), .controlProcessorAccess 0 (.custom 8 0), .controlProcessorAccess 0 (.custom 5 0),
    .controlProcessorAccess 0 (.custom 0 128),
    .sealRead 1 256 0] = true := by decide +kernel

theorem test_wf_refuses_debug_target : refuses [.debugReadout (.clusterWay 8 0) 0 8, .debugReadout (.clusterWay 0 16) 0 8,
    .debugReadout (.memory 32) 0 8, .debugReadout (.mgmtCore 4) 0 8, .debugReadout (.scan 119) 0 8, .debugReadout (.bist 119) 0 8,
    .debugReadout (.registers 64) 0 8, .debugReadout (.adapterStore 64) 0 8] = true := by decide +kernel

/-- Holdings of nothing. -/
def noHold : Holdings :=
  { cores := 0, groups := 0, ways := 0, ccache := 0, qFirst := 0, qCount := 0, contexts := 0, fences := 0, rtShare := 0, reserv := 0 }

theorem test_wf_refuses_request : refuses [.create 0 0 256 noHold, .create 0 0 1 { noHold with ccache := 256 },
    .create 0 0 1 { noHold with contexts := 2 ^ 20 + 1 }, .resize 0 0 1 { noHold with qFirst := 4096 }, .resize 0 0 1 { noHold with rtShare := 256 },
    .resize 0 0 1 { noHold with qCount := 4097 }, .resize 0 0 1 { noHold with fences := 65537 }, .remove 0 0 256,
    .firmware 0 0 256 0] = true := by decide +kernel

theorem test_wf_refuses_port : refuses [.null 6 ⟨0, 0, 0⟩ 0 0, .linkTrain 6, .linkNak 0 4096, .timing 4 0, .mcpInitDone 128,
    .mcpReadReturn 0 (2 ^ 28) false] = true := by decide +kernel

theorem test_wf_refuses_flit_source : refuses [.ack 0 ⟨4096, 0, 0⟩ 0, .ack 0 ⟨0, 256, 0⟩ 0, .ack 0 ⟨0, 0, 4096⟩ 0] = true := by decide +kernel

theorem test_wf_refuses_body : refuses [.wrData 0 ⟨0, 0, 0⟩ (List.replicate 257 0), .msg 0 ⟨0, 0, 0⟩ 0 (List.replicate 249 0),
    .coreMessage 0 0 (List.replicate 249 0), .streamMark 0 ⟨0, 0, 0⟩ (List.replicate 129 0), .wr 0 ⟨0, 0, 0⟩ 0 (2 ^ 32),
    .fedCtrl 256 0 [], .fedForward true 8 0 0 ⟨0, 0, 0⟩ [], .streamOpen 0 ⟨0, 0, 0⟩ 0 256 0 0 0 false] = true := by decide +kernel

theorem test_wf_refuses_unit : refuses [.pdReqRaise 118, .pdTimeout 118, .unitWatchdog 0 8, .engineRung 0 8, .sharedUnitFailure 8,
    .substituteBank 0 16, .substituteWay 8 0, .substituteWay 0 16, .substituteGroup 32, .scrubComplete 32, .mgmtCoreWatchdog 4,
    .instanceLost 8, .viReset 2048, .reinSample 1 66 0 0 0, .reinSample 1 0 16 0 0] = true := by decide +kernel

theorem test_wf_refuses_adapter_slot : refuses [.prefetchFire 0 256 0, .prefetchFire 0 0 4, .panelPresent 0 256, .dmaTile 65 0,
    .dmaTile 0 8] = true := by decide +kernel

theorem test_wf_refuses_agent : refuses [.rds (.cluster 1 8) 0, .rdx (.priv 1 5) 0, .wb (.uncached 0 0) 0,
    .wrline (.cluster 1 0) 0 false (List.replicate 127 0), .uncwr (.cluster 1 0) 0 127 [0, 0],
    .atomicHome (.cluster 1 0) 0 128 .cas 0 0] = true := by decide +kernel

theorem test_wf_refuses_payload : refuses [.droopSample [0, 0, 0] false, .droopSample (List.replicate 8 64) false, .histogramInterval (some [0]),
    .nonce 1 0 0 (List.replicate 1025 0), .sealWrite 1 0 0 (List.replicate 1025 0), .challenge 0 0 (List.replicate 31 0), .challenge 0 8 (List.replicate 32 0),
    .getMeasurements 0 256 (List.replicate 32 0), .getCertificate 0 0 65536 0, .apertureAccess 0 4097 none,
    .apertureAccess 0 0 (some (List.replicate 4097 0)), .hostCompletion 256 true []] = true := by decide +kernel

theorem test_wf_accepts : ([.sliceRung 28, .engIssue 63 31 0 31, .doorbell 4095 0, .null 5 ⟨4095, 255, 4095⟩ 0 0, .rds (.priv 28 4) 7, .arm 1 7 255 0,
    .registerWrite (2 ^ 26 - 8) 8 0, .releaseStage, .controlProcessorAccess 63 (.csr 31 0xCC6 (some (.write, 31))), .controlProcessorAccess 0 (.custom 6 0),
    .challenge 0 7 (List.replicate 32 0)] : List Instr).all Instr.wf = true := by decide +kernel

/-! ### The queue -/

theorem test_reset_pending : State.reset.pending = [] := by decide +kernel

/-! ### States for the witnesses

One running block with slice 1 on cores 0 to 3, its context 16 and queues 0 to 7, and four bound endpoints; each witness changes the few fields it is
about. -/

def slice1 : Slice :=
  { Slice.reset with
    st := .active
    hold := { cores := 0b1111, groups := 0b110000, ways := 0b1111, ccache := 2, qFirst := 0, qCount := 8, contexts := 8, fences := 8, rtShare := 0, reserv := 0 }
    ctxr := { CtxRegs.reset with first := 16, count := 8, fenceFirst := 32, fenceCount := 8 }
    aptValid := true, aptKey := 0 }

def core1 (n : Nat) : Core := { Core.reset with owner := n, hart := { Hart.reset with halted := false, zhCtx := 16 } }

def b0 : Block :=
  { Block.reset with
    time := { TimeBase.reset with started := true, lock := .locked, count := 7, clk := 1000, mclk := 500, lastEdge := some 100 }
    start := { StartUp.reset with
      stage := 4, released := true, clusterEn := 0xFF, maxSlices := 28, instCount := 1, lead := true
      commons := [0, 1, 2, 3], memMib := (List.range 32).map fun g => (g, 1024) }
    life := { Life.reset with lcs := 4 }
    power := { Power.reset with
      on := (List.range 118).map fun d => (d, true), req := (List.range 118).map fun d => (d, true)
      ack := (List.range 118).map fun d => (d, true) }
    dict := { Dict.reset with
      bindings := [(0, { eid := 8, role := 1, slices := 0 }), (1, { eid := 9, role := 2, slices := 0 }),
        (2, { eid := 10, role := 3, slices := 2 }), (3, { eid := 11, role := 4, slices := 0 })] }
    recon := { Recon.reset with
      groupOwner := [(0, 31), (1, 31), (2, 31), (3, 31), (4, 1), (5, 1)]
      wayOwner := [(0, 1), (1, 1), (2, 1), (3, 1)], queueOwner := (List.range 8).map fun q => (q, 1) }
    keys := [(0, { holder := 1, gen := 2 }), (63, { holder := 0, gen := 1 })], keyGens := 2
    slices := [(1, slice1)], cores := (List.range 4).map fun c => (c, core1 1)
    ctxs := [(16, { Ctx.reset with st := .active, slice := 1, gen := 0, cached := some 1 })] }

/-- The running state, with the block changed by `f`. -/
def st (f : Block → Block) : State := { State.reset with b := f b0 }

def s0 : State := st id

/-! ### The time base -/

def atTime (f : TimeBase → TimeBase) : State := st fun b => b.modTime f

theorem witness_pulse_edge :
    (s0.b.start.stage ≠ 0 ∧ s0.b.time.lock = .locked ∧ s0.b.time.mgmtPhase < 0xFF00) ∧
    (let s := atTime fun t => { t with acc := 0xFF0000000000 }
     s.b.start.stage ≠ 0 ∧ 0xFF00 ≤ s.b.time.mgmtPhase) ∧
    (let s := atTime fun t => { t with edgeDue := true }
     s.b.start.stage ≠ 0 ∧ s.b.time.edgeDue = true ∧ s.b.time.lastEdge = some 100 ∧ appliedMsg s.b.time.accepted = none) ∧
    (let s := atTime fun t => { t with lock := .holdover }
     s.b.start.stage ≠ 0 ∧ s.b.time.lock ≠ .locked) := by decide +kernel

theorem witness_holdover :
    (let s := atTime fun t => { t with heldAt := some 400, inc := 2 ^ 34 }
     s.b.time.lock = .locked ∧ s.b.time.edgeDue = false ∧ s.b.time.heldAt = some 400 ∧
       400 + ceilDiv (s.b.time.grace * 2 ^ 32) s.b.time.inc ≤ s.b.time.mclk) ∧
    (let s := atTime fun t => { t with lock := .holdover, acc := 2 ^ 48 - 1 }
     s.b.time.lock = .holdover ∧ s.b.time.edgeDue = false ∧ 2 ^ 48 ≤ s.b.time.acc + s.b.time.inc) ∧
    (let s := atTime fun t => { t with ownDue := true }
     s.b.time.lock = .locked ∧ s.b.time.edgeDue = false ∧ s.b.time.ownDue = true) := by decide +kernel

/-- A timing message of 64 ms, at the phases and lengths where admission begins and ends. -/
def tm (len : Nat) : BitVec 128 := BitVec.ofNat 128 (len * 2 ^ 64 + 2 * 2 ^ 48 + 9)

/-- Whether a message on a port is admitted, as R96 has it. -/
def admits (s : State) (port : Nat) (w : BitVec 128) : Prop :=
  s.b.time.timingPorts.getLsbD port = true ∧ 0x8000 ≤ s.b.time.phase.toNat ∧ s.b.time.phase.toNat < 0xFF00 ∧
    2000000 ≤ (w.extractLsb' 64 32).toNat ∧ (w.extractLsb' 64 32).toNat ≤ 1000000000

theorem witness_timing_message :
    s0.b.start.stage ≠ 0 ∧
    admits (atTime fun t => { t with phase := 0x8000 }) 0 (tm 2000000) ∧ admits (atTime fun t => { t with phase := 0xFEFF }) 0 (tm 1000000000) ∧
    ¬ admits (atTime fun t => { t with phase := 0x7FFF }) 0 (tm 2000000) ∧ ¬ admits (atTime fun t => { t with phase := 0xFF00 }) 0 (tm 2000000) ∧
    ¬ admits (atTime fun t => { t with phase := 0x8000 }) 0 (tm 1999999) ∧ ¬ admits (atTime fun t => { t with phase := 0x8000 }) 0 (tm 1000000001) := by
  unfold admits; decide +kernel

theorem witness_phase_zero :
    let z (f : TimeBase → TimeBase) := atTime fun t => f { t with zeroDue := [(1000, 0xFF80)] }
    let m (e : BitVec 16) (n : BitVec 48) : TimeBase → TimeBase := fun t => { t with accepted := [{ port := 0, lenNs := 64000000, epoch := e, nextCount := n }] }
    ((z id).b.time.zeroDue = (1000, 0xFF80) :: [] ∧ 1000 ≤ (z id).b.time.clk ∧ (z id).b.time.started = true ∧ appliedMsg (z id).b.time.accepted = none) ∧
    (z fun t => { t with started := false }).b.time.started = false ∧
    ((z (m 0 8)).b.time.count.toNat < (8 : BitVec 48).toNat ∧ appliedMsg (z (m 0 8)).b.time.accepted ≠ none) ∧
    ((2 : BitVec 16) ≠ (z (m 2 7)).b.time.epoch ∧ appliedMsg (z (m 2 7)).b.time.accepted ≠ none) ∧
    (¬ ((z (m 0 7)).b.time.count.toNat < (7 : BitVec 48).toNat ∨ (0 : BitVec 16) ≠ (z (m 0 7)).b.time.epoch) ∧
      appliedMsg (z (m 0 7)).b.time.accepted ≠ none) := by decide +kernel

/-- A reconfiguration window, the phase and the windows that stand open. -/
def withWindow (phase : BitVec 16) (d : Dword) (open_ : List (WindowId × Nat)) : State :=
  { s0 with b := (s0.b.modTime fun t => { t with phase := phase, windows := open_ }).modRecon fun r => { r with window := d } }

theorem witness_windows :
    (let s := withWindow 0x80 (BitVec.ofNat 64 (0x80 * 2 ^ 48 + 0x8000 * 2 ^ 32 + 2 ^ 16)) []
     s.b.time.started = true ∧ winActive (s.b.windowDesc .reconf) s.b.time.count.toNat = true ∧ winStart (s.b.windowDesc .reconf) ≤ s.b.phaseNow ∧
       s.b.phaseNow < winEnd (s.b.windowDesc .reconf) ∧ ∀ x ∈ s.b.time.windows, x.1 ≠ WindowId.reconf) ∧
    (let s := withWindow 0x8000 (BitVec.ofNat 64 (0x8000 * 2 ^ 32 + 2 ^ 16)) [(.reconf, 7)]
     (∃ x ∈ s.b.time.windows, x.1 = WindowId.reconf) ∧ winEnd (s.b.windowDesc .reconf) ≤ s.b.phaseNow) := by decide +kernel

/-! ### The Parade -/

def atParade (f : Parade → Parade) : State := st fun b => b.modParade f

/-- A run of two tiles from the first commons channel group. -/
def run1 : Run :=
  { seg := 0, fmt := 0, tileFirst := 0, count := 2, start := 0, stop := 0x8000, spacing := 2052, inner := 1, srcBase := 0, innerStep := 2052, outerStep := 2052 }

def map1 : SweepMap := { SweepMap.reset with groups := 4, baseBytes := 8192, runs := [run1] }

def runSt : RunSt := { idx := 0, run := run1, stride := 7, startClk := 900, next := 0, slip := 0, late := false }

/-- A sweep map of one run as it arrives (R117). -/
def mapBytes : List Byte :=
  toLe 8 (2 ^ 48 + 4 * 2 ^ 40 + 1) ++ toLe 8 8192 ++ toLe 48 0 ++ toLe 8 2 ++ toLe 8 (0x8000 * 2 ^ 32 + 2052 * 2 ^ 12) ++ toLe 8 (2 ^ 40) ++
    toLe 8 (2052 * 2 ^ 32 + 2052)

def stagedMap (l : List Byte) : Staged := { switchAt := 9, future := true, left := 0, bytes := l, ready := none, readyLate := false }

theorem witness_base_image :
    (Admitted s0.b 8 0x3030 1 [1] ∧ s0.b.start.stage = 4 ∧ s0.b.life.rngFault = false ∧ s0.b.parade.st = .empty) ∧
    (let l : BaseLoad := { left := 0, written := 8192, fetched := true }
     let s := atParade fun p => { p with st := .loading, load := some l }
     s.b.parade.load = some l ∧ s.b.parade.st = .loading ∧ l.fetched = true) ∧
    Admitted s0.b 8 0x3012 1 (toLe 8 9) := by unfold Admitted; decide +kernel

theorem witness_staged_map :
    (let s := atParade fun p => { p with staged := some (stagedMap []) }
     s.b.parade.staged = some (stagedMap []) ∧ (stagedMap []).left = 0 ∧ (stagedMap []).ready = none ∧ (mapOf s.b.start.commons.length []).2 ≠ 0) ∧
    (let s := atParade fun p => { p with staged := some (stagedMap mapBytes), map := { map1 with commonsDigest := 0 } }
     let m := mapOf s.b.start.commons.length mapBytes
     m.2 = 0 ∧ m.1.baseBytes = s.b.parade.map.baseBytes ∧ m.1.commonsDigest = s.b.parade.map.commonsDigest) := by decide +kernel

/-- A running Parade on `map1` with a run under way and its first tile whole in the lookahead buffer. -/
def emitting (rs : RunSt) (f : Parade → Parade) : State :=
  atParade fun p => f { p with st := .running, map := map1, run := some rs, nextRun := 1
                               look := [{ runIdx := 0, size := 2052, missing := [], bad := [], ready := 800 }] }

theorem witness_runs_and_tiles :
    (let s := atParade fun p => { p with st := .verified, map := map1 }
     s.b.parade.map.runs[s.b.parade.nextRun]? = some run1 ∧ s.b.paradeLive = true ∧ s.b.gated = false ∧ s.b.parade.run = none ∧
       run1.start ≤ s.b.phaseNow ∧ s.b.phaseNow < run1.start + s.b.parade.overrunLimit ∧ s.b.earlier s.fuse 6 = false) ∧
    (let rs := { runSt with stride := 6 }
     let s := emitting rs id
     s.b.parade.run = some rs ∧ rs.next = 0 ∧ rs.stride ≠ s.b.time.count.toNat) ∧
    (let s := atParade fun p => { p with st := .verified, map := { map1 with runs := [{ run1 with start := 0 }] }, overrunLimit := 0 }
     s.b.parade.map.runs[s.b.parade.nextRun]? = some run1 ∧ s.b.paradeLive = true ∧
       run1.start + s.b.parade.overrunLimit ≤ s.b.phaseNow ∧ s.b.parade.run = none) ∧
    (let s := emitting runSt id
     s.b.parade.run = some runSt ∧ s.b.gated = false ∧ s.b.firstTooLate runSt = false ∧ s.b.parade.readyTile runSt = some 800 ∧
       max (runSt.startClk + runSt.next * runSt.run.spacing / 512 + runSt.slip)
         (max 800 (s.b.parade.emitPrev + ceilDiv s.b.parade.bytesPrev 2048)) ≤ s.b.time.clk ∧ s.b.parade.failedGroups = [] ∧ runSt.stride = s.b.time.count.toNat ∧
       runSt.next + 1 ≠ runSt.run.count) ∧
    (let rs := { runSt with next := 1, slip := 3 }
     let s := emitting rs id
     s.b.parade.run = some rs ∧ s.b.gated = false ∧ s.b.firstTooLate rs = false ∧ s.b.parade.readyTile rs = some 800 ∧
       max (rs.startClk + rs.next * rs.run.spacing / 512 + rs.slip) (max 800 (s.b.parade.emitPrev + ceilDiv s.b.parade.bytesPrev 2048)) ≤
         s.b.time.clk ∧ rs.next + 1 = rs.run.count) ∧
    (let rs := { runSt with startClk := 1001 }
     let s := emitting rs id
     s.b.parade.run = some rs ∧ s.b.gated = false ∧ s.b.firstTooLate rs = false ∧ s.b.parade.readyTile rs = some 800 ∧
       s.b.time.clk < max (rs.startClk + rs.next * rs.run.spacing / 512 + rs.slip)
         (max 800 (s.b.parade.emitPrev + ceilDiv s.b.parade.bytesPrev 2048))) := by decide +kernel

/-! ### The engines -/

/-- The fields of an op descriptor that the witnesses set (R69). -/
structure OpDesc where
  op     : Nat := 0
  sf     : Nat := 0
  rf     : Nat := 0
  of     : Nat := 0
  rsrc   : Nat := 0
  bank   : Nat := 0
  acc    : Nat := 0
  adapt  : Nat := 0
  rows   : Nat := 0
  tiles  : Nat := 0
  w1     : Nat := 0
  w2     : Nat := 0
  w4     : Nat := 0
  w6     : Nat := 0
  w9     : Nat := 0
  strP   : Nat := 0
  outP   : Nat := 0
  resP   : Nat := 0

/-- Its sixteen words. -/
def OpDesc.words (x : OpDesc) : List Dword :=
  ([x.op * 2 ^ 60 + x.sf * 2 ^ 57 + x.rf * 2 ^ 54 + x.of * 2 ^ 51 + x.rsrc * 2 ^ 49 + x.bank * 2 ^ 48 + x.acc * 2 ^ 46 + x.adapt * 2 ^ 43 +
      x.rows * 2 ^ 32 + x.tiles, x.w1, x.w2, 0, x.w4, 0, x.w6, 0, 0, x.w9, 0, x.strP * 2 ^ 40 + x.outP * 2 ^ 16, x.resP * 2 ^ 8, 0, 0, 0] : List Nat).map
    (BitVec.ofNat 64)

/-- An op of context 16 in its queue. -/
def op0 (d : OpDesc) : EOp :=
  { ticket := 1, desc := d.words, ctx := 16, issuer := .hart none, label := 0, srCtr := none, histFloor := none, tags := none, mask := none, seq := 1
    phase := .queued, headChecked := false, tile := 0, armedAt := none, waitCounted := false, downDone := true, upDone := true, baseAt := 0
    doneAt := 0, codes := [], missedSlots := [], sent := [] }

def zeroRows : OpDesc := { op := 4, rows := 3 }
def loadRows : OpDesc := { op := 3, rows := 2, acc := 2, w6 := 0x10000, outP := 64, bank := 1 }
def writeRows : OpDesc := { op := 2, rows := 2, of := 4, w4 := 0x40000, outP := 64 }
def product : OpDesc := { op := 1, sf := 3, rf := 3, of := 7, rows := 2, tiles := 2, w1 := 0x20000, w2 := 0x10000, strP := 64, resP := 64 }
def paradeOp : OpDesc := { op := 1, of := 7, rows := 2, tiles := 1, rsrc := 1, w1 := 5, w2 := 0x10000, strP := 2176 }

/-- The scratchpad of core 0 with bytes written, and its engine 0 changed. -/
def sc (a : Nat) (bs : List Byte) (s : State) : State := { s with b := s.b.modCore 0 fun c => { c with scratch := c.scratch.writeN a bs } }
def en (f : Engine → Engine) (s : State) : State := { s with b := s.b.modEng 0 0 f }
def queued (o : EOp) (s : State := s0) : State := en (fun e => { e with queue := [o], issued := 1 }) s
def active (o : EOp) (s : State := s0) : State := en (fun e => { e with active := [o], issued := 1 }) s

def placement (gen : Word) : Placement := { desc := 0x1000, ctx := 16, issuer := .hart none, label := 0, gen := gen }
def placed (d : OpDesc) (gen : Word := 0) : State :=
  en (fun e => { e with arrivals := [placement gen] }) (sc 0x1000 (d.words.flatMap fun w => toLe 8 w.toNat) s0)

theorem witness_op_accept :
    (let s := placed zeroRows
     let d := s.b.readDesc 0 0x1000
     (s.b.eng 0 0).arrivals = [placement 0] ∧ (∀ e, e < 0 → s.b.acceptsNow 0 e = false) ∧ (placement 0).gen = (s.b.core 0).roleGen ∧ (s.b.eng 0 0).queue.length < 16 ∧
       s.b.turnHeld 0 0 16 (dAdapt d) = false ∧ s.b.gated = false ∧ s.b.reservedEng (s.b.core 0).owner 0 0 = false ∧
       Met s.b (fun b => b.frontAccept 0 0) ∧ opCheck d (s.b.parade.map.minSp (dSeg d)) = 0 ∧ dMask d = false) ∧
    (let d := (placed { zeroRows with rows := 65 }).b.readDesc 0 0x1000
     opCheck d (s0.b.parade.map.minSp (dSeg d)) ≠ 0) ∧
    (let s : State := { s0 with b := s0.b.modEng 0 1 fun e => { e with arrivals := [placement 1] } }
     (s.b.eng 0 1).arrivals = [placement 1] ∧ (∀ e, e < 1 → s.b.acceptsNow 0 e = false) ∧ s.b.gated = false ∧
       (placement 1).gen ≠ (s.b.core 0).roleGen) := by unfold Met; decide +kernel

/-- The tree carries one tile that left the root at clock 980; the armed op of engine 0 is for it. -/
def tile0 : TileMsg := { seg := 0, tile := 5, fmt := 0, bytes := [1], seqNo := 1, clk := 980 }
def armedOp : EOp := { op0 paradeOp with headChecked := true, armedAt := some 990 }
def treeState (s : State) : State :=
  { s with b := s.b.modParade fun p => { p with tree := [tile0], map := { map1 with runs := [{ run1 with count := 20 }] } } }

theorem witness_parade_op :
    (let s := queued (op0 paradeOp)
     (s.b.eng 0 0).queue = [op0 paradeOp] ∧ dOpcode (op0 paradeOp).desc = 1 ∧ dRsrc (op0 paradeOp).desc = true ∧ (op0 paradeOp).headChecked = false ∧
       s.b.parade.map.covers 0 5 1 = false ∧ (treeState s).b.parade.map.covers 0 5 1 = true ∧ dSeg (op0 paradeOp).desc = 0 ∧
       dTileFirst (op0 paradeOp).desc = 5 ∧ dTiles (op0 paradeOp).desc = 1) ∧
    (let s := treeState (queued armedOp)
     let e := s.b.eng 0 0
     s.b.gated = false ∧ s.b.parked = false ∧ (s.b.parade.tree.find? fun t => e.seen < t.seqNo) = some tile0 ∧ e.catcher tile0 = some armedOp ∧
       armedOp.tile = 0 ∧ tile0.clk + 20 ≤ s.b.time.clk ∧ tile0.fmt = dRfmt armedOp.desc ∧ armedOp.armedAt.getD 0 ≤ tile0.clk + 20 ∧ e.nextTile = []) ∧
    (let o := { op0 { paradeOp with w1 := 4, tiles := 2 } with phase := .running, tile := 1 }
     let s := treeState (active o)
     let e := s.b.eng 0 0
     (s.b.parade.tree.find? fun t => e.seen < t.seqNo) = some tile0 ∧ e.catcher tile0 = some o ∧ o ∈ e.active ∧
       tile0.fmt = dRfmt o.desc ∧ e.nextTile = []) := by decide +kernel

theorem witness_capture_meets_its_lines :
    Met (treeState (queued armedOp)).b (fun b => b.tileArrives 0 0) := by unfold Met; decide +kernel

theorem witness_bank_zero_or_load :
    ((queued (op0 zeroRows)).b.headOp 0 0 4 = some (op0 zeroRows) ∧ ((queued (op0 zeroRows)).b.eng 0 0).active = []) ∧
    ((queued (op0 loadRows)).b.headOp 0 0 3 = some (op0 loadRows) ∧ ((queued (op0 loadRows)).b.eng 0 0).active = []) := by decide +kernel

theorem witness_loadacc_meets_its_lines :
    Met (queued (op0 loadRows)).b (fun b => b.startLoadacc 0 0 (op0 loadRows)) := by unfold Met; decide +kernel

theorem witness_op_order :
    (let o := op0 product
     (queued o).b.headOp 0 0 1 = some o ∧ dRsrc o.desc = false ∧ ∀ p ∈ ((queued o).b.eng 0 0).active ++ ((queued o).b.eng 0 0).queue.drop 1, p.ticket ≠ o.ticket) ∧
    (let o := { op0 paradeOp with headChecked := true }
     (queued o).b.headOp 0 0 1 = some o ∧ dRsrc o.desc = true ∧ o.onRows ≠ [] ∧ o.armedAt = none) ∧
    ((queued (op0 writeRows)).b.headOp 0 0 2 = some (op0 writeRows) ∧ (op0 writeRows).upDone = true) ∧
    (let o := { op0 product with phase := .written }
     let e := (active o).b.eng 0 0
     (e.active.find? fun p => p.ticket == (e.done + 1).toNat) = some o ∧ o.downDone = true ∧ o.doneAt ≤ (active o).b.time.clk ∧
       (active o).b.unanswered o = false ∧ (active o).b.gated = false ∧
       e.refused = []) := by decide +kernel

theorem witness_matmul_meets_its_lines :
    Met (queued (op0 product)).b (fun b => b.startMatmul 0 0 (op0 product)) := by unfold Met; decide +kernel

theorem witness_armed_matmul_meets_its_lines :
    let o := { op0 paradeOp with headChecked := true }
    Met (queued o).b (fun b => b.startMatmul 0 0 o) := by unfold Met; decide +kernel

theorem witness_writeout_meets_its_lines :
    Met (queued (op0 writeRows)).b (fun b => b.startWriteout 0 0 (op0 writeRows)) := by unfold Met; decide +kernel

/-- An op whose second tile stands in NEXT. -/
def resident : EOp := { op0 { product with tiles := 2, rows := 1 } with phase := .running, tile := 1 }
def withNext : State := en (fun e => { e with nextTile := [1, 2], nextOp := some 1, cur := [] }) (active resident)

theorem witness_rows_accumulate :
    withNext.b.parked = false ∧ withNext.b.gated = false ∧ (withNext.b.eng 0 0).nextOwner = some resident ∧ (withNext.b.eng 0 0).nextTile ≠ [] ∧
      resident.tile < dTiles resident.desc ∧ 0 ∈ resident.onRows ∧ resident.on 0 63 = true := by decide +kernel

theorem witness_rows_meet_their_lines : Met withNext.b (fun b => b.residentMove 0 0) := by unfold Met; decide +kernel

/-! ### The adapter unit -/

def tags0 (down up : Bool) : TagBlock :=
  { down := down, up := up, uBase := 4, downIndex := 7, upIndex := 9, rows := [0x80300010, 0x00300010, 0x80300010, 0x80400010] }
def bound0 : Binding := { ctx := 16, fmt := 3, rc64 := false, users := 2, alpha := 0x40000000, missLimit := 5, frameBase := 2, frames := 4 }
def adaptOp (down up : Bool) : EOp :=
  { op0 { product with rows := 4, of := 4, w4 := 0x40000, adapt := 1, w9 := 0x30000 } with phase := .running, tags := some (tags0 down up), downDone := !down, upDone := !up }
def step0 (up transposed : Bool) : Step :=
  { seq := 1, eng := 0, ticket := 1, up := up, transposed := transposed, t := 0, missed := [], busy := 0, busyEnd := 0, started := false
    arithDone := false, doneAt := 0, waits := [], uRows := [], part := [] }
def panel (i frame : Nat) : Panel := { index := i, uses := 0, frame := frame }
def pref0 : Pref :=
  { seq := 4, loop := true, seg := 0, cls := 2, tile := 0, lead := 0, first := 7, count := 3, src := 0x20000, pitch := 4224, fireAt := some 0, once := false, firedIn := none }
def fire0 : Fire := { id := 1, at_ := 900, slot := 3, pref := pref0, next := 1 }
def adapting (o : EOp) (sts : List Step) (ps : List Panel) (f : Adapter → Adapter := id) : State :=
  let s := active o
  { s with b := s.b.modAdapter 0 fun a => f { a with seq := 1, steps := sts, slots := [(3, { Slot.reset with bound := some bound0, panels := ps })] } }

theorem witness_adapter_step :
    ([false, true].all fun tr =>
      (adapting (adaptOp true false) [step0 false tr] [panel 7 0]).b.nextStep 0 == some (step0 false tr, adaptOp true false) &&
        (adapting (adaptOp false true) [step0 true tr] [panel 9 1]).b.nextStep 0 == some (step0 true tr, adaptOp false true)) = true ∧
    s0.b.parked = false ∧ s0.b.gated = false ∧ (s0.b.core 0).adapter.busyTo ≤ s0.b.time.clk := by decide +kernel

/-- The step meets no line that is still to come. -/
def stepMet (down up tr : Bool) (idx frame : Nat) : Bool :=
  ((adapting (adaptOp down up) [step0 up tr] [panel idx frame]).b.noWants.takeStep 0 (step0 up tr) (adaptOp down up)).ports.wanted.isEmpty

theorem witness_down_step_meets_its_lines : stepMet true false false 7 0 = true := by decide +kernel
theorem witness_up_step_meets_its_lines : stepMet false true false 9 1 = true := by decide +kernel
theorem witness_transposed_down_meets_its_lines : stepMet true false true 7 0 = true := by decide +kernel
theorem witness_transposed_up_meets_its_lines : stepMet false true true 9 1 = true := by decide +kernel

theorem witness_adapter_step_end :
    (let o := adaptOp true false
     let d := { step0 false false with arithDone := true }
     let s := adapting o [d] [panel 7 0]
     s.b.doneStep 0 = some (d, o) ∧ o.tags = some (tags0 true false) ∧ (0, 0x80300010) ∈ o.rowTags ∧
       ((s.b.core 0).adapter.slot (tagSlot 0x80300010)).bound = some bound0 ∧ bound0.ctx = tagCtx 0x80300010 ∧
       d.missed.contains (tagSlot 0x80300010) = false ∧ Met s.b (fun b => b.stepEnds 0 d o)) ∧
    (let o := adaptOp false true
     let d := { step0 true false with arithDone := true }
     let s := adapting o [d] [panel 9 1]
     s.b.doneStep 0 = some (d, o) ∧ o.phase ≠ .baseDone ∧ 0 ∈ (s.b.core 0).adapter.upRows o d ∧
       Met s.b (fun b => b.stepEnds 0 d o)) := by unfold Met; decide +kernel

theorem witness_panels :
    (let s := adapting (adaptOp true false) [step0 false false] [] fun a => a.modSlot 3 fun x => { x with prefs := [pref0] }
     ((s.b.core 0).adapter.slot 3).prefs[0]? = some pref0 ∧ pref0.fireAt = some s.b.phaseNow ∧ pref0.once = false ∧
       pref0.firedIn ≠ some s.b.time.count.toNat ∧ s.b.gated = false ∧ s.b.earlier s.fuse 8 = false) ∧
    (let s := adapting (adaptOp true false) [step0 false false] [] fun a => { a with fires := [fire0] }
     (s.b.core 0).adapter.portFire [] (s.b.core 0).adapter.fires = some fire0 ∧ ((s.b.core 0).adapter.slot fire0.slot).bound = some bound0 ∧
       ((s.b.core 0).adapter.slot fire0.slot).freeFrame = some 0) ∧
    (let d := { step0 false false with started := true, waits := [(3, 5)] }
     let s := adapting (adaptOp true false) [d] []
     (s.b.core 0).waitingStep 3 = some (d, adaptOp true false) ∧ (s.b.core 0).waitedOut 3 d = true) := by decide +kernel

theorem witness_panel_meets_its_lines :
    Met (adapting (adaptOp true false) [step0 false false] [] fun a => { a with fires := [fire0] }).b
      (fun b => b.panelArrives 0 fire0 bound0 0) := by unfold Met; decide +kernel

/-! ### The vector unit -/

def vecWord (op vd va vb vc pred imm : Nat) : Nat :=
  op * 2 ^ 56 + vd * 2 ^ 51 + va * 2 ^ 46 + vb * 2 ^ 41 + vc * 2 ^ 36 + pred * 2 ^ 33 + imm
def prog0 : VProg := { ticket := 1, pc := 0x2000, ctx := 16, label := 0, codes := [] }

/-- Core 0 runs a program whose next instruction is `w`. -/
def vecState (w : Nat) : State :=
  let s := sc 0x2000 (toLe 8 w) s0
  { s with b := s.b.modVec 0 fun v => { v with run := some prog0, issued := 1 } }

/-- The hypotheses about the next vector instruction. -/
def vecNext (s : State) (op : Nat) : Bool :=
  (s.b.core 0).vec.run == some prog0 && !s.b.parked && !s.b.gated && !(s.b.core 0).badAt prog0.pc 8 && viOp ((s.b.core 0).rdS64 prog0.pc) == op

theorem witness_vector_lanes :
    ([0x10, 0x11, 0x12, 0x13, 0x14, 0x15, 0x16, 0x17, 0x18, 0x1A, 0x1B, 0x20, 0x21].all fun op => vecNext (vecState (vecWord op 3 0 1 7 1 0)) op) = true ∧
    viVC (vecWord 0x1A 3 0 1 7 1 0) = 7 := by decide +kernel

/-- The instruction word `w` of opcode `op` stands at the running program's pc and breaks the field rule given. -/
def stops (op w : Nat) (bad : Vec → Nat → Bool) : Bool :=
  let s := vecState w
  vecNext s op && bad (s.b.core 0).vec ((s.b.core 0).rdS64 prog0.pc)

theorem witness_vector_programs :
    (let s : State := { s0 with b := s0.b.modVec 0 fun v => { v with queue := [prog0] } }
     (s.b.core 0).vec.run = none ∧ (s.b.core 0).vec.queue = [prog0] ∧ s.b.parked = false ∧ s.b.gated = false) ∧
    (vecNext (vecState (vecWord 0x3F 0 0 0 0 0 0)) 0x3F = true ∧
      prog0.ticket = (((vecState (vecWord 0x3F 0 0 0 0 0 0)).b.core 0).vec.done + 1).toNat) ∧
    (vecNext (vecState (vecWord 8 7 0 0 0 0 1)) 8 = true ∧ viVD (vecWord 8 7 0 0 0 0 1) = 7) ∧
    (vecNext (vecState (vecWord 0x19 1 0 1 0 1 0)) 0x19 = true ∧ vecNext (vecState (vecWord 0x19 7 0 1 0 1 0)) 0x19 = true) ∧
    stops 1 (vecWord 1 3 0 0 0 0 (0x300000 - 2048 + 128)) (fun _ w => 0x300000 < viImm w + 2048) = true ∧
    stops 1 (vecWord 1 3 0 0 0 0 64) (fun _ w => viImm w % 128 != 0) = true ∧
    stops 2 (vecWord 2 3 0 0 0 0 64) (fun v w => !storeOk v w (viImm w) 4) = true ∧
    stops 3 (vecWord 3 3 0 0 0 0 (0x300000 - 1024 + 128)) (fun _ w => 0x300000 < viImm w + 1024) = true ∧
    stops 4 (vecWord 4 3 0 0 0 0 64) (fun v w => !storeOk v w (viImm w) 2) = true ∧
    stops 5 (vecWord 5 3 7 0 0 0 64) (fun _ w => (narrowImm w).isNone) = true ∧
    stops 5 (vecWord 5 3 8 0 0 0 (2 ^ 31 + 0x10080)) (fun _ w => 8 ≤ viVA w) = true ∧
    stops 6 (vecWord 6 3 7 0 7 0 64) (fun v w => (narrowStore v w).isNone) = true ∧
    stops 6 (vecWord 6 3 8 0 7 0 (2 ^ 31 + 0x10080)) (fun _ w => 8 ≤ viVA w) = true ∧
    stops 6 (vecWord 6 3 7 0 8 0 (2 ^ 31 + 0x10080)) (fun _ w => 8 ≤ viVC w) = true ∧
    stops 8 (vecWord 8 8 0 0 0 0 1) (fun _ w => 8 ≤ viVD w) = true ∧
    stops 0x19 (vecWord 0x19 0 0 1 0 1 0) (fun _ w => viVD w == 0) = true ∧ stops 0x19 (vecWord 0x19 8 0 1 0 1 0) (fun _ w => 8 ≤ viVD w) = true ∧
    stops 0x1A (vecWord 0x1A 3 0 1 8 1 0) (fun _ w => 8 ≤ viVC w) = true ∧
    stops 0x30 (vecWord 0x30 3 8 7 0 0 1) (fun _ w => 8 ≤ viVA w) = true ∧ stops 0x30 (vecWord 0x30 3 7 8 0 0 1) (fun _ w => 8 ≤ viVB w) = true ∧
    stops 0x30 (vecWord 0x30 3 7 7 0 0 2) (fun _ w => 2 ≤ viImm w) = true ∧
    stops 0x31 (vecWord 0x31 3 0 1 2 1 64) (fun _ w => viImm w % 128 != 0) = true ∧
    stops 0x31 (vecWord 0x31 3 0 1 2 1 0x300000) (fun _ w => 0x300000 < viImm w + 64) = true ∧
    stops 0x32 (vecWord 0x32 3 0 1 0 1 64) (fun _ w => viImm w % 128 != 0) = true ∧
    stops 0x32 (vecWord 0x32 3 0 1 1 1 (0x300000 - 128)) (fun _ w => viVC w != 0) = true := by decide +kernel

theorem witness_vector_memory :
    (vecNext (vecState (vecWord 1 3 0 0 0 1 (0x300000 - 2048))) 1 = true ∧ (0x300000 - 2048) % 128 = 0) ∧
    (vecNext (vecState (vecWord 3 3 0 0 0 1 (0x300000 - 1024))) 3 = true ∧ (0x300000 - 1024) % 128 = 0) ∧
    stops 2 (vecWord 2 3 0 0 0 1 (0x300000 - 2048)) (fun v w => storeOk v w (viImm w) 4) = true ∧
    stops 2 (vecWord 2 3 0 0 0 1 (0x300000 - 128)) (fun v w => storeOk v w (viImm w) 4) = true ∧
    stops 4 (vecWord 4 3 0 0 0 1 (0x300000 - 1024)) (fun v w => storeOk v w (viImm w) 2) = true ∧
    stops 5 (vecWord 5 3 7 0 0 1 (2 ^ 31 + 0x10080)) (fun _ w => (narrowImm w).isSome && viVA w < 8) = true ∧
    stops 6 (vecWord 6 3 7 0 7 1 (2 ^ 31 + 0x10080)) (fun v w => (narrowStore v w).isSome && viVA w < 8 && viVC w < 8) = true := by
  decide +kernel

theorem witness_optimiser :
    vecNext (vecState (vecWord 0x31 3 0 1 2 1 (0x300000 - 128))) 0x31 = true ∧
    (vecNext (vecState (vecWord 0x32 3 0 1 0 1 (0x300000 - 128))) 0x32 = true ∧ (0x300000 - 128) % 128 = 0) ∧
    vecNext (vecState (vecWord 0x30 3 7 7 0 0 1)) 0x30 = true := by decide +kernel

theorem witness_narrow_load_meets_its_lines :
    (let w := vecWord 5 3 7 0 0 1 (2 ^ 31 + 0x10080)
     Met (vecState w).b fun b => b.vecNext 0 prog0 (b.vldn 0 prog0 w)) := by unfold Met; decide +kernel

theorem witness_narrow_store_meets_its_lines :
    (let w := vecWord 6 3 7 0 7 1 (2 ^ 31 + 0x10080)
     Met (vecState w).b fun b => b.vecNext 0 prog0 (b.vstn 0 prog0 w)) := by unfold Met; decide +kernel

/-- Lanes 0 to 511 on, the scales of a narrow store at 0 and its record at 256. -/
theorem witness_narrow_store_in_the_scratchpad :
    (let w := vecWord 6 3 6 0 7 0 (2 ^ 31 + 0x10080)
     let s : State := { vecState w with b := (vecState w).b.modVec 0 fun v => { v with a := [(7, 256)] } }
     let v := (s.b.core 0).vec
     vecNext s 6 = true ∧ (narrowStore v w).map (·.2) = some 0x10080 ∧ groupsOn v w ≠ [] ∧ viVA w < 8 ∧ viVC w < 8 ∧ viVC w ≠ 0 ∧
       (v.areg (viVA w)).toNat = 0 ∧ (v.areg (viVC w)).toNat = 256 ∧ awWindow 0 = false ∧ awWindow 256 = false ∧
       awOff 0 + 16 ≤ 0x10080 ∧ awOff 256 + 8 ≤ 0x10080 ∧ awOff 0 + 16 ≤ awOff 256) := by decide +kernel

theorem witness_vscupd_meets_its_lines :
    (let w := vecWord 0x30 3 7 7 0 0 1
     Met (vecState w).b fun b => b.vecNext 0 prog0 (b.vscupd 0 prog0 w)) := by unfold Met; decide +kernel

/-! ### The control processors -/

/-- Core 0 runs, in user mode unless `f` says otherwise. -/
def hartState (f : Hart → Hart) : State :=
  { s0 with b := s0.b.modHart 0 fun h => f { h with machine := false, x := [(5, 2), (6, 0x1000), (7, 5), (8, 3), (9, 4)], csr := [(0x305, 0x80001)], pc := 0x400 } }
def launch0 : Launch := { queue := 1, entry := 2, pc := 0x400, arg := 3, ctx := 16, resetReq := false, resetAt := 0, code := none, gen := none }

theorem witness_hart_dispatch :
    HartRuns (hartState id).b 0 ∧
    (let h := ((hartState id).b.core 0).hart
     dfld (h.reg 9) 2 0 = 4 ∧ dfld (h.reg 7) 2 0 = 5 ∧ ticketDone ((hartState id).b.unitDone 0 4) (dfld (h.reg 0) 15 0) = true ∧
       ticketDone ((hartState id).b.unitDone 0 4) (dfld (h.reg 5) 15 0) = false) ∧
    ((hartState id).b.core 0).ownDone = true ∧
    (let s := queued (op0 zeroRows) (hartState id)
     HartRuns s.b 0 ∧ (s.b.core 0).ownDone = false) := by unfold HartRuns; decide +kernel

theorem witness_issue :
    HartRuns (hartState id).b 0 ∧
    (let h := ((hartState id).b.core 0).hart
     dfld (h.reg 8) 2 0 = 3 ∧ (hartState id).b.issueWaits 0 (dfld (h.reg 8) 2 0) (dfld (h.reg 6) 21 0) h.zhCtx = false ∧
       (hartState id).b.vecWaits 0 h.zhCtx = false ∧
       Met (hartState id).b (fun b => b.acceptOp 0 (dfld (h.reg 8) 2 0) (dfld (h.reg 6) 21 0) h.zhCtx (.hart h.launchQ) (b.hartLabel 0))) := by
  unfold HartRuns Met; decide +kernel

theorem witness_launch_note_fault :
    (let s := hartState fun h => { h with machine := true, launch := some launch0 }
     HartRuns s.b 0 ∧ (s.b.core 0).hart.machine = true ∧ (s.b.core 0).hart.launch = some launch0 ∧ launch0.code = none) ∧
    (HartRuns (hartState id).b 0 ∧ ((hartState id).b.core 0).hart.machine = false) ∧
    (hartState id).b.cpFails 0 0x300000 false = true ∧ (hartState id).b.cpFails 0 0x300000 true = true := by unfold HartRuns; decide +kernel

/-! ### Memory with page tables, queues and commands -/

/-- The first global address of slice 1's channel groups 4 and 5 (R200). -/
def base1 : Nat := 4 * 2 ^ 37

/-- A line of slice 1's memory, written whole with the words given. -/
def line (off : Nat) (ws : List Nat) (s : State) : State :=
  { s with b := s.b.wrOwn 1 (base1 + off) ((ws.flatMap (toLe 8) ++ List.replicate 128 0).take 128) }

/-- Context 16 has page tables that map pages 0x40 to 0x42, a window table and a heap of eight pages. -/
def sM : State :=
  let s := line 0x100000 [base1 + 0x101001] <| line 0x101000 [base1 + 0x102001] <| line 0x102000 [base1 + 0x103001] <|
    line 0x103000 [0, 0, base1 + 0x104001] <| line 0x104000 [base1 + 0x200000 + 13, base1 + 0x210000 + 13, base1 + 0x220000 + 9] s0
  { s with b := s.b.modCtx 16 fun c =>
      { c with ptRoot := base1 + 0x100000, winTable := base1 + 0x105000, heapBase := 0x500000, heapPages := 8, heapMap := base1 + 0x106000, allocVa := 0x7000000 } }

def queue1 : Queue :=
  { Queue.reset with
    ringBase := base1 + 0x140000, ringLog2 := 4, enable := true, st := .idle, cls := 1, ctx := 16, head := 5, tail := 5, done := 5, label := 3 }
def withQueue (x : Queue) (s : State := sM) : State := { s with b := s.b.modQueue 1 fun _ => x }

/-- Entry 5 of queue 1: an opcode and the words from word 4 on. -/
def cmd (op : Nat) (w : List Nat) : Cmd :=
  { k := 5, ctx := 16, label := 3, words := (op * 2 ^ 56 :: 0 :: 0 :: 0 :: w).map (BitVec.ofNat 64), started := false, finished := false
    completed := false, placed := 0, tickets := [], gen := none, progress := 0 }

/-- Queue 1 holds the command, and the arbiter has granted it. -/
def granted (c : Cmd) (s : State := sM) : State :=
  let s := withQueue { queue1 with cmds := [c], head := 6, tail := 6 } s
  { s with b := s.b.modSlice 1 fun x => { x with arb := { x.arb with granted := some (1, 5) } } }
def withFence (f : Fence) (s : State := sM) : State := { s with b := s.b.modFence 33 fun _ => f }
def fence7 : Fence := { Fence.reset with setUp := true, owner := 16, value := 7 }

/-- The hypotheses about a granted command that has not started. -/
def isGranted (s : State) (c : Cmd) (opcode : Nat) : Bool :=
  s.b.queueOwner 1 == 1 && (s.b.slice 1).arb.granted == some (1, c.k) && s.b.cmdOf 1 c.k == some c && c.opcode == opcode && !c.started && !c.finished &&
    !s.b.gated && !s.b.suspended 1 (s.b.queue 1).cls &&
    c.fences.all fun i => s.b.fenceIn 1 i

theorem witness_queues :
    { withQueue queue1 with b := { sM.b with start := { sM.b.start with released := false } } }.b.gated = true ∧
    (let s := withQueue queue1
     let x := s.b.queue 1
     s.b.gated = false ∧ s.b.queueAt 1 = (s.b.start.inst, 1) ∧ s.b.queueAt 4095 = (s.b.start.inst, 4095) ∧ x = queue1 ∧
       ((5 : Word) - x.tail).toNat < 2 ^ 31 ∧ ((21 : Word) - x.done).toNat ≤ 2 ^ x.ringLog2 ∧ s.b.start.leadLost = false ∧
       ¬ (((22 : Word) - x.done).toNat ≤ 2 ^ x.ringLog2) ∧ ¬ (((4 : Word) - x.tail).toNat < 2 ^ 31) ∧
       (x.tail + 1 - x.done).toNat ≤ 2 ^ x.ringLog2) ∧
    (let s := withQueue { queue1 with tail := 7, pending := true }
     (s.b.queue 1).pending = true ∧ (s.b.queue 1).st = .idle ∧ s.b.gated = false) ∧
    (let s := withQueue { queue1 with tail := 7, pending := true, st := .running }
     (s.b.queue 1).pending = true ∧ (s.b.queue 1).st = .running) ∧
    (let s := withQueue { queue1 with enable := false, st := .disabled }
     (s.b.queue 1).enable = false ∧ (s.b.modQueue 1 fun y => y.setCfg ((2 ^ 63 + 2 ^ 61 + 16 : Dword)).toNat).mayEnable 1 = true) ∧
    (let s := withQueue { queue1 with st := .running, tail := 6, wdogTicks := 1, wdog := 2, cmds := [{ cmd 1 [2 ^ 63 + 0x1000] with started := true }] }
     let x := s.b.queue 1
     s.b.queueWatched 1 = true ∧ (x.wdogTicks + 1) * 2 ^ x.wdogScale ≤ x.wdog) := by decide +kernel

theorem witness_arbiter_grant :
    let s := withQueue { queue1 with cmds := [cmd 0 []], head := 6, tail := 6 }
    s.b.granted 1 = none ∧ s.b.pick 1 = some (1, 1) ∧ s.b.grantable 1 1 = some 5 ∧ ((s.b.cmdOf 1 5).map (·.opcode)).getD 0 ≤ 9 := by decide +kernel

theorem witness_granted_commands :
    isGranted (granted (cmd 0 [])) (cmd 0 []) 0 = true ∧
    (let c := cmd 1 [2 ^ 63 + 0x1000]
     isGranted (granted c) c 1 = true ∧ (granted c).b.nextPlace 1 c = some 0 ∧ ((granted c).b.placement 1 (c.w 4)).isSome = true ∧
       (granted c).b.placeHeld 1 (c.w 4) c.ctx = false) ∧
    (let c := cmd 2 [2 ^ 56, 0x400, 77]
     isGranted (granted c) c 2 = true ∧ (granted c).b.sliceCore 1 (fld (c.w 4) 61 56) = some 1 ∧ ((granted c).b.core 1).hart.launch = none) ∧
    (let c := cmd 3 [0x400000, 0x410000, 100]
     isGranted (granted c) c 3 = true ∧ ((granted c).b.dmaAgent 1 c).isSome = true ∧
       (((granted c).b.dmaAgent 1 c).bind (granted c).b.dmaSlot).isSome = true ∧ fld (c.w 6) 31 0 ≠ 0) := by decide +kernel

theorem witness_command_complete :
    let c := { cmd 0 [] with started := true, finished := true }
    let s := granted c
    (s.b.queue 1).cmds = [c] ∧ s.b.cmdOver (s.b.queueOwner 1) 1 c = true ∧ s.b.genStale c.gen = false ∧ c.fsig = false ∧
      (s.b.ctx c.ctx).st ≠ .resetting ∧ c.k / 2 ^ 32 = (s.b.queue 1).epoch ∧
      s.b.gated = false := by decide +kernel

/-- The n bytes at place a of slice 1 are at rest. -/
def calm (s : State) (a n : Nat) : Bool :=
  s.b.coh.busy.isEmpty && s.b.coh.msgs.isEmpty && (List.range n).all fun i => !s.b.poisoned (gaKey a + i)

/-- No other command of queue 1, of the opcodes given, is under way. -/
def alone (s : State) (k : Nat) (ops : List Nat) : Bool :=
  (s.b.queue 1).cmds.all fun x => x.k == k || !ops.contains x.opcode || !x.started || x.finished

theorem witness_fence_window_commands :
    (let c := cmd 4 [33, 9]
     isGranted (granted c) c 4 = true ∧ ((granted c).b.fence 33).setUp = false ∧ isGranted (withFence fence7 (granted c)) c 4 = true ∧
       ((withFence fence7 (granted c)).b.fence 33).setUp = true) ∧
    (let c := cmd 5 [33, 9]
     let s := withFence fence7 (granted c)
     isGranted s c 5 = true ∧ (s.b.queue 1).cmds.head? = some c ∧ c.progress = 0 ∧ bit (c.w 4) 63 = false ∧ (s.b.fence 33).setUp = true ∧
       (BitVec.ofNat 64 (c.w 5) - (s.b.fence 33).value).toNat < 2 ^ 63 ∧ (s.b.ctx c.ctx).st ≠ .resetting) ∧
    (let c := cmd 6 [0, 0]
     let s := granted c
     let a := (s.b.ctx 16).winTable
     isGranted s c 6 = true ∧ alone s c.k [6] = true ∧ (s.b.queue 1).cmds = [c] ∧ bit (c.w 4) 0 = false ∧ s.b.ownGen (s.b.ctx 16).slice ≠ 0 ∧
       s.b.ownRange (s.b.ctx 16).slice a 32 = true ∧ calm s a 32 = true) ∧
    (let c := cmd 6 [2 ^ 61 + 0x400000 + 1, 0]
     let s := granted c
     isGranted s c 6 = true ∧ bit (c.w 4) 0 = true ∧ fld (c.w 5) 31 0 = 0 ∧ calm s ((s.b.ctx 16).winTable + 32) 32 = true) ∧
    (let c := { cmd 6 [0, 0] with k := 6 }
     let o := { cmd 1 [2 ^ 63 + 0x1000] with started := true }
     let s := withQueue { queue1 with cmds := [o, c], head := 7, tail := 7 }
     let s := { s with b := s.b.modSlice 1 fun x => { x with arb := { x.arb with granted := some (1, 6) } } }
     isGranted s c 6 = true ∧ alone s c.k [6] = true ∧ (s.b.queue 1).cmds = [o, c] ∧ o.opcode = 1 ∧ o.completed = false) := by decide +kernel

theorem witness_page_stamp_commands :
    (let c := cmd 7 [0x400000, 1, base1 + 0x150000, 0]
     isGranted (granted c) c 7 = true ∧ prefetchBad (c.w 4) (c.w 5) (c.w 6) (c.w 7) = false ∧ fld (c.w 5) 31 0 ≠ 0 ∧ c.progress = 0 ∧
       ((granted c).b.slice 1).xlat.migrating = none ∧ alone (granted c) c.k [7, 8] = true) ∧
    (let c := cmd 8 [0x400000, 2, 3, 0]
     isGranted (granted c) c 8 = true ∧ adviseBad (c.w 4) (c.w 5) (c.w 6) (c.w 7) = false ∧ fld (c.w 5) 31 0 ≠ 0 ∧ c.progress = 0 ∧
       alone (granted c) c.k [7, 8] = true) ∧
    (let c := cmd 9 [base1 + 0x160000]
     isGranted (granted c) c 9 = true ∧ fld (c.w 4) 56 0 % 8 = 0 ∧ (granted c).b.ownRange 1 (fld (c.w 4) 56 0) 8 = true ∧
       (granted c).b.ownGen 1 ≠ 0 ∧ calm (granted c) (fld (c.w 4) 56 0) 8 = true) := by decide +kernel

/-! ### Contexts and fences -/

def ctxRegs (f : CtxRegs → CtxRegs) (s : State) : State := { s with b := s.b.modCtxr 1 f }

/-- The slice has a context table at 0x120000 of its memory; entry 1 of it holds a free context as context 16 is set up. -/
def sC : State :=
  let s := ctxRegs (fun r => { r with table := BitVec.ofNat 64 (base1 + 0x120000), fenceNotify := 0x80000010 + 2 ^ 24, fenceValue := 9, fenceKey := 5 }) sM
  { s with b := s.b.wrOwn 1 (base1 + 0x120080) ({ sM.b.ctx 16 with st := .free }.bytes 17) }
def ctx16 (f : Ctx → Ctx) (s : State := sC) : State := { s with b := s.b.modCtx 16 f }

theorem witness_context_operations :
    (sC.b.gated = false ∧ (sC.b.slice 1).st ≠ .none ∧ sC.b.ctxInRange 1 16 = true ∧ sC.b.ctxInRange 1 23 = true ∧ (sC.b.slice 1).ctxr.ctrlGo = false) ∧
    (let r := (sC.b.slice 1).ctxr
     let a := r.table.toNat + 128 * (17 - r.first)
     let w := (sC.b.ctx 17).ofWords ((dwordsOf (sC.b.rdOwn 1 a 128) 16).map (·.toNat))
     (sC.b.ctx 17).st = .free ∧ r.table ≠ 0 ∧ sC.b.ownRange 1 a 128 = true ∧ sC.b.ownRange 1 w.ptRoot 4096 = true ∧
       sC.b.ownRange 1 w.winTable 256 = true ∧ sC.b.ownRange 1 w.heapMap (max 1 (ceilDiv w.heapPages 8)) = true) ∧
    ((sC.b.ctx 16).st = .active ∧ (sC.b.ctx 16).slice = 1 ∧ sC.b.ctxBusy 16 = false ∧ sC.b.naming 16 = [] ∧
      sC.b.ownRange 1 ((sC.b.slice 1).ctxr.table.toNat) 128 = true ∧ sC.b.ownGen 1 ≠ 0 ∧ calm sC (sC.b.slice 1).ctxr.table.toNat 128 = true) ∧
    (let s := withQueue { queue1 with enable := false, st := .disabled } sC
     s.b.naming 16 = [1] ∧ (s.b.queue 1).enable = false ∧ s.b.ctxBusy 16 = false) ∧
    (let s := ctx16 fun c => { c with st := .faulted }
     (s.b.ctx 16).st = .faulted ∧ ((ctx16 fun c => { c with st := .suspect }).b.ctx 16).st = .suspect) ∧
    (let s := ctx16 fun c => { c with st := .resetting }
     s.b.ctxIs 1 16 .resetting = true ∧ s.b.launchesOver 16 = true) ∧
    (let s := ctx16 fun c => { c with slice := 0, st := .free }
     s.b.ctxsOf 1 = [] ∧ (base1 + 0x120000) % 4096 = 0 ∧ s.b.ownRange 1 (base1 + 0x120000) (128 * (s.b.slice 1).ctxr.count) = true) := by decide +kernel

theorem witness_fence_control :
    (sC.b.gated = false ∧ sC.b.fenceIn 1 32 = true ∧ sC.b.fenceIn 1 39 = true ∧ sC.b.fenceIn 1 33 = true ∧
      sC.b.ctxIs 1 (fld (sC.b.slice 1).ctxr.fenceNotify.toNat 19 0) .active = true) ∧
    ((withFence fence7 sC).b.fence 33).setUp = true ∧ ((sC.b.slice 1).ctxr.fenceValue - fence7.value).toNat < 2 ^ 63 ∧
    2 ^ 63 ≤ ((sC.b.slice 1).ctxr.fenceValue - 10).toNat ∧ sC.b.waitNames 33 = false ∧
    (withFence fence7 (granted { cmd 4 [33, 20] with started := true } sC)).b.waitNames 33 = true := by decide +kernel

/-! ### Transfers, faults, invalidation and the pool -/

def dma0 : Dma :=
  { agent := 64, channel := 0, queue := 1, k := 5, ctx := 16, label := 3, gen := none, src := 0x400000, dst := 0x410000, bytes := 100, pos := 0
    waits := none, fetch := none, skip := 0, data := [] }

/-- A started DMA command, a fault ring and a pool. -/
def sR : State :=
  let s := granted { cmd 3 [] with started := true }
  { s with b := s.b.modXlat 1 fun x => { x with resumeCtx := 16, faultBase := BitVec.ofNat 64 (base1 + 0x170000), faultSize := 4, poolBase := BitVec.ofNat 64 (base1 + 0x110000), poolSize := 10, poolCount := 1 } }
def withDma (d : Dma) : State := { sR with b := { sR.b with dmas := [d] } }
def xlat (f : XlatRegs → XlatRegs) (s : State := sR) : State := { s with b := s.b.modXlat 1 f }

/-- The walks of d's pages and the requests for its lines have had their turns. -/
def walked (d : Dma) (s : State) : State :=
  let at_ (line : Nat) (ans : LineAns) : WinLine := { core := d.agent, unit := 8 + d.channel, ctx := d.ctx, line := line, ans := ans }
  let l := [at_ ((d.src + d.pos) / 65536 * 512) .walked, at_ ((d.dst + d.pos) / 65536 * 512) .walked, at_ ((d.src + d.pos) / 128) .passed,
    at_ ((d.dst + d.pos) / 128) .passed]
  { s with b := { s.b with ports := { s.b.ports with winLines := l } } }

/-- The last request of d's tile moves between device pages: its walks are done, its source line comes and its destination takes it. -/
def dmaMoves (s : State) (d : Dma) : Bool :=
  let f := s.b.translate d.ctx (d.src + d.pos) false
  let i := f.1.translate d.ctx (d.dst + d.pos) true
  let must (b : Block) (va : Nat) : Bool := b.mustWalk d.agent (8 + d.channel) d.ctx va
  match f.2, i.2 with
  | .dev a k adv, .dev a2 k2 adv2 =>
    !must s.b (d.src + d.pos) && !must f.1 (d.dst + d.pos) && match i.1.dmaLine d (d.src + d.pos) (i.1.keyGen k) (gaKey a) adv with
      | (b3, some (.data bs)) =>
        let l := b3.translate d.ctx (d.dst + d.pos) true
        let moved := (bs.drop (gaKey a % 128)).take (d.chunk a 128)
        d.pos + d.chunk a 128 == d.tileEnd && gaKey a2 % 128 + d.chunk a 128 ≤ 128 && !b3.pageMoves d.ctx (d.dst + d.pos) &&
          !must b3 (d.dst + d.pos) && l.2 == .dev a2 k2 adv2 && l.1.hasPassed d.agent d.ctx (d.dst + d.pos) &&
          (l.1.cacheWrite (l.1.dmaCluster d) d.agent (l.1.keyGen k2) (gaKey a2) 1 moved).2
      | _ => false
  | _, _ => false

theorem witness_dma_tile :
    (let s := walked dma0 (withDma dma0)
     s.b.dmaAt 64 0 = some dma0 ∧ dma0.pos < dma0.bytes ∧ s.b.dmaReady dma0 = true ∧ dma0.data = [] ∧
       s.b.mustWalk 64 8 16 (dma0.src + dma0.pos) = false) ∧
    dma0.tileEnd = dma0.bytes ∧ { dma0 with bytes := 65537 }.tileEnd < 65537 ∧
    (let d := { dma0 with src := 0x4A0000 }
     let s := walked d (withDma d)
     s.b.dmaAt 64 0 = some d ∧ s.b.dmaReady d = true ∧ s.b.mustWalk 64 8 16 0x4A0000 = false ∧
       (match (s.b.translate 16 0x4A0000 false).2 with | .fail _ _ _ => true | _ => false) = true) := by decide +kernel

theorem witness_dma_moves : dmaMoves (walked dma0 (line 0x200000 [1, 2] (withDma dma0))) dma0 = true := by decide +kernel

/-- A tile's last request that is not the transfer's. -/
theorem witness_dma_goes_on :
    let d := { dma0 with bytes := 65537, pos := 65408 }
    dmaMoves (walked d (line 0x20FF80 [1, 2] (withDma d))) d = true ∧ d.tileEnd < d.bytes := by decide +kernel

theorem witness_dma_resume :
    (let d := { dma0 with waits := some 0x40 }
     let s := withDma d
     s.b.gated = false ∧ s.b.ctxInRange 1 16 = true ∧ (s.b.slice 1).xlat.resumeCtx = 16 ∧ (s.b.ctx 16).slice = 1 ∧
       (s.b.ctx 16).gen = (s.b.slice 1).xlat.resumeGen ∧
       (s.b.dmas.filter fun e => e.ctx == 16 && e.waits == some (dfld (0x400000 : Dword) 56 16)) = [d] ∧ (s.b.slice 1).xlat.migrating = none ∧
       s.b.ringReady 1 = true ∧ (s.b.slice 1).xlat.resumeAbort = false) ∧
    ((xlat fun x => { x with resumeAbort := true }).b.slice 1).xlat.resumeAbort = true ∧
    ((sR.b.slice 1).st ≠ .none ∧ (sR.b.slice 1).xlat.faultHead = (sR.b.slice 1).xlat.faultTail) ∧
    (let x := ((xlat fun x => { x with faultHead := 3 }).b.slice 1).xlat
     x.faultHead ≠ x.faultTail) := by decide +kernel

def inval0 : Inval := { ctx := some 16, va := 0x400000, len := 65536, bump := true, use := .reg }

theorem witness_invalidation :
    (sR.b.gated = false ∧ (sR.b.slice 1).st ≠ .none ∧ (sR.b.slice 1).xlat.go = false ∧ (0x86000010 : Word).getLsbD 31 = true ∧
      (0x06000010 : Word).getLsbD 31 = false) ∧
    (let s := xlat fun x => { x with invals := [inval0], go := true }
     (s.b.slice 1).xlat.go = true ∧ (s.b.slice 1).xlat.invals = [inval0] ∧ inval0.len ≠ 0 ∧ s.b.invalAcked 1 inval0 = true ∧
       s.b.ctxInRange 1 16 = true) := by decide +kernel

def free0 : PendFree := { ctx := 16, va := 0x400000, pages := 2, points := [(1, 5)] }

theorem witness_pool_and_allocator :
    (sR.b.gated = false ∧ (sR.b.slice 1).st ≠ .none ∧ sR.b.ownGen 1 ≠ 0 ∧
      calm sR ((sR.b.slice 1).xlat.poolPlace (sR.b.slice 1).xlat.poolCount) 8 = true ∧ sR.b.poolPage 1 (base1 + 0x120000) = true ∧ sR.b.poolReady 1 = true ∧ (sR.b.slice 1).xlat.poolCount < 2 ^ (sR.b.slice 1).xlat.poolSize ∧
      (xlat fun x => { x with poolCount := 1023 }).b.poolReady 1 = true ∧ sR.b.poolPage 1 1 = false) ∧
    (let s := { sR with b := sR.b.modHart 0 fun h => { h with x := [(5, 2 ^ 62 + 1), (6, 2 ^ 63 + 0x500000 + 1), (7, 2 ^ 62)] } }
     HartRuns s.b 0 ∧ (s.b.ctx (s.b.core 0).hart.zhCtx).allocVa ≠ 0 ∧ fld ((s.b.core 0).hart.reg 5).toNat 63 62 = 1 ∧
       fld ((s.b.core 0).hart.reg 7).toNat 15 0 = 0 ∧ fld ((s.b.core 0).hart.reg 6).toNat 63 62 = 2) ∧
    (let s := xlat fun x => { x with frees := [free0] }
     (s.b.slice 1).xlat.frees.find? s.b.pointsPassed = some free0 ∧ s.b.gated = false) := by unfold HartRuns; decide +kernel

/-! ### Slices -/

def atSlice (f : Slice → Slice) (s : State := sM) : State := { s with b := s.b.modSlice 1 f }
def atRecon (f : Recon → Recon) (s : State := sM) : State := { s with b := s.b.modRecon f }
def hold3 : Holdings := { slice1.hold with cores := 0xF0, groups := 0b11000000, ways := 0xF0, qFirst := 8, reserv := 1 }
def hold1' : Holdings := { slice1.hold with cores := 0b11111, groups := 0b1010000, ways := 0b111, qCount := 6, contexts := 4, reserv := 1 }
def request (a : Action) (n : Nat) (h : Holdings) : Request :=
  { act := a, slice := n, hold := h, fw := 0, ticket := 3, stride := 9, ahead := false, subst := none }
def inWindow (s : State) : State := { s with b := s.b.modTime fun t => { t with count := 9, windows := [(.reconf, 9)] } }
def running (r : Request) (k : Nat) : Running := { req := r, stage := k, old := slice1.hold, joinOnly := none, win := 9 }
def atStage (r : Request) (k : Nat) : State :=
  inWindow (atRecon (fun x => { x with run := some (running r k) }) (atSlice fun x => { x with st := .changing }))

theorem witness_slice_requests :
    (Admitted sM.b 8 0x2001 0x10 [1] ∧ sM.b.life.inTransition = false) ∧
    (sM.b.reqReason 1 28 hold3 0 = 0 ∧ sM.b.reqReason 1 29 hold3 0 ≠ 0 ∧ sM.b.reqReason 2 1 hold1' 0 = 0 ∧ sM.b.reqReason 2 2 hold1' 0 ≠ 0 ∧
      sM.b.reqReason 3 1 slice1.hold 0 = 0 ∧ sM.b.reqReason 3 2 slice1.hold 0 ≠ 0 ∧ sM.b.reqReason 4 1 slice1.hold 0 = 0 ∧
      sM.b.reqReason 4 2 slice1.hold 0 ≠ 0 ∧ actionOf 4 = some .firmware) ∧
    ({ sM.b.life with burn := [.restart] } : Life).inTransition = true := by unfold Admitted; decide +kernel

theorem witness_slice_map :
    Admitted sM.b 10 (0x2100 + 1) 0x0C (toLe 8 0) ∧
    (let v := BitVec.ofNat 64 (base1 + 0x180000)
     Admitted sM.b 10 (0x2100 + 1) 0x0C (toLe 8 v.toNat) ∧ v ≠ 0 ∧ v.toNat % 128 = 0 ∧ v.toNat < 2 ^ 57 ∧ sM.b.ownRange 1 v.toNat 520 = true ∧
       sM.b.ownGen 1 ≠ 0 ∧ (sM.b.coresOf 1)[0]? = some 0 ∧ (sM.b.coresOf 1)[3]? = some 3) := by unfold Admitted; decide +kernel

theorem witness_slice_map_at_rest : calm sM (base1 + 0x180000) 520 = true := by decide +kernel

theorem witness_action_start :
    (let s := inWindow (atRecon fun r => { r with pend := [request .resize 1 hold1'] })
     s.b.reconfWindow = some 9 ∧ s.b.windowDue = false ∧ s.b.recon.run = none ∧ s.b.recon.deferred ≠ some 9 ∧
       s.b.power.level < 2 ∧ (s.b.rungsDefer 9).joinable 9 = none ∧ s.b.recon.pend = [request .resize 1 hold1'] ∧ (request .resize 1 hold1').stride ≤ 9 ∧
       s.b.rungOn 1 = false ∧ s.b.viBusy 1 = false) ∧
    2 ≤ ({ sM.b.power with level := 2 }).level ∧
    ({ sM with b := sM.b.modLadder fun l => { l with dueBlock := some (3, 0) } } : State).b.rungOn 1 = true := by decide +kernel

theorem witness_action_stages :
    ((atStage (request .resize 1 hold1') 1).b.power.level ≠ 5 ∧ (atStage (request .resize 1 hold1') 1).b.recon.run = some (running (request .resize 1 hold1') 1) ∧
      (atStage (request .resize 1 hold1') 1).b.stageOver (running (request .resize 1 hold1') 1) = true ∧
      (atStage (request .resize 1 hold1') 7).b.stageOver (running (request .resize 1 hold1') 7) = true ∧
      (running (request .resize 1 hold1') 7).isRemove = false) ∧
    ((atStage (request .remove 1 slice1.hold) 7).b.stageOver (running (request .remove 1 slice1.hold) 7) = true ∧
      (running (request .remove 1 slice1.hold) 7).isRemove = true ∧ sM.b.power.level ≠ 5) ∧
    4 ∈ (atRecon fun r => { r with scrubbing := [4, 9] }).b.recon.scrubbing := by decide +kernel

theorem witness_ledgers_and_keys :
    Admitted sM.b 10 (0x2200 + 1) 2 (List.replicate 32 9) ∧
    (Admitted sM.b 10 (0x6100 + 1) 2 [1] ∧ sM.b.life.rngFault = false ∧ ((List.range 63).find? fun k => (sM.b.key k).holder == 0) = some 1) ∧
    ({ sM.b.life with rngFault := true }).rngFault = true ∧
    (Admitted sM.b 10 (0x6100 + 1) 4 [0] ∧ sM.b.holdsKey 1 0 = true ∧ sM.b.life.rngFault = false ∧ (sM.b.slice 1).aptKey = 0) ∧
    (let s := atSlice fun x => { x with nonceStatus := 1, nonceAt := 5 }
     let s := { s with b := s.b.modTime fun t => { t with zeroAt := 75000005 } }
     (s.b.slice 1).nonceStatus = 1 ∧ s.b.time.started = true ∧ (s.b.slice 1).nonceAt + 75000000 ≤ s.b.time.zeroAt) := by
  unfold Admitted; decide +kernel

theorem witness_mediator_and_samples :
    (let a : Out := .hostWrite 5 [1] 0
     let s : State := { s0 with b := { s0.b with dict := { s0.b.dict with med := [(9, 100, a), (10, 500, a)] } } }
     (s.b.dict.med.find? fun y => y.1 == 10) = some (10, 500, a) ∧ 500 ≤ s.b.time.mclk) ∧
    ((sM.b.slice 1).st ≠ .none ∧ sM.b.measures 1 64 = true ∧ sM.b.measures 1 0 = true) := by decide +kernel

/-! ### Virtual instances -/

/-- Virtual instance 5 of slice 1, and queue 2 with what `q` changes. -/
def viState (f : Vi → Vi) (q : Queue → Queue := id) : State :=
  { sM with b := (((sM.b.modSlice 1 fun x => { x with viRange := 0x40004 }).modVi 5 f).modQueue 2 fun _ =>
      q { queue1 with enable := false, st := .disabled }) }

theorem witness_virtual_instances :
    ((viState id).b.gated = false ∧ (viState id).b.viSlice 5 = some 1 ∧ (viState id).b.viSlice 4 = some 1 ∧ (viState id).b.viSlice 7 = some 1 ∧ ((viState id).b.vi 5).go = false ∧
      (viState id).b.inAction 1 = false ∧
      ((viState id).b.vi 5).st = .free ∧ ∀ y ∈ (viState id).b.vis, y.1 ≠ 5 → y.2.st = .active → y.2.pasid ≠ ((viState id).b.vi 5).pasid) ∧
    (let s := viState (fun x => { x with st := .active, qcount := 1 }) fun q => { q with vi := some 5 }
     (s.b.vi 5).st = .active ∧ (s.b.vi 5).go = false ∧ s.b.inAction 1 = false ∧ s.b.boundTo 5 = [2] ∧ s.b.queueOwner 2 = 1 ∧
       (s.b.queue 2).enable = false ∧ (s.b.queue 2).vi = some 5 ∧ (s.b.queue 2).cmds = []) ∧
    (let s := viState (fun x => { x with st := .active })
     (s.b.queue 2).vi = none ∧ s.b.queueOwner 2 = 1 ∧ (s.b.queue 2).enable = false) ∧
    (atStage (request .resize 1 hold1') 1).b.inAction 1 = true ∧
    (viState (fun x => { x with st := .removing, go := true, step := 4 })).b.viDrained 5 1 = true ∧
    (viState (fun x => { x with st := .resetting, go := true, step := 4 })).b.viDrained 5 1 = true := by decide +kernel

/-! ### Coherence -/

def line1 : Nat := 4 * 2 ^ 30 + 16384
def cluster0 : Agent := .cluster 1 0
def cluster1 : Agent := .cluster 1 1
def priv2 : Agent := .priv 1 2
def uncached0 : Agent := .uncached 1 0

/-- Slice 1 has cores in clusters 0 and 1; what its domain holds is `f`'s. -/
def atCoh (f : Coh → Coh) (b : Block → Block := id) : State :=
  let s := st fun x => { x with cores := x.cores ++ [(8, core1 1)] }
  { s with b := (b s.b).modCoh f }

def copy (a : Agent) (x : LineSt) (holdTo : Nat := 0) : CLine :=
  { agent := a, line := line1, st := x, data := 77, key := 2, way := 0, age := 0, holdTo := holdTo }
def want (a : Agent) (r : CohReq) (retryAt : Option Nat := none) (since : Nat := 1000) : Want :=
  { agent := a, line := line1, req := r, key := 2, retryAt := retryAt, since := since, st := .sent, auto := false }
def txn (a : Agent) (r : CohReq) (snoops : List Agent) (since : Nat := 0) : Txn :=
  { req := r, requester := a, key := 2, snoops := snoops, fwd := false, wbd := none, kept := false, acked := false, since := since
    waitsFor := none, auto := false }
def busy1 (x : Txn) (c : Coh) : Coh := { c with busy := [(line1, x)] }

/-- The hypotheses under which a home takes a request at once. -/
def taken (s : State) (w : Want) : Bool :=
  s.b.inDomain w.agent w.line && (s.b.coh.waiting.all fun x => x.agent != w.agent || x.line != w.line || !w.req.merges x) &&
    Tab.find s.b.coh.busy w.line == none && s.b.reservedFor w.line == none &&
    (s.b.coh.busy.filter fun x => homeOf x.1 == homeOf w.line).length < 64 && !s.b.setFull w

/-- No transaction and no request waits for the line. -/
def quiet (s : State) : Bool := s.b.coh.uncQueue.isEmpty && s.b.coh.busy.all fun x => x.2.waitsFor != some line1

def owned (f : Coh → Coh := id) : State :=
  atCoh fun c => f { c with filter := [(line1, { owner := some cluster0, used := 1 })], lines := [copy cluster0 .m] }

theorem witness_home :
    (let s := atCoh id
     s.b.coh.filt line1 = none ∧ s.b.linePoisoned line1 = false ∧ s.b.lineKey 1 line1 = 2 ∧ s.b.time.clk = 1000 ∧ quiet s = true ∧
       ([want cluster0 .rds, want cluster0 .rdx, want cluster0 (.wrline true (bytesLine [5])), want uncached0 (.wrline false (bytesLine [5])),
         want uncached0 .uncrd, want uncached0 (.uncwr 126 [1, 2]), want uncached0 (.atomic 120 (.add true) 1 2)].all (taken s)) = true) ∧
    (let s := atCoh id fun b => b.setPoison line1 true
     s.b.coh.filt line1 = none ∧ s.b.linePoisoned line1 = true ∧ quiet s = true ∧ taken s (want cluster0 .rds) = true) ∧
    (taken owned (want cluster1 .rdx) = true ∧ owned.b.coh.filt line1 ≠ none ∧ owned.b.snooped 1 = [cluster0, cluster1]) := by decide +kernel

theorem witness_home_busy :
    (let x := txn cluster1 .rdx [cluster0]
     let s := atCoh (busy1 x)
     Tab.find s.b.coh.busy line1 = some x ∧ x.snoops ≠ [] ∧ x.waitsFor = none ∧ s.b.inDomain priv2 line1 = true ∧
       s.b.inDomain uncached0 line1 = true ∧ s.b.coh.waiting = [] ∧ agentUncached priv2 = false ∧ agentUncached uncached0 = true ∧
       want uncached0 .uncrd ∉ s.b.coh.uncQueue) ∧
    (owned.b.coh.lineOf cluster0 line1 = some (copy cluster0 .m) ∧ owned.b.lineHeld cluster0 line1 = false ∧
      Tab.has owned.b.coh.busy line1 = false ∧ owned.b.coh.wbuf = [] ∧ (owned.b.coh.filt line1).bind (·.owner) = some cluster0) ∧
    (let s := owned (busy1 (txn cluster1 .rdx [cluster0]))
     s.b.coh.lineOf cluster0 line1 = some (copy cluster0 .m) ∧ s.b.lineHeld cluster0 line1 = false ∧ Tab.has s.b.coh.busy line1 = true ∧
       s.b.coh.wbuf = []) := by decide +kernel

/-- A snoop on its way to cluster 0, which has the line as given. -/
def snooping (k : Snoop) (l : List CLine) (w : List WbEntry := []) : State :=
  atCoh fun c => busy1 (txn cluster1 .rdx [cluster0]) { c with msgs := [.snoop cluster0 line1 k cluster1], lines := l, wbuf := w }
def wb0 : WbEntry := { agent := cluster0, line := line1, data := 7, key := 2, taken := false, accepted := false }

theorem witness_snooped_agent :
    (([.shared, .own, .cur] : List Snoop).all fun k =>
      ((snooping k []).b.coh.msgs.find? fun m => match m with
        | .snoop d l j _ => d == cluster0 && l == line1 && j == k
        | _ => false) == some (.snoop cluster0 line1 k cluster1)) = true ∧
    ((snooping .own []).b.coh.wbuf = [] ∧ (snooping .own []).b.coh.lineOf cluster0 line1 = none) ∧
    (((snooping .cur [] [wb0]).b.coh.wbuf.find? fun x => x.agent == cluster0 && x.line == line1 && !x.taken) = some wb0 ∧
      (snooping .cur [] [wb0]).b.coh.lineOf cluster0 line1 = none) ∧
    ((snooping .shared [copy cluster0 .m]).b.coh.lineOf cluster0 line1 = some (copy cluster0 .m) ∧
      (snooping .shared [copy cluster0 .m]).b.lineHeld cluster0 line1 = false ∧
      Tab.find (snooping .own [copy cluster0 .m]).b.coh.busy line1 = some (txn cluster1 .rdx [cluster0])) ∧
    ((snooping .own [copy cluster0 .s]).b.coh.lineOf cluster0 line1 = some (copy cluster0 .s) ∧
      (snooping .own [copy cluster0 .s]).b.lineHeld cluster0 line1 = false) ∧
    ((snooping .own [copy cluster0 .e 1001]).b.lineHeld cluster0 line1 = true ∧ (snooping .own [copy cluster0 .e 1001]).b.coh.parks = []) := by
  decide +kernel

theorem witness_agent_receives :
    (let s := atCoh fun c => { c with msgs := [.data cluster0 line1 (some .e) 5 2], waiting := [want cluster0 .rds] }
     (s.b.coh.msgs.find? fun m => match m with
        | .data x l _ _ _ => x == cluster0 && l == line1
        | _ => false) = some (.data cluster0 line1 (some .e) 5 2) ∧ s.b.noWays cluster0 = false) ∧
    (let s := atCoh fun c => { c with msgs := [.data cluster1 line1 (some .e) 5 2], waiting := [want cluster1 .rds] }
     (s.b.coh.msgs.find? fun m => match m with
        | .data x l _ _ _ => x == cluster1 && l == line1
        | _ => false) = some (.data cluster1 line1 (some .e) 5 2) ∧ s.b.noWays cluster1 = true ∧ s.b.coh.lineOf cluster1 line1 = none) ∧
    (let s := atCoh fun c => { c with msgs := [.data uncached0 line1 none 5 2] }
     (s.b.coh.msgs.find? fun m => match m with
        | .data x l _ _ _ => x == uncached0 && l == line1
        | _ => false) = some (.data uncached0 line1 none 5 2)) ∧
    (let w := { wb0 with accepted := true }
     let s := atCoh fun c => { c with msgs := [.nack cluster0 line1, .cmpwb cluster0 line1, .poison cluster0 line1], waiting := [want cluster0 .rds]
                                      wbuf := [w] }
     CohMsg.nack cluster0 line1 ∈ s.b.coh.msgs ∧ CohMsg.cmpwb cluster0 line1 ∈ s.b.coh.msgs ∧ CohMsg.poison cluster0 line1 ∈ s.b.coh.msgs ∧
       (s.b.coh.waiting.find? fun w => w.agent == cluster0 && w.line == line1 && w.st == .sent) = some (want cluster0 .rds) ∧
       s.b.classes 1 = true ∧ (s.b.coh.wbuf.find? fun x => x.agent == cluster0 && x.line == line1 && x.accepted) = some w) ∧
    (atCoh id fun b => b.modSlice 1 fun x => { x with cohProgress := 2 }).b.classes 1 = false := by decide +kernel

/-- The response of cluster 0 has come, and its transaction is as given. -/
def answered (m : CohMsg) (x : Txn) : Bool :=
  let s := atCoh fun c => busy1 x { c with msgs := [m] }
  (s.b.coh.msgs.find? fun m => match m with
    | .rsp y l _ _ _ _ => y == cluster0 && l == line1
    | _ => false) == some m && Tab.find s.b.coh.busy line1 == some x && x.snoops.contains cluster0 && !x.acked && x.waitsFor.isNone &&
      !s.b.linePoisoned line1

theorem witness_home_receives :
    ([txn cluster1 .rds [cluster0, cluster1], txn cluster1 .rds [cluster0], txn cluster1 .rdx [cluster0]].all fun x =>
      answered (.rsp cluster0 line1 (some .s) true (some 5) false) x && answered (.rsp cluster0 line1 none false none false) x) = true ∧
    (let x := txn cluster0 .rds []
     let s := atCoh fun c => busy1 x { c with msgs := [.ack cluster0 line1] }
     CohMsg.ack cluster0 line1 ∈ s.b.coh.msgs ∧ Tab.find s.b.coh.busy line1 = some x ∧ x.requester = cluster0 ∧ x.snoops = [] ∧ x.waitsFor = none ∧
       quiet s = true ∧ Tab.get [] s.b.coh.retry line1 = []) ∧
    (let s := atCoh fun c => { c with retry := [(line1, [cluster1])] }
     Tab.get [] s.b.coh.retry line1 = [cluster1] ∧ s.b.classes (s.b.groupOwner (homeOf line1)) = true) := by decide +kernel

theorem witness_coherence_timers :
    (let s := atCoh fun c => { c with lines := [copy cluster0 .e 1000] }
     s.b.lineHeld cluster0 line1 = false ∧ (atCoh fun c => { c with lines := [copy cluster0 .e 1001] }).b.lineHeld cluster0 line1 = true) ∧
    (let r := (line1, cluster0, 1000)
     let s := atCoh fun c => { c with reserved := [r] }
     (s.b.coh.reserved.find? fun x => x.1 == line1 && x.2.2 ≤ s.b.time.clk) = some r ∧ s.b.coh.uncQueue = []) ∧
    (∀ x ∈ (atCoh fun c => { c with reserved := [(line1, cluster0, 1001)] }).b.coh.reserved, 1000 < x.2.2) ∧
    (let w := want cluster0 .rdx (some 1000)
     let s := atCoh fun c => { c with waiting := [w] }
     (s.b.coh.waiting.find? fun x => x.agent == w.agent && x.line == w.line && x.retryAt.any (· ≤ s.b.time.clk)) = some w ∧ w.retryAt ≠ none ∧
       Tab.find s.b.coh.busy w.line = none ∧ s.b.reservedFor w.line = none ∧
       s.b.coh.busy = [] ∧ s.b.setFull w = false ∧ s.b.coh.filt w.line = none ∧ s.b.linePoisoned w.line = false) := by decide +kernel

/-- The block's clock stands n compute clocks on. -/
def later (n : Nat) (s : State) : State := { s with b := s.b.modTime fun t => { t with clk := t.clk + n } }

theorem witness_coherence_timeouts :
    (let x := txn cluster1 .rdx [cluster0, priv2]
     let s := atCoh (busy1 x)
     let l := later s.b.ladder.cohSnoopTimeout s
     Tab.find s.b.coh.busy line1 = some x ∧ priv2 ∈ x.snoops ∧ cluster0 ∈ x.snoops ∧ agentPriv priv2 = true ∧ agentPriv cluster0 = false ∧
       s.b.time.clk < x.since + s.b.ladder.cohSnoopTimeout ∧ x.since + l.b.ladder.cohSnoopTimeout ≤ l.b.time.clk ∧ x.waitsFor = none ∧
       quiet l = true ∧ x.req ≠ .evict ∧ x.requester ≠ recaller (agentSlice x.requester)) ∧
    (let x := txn cluster1 .evict [cluster0, priv2]
     let l := later s0.b.ladder.cohSnoopTimeout (atCoh (busy1 x))
     Tab.find l.b.coh.busy line1 = some x ∧ priv2 ∈ x.snoops ∧ x.since + l.b.ladder.cohSnoopTimeout ≤ l.b.time.clk ∧ quiet l = true ∧
       l.b.gated = false) ∧
    (let w := want cluster0 .rdx none 0
     let s := atCoh fun c => { c with waiting := [w] }
     let l := later s.b.ladder.cohReqTimeout s
     w ∈ l.b.coh.waiting ∧ w.since + l.b.ladder.cohReqTimeout ≤ l.b.time.clk) := by decide +kernel

/-! ### Start-up -/

/-- The sections of a configuration image: firmware, sweep map, memory, commons, federation, settings (R388). -/
def sections : List (List Byte) :=
  let setting (i s v : Nat) : List Byte := toLe 2 i ++ toLe 6 s ++ toLe 8 v
  [[1, 2, 3, 4], mapBytes, (List.range 32).flatMap (fun g => toLe 4 (if g < 6 then 16384 else 0)), [4, 0, 1, 2, 3], [0, 2, 1],
    setting 0x1000 10 7 ++ setting 0x2000 2 (0x8000 * 2 ^ 32 + 2 ^ 16) ++ setting 0x4001 5 30 ++ setting 0x5000 1 3 ++ setting 0xA000 1 0 ++
      setting 0x1020 1 (8 + 256)]

def padded (n : Nat) (l : List Byte) : List Byte := (l ++ List.replicate n 0).take n

/-- The image's body: a directory of six entries, and the sections from its second line on. -/
def body0 : List Byte :=
  padded 128 ((sections.zipIdx).flatMap fun x => toLe 2 (x.2 + 1) ++ toLe 2 0 ++ toLe 4 (128 + 128 * x.2) ++ toLe 4 x.1.length ++ toLe 4 0) ++
    sections.flatMap (padded 128)

/-- Its header, unsigned and with the sequence number 0: the bytes before the digest of the body, the digest, and the bytes after it (R387). -/
def headA : List Byte := toLe 2 1 ++ [0, 0] ++ toLe 4 0 ++ toLe 8 896 ++ toLe 8 0
def headB : List Byte := padded 97 [] ++ [6] ++ padded 150 []
def image0 (d : List Byte) : List Byte := headA ++ (d ++ (headB ++ body0))

theorem image0_length (d : List Byte) (hd : d.length = 48) : (image0 d).length = 1216 := by
  simp only [image0, List.length_append, hd, show headA.length = 24 by decide +kernel, show headB.length = 248 by decide +kernel,
    show body0.length = 896 by decide +kernel]

/-- Bytes of the image before its digest. -/
theorem image0_before (d : List Byte) (i j : Nat) (h : i + j ≤ 24) : ((image0 d).drop i).take j = (headA.drop i).take j := by
  have ha : headA.length = 24 := by decide +kernel
  rw [image0, List.drop_append_of_le_length (by omega), List.take_append_of_le_length (by simp; omega)]

/-- Its digest, and bytes after it. -/
theorem image0_after (d : List Byte) (hd : d.length = 48) :
    ((image0 d).drop 24).take 48 = d ∧ ((image0 d).drop 169).take 1 = [6] ∧ (image0 d).drop 320 = body0 := by
  have ha : headA.length = 24 := by decide +kernel
  have h24 : (image0 d).drop 24 = d ++ (headB ++ body0) := by rw [image0, ← ha, List.drop_left]
  have h72 : (image0 d).drop 72 = headB ++ body0 := by rw [show 72 = 24 + 48 from rfl, ← List.drop_drop, h24, ← hd, List.drop_left]
  refine ⟨by rw [h24, ← hd, List.take_left], ?_, ?_⟩
  · rw [show 169 = 72 + 97 from rfl, ← List.drop_drop, h72]; decide +kernel
  · rw [show 320 = 72 + 248 from rfl, ← List.drop_drop, h72]; decide +kernel

/-- A field of the header is that field of the image. -/
theorem head_field (l : List Byte) (i j : Nat) (h : i + j ≤ 320) : ((l.take 320).drop i).take j = (l.drop i).take j := by
  rw [List.drop_take, List.take_take, Nat.min_eq_left (by omega)]

/-- With the digest of its body in its header the image passes R365, R388 and R389 in state BLANK. -/
theorem image0_passes : (imageOf 0 1 0 (image0 (toLe 48 (Config.sha384 body0).toNat))).isSome = true := by
  have hd : (toLe 48 (Config.sha384 body0).toNat).length = 48 := toLe_length _ _
  generalize hx : image0 (toLe 48 (Config.sha384 body0).toNat) = x
  have hlen : x.length = 1216 := hx ▸ image0_length _ hd
  have hb : x.drop 320 = body0 := hx ▸ (image0_after _ hd).2.2
  have f0 : (x.take 320).take 2 = [1, 0] := by
    have := hx ▸ image0_before (toLe 48 (Config.sha384 body0).toNat) 0 2 (by omega)
    rw [List.take_take, Nat.min_eq_left (by omega)]; simpa using this.trans (by decide +kernel)
  have f2 : ((x.take 320).drop 2).take 1 = [0] := by rw [head_field _ _ _ (by omega), ← hx, image0_before _ _ _ (by omega)]; decide +kernel
  have f3 : ((x.take 320).drop 3).take 1 = [0] := by rw [head_field _ _ _ (by omega), ← hx, image0_before _ _ _ (by omega)]; decide +kernel
  have f8 : ((x.take 320).drop 8).take 8 = toLe 8 896 := by rw [head_field _ _ _ (by omega), ← hx, image0_before _ _ _ (by omega)]; decide +kernel
  have f16 : ((x.take 320).drop 16).take 8 = toLe 8 0 := by rw [head_field _ _ _ (by omega), ← hx, image0_before _ _ _ (by omega)]; decide +kernel
  have f24 : ((x.take 320).drop 24).take 48 = toLe 48 (Config.sha384 body0).toNat := by
    rw [head_field _ _ _ (by omega), ← hx, (image0_after _ hd).1]
  have f169 : ((x.take 320).drop 169).take 1 = [6] := by rw [head_field _ _ _ (by omega), ← hx, (image0_after _ hd).2.1]
  have hdig : leNat (toLe 48 (Config.sha384 body0).toNat) = (Config.sha384 body0).toNat := leNat_toLe _ _ (by rw [show 256 = 2 ^ 8 from rfl, ← Nat.pow_mul]; exact (Config.sha384 body0).isLt)
  have hlb : body0.take 896 = body0 := by decide +kernel
  have hp : (imageParts 1 (x.take 320) body0).isSome = true := by
    simp only [imageParts, f169]
    rw [if_neg (by decide +kernel)]
    rw [show sectionOf body0 (leNat [6]) 1 = sections[0]? by decide +kernel, show sectionOf body0 (leNat [6]) 2 = sections[1]? by decide +kernel,
      show sectionOf body0 (leNat [6]) 3 = sections[2]? by decide +kernel, show sectionOf body0 (leNat [6]) 4 = sections[3]? by decide +kernel,
      show sectionOf body0 (leNat [6]) 5 = sections[4]? by decide +kernel, show sectionOf body0 (leNat [6]) 6 = sections[5]? by decide +kernel]
    simp only [sections, List.getElem?_cons_zero, List.getElem?_cons_succ]
    rw [if_pos (by decide +kernel)]
    rfl
  have b8 : (x.drop 8).take 8 = toLe 8 896 := by rw [← head_field x 8 8 (by omega)]; exact f8
  have hbody : imageBody x = body0 := by rw [imageBody, hb, b8, show leNat (toLe 8 896) = 896 by decide +kernel, hlb]
  simp only [imageOf, imageSound, hbody, f0, f2, f3, f8, f16, f24, hdig]
  rw [show leNat (toLe 8 896) = 896 by decide +kernel, if_pos]
  · exact hp
  · simp [hlen, show body0.length = 896 by decide +kernel, show leNat (toLe 8 0) = 0 by decide +kernel]
    exact ⟨by decide +kernel, Or.inl (by decide +kernel)⟩

/-- A flash whose other slot has no more than a FORMAT. -/
def headOnly (slot : Nat) : Mem := Mem.writeN [] (slotAt (1 - slot)) [1, 0]

/-- The flash holds the image in one slot. -/
def flash0 (slot : Nat) : Flash :=
  { Flash.reset with bytes := (headOnly slot).writeN (slotAt slot) (image0 (toLe 48 (Config.sha384 body0).toNat)) }

/-- The block after its fuse stage, in state BLANK. -/
def blank (slot : Nat) : State :=
  { State.reset with b := (Block.reset.modStart fun t => { t with stage := 1, cfgRstN := true }).modLife fun l => { l with lcs := 1 }, flash := flash0 slot }

/-- Bytes of the slot that holds the image, and of the other. -/
theorem flash0_bytes (slot i j : Nat) (h : i + j ≤ 1216) (hs : slot < 2) :
    (flash0 slot).bytes.readN (slotAt slot + i) j = ((image0 (toLe 48 (Config.sha384 body0).toNat)).drop i).take j ∧
      (flash0 slot).bytes.readN (slotAt (1 - slot) + i) j = (headOnly slot).readN (slotAt (1 - slot) + i) j := by
  have hl := image0_length _ (toLe_length 48 (Config.sha384 body0).toNat)
  rw [show (flash0 slot).bytes = (headOnly slot).writeN (slotAt slot) (image0 (toLe 48 (Config.sha384 body0).toNat)) by simp only [flash0]]
  generalize image0 (toLe 48 (Config.sha384 body0).toNat) = x at hl ⊢
  exact ⟨Mem.readN_writeN_in _ _ _ _ _ (by omega), Mem.readN_writeN_out _ _ _ _ _ (by simp only [slotAt]; omega)⟩

theorem flash0_first (slot : Nat) (hs : slot < 2) : (flash0 slot).firstSlot = 0 := by
  have ⟨h1, h2⟩ := flash0_bytes slot 4 4 (by omega) hs
  have ⟨f1, f2⟩ := flash0_bytes slot 0 2 (by omega) hs
  rw [image0_before _ _ _ (by omega)] at h1 f1
  simp only [Nat.add_zero] at f1 f2
  obtain rfl | rfl : slot = 0 ∨ slot = 1 := by omega
  · rw [Flash.firstSlot, Flash.headed, Flash.headed, h1, h2, f1, f2]; decide +kernel
  · rw [Flash.firstSlot, Flash.headed, Flash.headed, h1, h2, f1, f2]; decide +kernel

theorem flash0_image (slot : Nat) (hs : slot < 2) :
    (flash0 slot).slotBytes slot = image0 (toLe 48 (Config.sha384 body0).toNat) ∧
      imageOf 0 1 0 ((flash0 slot).slotBytes (1 - slot)) = none := by
  have hl := image0_length _ (toLe_length 48 (Config.sha384 body0).toNat)
  have ⟨h1, h2⟩ := flash0_bytes slot 0 320 (by omega) hs
  have ⟨b1, _⟩ := flash0_bytes slot 320 896 (by omega) hs
  simp only [Nat.add_zero, List.drop_zero] at h1 h2
  refine ⟨?_, ?_⟩
  · have h8 : min 8388288 (leNat ((((image0 (toLe 48 (Config.sha384 body0).toNat)).take 320).drop 8).take 8)) = 896 := by
      rw [head_field _ _ _ (by omega), image0_before _ _ _ (by omega)]; decide +kernel
    simp only [Flash.slotBytes, h1, h8, b1]
    rw [List.take_of_length_le (i := 896) (by rw [List.length_drop]; omega), List.take_append_drop]
  · obtain rfl | rfl : slot = 0 ∨ slot = 1 := by omega
    · simp only [Flash.slotBytes, h2]
      rw [show min 8388288 (leNat ((((headOnly 0).readN (slotAt (1 - 0)) 320).drop 8).take 8)) = 0 by decide +kernel, Mem.readN]; decide +kernel
    · simp only [Flash.slotBytes, h2]
      rw [show min 8388288 (leNat ((((headOnly 1).readN (slotAt (1 - 1)) 320).drop 8).take 8)) = 0 by decide +kernel, Mem.readN]; decide +kernel

/-- With the image in slot 0 the first slot tried gives it; with the image in slot 1 only the other does; an empty flash gives none. -/
theorem witness_image_stage :
    ((blank 0).b.start.stage = 1 ∧ (blank 0).b.start.cfgRstN = true ∧ (blank 0).flash.firstSlot = 0 ∧ ((blank 0).flash.slotImage (blank 0).fuse (blank 0).b 0).isSome = true) ∧
    ((blank 1).flash.firstSlot = 0 ∧ (blank 1).flash.slotImage (blank 1).fuse (blank 1).b 0 = none ∧
      ((blank 1).flash.slotImage (blank 1).fuse (blank 1).b (1 - 0)).isSome = true) ∧
    (Flash.reset.slotImage 0 (blank 0).b 0 = none ∧ Flash.reset.slotImage 0 (blank 0).b (1 - 0) = none) := by
  refine ⟨⟨rfl, rfl, flash0_first 0 (by omega), ?_⟩, ⟨flash0_first 1 (by omega), ?_, ?_⟩, by decide +kernel, by decide +kernel⟩
  · exact ((flash0_image 0 (by omega)).1 ▸ image0_passes : (imageOf 0 1 0 ((flash0 0).slotBytes 0)).isSome = true)
  · exact (flash0_image 1 (by omega)).2
  · exact ((flash0_image 1 (by omega)).1 ▸ image0_passes : (imageOf 0 1 0 ((flash0 1).slotBytes 1)).isSome = true)

def atPower (f : Power → Power) : State := st fun b => b.modPower f
def atStart (f : StartUp → StartUp) : State := st fun b => b.modStart f

theorem witness_start_up :
    ({ Block.reset with start := { StartUp.reset with stage := 1 } }.start.cfgRstN = false ∧ State.reset.b.start.stage = 0 ∧ lcsOf State.reset.fuse ≠ 7 ∧ lcsOf State.reset.fuse ≠ 15) ∧
    ((atStart fun t => { t with stage := 2 }).b.start.stage = 2 ∧ (atStart fun t => { t with stage := 2 }).b.power.level < 2) ∧
    (let s := atStart fun t => { t with stage := 3, released := false, mcpInit := (List.range 128).map fun p => (p, true) }
     s.b.start.stage = 3 ∧ s.b.start.released = false ∧ s.b.releaseReady = true) ∧
    ((atStart fun t => { t with stage := 3 }).b.start.stage = 3 ∧ (atStart fun t => { t with stage := 3 }).b.start.released = true) ∧
    (let s := atStart fun t => { t with stage := 3, released := false }
     let s := { s with b := s.b.modPower fun p => { p with onAt := (List.range 118).map fun d => (d, 0) } }
     let s := { s with b := s.b.modTime fun t => { t with mclk := 2 ^ 40 } }
     0 ∈ s.b.commonsPorts ∧ s.b.start.stage = 3 ∧ s.b.start.released = false ∧ Tab.get false s.b.start.mcpInit 0 = false ∧
       s.b.memoryLate 0 = true) := by decide +kernel

/-! ### Power -/

def off (t : Tab Bool) (d : Nat) : Tab Bool := Tab.set false t d false

theorem witness_power_domains :
    (let p := (atPower fun p => { p with req := off p.req 2, ack := off p.ack 2, on := off p.on 2, upWait := [2], pdWave := 2 }).b.power
     p.mayServe 2 = true ∧ 2 ∈ p.upWait ∧ p.isReq 2 = false ∧ p.isAck 2 = false) ∧
    (let p := (atPower fun p => { p with on := off p.on 117, ack := off p.ack 117 }).b.power
     p.isReq 117 = true ∧ p.isOn 117 = false ∧ p.isAck 117 = false) ∧
    ((atPower fun p => { p with upAt := [(2, 501)] }).b.time.mclk < 501 ∧ (atPower fun p => { p with upAt := [(2, 500)] }).b.power.upAt = [(2, 500)] ∧
      500 ≤ (atPower fun p => { p with upAt := [(2, 500)] }).b.time.mclk) ∧
    (let p := (atPower fun p => { p with downWait := [2], pdWave := 2 }).b.power
     p.mayServe 2 = true ∧ 2 ∈ p.downWait) ∧
    (s0.b.power.isReq 63 = true ∧ s0.b.power.isAck 63 = true ∧ (atPower fun p => { p with req := off p.req 63 }).b.power.isReq 63 = false) ∧
    (let s := atPower fun p => { p with ack := off p.ack 63, reqAt := [(63, 0)] }
     s.b.power.isReq 63 = true ∧ s.b.power.isAck 63 = false ∧ s.b.power.ackLate 63 s.b.time.mclk = false ∧
       s.b.power.ackLate 63 (2 ^ 40) = true) := by decide +kernel

theorem witness_shedding :
    (s0.b.start.stage ≠ 0 ∧ s0.b.power.shutdown = false ∧ s0.b.power.level ≤ 5 ∧ Admitted s0.b 8 0x7003 1 [1]) ∧
    (let s := atPower fun p => { p with warn := true, warnAt := 500, warnHalt := 1 }
     s.b.time.mclk < s.b.power.warnAt + s.b.power.warnHalt * usClk ∧ s.b.power.warnAt + s.b.power.warnHalt * usClk ≤ 1250) ∧
    (let s := atPower fun p => { p with warn := true, warnAt := 500, warnHalt := 0 }
     s.b.power.warn = true ∧ s.b.power.warnAt + s.b.power.warnHalt * usClk ≤ s.b.time.mclk) ∧
    (let p := (atPower fun p => { p with level := 4, exitFrom := some 5 }).b.power
     p.exitDue 5 = false ∧ p.exitDue (2 ^ 40) = true ∧ 1 ≤ p.level ∧ p.shutdown = false) ∧
    (let s := atPower fun p => { p with level := 5, shutdown := true }
     s.b.power.shutdown = true ∧ s.b.tally.saving = none ∧ s.b.tally.savePending = false) := by unfold Admitted; decide +kernel

/-! ### Tallies -/

def atTally (f : Tally → Tally) : State := st fun b => { b with tally := f b.tally }

/-- Enough management clocks for every interval of the tallies. -/
def late (f : TimeBase → TimeBase := id) : State := atTime fun t => f { t with mclk := 60000 * 750000 * 10 }

theorem witness_tallies :
    (let s := atTime fun t => { t with count := 9375 * 2, phase := 0xFFF0 }
     s.b.time.started = true ∧ s.b.time.count.toNat % s.b.time.checkpointEvery = 0 ∧ s.b.parade.tallyPhase ≤ s.b.phaseNow ∧
       s.b.tally.checkedIn ≠ some s.b.time.count.toNat ∧ s.b.earlier s.fuse 9 = false) ∧
    (let s := late fun t => { t with lock := .unlocked }
     s.b.start.stage ≠ 0 ∧ s.b.time.lock = .unlocked ∧ s.b.tally.unlockedAt + msClks 600000 ≤ s.b.time.mclk) ∧
    (Admitted s0.b 8 0x8000 7 [1] ∧ s0.b.tally.lastSaveAt = none) ∧
    ((atTally fun t => { t with savePending := true }).b.tally.savePending = true ∧ (atTally fun t => { t with savePending := true }).b.tally.saving = none) ∧
    (atTally fun t => { t with saving := some [1] }).b.tally.saving = some [1] ∧
    (let s := st fun b => b.modLife fun l => { l with lcs := 2 }
     Admitted s.b 11 0x8000 6 [1] ∧ s.b.life.lcs = 2) ∧
    (late.b.start.stage ≠ 0 ∧ late.b.tally.droopAt + msClks 1 ≤ late.b.time.mclk ∧ late.b.tally.tempAt + msClks 1000 ≤ late.b.time.mclk ∧
      late.b.tally.minuteAt + msClks 60000 ≤ late.b.time.mclk ∧ s0.b.power.dmEnable.getLsbD 0 = true ∧
      s0.b.power.dmEnable.getLsbD 7 = true) := by unfold Admitted; decide +kernel

/-! ### The reset ladder -/

def atLadder (f : Ladder → Ladder) (s : State := s0) : State := { s with b := s.b.modLadder f }
def atLad (f : LadderRegs → LadderRegs) (s : State := s0) : State := { s with b := s.b.modLad 1 f }

/-- Engine 0 of core 0 runs an op of context 16. -/
def busyEngine : State := en (fun e => { e with issued := 1, active := [{ op0 product with phase := .running }] }) s0

/-- The watchdog of core 0's engine 0 has counted to its end. -/
def hanging (s : State) : State := { s with b := s.b.modCore 0 fun c => { c with watch := [(0, 2 ^ s.b.ladder.engWdogLog2)] } }

theorem witness_failures :
    ((busyEngine.b.core 0).owner = 1 ∧ busyEngine.b.unitHangs 0 0 = false ∧ (hanging busyEngine).b.unitHangs 0 0 = true ∧
      busyEngine.b.ladder.dueUnit = [] ∧ (hanging busyEngine).b.turnOn 1 0 0 = none) ∧
    (let s := hanging (atLad (fun l => { l with replay := some { core := 0, unit := 0, left := [17], turn := some 16, turnStride := 7, reserved := true } }) busyEngine)
     s.b.turnOn 1 0 0 = some 16 ∧ s.b.unitHangs 0 0 = true ∧ (s.b.ctx 16).st = .active) ∧
    (s0.b.start.clusterEn.getLsbD 7 = true ∧ s0.b.power.isReq (72 + 7) = true ∧
      (atStart fun t => { t with clusterEn := 0x7F }).b.start.clusterEn.getLsbD 7 = false) ∧
    (let x := { launch0 with resetReq := true, resetAt := 500 }
     let s := atLadder (fun l => { l with launchGrace := 0 }) (hartState fun h => { h with launch := some x })
     (s.b.core 0).owner = 1 ∧ (s.b.core 0).hart.launch = some x ∧ (s.b.core 0).launchOver = false ∧
       x.resetAt + s.b.ladder.launchGrace * usClk ≤ s.b.time.mclk) ∧
    (let s := atLadder fun l => { l with mgmtExp := [(1, 400), (3, 0)] }
     (1, 400) ∈ s.b.ladder.mgmtExp ∧ s.b.time.mclk < 400 + hourClk ∧ s.b.ladder.mgmtHalted = [] ∧ s.b.start.stage ≠ 0) := by decide +kernel

def rung0 : EngRung := { core := 0, unit := 0, cause := 1, suspects := [16], stamp := 0x50000 }

theorem witness_rungs_asked :
    (Admitted s0.b 8 0x9000 7 [5]) ∧ (Admitted s0.b 10 (0x9100 + 1) 6 [1]) ∧
    (let s := atLadder fun l => { l with blockBusy := some (2 ^ 40) }
     s.b.power.level ≠ 5 ∧ s.b.ladder.blockBusy = some (2 ^ 40) ∧ s.b.rungBound 4 ≤ 2 ^ 40) ∧
    (s0.b.power.level ≠ 5 ∧ s0.b.ladder.blockBusy = none ∧ s0.b.rungsLate = []) ∧
    (let s := atLad fun l => { l with busy := some (2, 2 ^ 40), engRung := some rung0, suspects := [16] }
     let s := { s with b := s.b.modCtx 16 fun c => { c with st := .resetting } }
     s.b.power.level ≠ 5 ∧ s.b.ladder.blockBusy = none ∧ s.b.live = [1] ∧ s.b.rungDone 1 = false ∧ (s.b.slice 1).ladder.busy = some (2, 2 ^ 40) ∧
       s.b.rungBound 2 ≤ 2 ^ 40) ∧
    (s0.b.trayOver = false ∧
      let s := atLadder fun l => { l with trayFrom := some 50, trayHold := 0 }
      s.b.trayOver = true ∧ s.b.ladder.trayReq = false) := by unfold Admitted; decide +kernel

theorem witness_operator_rung : Admitted s0.b 8 0x9000 7 [4] ∧ s0.b.dict.roleMask 8 = rOP := by unfold Admitted; decide +kernel

theorem witness_rungs_run :
    (let d : Nat × Nat × Nat × Dword := (0, 0, 1, 5)
     let s := atLadder (fun l => { l with dueUnit := [d, (1, 2, 1, 9)] }) busyEngine
     (s.b.core 0).owner ≠ 0 ∧ (s.b.ladder.dueUnit.find? fun x => x.1 == 0 && x.2.1 == 0) = some d ∧ s.b.rungDone 1 = true ∧
       (∀ x ∈ s.b.ladder.dueUnit, (s.b.core x.1).owner = (s.b.core 0).owner → dueBefore x d = false) ∧ 16 ∈ s.b.unitCtxs 0 0 ∧
       (s.b.runningOp 0 0).isSome = true ∧ (s.b.ctx 16).st = .active) ∧
    (let s := atLadder (fun l => { l with dueSlice := [(1, 8, 1000, 70)] }) busyEngine
     (s.b.ladder.dueSlice.find? fun x => x.1 == 1) = some (1, 8, 1000, 70) ∧ (s.b.slice 1).st ≠ .none ∧ 0 ∈ s.b.coresOf 1 ∧ 16 ∈ s.b.ctxsOf 1) ∧
    (let s := atLadder fun l => { l with dueBlock := some (7, 70), duePower := some (9, 70) }
     s.b.ladder.dueBlock = some (7, 70) ∧ s.b.ladder.duePower = some (9, 70) ∧ s.b.ladder.trayFrom = none ∧ s.b.live = [1]) ∧
    (let s := atLad fun l => { l with engRung := some rung0 }
     (s.b.slice 1).ladder.engRung = some rung0 ∧ (s.b.slice 1).ladder.sampling = none ∧ (∀ c ∈ rung0.suspects, (s.b.ctx c).st ≠ .resetting) ∧
       rung0.suspects ≠ [] ∧ (s.b.slice 1).ladder.replay = none) := by decide +kernel

/-- Context 16 is a suspect, and the slice has its turns to give. -/
def replay0 (turn : Option Nat) (left : List Nat) : Replay := { core := 0, unit := 0, left := left, turn := turn, turnStride := 2, reserved := turn.isSome }
def replaying (r : Replay) : State :=
  atLad (fun l => { l with replay := some r, suspects := r.left }) (st fun b => b.modCtx 16 fun c => { c with st := .suspect })

theorem witness_replay :
    (let s := atLadder (fun l => { l with sampleLimit := 1 }) (atLad fun l => { l with sampling := some (0, [1, 2], [3]), sampleRan := 750 })
     (s.b.slice 1).ladder.sampling = some (0, [1, 2], [3]) ∧ s.b.power.level ≠ 5 ∧ s.b.ladder.sampleClks ≤ (s.b.slice 1).ladder.sampleRan) ∧
    (let s := replaying (replay0 none [16])
     (s.b.slice 1).ladder.replay = some (replay0 none [16]) ∧ (s.b.ctx 16).st = .suspect ∧ (s.b.slice 1).ladder.irqTurn = false ∧
       (s.b.slice 1).ladder.waitingReplays = [] ∧ (s.b.slice 1).ladder.engRung = none) ∧
    (let s := replaying (replay0 (some 17) [16])
     (s.b.slice 1).st ≠ .none ∧ s.b.gated = false ∧ (s.b.slice 1).ladder.replay = some (replay0 (some 17) [16]) ∧
       (replay0 (some 17) [16]).left ≠ []) ∧
    (let s := replaying (replay0 (some 16) [])
     (s.b.slice 1).ladder.replay = some (replay0 (some 16) []) ∧ (s.b.slice 1).ladder.waitingReplays = []) ∧
    (let s := atLadder (fun l => { l with turnLimit := 5 }) (replaying (replay0 (some 17) [16]))
     (replay0 (some 17) [16]).turnStride + s.b.ladder.turnLimit ≤ s.b.time.count.toNat) := by decide +kernel

theorem witness_farrier :
    let s := atLadder fun l => { l with farrier := true }
    (s.b.ladder.farrier = true ∧ s.b.substWaits true 0 = false ∧ (s.b.core 0).owner ≠ 0 ∧ s.b.rungOn 1 = false ∧ (s.b.spareCore 0).isSome = true ∧
      s.b.substWaits true 63 = false ∧ (s.b.core 63).owner = 0) ∧
    (atLadder fun l => { l with farrier := true, dueBlock := some (7, 70) }).b.rungOn 1 = true ∧
    (let s := atLadder (fun l => { l with farrier := true }) (st fun b => { b with cores := (List.range 8).map fun c => (c, core1 1) })
     s.b.spareCore 0 = none ∧ s.b.rungOn 1 = false) ∧
    (s.b.start.commons.contains 4 = false ∧ s.b.substWaits false 4 = false ∧ s.b.groupOwner 4 ≠ 0 ∧ (s.b.spareGroup 4).isSome = true ∧
      s.b.start.commons.contains 31 = false ∧ s.b.substWaits false 31 = false ∧ s.b.groupOwner 31 = 0 ∧ s.b.recon.shimOf 31 < 32) ∧
    ((s.b.core 63).spareBank = none ∧ s.b.ladder.usedBanks.getLsbD 63 = false ∧ s.b.ladder.usedWays.getLsbD 7 = false ∧
      s.b.wayOwner 0 0 ≠ 0 ∧
      s.b.ladder.bankCopies = [] ∧ s.b.ladder.wayDue = [] ∧ s.b.power.level < 2) ∧
    (let s := atLadder fun l => { l with farrier := true, groupCopies := [(4, 31, 300)], bankCopies := [(0, 3, 2)] }
     s.b.ladder.groupCopies = [(4, 31, 300)] ∧ s.b.ladder.bankCopies = [(0, 3, 2)] ∧ s.b.power.level < 2) ∧
    2 ≤ (atPower fun p => { p with level := 2 }).b.power.level := by decide +kernel

/-! ### Securing -/

def atJob (f : Job → Job) (s : State := s0) : State := { s with b := s.b.modJob 1 2 f }

/-- A manifest of two regions and one context. -/
def manifestBytes : List Byte :=
  padded 384 (toLe 2 1 ++ toLe 2 2 ++ [1] ++ padded 11 [] ++ padded 256 (toLe 4 16) ++ toLe 8 (base1 + 0x200000) ++ toLe 8 256 ++
    toLe 8 (base1 + 0x210000) ++ toLe 8 128)
def manifest0 : Manifest := manifestOf manifestBytes

/-- The slice has fences 33 and 34, and the manifest in its memory, written under its key. -/
def sJ : State :=
  let k := gaKey (base1 + 0x400000)
  let s := withFence fence7 s0
  { s with b := { s.b.modFence 34 fun _ => fence7 with mem := {
      bytes := (manifestBytes.zipIdx.filter fun x => x.1 != 0).map fun x => (k + x.2, x.1)
      keyGen := (List.range 3).map fun i => (k / 128 + i, 2), poison := [] } } }
def job0 : Job :=
  { Job.reset with
    manifestAddr := BitVec.ofNat 64 (base1 + 0x400000), fences := 0x00220021, window := 0x1000200000040003, partner := 0x0005000000100000
    restoreFrom := 0x0005000000100000, port := 9, cls := 2 }

/-- What stood at the START of a window. -/
def start0 : CopyStart := { clk := 1000, step := 7, stride := 7, sr := [], held := [], verdict := 0 }
def armedJob : Job :=
  { job0 with
    st := .armed, armed := some manifest0, armedFences := 0x00220021, armedWindow := 0x1000200000040003
    armedAddr := BitVec.ofNat 64 (base1 + 0x400000), lastStep := 3 }
def copyAt (p : CopyPh) : Copy := { tag := 7, ph := p, start := start0, bank := 1, sent := [], heardAt := 0 }
def restoreAt (p : RestPh) : Restore := { tag := 7, ph := p, manifest := manifest0, trailers := [padded 128 [1]], left := [1], bytes := [], heardAt := 0 }

def plainJob : State := atJob (fun _ => job0) sJ
def copyingJob : State := atJob (fun _ => { armedJob with st := .copying, copy := some (copyAt .zeroing) }) sJ
def restoringJob : State := atJob (fun _ => { armedJob with st := .restoring, restore := some (restoreAt (.body 0)) }) sJ

theorem witness_securing_writes :
    Admitted plainJob.b 10 (jobIndex 1 2) 2 [1] ∧ Admitted plainJob.b 10 (jobIndex 1 2) 2 [2] ∧ Admitted plainJob.b 10 (jobIndex 1 2) 2 [3] ∧
    Admitted plainJob.b 9 (jobIndex 1 2) 6 (toLe 8 0x0005000000200000) ∧ Admitted copyingJob.b 9 (jobIndex 1 2) 6 (toLe 8 0x0005000000200000) := by
  unfold Admitted; decide +kernel

theorem manifest_head : plainJob.b.rdOwn 1 (base1 + 0x400000) 272 = manifestBytes.take 272 := by decide +kernel

theorem manifest_whole : plainJob.b.rdOwn 1 (base1 + 0x400000) 304 = manifestBytes.take 304 := by decide +kernel

theorem manifest_read : plainJob.b.readManifest 1 (dfld (plainJob.b.job 1 2).manifestAddr 56 0) = (manifest0, none) := by
  rw [show dfld (plainJob.b.job 1 2).manifestAddr 56 0 = base1 + 0x400000 by decide +kernel]
  unfold Block.readManifest
  simp only [manifest_head, manifest_whole, show 272 + 16 * min 256 (leNat (((manifestBytes.take 272).drop 2).take 2)) = 304 by decide +kernel]
  decide +kernel

theorem witness_arm : plainJob.b.armReason 1 2 = (manifest0, 0) := by
  unfold Block.armReason
  simp only [manifest_read]
  decide +kernel

theorem witness_arm_refused : (((atJob (fun _ => { job0 with fences := 0x00210021 }) sJ).b.armReason 1 2).2 == 6) = true := by decide +kernel

theorem witness_restore : plainJob.b.restoreReason 1 2 = (manifest0, 0) := by
  unfold Block.restoreReason
  simp only []
  rw [show (plainJob.b.job 1 2).manifestNow = dfld (plainJob.b.job 1 2).manifestAddr 56 0 by decide +kernel]
  simp only [manifest_read]
  decide +kernel

theorem witness_copy_running :
    ((copyingJob.b.job 1 2).copy == some (copyAt .zeroing) && (copyAt .zeroing).ph != .acked) = true := by decide +kernel

theorem witness_restore_running :
    ((restoringJob.b.job 1 2).copy == none && (restoringJob.b.job 1 2).restore == some (restoreAt (.body 0))) = true := by decide +kernel

/-- SECURE_TIMEOUT management clocks after the last response, and before. -/
theorem witness_secure_late :
    copyingJob.b.secureLate 0 = false ∧
    (let s : State := { copyingJob with b := copyingJob.b.modTime fun t => { t with mclk := 2 ^ 40 } }
     s.b.secureLate (copyAt .zeroing).heardAt = true ∧ s.b.secureLate (restoreAt (.body 0)).heardAt = true) := by decide +kernel

theorem witness_restore_not_ended : ∀ k, (restoreAt (.body 0)).ph ≠ .ended k := by intro k h; cases h

/-- An ARM of a job that is armed keeps its step fence, and what its manifest lists, or not. -/
theorem witness_armed_again :
    (let x := ((atJob (fun _ => armedJob) sJ).b.job 1 2)
     x.armed.isSome = true ∧ stepFence x.armedFences = stepFence x.fences ∧ x.armed.map (·.regions) = some manifest0.regions) ∧
    (plainJob.b.job 1 2).armed.isSome = false := by decide +kernel

/-- The window of a job has opened, and its START was as given. -/
def startsAt (level : Nat) (x : Job) (c : CopyStart := start0) : State :=
  let s := atJob (fun _ => { x with startDue := some c }) sJ
  { s with b := s.b.modPower fun p => { p with level := level } }

/-- The hypotheses under which SECURE_COPY_START acts on job 2 of slice 1. -/
def copyDue (s : State) : Bool := s.b.copyDue 1 2 && !s.b.earlier s.fuse 7

theorem witness_copies :
    ([startsAt 0 armedJob, startsAt 4 armedJob, startsAt 0 { armedJob with partner := 0 }, startsAt 0 { armedJob with valid := true, lastStep := 7 },
      startsAt 0 { armedJob with valid := true, lastStep := 6 }, startsAt 0 armedJob { start0 with verdict := 3 }, startsAt 0 job0].all copyDue) = true ∧
    (let s := startsAt 0 armedJob
     (s.b.job 1 2).startDue = some start0 ∧ start0.verdict = 0 ∧ (s.b.job 1 2).st = .armed ∧ (s.b.job 1 2).valid = false ∧ s.b.power.level < 4 ∧ (s.b.job 1 2).partnerAt ≠ 0 ∧ s.b.isOwn (s.b.job 1 2).partnerAt = false ∧
       (start0.step - 6).toNat = 1 ∧ (start0.step - 7).toNat = 0) ∧
    (let s := atJob (fun _ => { armedJob with st := .copying, copy := some (copyAt .acked) }) sJ
     (s.b.job 1 2).copy = some (copyAt .acked)) ∧
    ([11, 12, 13].all fun k =>
      ((atJob (fun _ => { armedJob with st := .restoring, restore := some (restoreAt (.ended k)) }) sJ).b.job 1 2).restore == some (restoreAt (.ended k))) = true := by
  decide +kernel

/-- The window of an armed job, in a stride that it selects. -/
theorem witness_securing_window :
    let s := atJob (fun _ => armedJob) sJ
    let s : State := { s with b := s.b.modTime fun t => { t with phase := 0x1800 } }
    s.b.time.started = true ∧ winActive (s.b.windowDesc (.secure 1 2)) s.b.time.count.toNat = true ∧
      winStart (s.b.windowDesc (.secure 1 2)) ≤ s.b.phaseNow ∧ s.b.phaseNow < winEnd (s.b.windowDesc (.secure 1 2)) ∧
      ∀ x ∈ s.b.time.windows, x.1 ≠ WindowId.secure 1 2 := by decide +kernel

/-- A stream from slice 2 of package 6, and the area of slice 1 that it may open. -/
def src1 : FlitSrc := { package := 6, slice := 2, tag := 33 }
def grant1 (base rights : Nat) : List Byte := toLe 8 base ++ toLe 4 16 ++ [1, BitVec.ofNat 8 rights] ++ toLe 2 6 ++ [2, 0]
def holding : State :=
  { sM with b := ({ sM.b with dict := { sM.b.dict with grants := [(3, grant1 (base1 + 0x800000) 3)] } }).modSlice 1 fun x =>
      { x with holdAreas := [(2, toLe 8 (base1 + 0x800000) ++ toLe 4 16 ++ [0, 5] ++ toLe 2 6 ++ [2, 0])] } }
def stream1 (pos : Nat) (reading : Bool) : InStream :=
  { port := 1, package := 6, slice := 2, tag := 33, addr := base1 + 0x800000, key := 0, len := 8 * 65536, pos := pos, reading := reading }
def streaming (x : InStream) : State := { holding with b := holding.b.modPorts fun p => { p with inStreams := [x] } }

/-- The hypotheses about a stream that slice 1 holds. -/
def streamHeld (x : InStream) : Bool :=
  let b := (streaming x).b
  b.inStream 1 src1 == some x && b.streamOwner x == some 1 && b.holdsKey 1 x.key && b.keyGen x.key != 0

/-- The area holds two banks of the source's job, where the source has said how large they are: a free value (R343). -/
theorem witness_area (h : 2 * bankBytes (base1 + 0x800000) 5 6 2 ≤ 16 * 65536) : holding.b.areaFor (base1 + 0x800000) 5 6 2 = some (1, 0) := by
  have area (k : Nat) (hk : (k == 2) = false) : areaOf (Tab.get [] (holding.b.slice 1).holdAreas k) = (0, 0, 0, 0, 0, 0) := by
    have : Tab.get [] (holding.b.slice 1).holdAreas k = if k == 2 then toLe 8 (base1 + 0x800000) ++ toLe 4 16 ++ [0, 5] ++ toLe 2 6 ++ [2, 0] else [] := by
      have h2 : ¬2 = k := fun e => by simp [← e] at hk
      simp [holding, Tab.get, hk, h2]
    rw [this, hk]; decide +kernel
  have two : areaOf (Tab.get [] (holding.b.slice 1).holdAreas 2) = (base1 + 0x800000, 16 * 65536, 0, 5, 6, 2) := by decide +kernel
  have g : (holding.b.holdsKey 1 0 && holding.b.ownRange 1 (base1 + 0x800000) (16 * 65536) &&
      holding.b.granted? 6 2 (base1 + 0x800000) (16 * 65536) 3 == some 1) = true := by decide +kernel
  simp only [Bool.and_eq_true, beq_iff_eq] at g
  rw [Block.areaFor, show holding.b.live = [1] by decide +kernel, show List.range 9 = [0, 1, 2, 3, 4, 5, 6, 7, 8] from rfl]
  simp [List.findSome?, area, two, h, g.1.1, g.1.2, g.2]

theorem witness_streams :
    holding.b.gated = false ∧ holding.b.coh.busy = [] ∧ holding.b.coh.msgs = [] ∧
    holding.b.areaFor (base1 + 0x800000) 4 6 2 = none ∧
    streamHeld (stream1 0 false) = true ∧ streamHeld (stream1 0 true) = true ∧ streamHeld (stream1 (8 * 65536 - 128 - 1) false) = true ∧
    (let r := { restoreAt (.trailer 0) with bytes := padded 126 [], tag := 33 }
     let s := atJob (fun _ => { armedJob with st := .restoring, restore := some r }) sJ
     let b := s.b.modPorts fun p => { p with remote := [(33, .stream 1 2)] }
     b.inStream 1 src1 = none ∧ b.restoreTag src1.tag = some (1, 2) ∧ (b.job 1 2).restore = some r ∧ (r.bytes ++ [1]).length < 128) := by
  decide +kernel

/-- Restore data waits for an open stream; at REFILL_MBPS 750 a management clock carries a byte. -/
def refilling (part : Nat) : State :=
  let r : Refill := { port := 1, src := src1, flit := s0.b.sliceFlit 1 0x0B 33 [1, 2] }
  { holding with b := (holding.b.modDict fun d => { d with refillMbps := 750 }).modPorts fun p =>
      { p with inStreams := [stream1 0 true], refills := [r], refillPart := [(1, part)]
               links := [(1, { Link.reset with st := .up, phy := true, reqCredits := 1024, rspCredits := 1024 })] } }

theorem witness_refills :
    (let s := refilling 750
     let r := s.b.ports.refills.headD { port := 0, src := src1, flit := s0.b.sliceFlit 1 0 0 [] }
     s.b.ports.nextRefill 1 = some r ∧ (s.b.ports.link 1).st = .up ∧ (s.b.ports.link 1).rspCredits ≠ 0 ∧
       750 * r.flit.body.length ≤ Tab.get 0 s.b.ports.refillPart 1 + s.b.dict.refillMbps ∧
       Tab.get 0 (refilling 0).b.ports.refillPart 1 + s.b.dict.refillMbps < 750 * r.flit.body.length) := by decide +kernel

/-! ### The life cycle -/

def atLife (f : Life → Life) (s : State := s0) : State := { s with b := s.b.modLife f }
def noSlices (s : State) : State := { s with b := { s.b with slices := [], cores := [], recon := { s.b.recon with scrubbing := [] } } }

/-- A request or certificate: 256 bytes of zero but for those given at the start. -/
def asked (l : List Byte) : List Byte := padded 256 l
def provision0 : List Byte := asked ([1, 0, 3, 3] ++ padded 4 [] ++ toLe 8 5 ++ padded 40 [] ++ toLe 48 9)

/-- In INVALID, with one bit of the segment of TEST burnt. -/
def interrupted : State := { (atLife fun l => { l with lcs := 15 }) with fuse := 1 }

theorem witness_life_cycle :
    (let s := atLife fun l => { l with lcs := 1 }
     s.b.life.inTransition = false ∧ s.b.dict.roleMask 11 = rFAC ∧ Admitted s.b 11 0x6002 2 [1] ∧ Admitted s.b 11 0x6002 2 [2] ∧ Admitted s.b 11 0x6002 2 [4]) ∧
    (let s := atLife fun l => { l with lcs := 2, transReq := provision0 }
     provFormatBad s.b.life.transReq = false ∧ s.b.life.rngFault = false) ∧
    (let c := asked [1, 0, 2, 6]
     let s := noSlices (atLife fun l => { l with lcs := 2, transReq := c })
     reqField c 0 2 = 1 ∧ reqField c 2 1 = 2 ∧ reqField c 3 1 = 6 ∧ s.b.notQuiet = false ∧ reqField (asked [1, 0, 2, 7]) 3 1 = 7 ∧
       Admitted s.b 11 0x6002 2 [4] ∧ s.b.dict.roleMask 11 = rFAC) := by unfold Admitted; decide +kernel

theorem witness_completion :
    (let r := completion interrupted.fuse interrupted.b.life.transReq interrupted.b.life.rngFault
     interrupted.b.life.lcs = 15 ∧ interrupted.b.life.burn = [] ∧ r = (0, .bit 1 :: r.2.drop 1)) ∧
    (let s := { interrupted with fuse := 4 }
     s.b.life.inTransition = false ∧ (completion s.fuse s.b.life.transReq s.b.life.rngFault).1 = 8 + 1) := by decide +kernel

theorem witness_burning :
    (let s := atLife fun l => { l with burn := [.bit 5, .bit 6] }
     s.b.life.burn = [.bit 5, .bit 6] ∧ s.fuse.getLsbD 5 = false ∧ s.b.life.tries = 0 ∧ s.b.recon.heldCommits = []) ∧
    (atLife fun l => { l with burn := [.bit 5, .restart] }).b.life.burn = .bit 5 :: .restart :: [] ∧
    (atLife fun l => { l with burn := [.bit 5], tries := 1 }).b.life.tries ≠ 0 ∧
    (let s := { (atLife fun l => { l with svn := 2 }) with b := (atLife fun l => { l with svn := 2 }).b.modStart fun t => { t with imageSvn := 5 } }
     Admitted s.b 8 0x6003 1 [5] ∧ (5 : Byte).toNat ≤ s.b.start.imageSvn ∧ (5 : Byte).toNat ≤ 128 ∧ s.b.life.burn = [] ∧ s.b.start.imageSvn < (6 : Byte).toNat ∧
       Admitted s.b 8 0x6003 1 [6]) := by unfold Admitted; decide +kernel

/-- Certificates with a key and a signature of zeros. -/
def debugCert : List Byte := asked ([1, 0, 1, 5, 3, 0, 0, 0] ++ padded 40 [] ++ padded 4 [] ++ [4, 0])
def moveCert (target : Byte) : List Byte := asked [1, 0, 2, target]

theorem certBad_zero {b : Block} {fuse : BitVec 4096} {c : List Byte} {kind : Nat} (hf : certFormatBad c kind = false)
    (hs : reqField c 8 8 = b.start.serial.toNat) (hr : b.life.rngFault = false) (hc : certBytes c 16 32 = b.life.challenge)
    (hk : Config.sha384 (certBytes c 56 97) = debugKey fuse)
    (hg : Config.ecdsaOk (certBytes c 56 97) (certBytes c 0 160) (certBytes c 160 96) = true) : b.certBad fuse c kind = 0 := by
  unfold Block.certBad
  rw [hf, hs, hr, hc, hk, hg, Bool.false_or, bne_self_eq_false, bne_self_eq_false, bne_self_eq_false]
  rfl

/-- The block that these certificates are addressed to. -/
def certified (lcs : Nat) (c : List Byte) : State := noSlices (atLife fun l => { l with lcs := lcs, transReq := c, cert := c, challenge := padded 32 [] })

/-- A certificate that is signed with the key whose digest the fuses hold is authority enough: both are the certificate's and the fuses' to give. -/
theorem witness_certificates (hk : Config.sha384 (padded 97 []) = debugKey State.reset.fuse)
    (hd : Config.ecdsaOk (padded 97 []) (debugCert.take 160) (padded 96 []) = true)
    (hm : ∀ t : Byte, Config.ecdsaOk (padded 97 []) ((moveCert t).take 160) (padded 96 []) = true) :
    (certified 4 debugCert).b.certBad (certified 4 debugCert).fuse debugCert 1 = 0 ∧
    ∀ t ∈ ([6, 7] : List Byte), (certified 4 (moveCert t)).b.certBad (certified 4 (moveCert t)).fuse (moveCert t) 2 = 0 := by
  have key (c : List Byte) (h : certBytes c 56 97 == padded 97 [] && certBytes c 160 96 == padded 96 [] && certBytes c 0 160 == c.take 160 := by decide +kernel) :
      certBytes c 56 97 = padded 97 [] ∧ certBytes c 160 96 = padded 96 [] ∧ certBytes c 0 160 = c.take 160 := by simpa [and_assoc] using h
  have ok (lcs kind : Nat) (c : List Byte) (he : Config.ecdsaOk (padded 97 []) (c.take 160) (padded 96 []) = true)
      (hb : certBytes c 56 97 = padded 97 [] ∧ certBytes c 160 96 = padded 96 [] ∧ certBytes c 0 160 = c.take 160)
      (h : (certFormatBad c kind == false && reqField c 8 8 == (certified lcs c).b.start.serial.toNat && (certified lcs c).b.life.rngFault == false &&
        certBytes c 16 32 == (certified lcs c).b.life.challenge) = true) : (certified lcs c).b.certBad (certified lcs c).fuse c kind = 0 := by
    simp only [Bool.and_eq_true, beq_iff_eq] at h
    obtain ⟨h1, h2, h3⟩ := hb
    exact certBad_zero h.1.1.1 h.1.1.2 h.1.2 h.2 (h1 ▸ hk) (by rw [h1, h2, h3]; exact he)
  refine ⟨ok 4 1 debugCert hd (key _) (by decide +kernel), fun t ht => ?_⟩
  simp only [List.mem_cons, List.not_mem_nil, or_false] at ht
  obtain rfl | rfl := ht
  · exact ok 4 2 _ (hm 6) (key _) (by decide +kernel)
  · exact ok 4 2 _ (hm 7) (key _) (by decide +kernel)

theorem witness_certified_moves :
    (∀ t ∈ ([6, 7] : List Byte), let s := certified 4 (moveCert t)
      s.b.life.inTransition = false ∧ Admitted s.b 11 0x6002 2 [4] ∧ s.b.life.lcs = 4 ∧ s.b.life.rngFault = false ∧ s.b.notQuiet = false ∧
        s.b.life.transReq = moveCert t ∧ reqField (moveCert t) 3 1 = t.toNat) ∧
    (let s := certified 4 debugCert
     Admitted s.b 11 0x6001 3 [1] ∧ s.b.life.debugOpen = false ∧ s.b.life.cert = debugCert ∧ s.b.life.lcs = 4 ∧ s.b.life.inTransition = false) := by
  unfold Admitted; decide +kernel

theorem witness_debug_sessions :
    (let s := atLife fun l => { l with cert := moveCert 6 }
     s.b.certBad s.fuse s.b.life.cert 1 = 0 + 1 ∧ Admitted s.b 11 0x6001 3 [1] ∧ s.b.life.debugOpen = false) ∧
    (let s := atLife fun l => { l with debugOpen := true, rights := 63, dslices := 2, closeStride := 7 }
     Admitted s.b 11 0x6001 3 [2] ∧ s.b.life.debugOpen = true ∧ s.b.life.closeStride.toNat ≤ s.b.time.count.toNat ∧
       s.b.zeroNow = false ∧ s.b.earlier s.fuse 10 = false) ∧
    Admitted s0.b 10 (0x6200 + 1) 1 [0] ∧ Admitted s0.b 10 (0x6200 + 1) 1 [1] ∧
    (let s := atLife fun l => { l with lcs := 6 }
     s.b.readoutOk .fuses 0 40 = true ∧ s.b.readoutOk .fuses 0 41 = false ∧ s.b.readoutOk .fuses 75 9 = false ∧ s.b.readoutOk .fuses 76 9 = true) ∧
    s0.b.readoutOk (.accumulator 0 0 0) 0 8 = false := by unfold Admitted; decide +kernel

/-- The adapter digest and the seal of slice 1. -/
def atSec (f : SliceSec → SliceSec) (s : State := sM) : State := atSlice (fun x => { x with sec := f x.sec }) s
/-- A record written under a tag, which a flash write has still to end. -/
def box0 (tag : List Byte) : SealBox := { key := sealKey State.reset.fuse tag, aad := tag, data := [4, 5] }
def sealed0 (tag : List Byte) : State :=
  { atSec (fun x => { x with sealIndex := 3, sealTag := tag }) with flash := { Flash.reset with held := [(3, box0 (padded 32 []))] } }

theorem find_first (y : SealBox) : Tab.find [(3, y)] 3 = some y := rfl

theorem held_first (y : SealBox) : ({ Flash.reset with held := [(3, y)] } : Flash).sealedAt 3 = some y := rfl

theorem witness_sealed_record :
    (sealed0 (padded 32 [])).flash.sealedAt (sealRecord 1 ((sealed0 (padded 32 [])).b.slice 1).sec.sealIndex) = some (box0 (padded 32 [])) ∧
    (box0 (padded 32 [])).key = sealKey (sealed0 (padded 32 [])).fuse (box0 (padded 32 [])).aad ∧
    (box0 (padded 32 [])).aad = ((sealed0 (padded 32 [])).b.slice 1).sec.tag ∧ (box0 (padded 32 [])).aad ≠ ((sealed0 [1]).b.slice 1).sec.tag ∧
    Tab.find (sealed0 []).flash.held (sealRecord 1 3) = some (box0 (padded 32 [])) :=
  ⟨by rw [show sealRecord 1 ((sealed0 (padded 32 [])).b.slice 1).sec.sealIndex = 3 by decide +kernel]; exact held_first _, by simp only [box0, sealed0, atSec, atSlice, sM, s0, st, line],
    by decide +kernel, by decide +kernel, by rw [show sealRecord 1 3 = 3 by decide +kernel]; exact find_first _⟩

/-- No record, with a flash that can be read and one that cannot; and a record whose key is not the tag's. -/
theorem witness_no_sealed_record (other : List Byte) (h : other ≠ sealKey State.reset.fuse (padded 32 [])) :
    (atSec fun x => { x with sealIndex := 3 }).flash.sealedAt (sealRecord 1 3) = none ∧
    Tab.find (atSec fun x => { x with sealIndex := 3 }).flash.held (sealRecord 1 3) = none ∧
    (atSec fun x => { x with sealIndex := 3 }).flash.unread.contains (sealRecord 1 3) = false ∧
    ({ Flash.reset with unread := [3] } : Flash).unread.contains (sealRecord 1 3) = true ∧
    ({ box0 (padded 32 []) with key := other }).key ≠ sealKey State.reset.fuse (padded 32 []) :=
  ⟨by decide +kernel, by decide +kernel, by decide +kernel, by decide +kernel, h⟩

theorem witness_extend_and_seal :
    (let s := sM
     let v := toLe 8 (base1 + 0x200000) ++ toLe 8 256
     Admitted s.b 10 (0x6200 + 1) 2 v ∧ (s.b.slice 1).sec.extendStatus ≠ 1 ∧ s.b.extendOk 1 (leNat (v.take 8)) (leNat ((v.drop 8).take 8)) = true) ∧
    (let s := atSec fun x => { x with extendStatus := 1, extendRange := (base1 + 0x200000, 256), extendAt := 500 }
     (s.b.slice 1).sec.extendStatus = 1 ∧ (s.b.slice 1).sec.extendAt ≤ s.b.time.mclk ∧
       s.b.time.mclk < ((atSec fun x => { x with extendAt := 501 }).b.slice 1).sec.extendAt) ∧
    (Admitted sM.b 10 (0x6300 + 1) 3 (padded 1024 [1]) ∧ sM.b.life.debugOpen = false ∧ sM.b.life.lcs ≠ 6 ∧
      sM.flash.sealTooSoon sM.b (sealRecord 1 (sM.b.slice 1).sec.sealIndex) = false) ∧
    (let s := sealed0 []
     s.b.busyMed 10 = false ∧ s.b.locked = false ∧ ((dictEntry (0x6300 + 1) 3).any fun e => e.canRead s.b.dict 10) = true ∧ (s.b.slice 1).st ≠ .none ∧
       s.b.start.stage ≠ 0 ∧ s.b.dict.isMed 10 = true ∧ s.b.life.debugOpen = false) ∧
    (atLife fun l => { l with challenge := [4] }).b.life.challenge ≠ [] := by unfold Admitted; decide +kernel

/-- A block that can attest, and one that cannot. -/
def attesting : State := atLife fun l => { l with aliasKey := some [3], aliasCert := [1] }

theorem witness_attestation :
    (attesting.b.start.stage ≠ 0 ∧ attesting.b.locked = false ∧ attesting.b.attests = true ∧ attesting.b.life.rngFault = false) ∧
    s0.b.attests = false ∧ (s0.b.dict.isMed 8 = false ∧ s0.b.dict.isMed 10 = true) := by decide +kernel

theorem witness_certificate_chain : 0 < (attesting.b.chain attesting.flash).length := by decide +kernel

theorem witness_measurements : attesting.b.measurements attesting.fuse 8 5 ≠ [] := by decide +kernel

/-! ### The object dictionary, events and images -/

def atDict (f : Dict → Dict) (s : State := s0) : State := { s with b := s.b.modDict f }
def event0 (seq : Nat) (acked : List Nat) : Ev :=
  { seq := seq, code := 3, pkgSlice := 1, package := 2, time := 4, arg0 := 1, arg1 := 2, acked := acked }

theorem witness_dictionary :
    (sealSlice 0x1030 1 = none ∧ s0.b.busyMed 8 = false ∧ ((dictEntry 0x1030 1).any fun e => s0.b.mayRead e 8 0x1030 1) = true ∧
      dictEntry 0 0 = none ∧ ((dictEntry 0x1030 1).all fun e => !s0.b.mayRead e 10 0x1030 1) = true) ∧
    (s0.b.locked = false ∧ ((dictEntry 0x1030 1).any fun e => e.canWrite s0.b.dict 8) = true) ∧
    (sliceIndex 0x1030 = none ∧ (ownLow 8 0 0x1030 1 []).isNone = true ∧ s0.b.life.lcs ≠ 15 ∧ s0.b.writeCheck 8 0x1030 1 [] ≠ none) ∧
    (∀ v ∈ ([9, 10, 10000, 10001] : List Nat), Admitted s0.b 8 0x1030 1 (toLe 2 v) ∧ leNat (toLe 2 v) = v) := by unfold Admitted; decide +kernel

theorem witness_images :
    (let s := atStart fun t => { t with imageCount := 3 }
     Admitted s.b 8 0x1010 1 [1] ∧ s.b.start.imageStatus ≠ 1 ∧ s.b.start.imageCount ≠ 0) ∧
    (let s := atStart fun t => { t with imageStatus := 1, imageLeft := 0, imageBytes := [1, 2, 3], imageCount := 3 }
     s.b.start.imageStatus = 1 ∧ s.b.imageWhole = true) := by unfold Admitted; decide +kernel

theorem witness_events :
    (let s := atDict fun d => { d with evDue := [event0 5 []], evSeq := 2 ^ 32 - 1, evQueue := [event0 5 [9]] }
     s.b.dict.evDue = [event0 5 []] ∧ s.b.dict.evQueue.length < 64 ∧ s.b.dict.evOwed = 0 ∧ s.b.dict.evSeq < 2 ^ 32) ∧
    (let s := atDict fun d => { d with evQueue := [event0 5 [9]] }
     s.b.dict.evQueue = [event0 5 [9]] ∧ s.b.time.mclk < (event0 5 [9]).sentAt + s.b.dict.eventRetry * 750000 ∧
       (atDict fun d => { d with eventRetry := 0 }).b.dict.eventRetry * 750000 + (event0 5 [9]).sentAt ≤ s.b.time.mclk) ∧
    (s0.b.dict.fms = [9] ∧ s0.b.locked = false ∧ s0.b.start.stage ≠ 0 ∧ s0.b.dict.isMed 8 = false) := by decide +kernel

/-! ### Links -/

def atPorts (f : Ports → Ports) (s : State := s0) : State := { s with b := s.b.modPorts f }
def atLink (f : Link → Link) : State := atPorts fun p => { p with links := Tab.upd Link.reset p.links 1 f }
def flit0 : Flit := s0.b.ownFlit 0x12 1 3 [1]

theorem witness_links :
    (let s := atLink fun l => { l with st := .training }
     (s.b.ports.link 1).st = .training ∧ (∀ x ∈ s.b.ports.tagPort, x.2 ≠ 1) ∧
       s.b.time.mclk < (s.b.ports.link 1).trainAt + 10000 * usClk ∧ (s.b.ports.link 1).trainAt + 10000 * usClk ≤ late.b.time.mclk) ∧
    (let s := atLink fun l => { l with st := .down, phy := false }
     (s.b.ports.link 1).st = .down ∧ (s.b.ports.link 1).phy = false ∧ Tab.get false s.b.power.on (portDomain 1) = true) ∧
    (let s := atLink fun l => { l with st := .up, phy := false, retrainAt := [490, 480] }
     (s.b.ports.link 1).st = .up ∧ (s.b.ports.link 1).phy = false ∧
       ((s.b.ports.link 1).retrainAt.filter fun c => s.b.time.mclk < c + 750000000).length < 3) ∧
    (let s := atLink fun l => { l with replay := [(3, 6, flit0), (4, 1, flit0)] }
     (s.b.ports.link 1).replay = [(3, 6, flit0), (4, 1, flit0)] ∧ (∀ x ∈ [(4, 1, flit0)], x.2.1 < 7) ∧ ∀ x ∈ (s.b.ports.link 1).replay, x.1 ≠ 9) ∧
    (let s := atLink fun l => { l with replay := [(2, 0, flit0), (3, 6, flit0), (4, 1, flit0)] }
     (s.b.ports.link 1).replay = [(2, 0, flit0)] ++ (3, 6, flit0) :: [(4, 1, flit0)] ∧ ∀ x ∈ [((2 : Nat), (0 : Nat), flit0)], x.1 ≠ 3) ∧
    (s0.b.gated = false ∧ s0.b.groupBehind (16 / 4) = some 4 ∧ s0.b.groupOwner 4 ≠ 31) ∧
    (atPorts fun p => { p with irq := [(3, true), (22, true)] }).b.ports.irq = [(3, true), (22, true)] := by decide +kernel

/-- The first line of a tile at the start of the commons has still to come: it is line 0 of the first port of the first group. -/
theorem witness_commons_read :
    let s := emitting runSt fun p => { p with look := [{ runIdx := 0, size := 2052, missing := [0], bad := [], ready := 0 }] }
    s.b.gated = false ∧ s.b.groupBehind (0 / 4) = some 0 ∧ s.b.groupOwner 0 = 31 ∧
      (s.b.parade.outstanding s.b.start.commons 0 (0 % 4)).find? (fun x => (commonsPlace s.b.start.commons x).2.2 == 0) = some 0 ∧
      ∀ a ∈ s.b.parade.outstanding s.b.start.commons 0 (0 % 4), (commonsPlace s.b.start.commons a).2.2 ≠ 9 := by decide +kernel

/-! ### Requests that arrive on a link -/

/-- What the statements ask where an uncached access has its turn at once. -/
def homesFree (b : Block) : Bool :=
  b.ports.atHome.isEmpty && b.coh.busy.isEmpty && b.coh.reserved.isEmpty && b.coh.waiting.isEmpty && b.coh.late.isEmpty &&
    b.coh.lines.all fun l => l.holdTo ≤ b.time.clk

/-- A grant of 1024 bytes to slice 2 of package 6, with every right. -/
def granting : State := { s0 with b := { s0.b with dict := { s0.b.dict with grants := [(3, grant1 (base1 + 0x200000) 7)] } } }
def poisoned0 : State := { granting with b := granting.b.setPoison (gaKey (base1 + 0x200080) / 128) true }
def inWrite0 (n : Nat) : InWrite := { port := 1, src := src1, addr := base1 + 0x200000, left := n }

theorem witness_remote_reads_and_writes :
    (granting.b.gated = false ∧ homesFree granting.b = true ∧ homesFree poisoned0.b = true ∧ granting.b.coh.msgs = [] ∧
      granting.b.coh.newest (gaKey (base1 + 0x200000) / 128) = none) ∧
    (let s := atPorts (fun p => { p with atHome := [.rd 2 src1 (base1 + 0x200000) 128] }) granting
     (s.b.ports.atHome.any (HomeUse.rd 1 src1 (base1 + 0x200000) 128).behind) = true ∧
       s.b.granted? 6 2 (base1 + 0x200000) 128 1 = some 1) ∧
    (badBytes 0 = true ∧ badBytes 128 = false ∧ dfld (BitVec.ofNat 64 (base1 + 0x200000)) 56 0 = base1 + 0x200000 ∧ granting.b.elsewhere (base1 + 0x200000) = false) ∧
    (granting.b.granted? 6 2 (base1 + 0x200000) 128 1 = some 1 ∧ granting.b.poisonIn (base1 + 0x200000) 128 = none) ∧
    (poisoned0.b.granted? 6 2 (base1 + 0x200000) 256 1 = some 1 ∧ poisoned0.b.poisonIn (base1 + 0x200000) 256 ≠ none) ∧
    s0.b.granted? 6 2 (base1 + 0x200000) 128 1 = none ∧ granting.b.granted? 6 2 (base1 + 0x200000) 128 2 = some 1 ∧
    s0.b.granted? 6 2 (base1 + 0x200000) 128 2 = none ∧
    ((List.range 16).any fun op => (atomicOf op).isSome) = true ∧ (base1 + 0x200000) % 8 = 0 ∧
    (granting.b.granted? 6 2 (base1 + 0x200000) 8 4 = some 1 ∧ granting.b.poisoned (gaKey (base1 + 0x200000)) = false ∧ granting.b.ownGen 1 ≠ 0) ∧
    s0.b.granted? 6 2 (base1 + 0x200000) 8 4 = none ∧
    (let s := atPorts (fun p => { p with inWrites := [inWrite0 128] }) granting
     s.b.inWrite 1 src1 = some (inWrite0 128) ∧ homesFree s.b = true ∧ s.b.elsewhere (inWrite0 128).addr = false ∧ (List.replicate 128 (0 : Byte)).length = (inWrite0 128).left) := by decide +kernel

/-- A fence that another package may signal. -/
def exported0 : State := withFence { fence7 with exported := true, key := 77 } s0

theorem witness_remote_messages_and_signals :
    (let t : Dword := BitVec.ofNat 64 ((s0.b.start.inst * 2 ^ 13) + 1)
     dfld t 15 13 = s0.b.start.inst ∧ dfld t 4 0 = 1 ∧ s0.b.roleMatches 1 t = true) ∧
    (let t : Dword := BitVec.ofNat 64 ((s0.b.start.inst * 2 ^ 13) + 2 ^ 32 + 1)
     dfld t 15 13 = s0.b.start.inst ∧ s0.b.roleMatches (dfld t 4 0) t = false) := by decide +kernel

/-- A handle of fence 33, as R261 packs it. -/
def handle0 (key : Nat) : Dword := BitVec.ofNat 64 (33 * 2 ^ 32 + key)

theorem witness_remote_signals :
    (hPackage (handle0 77) = exported0.b.dict.package ∧ hInstance (handle0 77) = exported0.b.start.inst ∧ hFence (handle0 77) = 33) ∧
    ((exported0.b.fenceSlice 33).isSome = true ∧ (exported0.b.fence 33).exported = true ∧ (exported0.b.fence 33).key.toNat = hKey (handle0 77) ∧
      0 < (9 - (exported0.b.fence 33).value).toNat ∧ (9 - (exported0.b.fence 33).value).toNat < 2 ^ 63) ∧
    (exported0.b.fence 33).key.toNat ≠ hKey (handle0 78) := by decide +kernel

/-- Core 0's hart waits for an answer on port 1. -/
def awaiting (u : RemoteUse) : State :=
  atPorts (fun p => { p with remote := [(33, u)], tagPort := [(33, 1)] }) { s0 with b := s0.b.modHart 0 fun h => { h with stall := some .access } }

theorem witness_remote_answers :
    ∀ u ∈ ([.load 0 5 2 false 4 0x1234, .store 0 0x1234, .atomic 0 5 0x1234, .message 0] : List RemoteUse),
      ((awaiting u).b.core 0).hart.stall = some .access ∧ Tab.find (awaiting u).b.ports.remote src1.tag = some u := by decide +kernel

/-! ### Federation, the aperture, registers and the control processors' accesses -/

def lead (f : StartUp → StartUp) (s : State := s0) : State := { s with b := s.b.modStart fun t => f { t with instCount := 3 } }
def baseLoad0 : BaseLoad := { left := 0, written := 4, fetched := false }

theorem witness_federation :
    (let s := withQueue queue1 s0
     s.b.gated = false ∧ (s.b.queue 1).takes 6 = true ∧ s.b.start.leadLost = false) ∧
    (let s := lead id
     4096 ≤ 4097 ∧ s.b.gated = false ∧ s.b.start.lead = true ∧ 4097 / 4096 ≠ s.b.start.inst ∧ 4097 / 4096 ∈ s.b.otherInsts) ∧
    (let s := lead (fun t => { t with lead := false }) (atParade fun p => { p with staged := some (stagedMap []), load := some baseLoad0 })
     s.b.gated = false ∧ s.b.start.lead = false ∧ s.b.parade.staged = some (stagedMap []) ∧ s.b.parade.load = some baseLoad0) ∧
    (let s := lead id
     2 ≠ s.b.start.inst ∧ 2 < s.b.start.instCount ∧ 2 ∉ s.b.start.lost) := by decide +kernel

theorem witness_aperture_and_registers :
    (s0.b.gated = false ∧ s0.b.apertureKey (gaKey (base1 + 0x200000)) 8 = some 2 ∧ s0.b.poisonIn (gaKey (base1 + 0x200000)) 8 = none) ∧
    (poisoned0.b.apertureKey (gaKey (base1 + 0x200080)) 8 = some 2 ∧ poisoned0.b.poisonIn (gaKey (base1 + 0x200080)) 8 ≠ none) ∧
    (homesFree s0.b = true ∧ homesFree poisoned0.b = true ∧ s0.b.coh.msgs = []) ∧
    s0.b.apertureKey (gaKey base1 + 2 ^ 37) 8 = some 2 ∧ s0.b.apertureKey 0 8 = none ∧ s0.b.apertureKey (gaKey base1 + 2 ^ 30 - 8) 9 = none ∧
    ((s0.b.slice 1).st ≠ .none ∧ s0.b.holdsKey 1 (fld (0 : Word).toNat 5 0) = true ∧ s0.b.holdsKey 1 (fld (1 : Word).toNat 5 0) = false) ∧
    ((atStart fun t => { t with released := false }).b.gated = true) ∧
    ((s0.b.queue 9).enable = false ∧ regAt 0x50000 = .nowhere ∧ regAt (0x50000 + 4) = .nowhere) := by decide +kernel

/-- A read of host memory that core 0's load waits for. -/
def hostRead0 : HostRead := { addr := 0x1000, len := 4, pasid := 0, use := .load 0 5 2 false 0x1234 }

theorem witness_host_completion :
    let s := atPorts (fun p => { p with hostReads := [(4, hostRead0)] }) { s0 with b := s0.b.modHart 0 fun h => { h with stall := some .access } }
    Tab.find s.b.ports.hostReads 4 = some hostRead0 ∧ hostRead0.use = .load 0 5 2 false 0x1234 ∧ s.b.ports.hostWait = [] ∧
      s.b.gated = false ∧ (s.b.core 0).hart.stall = some .access := by decide +kernel

/-- Core 0 with scratchpad addresses in x5 and x6: a line's first byte, and its last four. -/
def accessing : State := { s0 with b := s0.b.modHart 0 fun h => { h with x := [(5, 0x10000), (6, 0x1007C), (7, 0x2000)] } }

theorem witness_hart_accesses :
    HartRuns accessing.b 0 ∧ (∀ x ∈ accessing.b.ports.remote, x.2.hart ≠ some 0) ∧ (∀ x ∈ accessing.b.ports.hostReads, x.2.use.hart ≠ some 0) ∧
    (∀ x ∈ accessing.b.ports.hostWait, x.use.hart ≠ some 0) ∧ accessing.b.ports.waiting = [] ∧
    (let h := (accessing.b.core 0).hart
     (effAddr h 5 0).toNat < scratchEnd ∧ (effAddr h 5 0).toNat % 128 + 2 ^ 3 ≤ 128 ∧ (effAddr h 6 0).toNat % 128 + 2 ^ 2 ≤ 128 ∧
       128 < (effAddr h 6 0).toNat % 2 ^ 57 % 128 + 2 ^ 3 ∧ Tab.get false (accessing.b.core 0).poison ((effAddr h 5 0).toNat / 128) = false) ∧
    (let s := { accessing with b := accessing.b.modCore 0 fun c => { c with poison := [(0x200, true)] } }
     Tab.get false (s.b.core 0).poison ((effAddr (s.b.core 0).hart 5 0).toNat / 128) = true) := by unfold HartRuns; decide +kernel

theorem witness_hart_atomics :
    (let h := (accessing.b.core 0).hart
     (h.reg 5).toNat < scratchEnd ∧ (h.reg 5).toNat % 2 ^ 3 = 0 ∧ h.reservation ≠ some (scratchLine (h.reg 5).toNat)) ∧
    (let s : State := { accessing with b := accessing.b.modHart 0 fun h => { h with reservation := some (scratchLine 0x10000) } }
     (s.b.core 0).hart.reservation = some (scratchLine ((s.b.core 0).hart.reg 5).toNat)) := by decide +kernel

/-- Core 0's cluster holds the line of page 0x40's first byte, and x7 holds its address. -/
def cached0 : CLine :=
  { agent := .cluster 1 0, line := gaKey (base1 + 0x200000) / 128, st := .f, data := 77, key := 2, way := 0, age := 0, holdTo := 0 }
def cachedHit : State :=
  { sM with b := ((sM.b.modPorts fun p => { p with winLines := [{ core := 0, unit := 7, ctx := 16, line := 0x400000 / 65536 * 512, ans := .walked }] }).modCoh fun c => { c with lines := [cached0] }).modHart 0 fun h => { h with x := [(7, 0x400000)] } }

theorem witness_hart_hit :
    HartRuns cachedHit.b 0 ∧
    (let h := (cachedHit.b.core 0).hart
     let va := (effAddr h 7 0).toNat
     scratchEnd ≤ va ∧ va < 2 ^ 57 ∧ va % 128 + 2 ^ 3 ≤ 128 ∧ cachedHit.b.pageMoves h.zhCtx va = false ∧ (cachedHit.b.ctx h.zhCtx).cached ≠ none ∧
       cachedHit.b.mustWalk 0 7 h.zhCtx va = false ∧ va / 65536 ≠ (cachedHit.b.ctx h.zhCtx).allocVa / 65536 ∧
       (cachedHit.b.translate h.zhCtx va false).2 = .dev (base1 + 0x200000) 0 0 ∧
       cachedHit.b.coh.lineOf (cachedHit.b.clusterOf 0) (gaKey (base1 + 0x200000) / 128) = some cached0) := by unfold HartRuns; decide +kernel

/-- A load at the page of ALLOC_VA, and the CSRs of R88 in the two modes. -/
theorem witness_hart_alloc_page_and_csrs :
    (let s : State := { sM with b := sM.b.modHart 0 fun h => { h with x := [(7, 0x7000001)] } }
     let h := (s.b.core 0).hart
     HartRuns s.b 0 ∧ scratchEnd ≤ (effAddr h 7 0).toNat ∧ (s.b.ctx h.zhCtx).allocVa ≠ 0 ∧
       (effAddr h 7 0).toNat % 2 ^ 57 / 65536 = (s.b.ctx h.zhCtx).allocVa / 65536) ∧
    csrAllowed false 0xCC0 false = true ∧ csrAllowed true 0x305 false = true ∧ csrAllowed false 0xCC1 true = false ∧
    csrAllowed false 0x305 false = false ∧ ((hartState fun h => { h with machine := true }).b.core 0).hart.machine = true ∧
    HartRuns (hartState fun h => { h with machine := true }).b 0 := by unfold HartRuns; decide +kernel

/-- A message from core 0 to core 1 in the role of slice 1, and one in a role that core 1 no longer plays. -/
def toCore1 (gen : Nat) : Dword := BitVec.ofNat 64 (gen * 2 ^ 32 + 1 * 2 ^ 7 + 1)

theorem witness_core_messages :
    (dfld (toCore1 0) 15 13 = accessing.b.start.inst ∧ accessing.b.roleMatches (accessing.b.core 0).owner (toCore1 0) = true ∧
      targetCore (dfld (toCore1 0) 15 0) = 1) ∧
    (dfld (toCore1 1) 15 13 = accessing.b.start.inst ∧ accessing.b.roleMatches (accessing.b.core 0).owner (toCore1 1) = false) := by decide +kernel

theorem witness_transposed_tile (tile : List Byte) (h : tile = List.replicate 2052 7) :
    let d := { product with w1 := 0x20000, rf := 0 }.words.set 0 (BitVec.ofNat 64 (1 * 2 ^ 60 + 2 ^ 50 + 2 ^ 32 * 2 + 1))
    tile.length = 2052 ∧ dRfmt d = 0 ∧ dTranspose d = true := by
  subst h; decide +kernel

theorem witness_doorbell : s0.b.gated = false ∧ s0.b.start.leadLost = false := by decide +kernel

/-- A step that runs, and a burnt bit and a written byte in the state before it. -/
theorem witness_invariant :
    (∃ t, step { s0 with fuse := 32 } = .next t) ∧ ({ s0 with fuse := 32 } : State).fuse.getLsbD 5 = true ∧ s0.flash.bytes.wf = true := by
  refine ⟨⟨_, rfl⟩, ?_⟩; decide +kernel

/-! ### The spec's worked examples

The expected values are the ones that the examples of the spec's chapters work out; where an example's core, fence or context is another than this
state's, only its number differs. -/

/-- A tile of zeros but for one element byte and one scale byte. -/
def tileOf (i : Nat) (x : Byte) (k : Nat) (y : Byte) : List OpByte :=
  (List.range 2052).map fun j => { val := if j = i then x else if j = k then y else 0, bad := false, code := 0 }

/-- 02, Example 1: W(40, 5) is 4.0 under the scale 2^-6, read forward and through the transposing path. -/
theorem test_weight_read_both_ways :
    let t := tileOf 1282 0x60 2050 0x79
    let d := { product with rf := 0 }.words.set 0 (BitVec.ofNat 64 (2 ^ 50))
    pack32 (q4Elem t 40 5).full = 0x3D800000 ∧ dTranspose d = true ∧ pack32 (resElem d t 5 40).full = 0x3D800000 := by decide +kernel

/-- 3.7, 0.3, -0.0011 and 1.0, as FP32, and 28 zeros. -/
def group0 : List (Word × Nat) := (([0x406CCCCD, 0x3E99999A, 0xBA902DE0, 0x3F800000] : List Word) ++ List.replicate 28 0).zipIdx

/-- 02, Example 2: the scale, the codes and the amax record of one group. -/
theorem test_group_conversion :
    let g := convGroup .q8m none none group0
    g.scale = 0x78 ∧ g.codes.take 4 = [0x7E, 0x62, 0xA1, 0x70] ∧ g.stats = { Amax.zero with sat := 1, amax := 0x406CCCCD } := by decide +kernel

/-- 02, Example 2: 38.4 rounded stochastically, to 36 and to 40. -/
theorem test_stochastic_rounding :
    (convElem .q8m (-7) (some 0x3000) (unpack32 0x3E99999A)).1 = 0x61 ∧ (convElem .q8m (-7) (some 0x8000) (unpack32 0x3E99999A)).1 = 0x62 := by
  decide +kernel

/-- 02, Example 2: the sub-block onto 1,024.0, with one rounding. -/
theorem test_sub_block :
    let a := (convGroup .q8m none none group0).codes.map fun c => ({ val := elemVal .q8m c, exp := scaleExp 0x78, bf := false } : Oper)
    let b := ([0x7, 0xB, 0x6, 0x1] ++ List.replicate 28 0).map fun c => ({ val := elemVal .q4m c, exp := scaleExp 0x79, bf := false } : Oper)
    subBlock 0x44800000 (a.zip b) = 0x44800A83 := by decide +kernel

/-- 03, Example 1: the op descriptor's fields, and the check of R74 at the minimum spacing of eight commons groups. -/
theorem test_descriptor :
    let d : List Dword := [0x1412010200000080, 0x12A40, 0x40000, 0x80000, 0xC0000, 0xC1000, 0, 0xC2000, 0, 0, 0, 0x0020000000400000, 0, 0, 0, 0]
    (dOpcode d, dSfmt d, dRfmt d, dOfmt d) = (1, 2, 0, 2) ∧ dRsrc d = true ∧ dBank d = 0 ∧ dAccMode d = 0 ∧ dAmax d = true ∧ dRows d = 2 ∧
      dTiles d = 128 ∧ dStrPitch d = 8192 ∧ dOutPitch d = 64 ∧ dTileFirst d = 76352 ∧ pairClocks 2 0 = 1 ∧ minSpacing 0 8 = 1026 ∧
      opCheck d (some 1026) = 0 := by decide +kernel

/-- 04, Example 1: the words of the forward run. -/
def norrgate : Run := runOf ([0x10BB2B3, 0x0400620000402000, 0x0000010000000000, 0x804].flatMap (toLe 8))

theorem test_run_words :
    norrgate.count = 17543859 ∧ norrgate.start = 0x400 ∧ norrgate.stop = 0x6200 ∧ norrgate.spacing = 1026 ∧ norrgate.inner = 1 ∧
      norrgate.innerStep = 0 ∧ norrgate.outerStep = 2052 ∧ norrgate.src 17543858 + 2052 = 35999998668 := by decide +kernel

/-- 04, Example 1: the phase of a tile, and the stored tile that a reverse run's tile 129 is. -/
theorem test_tile_phase_and_source :
    (atParade fun p => { p with map := { map1 with runs := [norrgate] } }).b.nominalPhase 0 76352 = some 0x468 ∧
      Run.src { norrgate with inner := 128, innerStep := 262656, outerStep := 2052, srcBase := 9437184 * 2052 } 129 = (9437184 + 129) * 2052 := by
  decide +kernel

/-- The row of a panel in Q8m, under one scale. -/
def panelRow (scale : Nat) (codes : List Nat) : List Oper :=
  (codes ++ List.replicate (32 - codes.length) 0).map fun c => { val := elemVal .q8m c, exp := scaleExp scale, bf := false }

/-- 05, Example 1: the up step's addition onto 0.5 and onto 1,000.0. -/
theorem test_up_step :
    let x (alpha : Word) : Binding := { ctx := 16, fmt := 2, rc64 := false, users := 1, alpha := alpha, missLimit := 0, frameBase := 0, frames := 2 }
    let u (l : List Word) := l ++ List.replicate (32 - l.length) 0
    let us := (x 0x40000000).convU (u [0x3F400000, 0xC0200000, 0x3E4CCCCD, 0x3E000000])
    engAdd 0x3F000000 (unpack32 (alphaMul 0x40000000 (dotSub 2 0 (us.zip (panelRow 0x74 [0x54, 0x4A, 0xE2, 0x68]))))) = 0x3EFE3000 ∧
      engAdd 0x447A0000 (unpack32 (alphaMul 0x3F000000 (dotSub 2 0 (((x 0x3F000000).convU (u [0x3F800000, 0xBF000000])).zip
        (panelRow 0x70 [0x44, 0xCE]))))) = 0x447A0002 := by decide +kernel

/-- 06, Example 1: of the four blocks that the tile touches, only (128, 32) is on. -/
theorem test_block_mask :
    let d : List Dword := (List.replicate 16 0).set 0 0x14A1044000000004 |>.set 10 0x140000
    let s := sc (0x20000 + 32772) [1] <| sc 0x140000 ([0x8000001000000400, 0x0008000000000000, 0x20000].flatMap (toLe 8)) s0
    ((s.b.readMask 0 16 d).1.map fun m => (m.mode, m.bits)) = some (2, [true, false, false, false]) := by decide +kernel

/-- 08, Example 1: the words of the fault record. -/
theorem test_fault_record :
    FaultRec.words { va := 0x04502A020000, cause := 1, level := 1, write := true, adv := 1, queue := 0x2C4, gen := 4, agent := 64, ctx := 0x6E02
                     stamp := 0x00001E8480001A40, channel := 3 } = [0x04502A020000, 0x1342C40440006E02, 0x00001E8480001A40, 3] := by decide +kernel

/-- 09, Example 2: the fields of a handle; and a fence near the top of its range, before and after a signal. -/
theorem test_fence_handle :
    let h : Dword := 0x00A401025A17C3E9
    hPackage h = 0xA ∧ hInstance h = 2 ∧ hFence h = 0x102 ∧ hKey h = 0x5A17C3E9 ∧ fencePassed 0x7FFFFFFFFFFFFFFE 0x8000000000000005 = false ∧
      fencePassed 0x8000000000000005 0x8000000000000005 = true := by decide +kernel

/-- The fence of the state that a command leaves. -/
def fenceAfter (c : Instr) (s : State) : Option Dword := match exec c s with
  | .next t => some (t.b.fence 33).value
  | _ => none

theorem test_fence_signal :
    let s (v : Dword) := withFence { fence7 with value := v, exported := true, key := 0x5A17C3E9 } s0
    fenceAfter (.fence 1 src1 (handle0 0x5A17C3E9) 0x8000000000000005) (s 0x7FFFFFFFFFFFFFFE) = some 0x8000000000000005 ∧
      fenceAfter (.fence 1 src1 (handle0 0x5A17C3E9) 0x7FFFFFFFFFFFFFFF) (s 0x8000000000000005) = some 0x8000000000000005 ∧
      fenceAfter (.fence 1 src1 (handle0 0x5A17C3E8) 0x8000000000000006) (s 0x8000000000000005) = some 0x8000000000000005 := by decide +kernel

/-- 10, Example 1: the setting's fields, the estimator and the priorities. -/
theorem test_rein :
    let w : Dword := 0x000BB84001000000
    clsTarget w = 3000 ∧ clsBase w = 2 ∧ clsPermille w = 1 ∧ clsCap 0x10 * 65536 = 2 ^ 20 ∧ estNext 1200 2800 = 1300 ∧
      ([1300, 2400, 2900].map (estPrio w)) = [2, 4, 7] := by decide +kernel

/-- 16, Example 1: the level after each droop, and after each exit. -/
def levelAfter (c : Instr) (s : State) : State := match exec c s with
  | .next t => t
  | _ => s

theorem test_shedding :
    let droop (mv : Nat) := levelAfter (.droopSample (List.replicate 8 (mv / 5)) false)
    let wait (s : State) : State := st fun _ => s.b.modTime fun t => { t with mclk := t.mclk + 1000 * usClk }
    let s1 := droop 40 s0
    let s2 := droop 52 s1
    let s3 := levelAfter .exitHoldExpiry (wait (droop 30 s2))
    let s4 := levelAfter .exitHoldExpiry (wait (droop 10 s3))
    [s1, s2, s3, s4].map (·.b.power.level) = [2, 3, 2, 1] := by decide +kernel

/-- 15, Example 2: SEG_PROV holds its intent bits only, the fields are complete, and ROOT is blank. -/
theorem test_completion :
    let f : BitVec 4096 := segTest.2.setWidth 4096 ||| (0xF00F : BitVec 4096) <<< 64 ||| (5 : BitVec 4096) <<< 1760 ||| (9 : BitVec 4096) <<< 608
    lcsOf f = 15 ∧ completion f provision0 false = (0, .drawRoot :: .rootCheck :: (restBits segProv ++ [.restart])) ∧ (restBits segProv).length = 24 := by
  decide +kernel

/-- 14, Example 1: the body of a manifest of five regions, and its bank. -/
theorem test_bank_sizes :
    let m : Manifest := { ctxs := [1, 2], regions := [103546880, 103546880, 103546880, 40320, 128].map fun n => { key := 0, addr := 0, len := n } }
    m.body = 310683136 ∧ m.bank = 310706176 := by decide +kernel

/-- 18, Example 1: the line of group 9 on port MCP36. -/
theorem test_line_of_group_9 :
    let s := levelAfter (.mcpReadReturn 36 0x9180 true) s0
    s.b.poisoned (9 * 2 ^ 37 + 0x1230000) = true ∧ s.b.poisoned (9 * 2 ^ 37 + 0x1230080) = false := by decide +kernel

/-- 12, Example 1, and 09, Example 1: where pages of a virtual instance and of a queue lie. -/
theorem test_pages : regAt 0x020A5004 = .vi 165 4 ∧ regAt 0x012C4000 = .page 0x2C4 0 ∧ regAt 0x01310040 = .page 0x310 0x40 := by decide +kernel

/-- 04, Example 1: CPT of a stride of 64 ms at 1.5 GHz, as ZH_STRIDE_CPT reads. -/
theorem test_measured_cpt :
    (TimeBase.zero { TimeBase.reset with started := true, zeroDue := [(96000000, 0)], clk := 96000000, strideClk := 0 } 96000000).cpt = 0x05B8D800 := by
  decide +kernel

/-- 13, Example 1: ZH_LADDER_STAT of the engine rung. -/
theorem test_ladder_status :
    let s := atLad fun l => { l with rung := 2, cause := 1, unit := 1, core := 3, stride := 2400000 }
    s.b.readLadder 1 0 + s.b.readLadder 1 4 * 2 ^ 32 = 0x4243000000249F00 := by decide +kernel

/-- 10, Example 1: a class of 48,000 reads and 61 late ones has missed, and ZH_REIN_MISS reads so. -/
theorem test_rein_miss :
    let r := { Rein.reset with settings := [(1, 0x000BB84001000000)], win := [(1, { n := 48000, m := 61, largest := 9000, bytes := 0 })] }
    let t := r.roll 2200000
    t.readReg 0 + t.readReg 4 * 2 ^ 32 = 0x00020000002191C0 ∧ t.pending = true ∧ (Tab.get ReinWin.reset t.records 1).n = 48000 := by decide +kernel

/-- 15, Example 1: what a session's opening leaves. -/
theorem test_debug_session :
    let c : List Byte := asked ([1, 0, 1, 5, 5, 0, 0, 0] ++ padded 40 [] ++ [0, 0x10, 0, 0, 0xBA, 0xDB])
    let b := (s0.b.modTime fun t => { t with count := 2500000, phase := 0x2000 }).openDebug c
    b.lcsReg = 0x00010005 ∧ b.life.rights = 5 ∧ b.life.dslices = 0x1000 ∧ b.life.closeStride = 2556250 := by decide +kernel

/-- FIPS 197, C.3: AES-256 on the example block, and back. -/
theorem test_aes256 :
    let ks := roundKeys (List.range 32)
    let p := (List.range 16).map (17 * ·)
    let c := [0x8E, 0xA2, 0xB7, 0xCA, 0x51, 0x67, 0x45, 0xBF, 0xEA, 0xFC, 0x49, 0x90, 0x4B, 0x49, 0x60, 0x89]
    aesEncrypt ks p = c ∧ aesDecrypt ks c = p := by decide +kernel

/-- IEEE 1619, XTS-AES-256, vector 10: the first two blocks of the data unit 0xFF. -/
theorem test_xts :
    let pair : BitVec 512 := BitVec.ofNat 512
      (0x9245947409820551379993169741880295278333646284239397585326594131 * 2 ^ 256 +
       0x2776966649575999699370245777496226357174286053234590452818281827)
    let p := (List.range 128).map (BitVec.ofNat 8)
    let c := ([0x1C, 0x3B, 0x3A, 0x10, 0x2F, 0x77, 0x03, 0x86, 0xE4, 0x83, 0x6C, 0x99, 0xE3, 0x70, 0xCF, 0x9B,
      0xEA, 0x00, 0x80, 0x3F, 0x5E, 0x48, 0x23, 0x57, 0xA4, 0xAE, 0x12, 0xD4, 0x14, 0xA3, 0xE6, 0x3B] : List Byte)
    (xtsEncrypt pair 0xFF p).take 32 = c ∧ xtsDecrypt pair 0xFF (xtsEncrypt pair 0xFF p) = p := by decide +kernel

end Sys2Proof.Tests
end

section
/-! Rules that the statements of this family share: what a frame says of the parts by number, and commands whose clocks run. -/

namespace Sys2Proof.Machine

/-! ### What a frame says of the parts by number -/

theorem Block.Keeps.core_eq {L : List Part} {b b' : Block} (h : b.Keeps L b') (hn : Part.cores ∉ L) (c : Nat) : b'.core c = b.core c := by
  rw [Block.core, Block.core, show b'.cores = b.cores from h .cores hn]

theorem Block.Keeps.slice_eq {L : List Part} {b b' : Block} (h : b.Keeps L b') (hn : Part.slices ∉ L) (n : Nat) : b'.slice n = b.slice n := by
  rw [Block.slice, Block.slice, show b'.slices = b.slices from h .slices hn]

theorem Block.Keeps.ctx_eq {L : List Part} {b b' : Block} (h : b.Keeps L b') (hn : Part.ctxs ∉ L) (c : Nat) : b'.ctx c = b.ctx c := by
  rw [Block.ctx, Block.ctx, show b'.ctxs = b.ctxs from h .ctxs hn]

theorem Block.Keeps.queue_eq {L : List Part} {b b' : Block} (h : b.Keeps L b') (hn : Part.queues ∉ L) (q : Nat) : b'.queue q = b.queue q := by
  rw [Block.queue, Block.queue, show b'.queues = b.queues from h .queues hn]

theorem Block.Keeps.vi_eq {L : List Part} {b b' : Block} (h : b.Keeps L b') (hn : Part.vis ∉ L) (v : Nat) : b'.vi v = b.vi v := by
  rw [Block.vi, Block.vi, show b'.vis = b.vis from h .vis hn]

/-! ### Commands whose clocks run -/

/-- A command that changes the block only completes, and its frame is its effect's: `b₀` is the effect as the command's meaning
writes it, `b'` the same block in a form that is read more easily. -/
theorem Completes.framed {i : Instr} {s : State} {b₀ b' : Block} {L : List Part} {p : State → Prop} (hb : b₀ = b')
    (hk : s.b.Keeps L b') (hp : p { s with b := b' }) (he : exec i s = .next { s with b := b₀ } := by rfl) :
    Completes (exec i s) fun t => Frame L s t ∧ p t :=
  ⟨{ s with b := b' }, hb ▸ he, ⟨rfl, rfl, rfl, hk⟩, hp⟩

/-- A command over the host port is its effect while the port is ready (R445). -/
theorem State.onHost_open {s : State} (h : s.b.gated = false) (f : Block → Block) : s.onHost f = s.onBlock f := by
  simp [State.onHost, State.onBlock, h]

/-- A flit that arrives while the compute clock runs is taken (R402). -/
theorem Block.arrives_open {b : Block} (h : b.gated = false) (port : Nat) (f : Block → Block) : b.arrives port f = f (b.rx port) := by
  simp [Block.arrives, h]

/-- A command of a control processor that may run. -/
theorem State.onHart_runs {s : State} {core : Nat} (h : HartRuns s.b core) (f : Block → Hart → Block) :
    (s.onBlock fun b => b.onHart core (fun _ => false) (f b)) = .next { s with b := f s.b (s.b.core core).hart } := by
  rw [State.onBlock_eq, Block.onHart_runs _ _ _ _ h]

end Sys2Proof.Machine
end

section
/-! Federation (R28, R30, R432, R444): flits that act here or pass on, and doorbells that the lead forwards. -/

namespace Sys2Proof.Machine

/-- An accepted doorbell uses the context's descriptor and sets TAIL and PENDING (R247, R249). -/
theorem Block.ring_accepted {b : Block} {q : Nat} {v : Word} (ht : (b.queue q).takes v = true) (hl : b.start.leadLost = false) :
    b.Keeps [.queues, .ctxs, .mem, .coh, .cores, .slices] (b.ring q v) ∧
      (b.ring q v).queue q = { (b.queue q).pend with tail := v } := by
  have htouch := b.touchCtx_keeps (b.queue q).ctx
  rw [Block.ring, ht, hl]
  refine ⟨(htouch.mono (by simp)).trans ((Block.modQueue_keeps _ _ _).mono (by simp)), ?_⟩
  rw [Bool.not_false, Bool.and_true, if_pos rfl, Block.modQueue_queue_same, htouch.queue_eq (by simp)]

/-- A forwarded doorbell that the queue takes is taken here (R28). -/
theorem doorbellFwd_accepted {s : State} {q : Nat} {v : Word} (hg : s.b.gated = false) (ht : (s.b.queue q).takes v = true)
    (hl : s.b.start.leadLost = false) :
    Completes (exec (.doorbellFwd q [v.setWidth 64]) s) fun t =>
      Frame [.queues, .ctxs, .mem, .coh, .cores, .slices, .ports] s t ∧ t.b.queue q = { (s.b.queue q).pend with tail := v } := by
  have hrx := s.b.rx_keeps (s.b.fedFrom 0)
  have hq : (s.b.rx (s.b.fedFrom 0)).queue q = s.b.queue q := hrx.queue_eq (by simp) q
  have hv : (v.setWidth 64).setWidth 32 = v := by simp
  obtain ⟨hk, hr⟩ := Block.ring_accepted (b := s.b.rx (s.b.fedFrom 0)) (q := q) (v := v) (hq ▸ ht) hl
  have he : (s.b.arrives (s.b.fedFrom 0) fun b => b.ring q ((v.setWidth 64).setWidth 32)) = (s.b.rx (s.b.fedFrom 0)).ring q v := by
    rw [Block.arrives_open hg, hv]
  exact Completes.framed he ((hrx.mono (by simp)).trans (hk.mono (by simp))) (hq ▸ hr)

/-- The lead passes a doorbell for another member's queue on (R28). -/
theorem doorbell_passes {s : State} {q : Nat} (v : Word) (hq : 4096 ≤ q) (hg : s.b.gated = false) (hl : s.b.start.lead = true)
    (hi : q / 4096 ≠ s.b.start.inst) (ho : q / 4096 ∈ s.b.otherInsts) :
    Completes (exec (.doorbell q v) s) fun t => Frame [.ports] s t ∧ t.b.ports.own = s.b.ports.own ++ [(s.b.fedTo (q / 4096),
      .flit (s.b.fedTo (q / 4096)) { s.b.ownFlit 0x18 0 0 (toLe 2 (q % 4096) ++ toLe 4 v.toNat) with
        fed := some (q / 4096, s.b.start.inst, false) })] := by
  have hp : (if s.b.gated then s.b else s.b.passDoorbell q (toLe 4 v.toNat) fun b => b.ring (q % 4096) v) = s.b.emitOwn (s.b.fedTo (q / 4096))
      (.flit (s.b.fedTo (q / 4096)) { s.b.ownFlit 0x18 0 0 (toLe 2 (q % 4096) ++ toLe 4 v.toNat) with
        fed := some (q / 4096, s.b.start.inst, false) }) := by
    simp [Block.passDoorbell, Block.queueAt, hg, Nat.not_lt.2 hq, hi, hl, ho]
  exact Completes.framed hp (s.b.modPorts_keeps _) rfl

/-- A member that is not the lead passes none of its load's bytes on. -/
theorem Block.fedCopy_notLead {b : Block} (h : b.start.lead = false) (op : Nat) (head bs : List Byte) : b.fedCopy op head bs = b := by
  simp [Block.fedCopy, h]

/-- Commons-copy data of a load under way are appended to the commons (R110). -/
theorem fedCtrl_commons {s : State} (src : Nat) (bs : List Byte) {l : BaseLoad} (hg : s.b.gated = false) (hn : s.b.start.lead = false)
    (hl : s.b.parade.load = some l) :
    Completes (exec (.fedCtrl 1 src bs) s) fun t => Frame [.parade, .ports] s t ∧
      t.b.parade.load = some { l with written := l.written + bs.length } ∧
      t.b.parade.commons = s.b.parade.commons.writeN l.written (bs.take (s.b.commonsBytes - l.written)) := by
  have he : (s.b.arrives (s.b.fedFrom src) fun b => if b.start.lead then b else b.fedCommons bs) =
      (s.b.rx (s.b.fedFrom src)).modParade fun p =>
        { p with commons := p.commons.writeN l.written (bs.take (s.b.commonsBytes - l.written))
                 load := some { l with written := l.written + bs.length } } := by
    have hl' : (s.b.rx (s.b.fedFrom src)).parade.load = some l := hl
    have hn' : (s.b.rx (s.b.fedFrom src)).start.lead = false := hn
    rw [Block.arrives_open hg, hn', Block.fedCommons, hl', Block.commonsAppend]
    simp only [Option.isNone_some, Bool.false_and, Bool.false_eq_true, if_false, hl']
    rw [Block.fedCopy_notLead (by exact hn')]
    rfl
  exact Completes.framed he (((s.b.rx_keeps _).mono (by simp)).trans ((Block.modParade_keeps _ _).mono (by simp))) ⟨rfl, rfl⟩

/-- Staged-map bytes behind the switch stride are appended to the staged map (R119). -/
theorem fedCtrl_stagedBytes {s : State} (src : Nat) {bs : List Byte} {st : Staged} (hg : s.b.gated = false)
    (hn : s.b.start.lead = false) (hst : s.b.parade.staged = some st) (hb : 8 < bs.length) :
    Completes (exec (.fedCtrl 2 src bs) s) fun t =>
      Frame [.parade, .ports] s t ∧ t.b.parade.staged = some { st with bytes := st.bytes ++ bs.drop 8 } := by
  have he : (s.b.arrives (s.b.fedFrom src) fun b => if b.start.lead then b else b.fedStaged bs) =
      (s.b.rx (s.b.fedFrom src)).modStaged fun st => { st with bytes := st.bytes ++ bs.drop 8 } := by
    rw [Block.arrives_open hg, show (s.b.rx (s.b.fedFrom src)).start.lead = false from hn, Block.fedStaged]
    simp [Nat.not_le.2 hb]
  exact Completes.framed he (((s.b.rx_keeps _).mono (by simp)).trans ((Block.modParade_keeps _ _).mono (by simp)))
    (by rw [Block.modStaged, Block.modParade_parade]; exact congrArg (Option.map _) hst)

/-- A switch stride without map bytes begins a new staged load (R119). -/
theorem fedCtrl_stagedBegins {s : State} (src : Nat) {bs : List Byte} (hg : s.b.gated = false) (hn : s.b.start.lead = false)
    (hb : bs.length = 8) :
    Completes (exec (.fedCtrl 2 src bs) s) fun t =>
      Frame [.parade, .ports] s t ∧ t.b.parade.switchStride = BitVec.ofNat 64 (leNat bs) ∧
      ∃ st, t.b.parade.staged = some st ∧ st.bytes = [] ∧ st.switchAt = dfld (BitVec.ofNat 64 (leNat bs)) 47 0 := by
  have he : (s.b.arrives (s.b.fedFrom src) fun b => if b.start.lead then b else b.fedStaged bs) =
      (s.b.rx (s.b.fedFrom src)).newStaged (BitVec.ofNat 64 (leNat bs)) 0 := by
    rw [Block.arrives_open hg, show (s.b.rx (s.b.fedFrom src)).start.lead = false from hn, Block.fedStaged]
    simp [hb, List.take_of_length_le]
  exact Completes.framed he (((s.b.rx_keeps _).mono (by simp)).trans ((Block.modParade_keeps _ _).mono (by simp)))
    ⟨rfl, _, rfl, rfl, rfl⟩

/-- LEVEL_MAX of another member is noted (R432). -/
theorem fedCtrl_levelMax (s : State) (src : Nat) (x : Byte) (rest : List Byte) :
    Completes (exec (.fedCtrl 3 src (x :: rest)) s) fun t => Frame [.start, .ports] s t ∧
      t.b.start = { s.b.start with levelMax := Tab.put s.b.start.levelMax src x.toNat } := by
  have hx : leNat ((x :: rest).take 1) = x.toNat := by simp [leNat]
  refine Completes.framed (b₀ := (s.b.rx (s.b.fedFrom src)).modStart fun t => { t with levelMax := Tab.put t.levelMax src _ }) rfl
    (((s.b.rx_keeps _).mono (by simp)).trans ((Block.modStart_keeps _ _).mono (by simp))) ?_
  rw [← hx]; rfl

/-- A request flit for another member passes on in its direction (R28, R444). -/
theorem fedForward_passes (s : State) (east : Bool) (dst src : Nat) {kind : Nat} (origin : FlitSrc) (body : List Byte) (hk : kind < 0x10) :
    Completes (exec (.fedForward east dst src kind origin body) s) fun t =>
      Frame [.ports] s t ∧ t.b.ports.forwarded = s.b.ports.forwarded + 1 ∧ t.b.ports.out = .flit (if east then 4 else 5)
        { fed := some (dst, src, true), kind := kind, cls := 0, package := origin.package, slice := origin.slice, tag := origin.tag, body := body } :: s.b.ports.out := by
  let f (cls : Nat) : Flit :=
    { fed := some (dst, src, true), kind := kind, cls := cls, package := origin.package, slice := origin.slice, tag := origin.tag, body := body }
  have hb : ((s.b.rx (if east then 5 else 4)).emit (.flit (if east then 4 else 5)
      (f (if 0x10 ≤ kind && kind ≤ 0x15 then 1 else 0)))).modPorts (fun p => { p with forwarded := p.forwarded + 1 }) =
      ((s.b.rx (if east then 5 else 4)).emit (.flit (if east then 4 else 5) (f 0))).modPorts fun p =>
        { p with forwarded := p.forwarded + 1 } := by simp [Nat.not_le.2 hk]
  exact Completes.framed hb (((s.b.rx_keeps _).trans (Block.emit_keeps _ _)).trans (Block.modPorts_keeps _ _)) ⟨rfl, rfl⟩

/-- Reports change the list of events alone, which grows by one for each. -/
theorem Block.eachReport (l : List Nat) (b : Block) (f : Nat → Nat) (code a0 : Nat) :
    b.Keeps [.dict] (b.each l fun n b => b.report code (f n) a0 0) ∧
      (b.each l fun n b => b.report code (f n) a0 0).dict.evDue.length = b.dict.evDue.length + l.length := by
  refine ⟨Block.Keeps.each _ (fun n b => b.report_keeps _ _ _ _) l b, ?_⟩
  induction l generalizing b with
  | nil => rfl
  | cons n l ih =>
    refine (ih (b.report code (f n) a0 0)).trans ?_
    simp [Block.report, Block.reportAt, Nat.add_comm, Nat.add_left_comm]

/-- The lead reports the 28 slice IDs of a lost member; any other member reports nothing (R30). -/
theorem Block.reportLost_reports (b : Block) (i : Nat) :
    b.Keeps [.dict] (b.reportLost i) ∧ (b.start.lead = false → (b.reportLost i).dict = b.dict) ∧
      (b.start.lead = true → (b.reportLost i).dict.evDue.length = b.dict.evDue.length + 28) := by
  obtain ⟨hk, hlen⟩ := b.eachReport ((List.range 28).map (· + 1)) (fun n => 32 * i + n) 1 (256 * 11 + 65536 * 7)
  rw [Block.reportLost]
  split
  · rename_i h; exact ⟨hk, fun hf => by simp [h] at hf, fun _ => hlen⟩
  · rename_i h; exact ⟨Block.Keeps.refl _ b, fun _ => rfl, fun ht => absurd ht h⟩

/-- A lost member is noted; with the lead the host port goes (R30). -/
theorem instanceLost_noted {s : State} {i : Nat} (hi : i ≠ s.b.start.inst) (hc : i < s.b.start.instCount) (hl : i ∉ s.b.start.lost) :
    Completes (exec (.instanceLost i) s) fun t =>
      Frame [.start, .dict] s t ∧ (s.b.start.lead = false → t.b.dict = s.b.dict) ∧
      (s.b.start.lead = true → t.b.dict.evDue.length = s.b.dict.evDue.length + 28) ∧ i ∈ t.b.start.lost ∧
      (i = 0 → t.b.start.leadLost = true) := by
  let f (t : StartUp) : StartUp := { t with lost := t.lost ++ [i], leadLost := t.leadLost || i == 0 }
  obtain ⟨hk, hfalse, htrue⟩ := (s.b.modStart f).reportLost_reports i
  have hs : ((s.b.modStart f).reportLost i).start = f s.b.start := hk .start (by simp)
  have he : (if i == s.b.start.inst || s.b.start.instCount ≤ i || s.b.start.lost.contains i then s.b
      else (s.b.modStart f).reportLost i) = (s.b.modStart f).reportLost i := if_neg (by simp [hi, hl, hc])
  refine Completes.framed he (((s.b.modStart_keeps f).mono (by simp)).trans (hk.mono (by simp))) ⟨hfalse, htrue, ?_⟩
  rw [hs]
  exact ⟨by simp [f], fun h0 => by simp [f, h0]⟩

end Sys2Proof.Machine
end

section
/-! Registers (R189, R238, R446, R447) and completions of host reads (R445). -/

namespace Sys2Proof.Machine

/-- Field [63:0] and [31:0] of a doubleword are its values modulo 2^64 and 2^32. -/
theorem dfld_low (v : Dword) (n : Nat) : dfld v n 0 = v.toNat % 2 ^ (n + 1) := by simp [dfld, fld]

theorem dfld_setWidth (v : Word) : dfld (v.setWidth 64) 31 0 = v.toNat := by
  rw [dfld_low, BitVec.toNat_setWidth]
  have := v.isLt
  omega

/-- The aperture's key is the one written, where the slice holds it (R446). -/
theorem zhAptKeyWrite_held {s : State} {n : Nat} {v : Word} (hst : (s.b.slice n).st ≠ .none) (hg : s.b.gated = false)
    (hk : s.b.holdsKey n (fld v.toNat 5 0) = true) :
    Completes (exec (.zhAptKeyWrite n v) s) fun t => Frame [.slices] s t ∧
      t.b.slice n = { s.b.slice n with aptValid := v.getLsbD 31, aptKey := fld v.toNat 5 0 } ∧
      ∀ m, m ≠ n → t.b.slice m = s.b.slice m := by
  let f (x : Slice) : Slice := { x with aptValid := v.getLsbD 31, aptKey := fld v.toNat 5 0 }
  have hb : (if s.b.gated then s.b else
      if (s.b.slice n).st != .none && s.b.holdsKey n (fld v.toNat 5 0) then s.b.modSlice n f else s.b) = s.b.modSlice n f := by
    simp [hst, hg, hk]
  exact Completes.framed hb (s.b.modSlice_keeps n f) ⟨Block.modSlice_slice_same _ _ _, fun m hm => Block.modSlice_slice_ne _ _ hm⟩

theorem zhAptKeyWrite_notHeld {s : State} {n : Nat} {v : Word} (hk : s.b.holdsKey n (fld v.toNat 5 0) = false) :
    exec (.zhAptKeyWrite n v) s = .next s := by
  show execZhAptKeyWrite n v s = .next s
  simp [execZhAptKeyWrite, State.onHost, State.onBlock, hk]

/-! ### Register writes -/

theorem registerWrite_gated {s : State} (hg : s.b.gated = true) (off size : Nat) (v : Dword) :
    exec (.registerWrite off size v) s = .next s := by
  show execRegisterWrite off size v s = .next s
  rw [execRegisterWrite, hg]; rfl

/-- The page of queue q in the map of R454. -/
theorem regAt_page {q : Nat} (hq : q < 4096) : regAt (0x1000000 + 4096 * q) = .page q 0 := by
  simp only [regAt]
  rw [if_neg (by omega), if_neg (by simp; omega), if_neg (by simp; omega), if_pos (by simp; omega)]
  congr 1 <;> omega

/-- ZH_APT_KEY of slice n. -/
theorem regAt_aptKey {n : Nat} (h1 : 1 ≤ n) (h28 : n ≤ 28) : regAt (0xB0000 + 256 * n) = .slice 11 n 0 := by
  have hn : (0xB0000 + 256 * n) % 0x10000 / 256 = n := by omega
  simp only [regAt]
  rw [if_neg (by omega), if_pos (by simp; omega), hn, if_pos (by simp; omega)]
  congr 1 <;> omega

/-- ZH_Q_CFG of queue q. -/
theorem regAt_config {q : Nat} (hq : q < 4096) : regAt (0x800008 + 64 * q) = .config q 8 := by
  simp only [regAt]
  rw [if_neg (by omega), if_neg (by simp; omega), if_pos (by simp; omega)]
  congr 1 <;> omega

/-- The places of the map of R454 at which no register stands. -/
theorem regAt_eq_nowhere_iff (off : Nat) : regAt off = .nowhere ↔ 0x1000 ≤ off ∧
    (0x60000 ≤ off → off < 0xC0000 → ¬(1 ≤ off % 0x10000 / 256 ∧ off % 0x10000 / 256 ≤ 28)) ∧
    ¬(0x800000 ≤ off ∧ off < 0x840000) ∧ ¬(0x1000000 ≤ off ∧ off < 0x2800000) := by
  simp only [regAt, Bool.and_eq_true, decide_eq_true_eq]
  split_ifs <;> simp only [false_iff, true_iff] <;> omega

/-- Where no register stands, none stands in the 8-byte word around it. -/
theorem regAt_nowhere_low {off : Nat} (h : regAt off = .nowhere) : regAt (off - off % 8) = .nowhere := by
  rw [regAt_eq_nowhere_iff] at h ⊢
  omega

theorem registerWrite_doorbell {s : State} (hg : s.b.gated = false) {q : Nat} (v : Word) (hq : q < 4096) :
    exec (.registerWrite (0x1000000 + 4096 * q) 4 (v.setWidth 64)) s = exec (.doorbell q v) s := by
  show execRegisterWrite _ 4 _ s = execDoorbell q v s
  rw [execRegisterWrite, hg, regAt_page hq, dfld_setWidth]
  have ha : (0x1000000 + 4096 * q) % 4 = 0 := by omega
  simp [writePage32, ha]

theorem doorbell_accepted {s : State} {q : Nat} {v : Word} (hg : s.b.gated = false) (hq : q < 4096)
    (ht : (s.b.queue q).takes v = true) (hl : s.b.start.leadLost = false) :
    Completes (exec (.doorbell q v) s) fun t =>
      Frame [.queues, .ctxs, .mem, .coh, .cores, .slices] s t ∧ t.b.queue q = { (s.b.queue q).pend with tail := v } := by
  have hb : (if s.b.gated then s.b else s.b.passDoorbell q (toLe 4 v.toNat) fun b => b.ring (q % 4096) v) = s.b.ring q v := by
    simp [Block.passDoorbell, Block.queueAt, hg, hq, Nat.mod_eq_of_lt hq]
  obtain ⟨hk, hr⟩ := Block.ring_accepted ht hl
  exact Completes.framed hb hk hr

theorem registerWrite_aptKey {s : State} (hg : s.b.gated = false) {n : Nat} (v : Word) (h1 : 1 ≤ n) (h28 : n ≤ 28) :
    exec (.registerWrite (0xB0000 + 256 * n) 4 (v.setWidth 64)) s = exec (.zhAptKeyWrite n v) s := by
  have h4 : (0xB0000 + 256 * n) % 4 = 0 := by omega
  have h8 : 0xB0000 + 256 * n - (0xB0000 + 256 * n) % 8 = 0xB0000 + 256 * n := by omega
  show execRegisterWrite _ 4 _ s = execZhAptKeyWrite n v s
  rw [execRegisterWrite, hg, regAt_aptKey h1 h28, dfld_setWidth]
  simp [h4, writeHalf, h8, regAt_aptKey h1 h28, wide, writeSlice32]

theorem registerWrite_queueEnable {s : State} (hg : s.b.gated = false) {q : Nat} (v : Dword) (hq : q < 4096)
    (he : (s.b.queue q).enable = false) :
    exec (.registerWrite (0x800008 + 64 * q) 8 v) s = exec (.queueEnable q v) s := by
  have h8 : (0x800008 + 64 * q) % 8 = 0 := by omega
  show execRegisterWrite _ 8 _ s = execQueueEnable q v s
  rw [execRegisterWrite, hg, regAt_config hq]
  simp [h8, wide, writeWide, writeConfig64, he]

/-- A write of four bytes where no register stands. -/
theorem writeHalf_nowhere {off : Nat} (h : regAt off = .nowhere) (v : Nat) (s : State) : writeHalf off v s = .next s := by
  simp only [writeHalf]
  rw [regAt_nowhere_low h, h]
  rfl

theorem registerWrite_nowhere {s : State} {off size : Nat} (v : Dword) (h : regAt off = .nowhere) (h' : regAt (off + 4) = .nowhere) :
    exec (.registerWrite off size v) s = .next s := by
  show execRegisterWrite off size v s = .next s
  simp only [execRegisterWrite, h, writeHalf_nowhere h, writeHalf_nowhere h', andThen, wide, noEffect]
  simp

/-! ### Completions of host reads -/

theorem Block.nextHostRead_none {b : Block} (h : b.ports.hostWait = []) : b.nextHostRead = b := by
  rw [Block.nextHostRead, h]

/-- A stalled access ends as its answer has it. -/
theorem Block.endAccess_stalled {b : Block} {core : Nat} (h : (b.core core).hart.stall = some .access) (f : Hart → Hart) :
    b.endAccess core f = b.modHart core f := by
  rw [Block.endAccess, h]; rfl

/-- A load of host memory ends by its completion: with the bytes, or with a load access fault (R445, R204). -/
theorem hostCompletion_load {s : State} {tag : Nat} {r : HostRead} {core rd l : Nat} {uns : Bool} {va : Nat} {ok : Bool} {bs : List Byte}
    (hf : Tab.find s.b.ports.hostReads tag = some r) (hu : r.use = .load core rd l uns va) (hw : s.b.ports.hostWait = [])
    (hg : s.b.gated = false) (hs : (s.b.core core).hart.stall = some .access) (hok : (ok && bs.length != r.len) = false) :
    Completes (exec (.hostCompletion tag ok bs) s) fun t => Frame [.ports, .cores] s t ∧
      t.b.ports.hostReads = Tab.erase s.b.ports.hostReads tag ∧
      (t.b.core core).hart = if ok then (s.b.core core).hart.loaded rd (extend (2 ^ l) uns (leNat bs))
        else (s.b.core core).hart.trap 5 (BitVec.ofNat 64 va) := by
  let f (h : Hart) : Hart := if ok then h.loaded rd (extend (2 ^ l) uns (leNat bs)) else h.trap cLoadFault (BitVec.ofNat 64 va)
  let b₁ := s.b.modPorts fun p => { p with hostReads := Tab.erase p.hostReads tag }
  have hd : b₁.hostDone s.fuse r ok bs = b₁.modHart core f := by
    rw [Block.hostDone, hu]; exact Block.endAccess_stalled (b := b₁) hs f
  have hn : (b₁.modHart core f).nextHostRead = b₁.modHart core f := Block.nextHostRead_none hw
  have he : exec (.hostCompletion tag ok bs) s = .next { s with b := b₁.modHart core f } := by
    show execHostCompletion tag ok bs s = _
    rw [execHostCompletion, State.onHost_open hg, State.onBlock_eq, hf]
    simp only [hok, Bool.false_eq_true, if_false]
    rw [hd, hn]
  refine Completes.framed rfl (((s.b.modPorts_keeps _).mono (by simp)).trans ((Block.modHart_keeps b₁ core f).mono (by simp))) ⟨rfl, ?_⟩ he
  show ((b₁.modCore core _).core core).hart = _
  rw [Block.modCore_core_same]
  rfl

end Sys2Proof.Machine
end

section
/-! Uncached accesses where the homes are free (R287, R446): they have their turn at once, and a write is read back under the key that
it was written with. -/

namespace Sys2Proof.Machine

/-! ### The turn of an access -/

/-- Where the homes are free, an uncached access has its turn at a line at once. -/
theorem Block.homeTurn_free {b : Block} (h : HomesFree b) (n i line : Nat) (own : Bool) :
    b.homeTurn (.uncached n i) line own = (b, true) := by
  obtain ⟨_, hbusy, hres, hwait, _, hhold⟩ := h
  have hpush : b.push line = b := by simp [Block.push, hbusy, Tab.has]
  have hres' : b.reservedFor line = none := by simp [Block.reservedFor, hres]
  have hheld : ∀ r, b.heldAgainst (.uncached n i) line r = false := by
    intro r
    have : (b.coh.lines.any fun l => l.line == line && l.agent != .uncached n i && b.time.clk < l.holdTo) = false := by
      simp only [List.any_eq_false]
      intro l hl
      simp [Nat.not_lt.2 (hhold l hl)]
    rw [Block.heldAgainst, this, Bool.and_false]
  rw [Block.homeTurn, hpush]
  by_cases hd : b.inDomain (.uncached n i) line = true
  · have ht : b.lineTurn (.uncached n i) line = true := by simp [Block.lineTurn, hbusy, hres', hd, Tab.has]
    simp [hd, ht, hheld, hwait]
  · simp [hd, agentUncached]

theorem Block.homeTurns_free {b : Block} (h : HomesFree b) (n i : Nat) (lines : List Nat) (own : Bool) :
    b.homeTurns (.uncached n i) lines own = (b, true) := by
  have hgo : ∀ l : List Nat, (l.foldl (fun (x : Block × Bool) k => ((x.1.homeTurn (.uncached n i) k own).1,
      x.2 && (x.1.homeTurn (.uncached n i) k own).2)) (b, true)) = (b, true) := by
    intro l
    induction l with
    | nil => rfl
    | cons k l ih => simp only [List.foldl_cons, Block.homeTurn_free h, Bool.and_true, ih]
  exact hgo lines

/-- Where the homes are free, an uncached request is served at once. -/
theorem Block.atHomes_free {b : Block} (h : HomesFree b) (u : HomeUse) (f : Block → Block) : b.atHomes u f = f b := by
  have ha : (b.ports.atHome.any u.behind) = false := by simp [h.1]
  simp only [Block.atHomes, ha, Bool.false_eq_true, if_false, Block.homeTurns_free h]

/-! ### A line whose newest data go to memory -/

/-- Losing data-cache copies changes nothing of the domains but the data caches. -/
theorem Block.loseCopies_coh (b : Block) (line : Nat) (p : Nat → Bool) : ∃ d, (b.loseCopies line p).coh = { b.coh with dcache := d } := by
  simp only [Block.loseCopies]
  split
  · exact ⟨_, rfl⟩
  · refine ⟨_, congrArg (fun c : Coh => { c with dcache := c.dcache.filter fun x => !(x.2.1 == line && p x.1) }) ?_⟩
    exact Block.Keeps.each (L := [.cores]) _ (fun n b => b.modHart_keeps n _) _ b .coh (by simp)

/-- The domains without any copy of a line, and with its write-backs discarded. -/
def Coh.lineTaken (c : Coh) (line : Nat) : Coh :=
  { c with lines := c.lines.filter (fun l => l.line != line), filter := Tab.erase c.filter line
           wbuf := c.wbuf.map fun w => if w.line == line then { w with taken := true } else w }

theorem Tab.erase_of_not_has {α : Type} {t : Tab α} {k : Nat} (h : Tab.has t k = false) : Tab.erase t k = t := by
  induction t with
  | nil => rfl
  | cons e t ih =>
    simp only [Tab.has, Bool.or_eq_false_iff, beq_eq_false_iff_ne] at h
    rw [Tab.erase, if_neg h.1, ih h.2]

theorem Coh.lineTaken_of_none {c : Coh} {line : Nat} (hl : (c.lines.any fun l => l.line == line) = false)
    (hw : (c.wbuf.any fun w => w.line == line) = false) (hf : Tab.has c.filter line = false) : c.lineTaken line = c := by
  rw [List.any_eq_false] at hl hw
  have hl' : (c.lines.filter fun l => l.line != line) = c.lines := List.filter_eq_self.2 fun l h => by simpa using hl l h
  have hw' : (c.wbuf.map fun w => if w.line == line then { w with taken := true } else w) = c.wbuf :=
    (List.map_congr_left (g := id) fun w h => if_neg (hw w h)).trans (List.map_id _)
  rw [Coh.lineTaken, hl', hw', Tab.erase_of_not_has hf]

/-- What the domains hold once a line's newest data are in memory. -/
theorem Block.takeLine_coh (b : Block) (line : Nat) : ∃ d, (b.takeLine line).coh = { b.coh.lineTaken line with dcache := d } := by
  obtain ⟨b₁, hb₁, he⟩ : ∃ b₁ : Block, b₁.coh = b.coh ∧ b.takeLine line =
      if ((b₁.loseCopies line fun _ => true).coh.lines.any fun l => l.line == line) ||
          ((b₁.loseCopies line fun _ => true).coh.wbuf.any fun w => w.line == line) ||
          Tab.has (b₁.loseCopies line fun _ => true).coh.filter line then
        (b₁.loseCopies line fun _ => true).modCoh (·.lineTaken line)
      else b₁.loseCopies line fun _ => true := by
    rw [Block.takeLine]
    cases b.coh.newest line with
    | none => exact ⟨b, rfl, rfl⟩
    | some x => exact ⟨b.storeLine line x.2 x.1, rfl, rfl⟩
  obtain ⟨d, hd⟩ := b₁.loseCopies_coh line fun _ => true
  rw [hb₁] at hd
  refine ⟨d, ?_⟩
  rw [he]
  split
  · rw [Block.modCoh_coh, hd]; rfl
  · rename_i hn
    simp only [hd, Bool.not_eq_true, Bool.or_eq_false_iff] at hn
    rw [hd, Coh.lineTaken_of_none hn.1.1 hn.1.2 hn.2]

theorem Coh.find_map_eq {α : Type} (p : α → Bool) (f : α → α) (l : List α) (h : ∀ x, p (f x) = p x) (h' : ∀ x, p x = true → f x = x) :
    (l.map f).find? p = l.find? p := by
  induction l with
  | nil => rfl
  | cons x l ih =>
    rw [List.map_cons, List.find?_cons, List.find?_cons, h, ih]
    cases hx : p x with
    | true => rw [h' x hx]
    | false => rfl

/-- Nothing of a line's newest data is left outside memory, and other lines keep theirs. -/
theorem Coh.lineTaken_newest {c : Coh} (hbusy : c.busy = []) (hmsgs : c.msgs = []) (line k : Nat) (d : List (Nat × Nat × LineSt)) :
    Coh.newest { c.lineTaken line with dcache := d } k = if k = line then none else c.newest k := by
  have hm : Coh.newest { c.lineTaken line with dcache := d } k =
      (((c.lineTaken line).lines.find? fun l => l.line == k && l.st == .m).map fun l => (l.data, l.key)).or
        (((c.lineTaken line).wbuf.find? fun w => w.line == k && !w.taken).map fun w => (w.data, w.key)) := by
    simp [Coh.newest, Coh.lineTaken, hbusy, hmsgs, Tab.find]
  have hc : c.newest k = ((c.lines.find? fun l => l.line == k && l.st == .m).map fun l => (l.data, l.key)).or
        ((c.wbuf.find? fun w => w.line == k && !w.taken).map fun w => (w.data, w.key)) := by
    simp [Coh.newest, hbusy, hmsgs, Tab.find]
  rw [hm, hc, Coh.lineTaken]
  dsimp only
  by_cases hk : k = line
  · have h1 : ((c.lines.filter fun l => l.line != line).find? fun l => l.line == k && l.st == .m) = none := by
      rw [List.find?_eq_none]
      intro l hl
      have : l.line ≠ line := by simpa using (List.mem_filter.1 hl).2
      simp [hk, this]
    have h2 : ((c.wbuf.map fun w => if w.line == line then { w with taken := true } else w).find? fun w => w.line == k && !w.taken) = none := by
      rw [List.find?_eq_none]
      intro w hw
      obtain ⟨v, _, rfl⟩ := List.mem_map.1 hw
      by_cases hv : v.line = line <;> simp [hv, hk]
    rw [if_pos hk, h1, h2]; rfl
  · have h1 : ((c.lines.filter fun l => l.line != line).find? fun l => l.line == k && l.st == .m) =
        c.lines.find? fun l => l.line == k && l.st == .m := by
      rw [List.find?_filter]
      congr 1
      funext l
      rw [Bool.eq_iff_iff, decide_eq_true_eq, Bool.and_eq_true, bne_iff_ne, beq_iff_eq]
      exact ⟨fun h => h.2, fun h => ⟨h.1 ▸ hk, h⟩⟩
    rw [if_neg hk, h1, Coh.find_map_eq]
    · intro w; by_cases hw : w.line = line <;> simp [hw, Ne.symm hk]
    · intro w hw
      have : w.line ≠ line := fun h => by simp [h, Ne.symm hk] at hw
      simp [this]

/-- Where the homes are free and nothing is on its way, a line's newest data going to memory leaves it so. -/
theorem Block.takeLine_free {b : Block} (h : HomesFree b) (hm : b.coh.msgs = []) (line : Nat) :
    HomesFree (b.takeLine line) ∧ (b.takeLine line).coh.msgs = [] := by
  obtain ⟨hhome, hbusy, hres, hwait, hlate, hhold⟩ := h
  obtain ⟨d, hc⟩ := b.takeLine_coh line
  have hk := (Homely.takeLine b line).keeps
  refine ⟨⟨?_, ?_, ?_, ?_, ?_, ?_⟩, ?_⟩
  · rw [show (b.takeLine line).ports = b.ports from hk .ports (by simp)]; exact hhome
  · rw [hc]; exact hbusy
  · rw [hc]; exact hres
  · rw [hc]; exact hwait
  · rw [hc]; exact hlate
  · rw [hc, show (b.takeLine line).time = b.time from hk .time (by simp)]
    exact fun l hl => hhold l (List.mem_of_mem_filter hl)
  · rw [hc]; exact hm

/-- A byte of memory depends on its own line alone. -/
theorem DevMem.byte_congr {m m' : DevMem} {k : Nat} (hk : Tab.get 0 m'.keyGen (k / 128) = Tab.get 0 m.keyGen (k / 128))
    (hb : ∀ j, j / 128 = k / 128 → m'.bytes.read j = m.bytes.read j) (g : Nat) : m'.byte g k = m.byte g k := by
  have hread : ∀ n a, 128 * (k / 128) ≤ a → a + n ≤ 128 * (k / 128) + 128 → m'.bytes.readN a n = m.bytes.readN a n := by
    intro n
    induction n with
    | zero => intros; rfl
    | succ n ih => intro a h h'; rw [Mem.readN, Mem.readN, hb a (by omega), ih (a + 1) (by omega) (by omega)]
  have hc : m'.cipher (k / 128) = m.cipher (k / 128) := by rw [DevMem.cipher, DevMem.cipher, hk, hread 128 _ (by omega) (by omega)]
  rw [DevMem.byte, DevMem.byte, hk, hc, hb k rfl]

/-- The key that wrote a line reads its bytes (R222). -/
theorem DevMem.byte_own {m : DevMem} {g k : Nat} (hk : Tab.get 0 m.keyGen (k / 128) = g) (hg : g ≠ 0) : m.byte g k = m.bytes.read k := by
  simp [DevMem.byte, hk, hg]

/-- A line's newest data going to memory changes no other line of it. -/
theorem Block.takeLine_mem (b : Block) {line k : Nat} (h : k / 128 ≠ line) :
    Tab.get 0 (b.takeLine line).mem.keyGen (k / 128) = Tab.get 0 b.mem.keyGen (k / 128) ∧
      ∀ j, j / 128 = k / 128 → (b.takeLine line).mem.bytes.read j = b.mem.bytes.read j := by
  have hcases : (b.takeLine line).mem = b.mem ∨ ∃ x : BitVec 1024 × Nat, (b.takeLine line).mem = (b.storeLine line x.2 x.1).mem := by
    rw [Block.takeLine]
    cases b.coh.newest line with
    | none => exact .inl (by dsimp only; split <;> simp)
    | some x => exact .inr ⟨x, by dsimp only; split <;> simp⟩
  obtain hm | ⟨x, hm⟩ := hcases
  · exact hm ▸ ⟨rfl, fun _ _ => rfl⟩
  · rw [hm]
    refine ⟨Tab.get_set_ne _ _ _ h, fun j hj => Mem.read_writeN_out _ _ _ _ ?_⟩
    rw [List.length_map, List.length_range]
    omega

/-! ### What a write leaves to read -/

/-- A write within a line where the homes are free is made at once: the line's newest data go to memory, and the bytes with them. -/
theorem Block.wrLine_free {b : Block} (h : HomesFree b) (g k : Nat) (bs : List Byte) : ∃ base poison,
    b.wrLine g k bs = { b.takeLine (k / 128) with
      mem := { bytes := Mem.writeN base k bs, keyGen := Tab.set 0 (b.takeLine (k / 128)).mem.keyGen (k / 128) g, poison := poison } } ∧
    ∀ j, j / 128 ≠ k / 128 → base.read j = (b.takeLine (k / 128)).mem.bytes.read j := by
  obtain ⟨_, hbusy, hres, _, hlate, hhold⟩ := h
  have hl : b.lineLate (k / 128) = false := by
    have hheld : (b.coh.lines.any fun l => l.line == k / 128 && l.agent != recaller (b.groupOwner (homeOf (k / 128))) && b.time.clk < l.holdTo) = false := by
      simp only [List.any_eq_false]
      intro l hl
      simp [Nat.not_lt.2 (hhold l hl)]
    simp [Block.lineLate, Block.reservedFor, Block.heldAgainst, hbusy, hres, hlate, Tab.has, hheld]
  rw [Block.wrLine, hl]
  refine ⟨_, _, rfl, fun j hj => ?_⟩
  split
  · rfl
  · have hlen : ((b.takeLine (k / 128)).rdMem g (k / 128 * 128) 128).length = 128 := rfl
    exact Mem.read_writeN_out _ _ _ _ (by omega)

theorem Block.wrLine_rest {b : Block} (h : HomesFree b) (hm : b.coh.msgs = []) (g k : Nat) (bs : List Byte) :
    HomesFree (b.wrLine g k bs) ∧ (b.wrLine g k bs).coh.msgs = [] := by
  obtain ⟨base, poison, he, _⟩ := Block.wrLine_free h g k bs
  rw [he]
  exact Block.takeLine_free h hm (k / 128)

/-- Where the homes are free, what a reader sees of a place is the line's newest copy, or memory. -/
theorem Block.rdByte_free {b : Block} (h : HomesFree b) (g k : Nat) :
    b.rdByte g k = ((b.coh.newest (k / 128)).map fun x => x.1.extractLsb' (8 * (k % 128)) 8).getD (b.mem.byte g k) := by
  obtain ⟨_, _, _, _, hlate, _⟩ := h
  rw [Block.rdByte, Coh.lateByte, hlate]
  cases b.coh.newest (k / 128) <;> rfl

/-- The bytes written within a line are read back under their key. -/
theorem Block.wrLine_rdByte_same {b : Block} (h : HomesFree b) (hm : b.coh.msgs = []) {g k : Nat} {bs : List Byte} (hg : g ≠ 0)
    (hl : k % 128 + bs.length ≤ 128) {i : Nat} (hi : i < bs.length) : (b.wrLine g k bs).rdByte g (k + i) = bs[i] := by
  obtain ⟨base, poison, he, _⟩ := Block.wrLine_free h g k bs
  obtain ⟨d, hc⟩ := b.takeLine_coh (k / 128)
  have hline : (k + i) / 128 = k / 128 := by omega
  have hn : (b.wrLine g k bs).coh.newest (k / 128) = none := by
    rw [he]; dsimp only; rw [hc, Coh.lineTaken_newest h.2.1 hm, if_pos rfl]
  rw [Block.rdByte_free (Block.wrLine_rest h hm g k bs).1, hline, hn, he, Option.map_none, Option.getD_none]
  refine (DevMem.byte_own ?_ hg).trans (Mem.read_writeN_in _ _ _ _ hi)
  rw [hline, Tab.get_set_same]

/-- A write within a line changes what no reader sees of another. -/
theorem Block.wrLine_rdByte_other {b : Block} (h : HomesFree b) (hm : b.coh.msgs = []) (g k : Nat) (bs : List Byte) (g' : Nat) {j : Nat}
    (hl : k % 128 + bs.length ≤ 128) (hj : j / 128 ≠ k / 128) : (b.wrLine g k bs).rdByte g' j = b.rdByte g' j := by
  obtain ⟨base, poison, he, hbase⟩ := Block.wrLine_free h g k bs
  obtain ⟨d, hc⟩ := b.takeLine_coh (k / 128)
  obtain ⟨htk, htb⟩ := b.takeLine_mem hj
  have hn : (b.wrLine g k bs).coh.newest (j / 128) = b.coh.newest (j / 128) := by
    rw [he]; dsimp only; rw [hc, Coh.lineTaken_newest h.2.1 hm, if_neg hj]
  have hmem : (b.wrLine g k bs).mem.byte g' j = b.mem.byte g' j := by
    rw [he]
    refine DevMem.byte_congr ((Tab.get_set_ne _ _ _ hj).trans htk) (fun i hi => ?_) g'
    dsimp only
    rw [Mem.read_writeN_out _ _ _ _ (by omega), hbase i (by omega), htb i hi]
  rw [Block.rdByte_free (Block.wrLine_rest h hm g k bs).1, Block.rdByte_free h, hn, hmem]

/-- The same over the pieces of a range, line by line. -/
theorem Block.wrChunks_rdByte (g f k : Nat) (bs : List Byte) (b : Block) (h : HomesFree b) (hm : b.coh.msgs = [])
    (hf : bs.length < f) :
    (g ≠ 0 → ∀ (i : Nat) (hi : i < bs.length), ((lineChunks f k bs).foldl (fun b c => b.wrLine g c.1 c.2) b).rdByte g (k + i) = bs[i]) ∧
      ∀ j, (j / 128 < k / 128 ∨ (k + bs.length - 1) / 128 < j / 128) →
        ((lineChunks f k bs).foldl (fun b c => b.wrLine g c.1 c.2) b).rdByte g j = b.rdByte g j := by
  induction f generalizing k bs b with
  | zero => omega
  | succ f ih =>
    rw [lineChunks]
    split
    · rename_i he
      rw [List.isEmpty_iff] at he
      subst he
      exact ⟨fun _ i hi => absurd hi (Nat.not_lt_zero i), fun _ _ => rfl⟩
    · rename_i he
      have hpos : 0 < bs.length := List.length_pos_iff.2 fun h => he (by rw [h]; rfl)
      have hn : k % 128 + (bs.take (128 - k % 128)).length ≤ 128 := by rw [List.length_take]; omega
      obtain ⟨h', hm'⟩ := Block.wrLine_rest h hm g k (bs.take (128 - k % 128))
      obtain ⟨hin, hout⟩ := ih (k + (128 - k % 128)) (bs.drop (128 - k % 128)) _ h' hm' (by rw [List.length_drop]; omega)
      rw [List.length_drop] at hout
      rw [List.foldl_cons]
      refine ⟨fun hg i hi => ?_, fun j hj => ?_⟩
      · by_cases hi' : i < 128 - k % 128
        · rw [hout _ (.inl (by omega)), Block.wrLine_rdByte_same h hm hg hn (by rw [List.length_take]; omega), List.getElem_take]
        · have := hin hg (i - (128 - k % 128)) (by rw [List.length_drop]; omega)
          rw [List.getElem_drop] at this
          rw [show k + i = k + (128 - k % 128) + (i - (128 - k % 128)) by omega, this]
          congr 1
          omega
      · rw [hout j (by omega), Block.wrLine_rdByte_other h hm g k _ g hn (by omega)]

/-- A range is read as written byte by byte. -/
theorem Block.rdMem_eq {b : Block} {g k : Nat} {bs : List Byte} (h : ∀ (i : Nat) (hi : i < bs.length), b.rdByte g (k + i) = bs[i]) :
    b.rdMem g k bs.length = bs := by
  induction bs generalizing k with
  | nil => rfl
  | cons x bs ih =>
    rw [List.length_cons, Block.rdMem, ih fun i hi => ?_]
    · exact congrArg (· :: bs) (h 0 (by simp))
    · have := h (i + 1) (by simpa using hi)
      rwa [← Nat.add_assoc, Nat.add_right_comm] at this

/-! ### The aperture (R446) -/

/-- A performed access of the aperture, where the homes are free, is served at once. -/
theorem exec_aperture_free {s : State} {off : Dword} {len : Nat} {g : Nat} (hg : s.b.gated = false) (h : HomesFree s.b)
    {w : Option (List Byte)} (hl : ∀ bs, w = some bs → bs.length = len) (hk : s.b.apertureKey off.toNat len = some g) :
    exec (.apertureAccess off len w) s = .next { s with b := s.b.serveAperture off.toNat len w } := by
  have hw : ∀ u, (if s.b.gated then s.b
      else if (s.b.apertureKey off.toNat len).isNone then s.b.serveAperture off.toNat len w
      else s.b.atHomes u fun b => b.serveAperture off.toNat len w) = s.b.serveAperture off.toNat len w := by
    intro u
    simp only [hg, hk, Option.isNone_some, Bool.false_eq_true, if_false, Block.atHomes_free h]
  show execApertureAccess off len w s = _
  cases w with
  | none => exact congrArg (fun b => Host.Outcome.next { s with b := b }) (hw (.aperture off.toNat len none))
  | some bs =>
    obtain rfl := hl bs rfl
    exact congrArg (fun b => Host.Outcome.next { s with b := b }) (hw (.aperture off.toNat bs.length (some bs)))

theorem aperture_reads {s : State} {off : Dword} {len g : Nat} (hg : s.b.gated = false) (h : HomesFree s.b)
    (hk : s.b.apertureKey off.toNat len = some g) :
    (s.b.poisonIn off.toNat len = none → Completes (exec (.apertureAccess off len none) s) fun t => Frame [.ports] s t ∧
      t.b.ports.out = .aperture (some (s.b.rdMem g off.toNat len)) :: s.b.ports.out) ∧
    (s.b.poisonIn off.toNat len ≠ none → Completes (exec (.apertureAccess off len none) s) fun t => Frame [.ports] s t ∧
      t.b.ports.out = .aperturePoison :: s.b.ports.out) := by
  have he := exec_aperture_free (w := none) hg h (fun _ h => nomatch h) hk
  rw [Block.serveAperture, hk] at he
  refine ⟨fun hp => ?_, fun hp => ?_⟩
  · simp only [hp, Option.isSome_none, Bool.false_eq_true, if_false] at he
    exact Completes.framed rfl (Block.emit_keeps _ _) (Block.emit_out _ _) he
  · simp only [Option.isSome_iff_ne_none.2 hp, if_true] at he
    exact Completes.framed rfl (Block.emit_keeps _ _) (Block.emit_out _ _) he

theorem aperture_writes {s : State} {off : Dword} {len g : Nat} {bs : List Byte} (hg : s.b.gated = false) (h : HomesFree s.b)
    (hk : s.b.apertureKey off.toNat len = some g) (hl : bs.length = len) (hm : s.b.coh.msgs = []) :
    Completes (exec (.apertureAccess off len (some bs)) s) fun t =>
      Frame [.mem, .coh, .cores, .slices] s t ∧ (g ≠ 0 → t.b.rdMem g off.toNat len = bs) ∧
      ∀ k, (k / 128 < off.toNat / 128 ∨ (off.toNat + len - 1) / 128 < k / 128) → t.b.rdByte g k = s.b.rdByte g k := by
  have he := exec_aperture_free (w := some bs) hg h (fun bs' h => by cases h; exact hl) hk
  rw [Block.serveAperture, hl, hk] at he
  subst hl
  obtain ⟨hin, hout⟩ := Block.wrChunks_rdByte g _ off.toNat bs s.b h hm (Nat.lt_succ_self _)
  exact Completes.framed rfl (Homely.wrMem s.b g off.toNat bs).keeps ⟨fun hg0 => Block.rdMem_eq (hin hg0), hout⟩ he

/-- An access of the aperture that is not performed: a read says so, a write does nothing (R446). -/
theorem aperture_refused {s : State} {off : Dword} {len : Nat} (hg : s.b.gated = false) (hk : s.b.apertureKey off.toNat len = none) :
    (Completes (exec (.apertureAccess off len none) s) fun t => Frame [.ports] s t ∧
      t.b.ports.out = .aperture none :: s.b.ports.out) ∧
    ∀ bs : List Byte, bs.length = len → exec (.apertureAccess off len (some bs)) s = .next s := by
  refine ⟨?_, fun bs hl => ?_⟩
  · have he : exec (.apertureAccess off len none) s = .next { s with b := s.b.emit (.aperture none) } := by
      show execApertureAccess off len none s = _
      rw [execApertureAccess, State.onBlock_eq]
      simp only [hg, hk, Option.isNone_none, Bool.false_eq_true, if_false, if_true, Block.serveAperture]
    exact Completes.framed rfl (Block.emit_keeps _ _) (Block.emit_out _ _) he
  · show execApertureAccess off len (some bs) s = _
    rw [execApertureAccess, State.onBlock_eq]
    simp only [hl, hg, hk, Option.isNone_none, Bool.false_eq_true, if_false, if_true, Block.serveAperture]

end Sys2Proof.Machine
end

section
/-! Data accesses of the control processors (R86, R206, R227, R276, R292 to R294): the scratchpad, a line in the cluster cache, the
allocator's page, and accesses that trap. -/

namespace Sys2Proof.Machine

/-! ### Commands that change one control processor -/

/-- A command whose effect is a change of one control processor changes only that. -/
theorem Completes.onlyHart {i : Instr} {s : State} {core : Nat} {f : Hart → Hart} {h' : Hart}
    (he : exec i s = .next { s with b := s.b.modHart core f }) (hf : f (s.b.core core).hart = h') :
    Completes (exec i s) fun t => OnlyHart core s t ∧ (t.b.core core).hart = h' := by
  subst hf
  have hh : ((s.b.modHart core f).core core).hart = f (s.b.core core).hart := congrArg Core.hart (s.b.modCore_core_same core _)
  refine ⟨_, he, ?_, hh⟩
  rw [OnlyHart, hh]
  rfl

/-- A command whose effect is a change of one core changes only that. -/
theorem Completes.onlyCore {i : Instr} {s : State} {core : Nat} {f : Core → Core} {p : Core → Prop}
    (he : exec i s = .next { s with b := s.b.modCore core f }) (hp : p (f (s.b.core core))) :
    Completes (exec i s) fun t => OnlyCore core s t ∧ p (t.b.core core) := by
  have hc : (s.b.modCore core f).core core = f (s.b.core core) := s.b.modCore_core_same core _
  refine ⟨_, he, ?_, hc.symm ▸ hp⟩
  rw [OnlyCore, hc]
  rfl

/-- No request of an earlier access of a core's control processor is left. -/
def NoAccess (b : Block) (core : Nat) : Prop :=
  (∀ x ∈ b.ports.remote, x.2.hart ≠ some core) ∧ (∀ x ∈ b.ports.hostReads, x.2.use.hart ≠ some core) ∧
    (∀ x ∈ b.ports.hostWait, x.use.hart ≠ some core) ∧ ∀ x ∈ b.ports.waiting, ∀ r, x.what = .read r → r.use.hart ≠ some core

/-- A new access then gives up nothing. -/
theorem Block.newAccess_eq {b : Block} {core : Nat} (h : NoAccess b core) : b.newAccess core = b := by
  obtain ⟨hremote, hreads, hwait, hport⟩ := h
  have h1 : (b.ports.remote.filter fun u => u.2.hart == some core) = [] := List.filter_eq_nil_iff.2 fun u hu => by simpa using hremote u hu
  have h2 : (b.ports.hostReads.map fun r => if r.2.use.hart == some core then (r.1, { r.2 with use := HostUse.stale }) else r) =
      b.ports.hostReads :=
    (List.map_congr_left (g := id) fun r hr => if_neg (by simpa using hreads r hr)).trans (List.map_id _)
  have h3 : (b.ports.hostWait.filter fun r => !(r.use.hart == some core)) = b.ports.hostWait :=
    List.filter_eq_self.2 fun r hr => by simpa using hwait r hr
  have h4 : (b.staleHost fun u => u.hart == some core).ports.waiting = b.ports.waiting :=
    List.filter_eq_self.2 fun x hx => by
      split
      · rename_i r hr; simpa using hport x hx r hr
      · rfl
  rw [Block.newAccess, h1]
  show { b with ports := { b.ports with
    hostReads := b.ports.hostReads.map fun r => if r.2.use.hart == some core then (r.1, { r.2 with use := HostUse.stale }) else r
    hostWait := b.ports.hostWait.filter fun r => !(r.use.hart == some core)
    waiting := (b.staleHost fun u => u.hart == some core).ports.waiting } } = b
  rw [h2, h3, h4]

/-- A data access of a control processor that runs, with no earlier one under way. -/
theorem exec_access {s : State} {core : Nat} (hr : HartRuns s.b core) (hn : NoAccess s.b core) (acc : CpAccess) :
    exec (.controlProcessorAccess core (.access acc)) s = .next { s with b := s.b.cpAccess core acc (s.b.core core).hart } := by
  refine (State.onHart_runs hr fun b h => (b.newAccess core).cpAccess core acc h).trans ?_
  rw [Block.newAccess_eq hn]

/-! ### The scratchpad (R80, R86) -/

theorem misaligned_within {a n : Nat} (h : a % 128 + n ≤ 128) : misaligned a n false = false := by simp [misaligned, h]
theorem misaligned_aligned {a n : Nat} (h : a % n = 0) : misaligned a n true = false := by simp [misaligned, h]

/-- An aligned access below the scratchpad's end is one of the scratchpad. -/
theorem Block.cpAccess_scratch (b : Block) (core : Nat) {acc : CpAccess} {h : Hart} (hva : (accAddr h acc).toNat < scratchEnd)
    (hm : misaligned (accAddr h acc).toNat (accBytes acc) (accStrict acc) = false) :
    b.cpAccess core acc h = b.scratchAccess core h acc (accAddr h acc).toNat := by
  have ha : (accAddr h acc).toNat % 2 ^ 57 = (accAddr h acc).toNat := Nat.mod_eq_of_lt (by rw [scratchEnd] at hva; omega)
  simp only [Block.cpAccess, ha, hm, hva, Nat.not_le.2 hva, decide_false, Bool.false_and, Bool.false_eq_true, if_false, if_true]

/-- A write within a line of the scratchpad is one write. -/
theorem Core.wrS_within (c : Core) {a : Nat} {bs : List Byte} (hb : bs ≠ []) (hl : a % 128 + bs.length ≤ 128) : c.wrS a bs = c.wrLineS a bs := by
  have he : bs.isEmpty = false := by simpa using hb
  have ht : bs.take (128 - a % 128) = bs := List.take_of_length_le (by omega)
  have hd : bs.drop (128 - a % 128) = [] := List.drop_eq_nil_of_le (by omega)
  have hnil : ∀ f k, lineChunks f k [] = [] := by intro f k; cases f <;> rfl
  rw [Core.wrS, lineChunks]
  simp only [he, Bool.false_eq_true, if_false, ht, hd, hnil, List.foldl_cons, List.foldl_nil]

/-- What a write within a line of the scratchpad leaves to read, there and elsewhere; the control processor stays as it is. -/
theorem Core.wrS_toLe (c : Core) {a n v : Nat} (hn : 0 < n) (hl : a % 128 + n ≤ 128) :
    (c.wrS a (toLe n v)).rdSN a n = toLe n v ∧ (∀ k, (k < a ∨ a + n ≤ k) → (c.wrS a (toLe n v)).rdSN k 1 = c.rdSN k 1) ∧
      (c.wrS a (toLe n v)).hart = c.hart := by
  have hlen : (toLe n v).length = n := toLe_length n v
  have hne : toLe n v ≠ [] := fun h => by rw [h, List.length_nil] at hlen; omega
  rw [c.wrS_within hne (by rw [hlen]; exact hl)]
  refine ⟨?_, fun k hk => ?_, rfl⟩
  · have := Mem.readN_writeN c.scratch a (toLe n v)
    rwa [hlen] at this
  · exact Mem.readN_writeN_out _ _ _ _ _ (by rw [hlen]; omega)

/-- A load of the scratchpad gives its bytes, or a load access fault where the line is poisoned (R86, R298). -/
theorem scratch_load {s : State} {core : Nat} (hr : HartRuns s.b core) (hn : NoAccess s.b core) (rd rs1 l : Nat) (uns : Bool) (off : Int) :
    let h := (s.b.core core).hart
    let a := (effAddr h rs1 off).toNat
    a < scratchEnd → a % 128 + 2 ^ l ≤ 128 →
    Completes (exec (.controlProcessorAccess core (.access (.load rd rs1 l uns off))) s) fun t => OnlyHart core s t ∧
      (Tab.get false (s.b.core core).poison (a / 128) = false → (t.b.core core).hart =
        h.loaded rd (extend (2 ^ l) uns (leNat ((s.b.core core).rdSN a (2 ^ l))))) ∧
      (Tab.get false (s.b.core core).poison (a / 128) = true → (t.b.core core).hart = h.trap 5 (BitVec.ofNat 64 a)) := by
  intro h a ha hl
  have he := exec_access hr hn (.load rd rs1 l uns off)
  rw [Block.cpAccess_scratch s.b core (acc := .load rd rs1 l uns off) (h := h) ha
    (misaligned_within hl)] at he
  simp only [Block.scratchAccess] at he
  cases hp : Tab.get false (s.b.core core).poison (a / 128) with
  | true =>
    rw [show Tab.get false (s.b.core core).poison ((accAddr h (.load rd rs1 l uns off)).toNat / 128) = true from hp, if_pos rfl] at he
    exact (Completes.onlyHart he rfl).mono fun t ht => ⟨ht.1, by simp, fun _ => ht.2⟩
  | false =>
    rw [show Tab.get false (s.b.core core).poison ((accAddr h (.load rd rs1 l uns off)).toNat / 128) = false from hp,
      if_neg Bool.false_ne_true] at he
    exact (Completes.onlyHart he rfl).mono fun t ht => ⟨ht.1, fun _ => ht.2, by simp⟩

/-- Of two writes to a key the second stands, where the first is not to what an unlisted key reads as. -/
theorem Tab.set_set {α : Type} [DecidableEq α] {d v : α} (t : Tab α) (k : Nat) (w : α) (hv : v ≠ d) :
    Tab.set d (Tab.set d t k v) k w = Tab.set d t k w := by
  have hput : ∀ t : Tab α, Tab.put (Tab.put t k v) k w = Tab.put t k w ∧ Tab.erase (Tab.put t k v) k = Tab.erase t k := by
    intro t
    induction t with
    | nil => simp [Tab.put, Tab.erase]
    | cons e t ih =>
      obtain ⟨j, x⟩ := e
      simp only [Tab.put]
      by_cases hlt : k < j
      · simp [hlt, Tab.put, Tab.erase]
      · by_cases heq : k = j
        · simp [heq, Tab.put, Tab.erase]
        · have hne : j ≠ k := fun h => heq h.symm
          simp [hlt, heq, hne, Tab.put, Tab.erase, ih]
  rw [Tab.set, Tab.set, if_neg hv, Tab.set, (hput t).1, (hput t).2]

/-- A change of a core and then of its control processor is one change of the core. -/
theorem Block.modCore_modHart (b : Block) (core : Nat) (f : Core → Core) (g : Hart → Hart) (h : f (b.core core) ≠ Core.reset) :
    (b.modCore core f).modHart core g = b.modCore core fun c => { f c with hart := g (f c).hart } := by
  have hget : Tab.get Core.reset (Tab.upd Core.reset b.cores core f) core = f (b.core core) := Tab.get_upd_same _ _ _ _
  show { b with cores := Tab.set _ (Tab.set _ b.cores core (f (b.core core))) core _ } = _
  rw [Tab.set_set b.cores core _ h]
  show { b with cores := Tab.set _ b.cores core { Tab.get Core.reset (Tab.upd Core.reset b.cores core f) core with
    hart := g (Tab.get Core.reset (Tab.upd Core.reset b.cores core f) core).hart } } = _
  rw [hget]
  rfl

/-- A scratchpad that has been written is not that of a core in reset: the line's tag is set. -/
theorem Core.wrS_ne_reset (c : Core) {a n v : Nat} (hn : 0 < n) (hl : a % 128 + n ≤ 128) : c.wrS a (toLe n v) ≠ Core.reset := by
  have hlen : (toLe n v).length = n := toLe_length n v
  have hne : toLe n v ≠ [] := fun h => by rw [h, List.length_nil] at hlen; omega
  intro h
  have ht : Tab.get false (c.wrS a (toLe n v)).tags (a / 128) = true := by
    rw [c.wrS_within hne (by rw [hlen]; exact hl)]
    exact Tab.get_set_same false c.tags (a / 128) true
  rw [h] at ht
  exact absurd (show false = true from ht) Bool.false_ne_true

/-- An access that writes the scratchpad within a line and changes its hart: what is read after it, there and elsewhere. -/
theorem Completes.scratchWrite {i : Instr} {s : State} {core a n v : Nat} {g : Hart → Hart} {h' : Hart} (hn : 0 < n) (hl : a % 128 + n ≤ 128)
    (he : exec i s = .next { s with b := (s.b.modCore core fun c => c.wrS a (toLe n v)).modHart core g })
    (hg : g (s.b.core core).hart = h') :
    Completes (exec i s) fun t => OnlyCore core s t ∧ (t.b.core core).rdSN a n = toLe n v ∧ (t.b.core core).hart = h' ∧
      ∀ k, (k < a ∨ a + n ≤ k) → (t.b.core core).rdSN k 1 = (s.b.core core).rdSN k 1 := by
  obtain ⟨hin, hout, hhart⟩ := (s.b.core core).wrS_toLe (v := v) hn hl
  rw [Block.modCore_modHart _ _ _ _ ((s.b.core core).wrS_ne_reset hn hl)] at he
  exact Completes.onlyCore (p := fun c => c.rdSN a n = toLe n v ∧ c.hart = h' ∧
    ∀ k, (k < a ∨ a + n ≤ k) → c.rdSN k 1 = (s.b.core core).rdSN k 1) he
    ⟨hin, by rw [hhart]; exact hg, hout⟩

/-- A store to the scratchpad writes its bytes and no others (R86). -/
theorem scratch_store {s : State} {core : Nat} (hr : HartRuns s.b core) (hn : NoAccess s.b core) (rs1 rs2 l : Nat) (off : Int) :
    let h := (s.b.core core).hart
    let a := (effAddr h rs1 off).toNat
    a < scratchEnd → a % 128 + 2 ^ l ≤ 128 →
    Completes (exec (.controlProcessorAccess core (.access (.store rs1 rs2 l off))) s) fun t => OnlyCore core s t ∧
      (t.b.core core).rdSN a (2 ^ l) = toLe (2 ^ l) (h.reg rs2).toNat ∧
      (t.b.core core).hart = { h with pc := h.pc + 4, stall := none } ∧
      ∀ k, (k < a ∨ a + 2 ^ l ≤ k) → (t.b.core core).rdSN k 1 = (s.b.core core).rdSN k 1 := by
  intro h a ha hl
  have he := exec_access hr hn (.store rs1 rs2 l off)
  rw [Block.cpAccess_scratch s.b core (acc := .store rs1 rs2 l off) (h := h) ha (misaligned_within hl)] at he
  exact Completes.scratchWrite (Nat.two_pow_pos l) hl he rfl

/-- A load-reserved of the scratchpad (R292). -/
theorem scratch_lr {s : State} {core : Nat} (hr : HartRuns s.b core) (hn : NoAccess s.b core) (rd rs1 l : Nat) :
    let h := (s.b.core core).hart
    let a := (h.reg rs1).toNat
    a < scratchEnd → a % 2 ^ l = 0 → Tab.get false (s.b.core core).poison (a / 128) = false →
    Completes (exec (.controlProcessorAccess core (.access (.lr rd rs1 l))) s) fun t => OnlyHart core s t ∧
      (t.b.core core).hart = { h.loaded rd (extend (2 ^ l) false (leNat ((s.b.core core).rdSN a (2 ^ l)))) with
        reservation := some (scratchLine a) } := by
  intro h a ha hl hp
  have he := exec_access hr hn (.lr rd rs1 l)
  rw [Block.cpAccess_scratch s.b core (acc := .lr rd rs1 l) (h := h) ha (misaligned_aligned hl)] at he
  simp only [Block.scratchAccess] at he
  rw [show Tab.get false (s.b.core core).poison ((accAddr h (.lr rd rs1 l)).toNat / 128) = false from hp,
      if_neg Bool.false_ne_true] at he
  exact Completes.onlyHart he rfl

/-- The result of an 8-byte AMO is the old value as it stands. -/
theorem amoResult_wide (old : Nat) : amoResult (.add true) old = BitVec.ofNat 64 old := by
  simp [amoResult, extend, atomicBytes, signed]

/-- An aligned range of at most 8 bytes lies within a line. -/
theorem within_of_aligned {a l : Nat} (hl : l ≤ 3) (h : a % 2 ^ l = 0) : a % 128 + 2 ^ l ≤ 128 := by
  have hcases : l = 0 ∨ l = 1 ∨ l = 2 ∨ l = 3 := by omega
  rcases hcases with rfl | rfl | rfl | rfl <;> omega

/-- An 8-byte AMO of the scratchpad adds to what stands there (R86). -/
theorem scratch_amoAdd {s : State} {core : Nat} (hr : HartRuns s.b core) (hn : NoAccess s.b core) (rd rs1 rs2 : Nat) :
    let h := (s.b.core core).hart
    let a := (h.reg rs1).toNat
    let old := leNat ((s.b.core core).rdSN a 8)
    a < scratchEnd → a % 8 = 0 → Tab.get false (s.b.core core).poison (a / 128) = false →
    Completes (exec (.controlProcessorAccess core (.access (.amo (.add true) rd rs1 rs2))) s) fun t => OnlyCore core s t ∧
      (t.b.core core).hart = h.loaded rd (BitVec.ofNat 64 old) ∧
      (t.b.core core).rdSN a 8 = toLe 8 ((old + (h.reg rs2).toNat) % 2 ^ 64) := by
  intro h a old ha hl hp
  have he := exec_access hr hn (.amo (.add true) rd rs1 rs2)
  rw [Block.cpAccess_scratch s.b core (acc := .amo (.add true) rd rs1 rs2) (h := h) ha (misaligned_aligned hl)] at he
  simp only [Block.scratchAccess] at he
  rw [show Tab.get false (s.b.core core).poison ((accAddr h (.amo (.add true) rd rs1 rs2)).toNat / 128) = false from hp,
      if_neg Bool.false_ne_true] at he
  have hv : atomicNew (.add true) old (h.reg rs2).toNat 0 = (old + (h.reg rs2).toNat) % 2 ^ 64 := by
    simp [atomicNew, atomicBytes]
  exact (Completes.scratchWrite (by decide) (within_of_aligned (l := 3) (by decide) hl) he rfl).mono fun t ht =>
    ⟨ht.1, amoResult_wide old ▸ ht.2.2.1, hv ▸ ht.2.1⟩

/-- A store-conditional of the scratchpad stores where its reservation stands, and else says that it did not (R292). -/
theorem scratch_sc {s : State} {core : Nat} (hr : HartRuns s.b core) (hn : NoAccess s.b core) (rd rs1 rs2 l : Nat) :
    let h := (s.b.core core).hart
    let a := (h.reg rs1).toNat
    a < scratchEnd → a % 2 ^ l = 0 → l ≤ 3 →
    (h.reservation = some (scratchLine a) →
      Completes (exec (.controlProcessorAccess core (.access (.sc rd rs1 rs2 l))) s) fun t =>
        OnlyCore core s t ∧ (t.b.core core).hart = { h.loaded rd 0 with reservation := none } ∧
        (t.b.core core).rdSN a (2 ^ l) = toLe (2 ^ l) (h.reg rs2).toNat) ∧
    (h.reservation ≠ some (scratchLine a) →
      Completes (exec (.controlProcessorAccess core (.access (.sc rd rs1 rs2 l))) s) fun t =>
        OnlyHart core s t ∧ (t.b.core core).hart = { h.loaded rd 1 with reservation := none }) := by
  intro h a ha hl h3
  have he := exec_access hr hn (.sc rd rs1 rs2 l)
  rw [Block.cpAccess_scratch s.b core (acc := .sc rd rs1 rs2 l) (h := h) ha (misaligned_aligned hl)] at he
  simp only [Block.scratchAccess] at he
  refine ⟨fun hres => ?_, fun hres => ?_⟩
  · rw [show (h.reservation == some (scratchLine (accAddr h (.sc rd rs1 rs2 l)).toNat)) = true from beq_iff_eq.2 hres] at he
    exact (Completes.scratchWrite (Nat.two_pow_pos l) (within_of_aligned h3 hl) he rfl).mono fun t ht => ⟨ht.1, ht.2.2.1, ht.2.1⟩
  · rw [show (h.reservation == some (scratchLine (accAddr h (.sc rd rs1 rs2 l)).toNat)) = false from beq_eq_false_iff_ne.2 hres] at he
    exact Completes.onlyHart he rfl

/-! ### Accesses that trap, and instructions that make no access -/

/-- A load of the allocator's page is an access fault (R227). -/
theorem alloc_load_traps {s : State} {core : Nat} (hr : HartRuns s.b core) (hn : NoAccess s.b core) (rd rs1 l : Nat) (uns : Bool) (off : Int) :
    let h := (s.b.core core).hart
    let va := effAddr h rs1 off
    scratchEnd ≤ va.toNat → (s.b.ctx h.zhCtx).allocVa ≠ 0 → va.toNat % 2 ^ 57 / 65536 = (s.b.ctx h.zhCtx).allocVa / 65536 →
    Completes (exec (.controlProcessorAccess core (.access (.load rd rs1 l uns off))) s) fun t =>
      OnlyHart core s t ∧ (t.b.core core).hart = h.trap 5 va := by
  intro h va hs ha hp
  have he := exec_access hr hn (.load rd rs1 l uns off)
  have hc : (scratchEnd ≤ va.toNat && (s.b.ctx h.zhCtx).allocVa != 0 &&
      va.toNat % 2 ^ 57 / 65536 == (s.b.ctx h.zhCtx).allocVa / 65536 && (allocCall (.load rd rs1 l uns off) (va.toNat % 2 ^ 57)
        (s.b.ctx h.zhCtx).allocVa).isNone) = true := by
    rw [Bool.and_eq_true, Bool.and_eq_true, Bool.and_eq_true]
    exact ⟨⟨⟨decide_eq_true hs, bne_iff_ne.2 ha⟩, beq_iff_eq.2 hp⟩, rfl⟩
  rw [Block.cpAccess, show accAddr (s.b.core core).hart (.load rd rs1 l uns off) = va from rfl, if_pos hc] at he
  exact Completes.onlyHart he rfl

/-- A load that crosses a line is a misaligned one (R86). -/
theorem misaligned_load_traps {s : State} {core : Nat} (hr : HartRuns s.b core) (hn : NoAccess s.b core) (rd rs1 l : Nat) (uns : Bool)
    (off : Int) :
    let h := (s.b.core core).hart
    let va := effAddr h rs1 off
    (va.toNat < scratchEnd ∨ (s.b.ctx h.zhCtx).allocVa = 0 ∨ va.toNat % 2 ^ 57 / 65536 ≠ (s.b.ctx h.zhCtx).allocVa / 65536) →
    128 < va.toNat % 2 ^ 57 % 128 + 2 ^ l →
    Completes (exec (.controlProcessorAccess core (.access (.load rd rs1 l uns off))) s) fun t =>
      OnlyHart core s t ∧ (t.b.core core).hart = h.trap 4 va := by
  intro h va hpage hm
  have he := exec_access hr hn (.load rd rs1 l uns off)
  have hc : ¬((scratchEnd ≤ va.toNat && (s.b.ctx h.zhCtx).allocVa != 0 &&
      va.toNat % 2 ^ 57 / 65536 == (s.b.ctx h.zhCtx).allocVa / 65536 && (allocCall (.load rd rs1 l uns off) (va.toNat % 2 ^ 57)
        (s.b.ctx h.zhCtx).allocVa).isNone) = true) := by
    rw [Bool.and_eq_true, Bool.and_eq_true, Bool.and_eq_true]
    rintro ⟨⟨⟨h1, h2⟩, h3⟩, -⟩
    rcases hpage with hp | hp | hp
    · exact absurd (of_decide_eq_true h1) (Nat.not_le.2 hp)
    · exact bne_iff_ne.1 h2 hp
    · exact hp (beq_iff_eq.1 h3)
  rw [Block.cpAccess, show accAddr (s.b.core core).hart (.load rd rs1 l uns off) = va from rfl, if_neg hc,
    if_pos (show misaligned (va.toNat % 2 ^ 57) (accBytes (.load rd rs1 l uns off)) (accStrict (.load rd rs1 l uns off)) = true from
      decide_eq_true hm)] at he
  exact Completes.onlyHart he rfl

/-- A CSR instruction that its mode allows reads the CSR (R88). -/
theorem csr_reads {s : State} {core : Nat} (hr : HartRuns s.b core) (rd : Nat) {n : Nat}
    (ha : csrAllowed (s.b.core core).hart.machine n false = true) :
    Completes (exec (.controlProcessorAccess core (.csr rd n none)) s) fun t =>
      OnlyHart core s t ∧ (t.b.core core).hart = (s.b.core core).hart.loaded rd (s.b.csrRead core n) := by
  have he : exec (.controlProcessorAccess core (.csr rd n none)) s =
      .next { s with b := s.b.csrAccess core (s.b.core core).hart rd n none } := State.onHart_runs hr fun b h => b.csrAccess core h rd n none
  rw [Block.csrAccess, if_pos (show csrAllowed (s.b.core core).hart.machine n (none : Option (CsrOp × Nat)).isSome = true from ha)] at he
  exact Completes.onlyHart he rfl

/-- In machine mode zh.ctx takes the 20 low bits written (R88). -/
theorem csr_writesZhCtx {s : State} {core : Nat} (hr : HartRuns s.b core) (rd rs : Nat) (hm : (s.b.core core).hart.machine = true) :
    Completes (exec (.controlProcessorAccess core (.csr rd 0xCC1 (some (.write, rs)))) s) fun t =>
      OnlyHart core s t ∧ (t.b.core core).hart =
        { (s.b.core core).hart with zhCtx := dfld ((s.b.core core).hart.reg rs) 19 0 }.loaded rd (BitVec.ofNat 64 (s.b.core core).hart.zhCtx) := by
  have he : exec (.controlProcessorAccess core (.csr rd 0xCC1 (some (.write, rs)))) s =
      .next { s with b := s.b.csrAccess core (s.b.core core).hart rd 0xCC1 (some (.write, rs)) } :=
    State.onHart_runs hr fun b h => b.csrAccess core h rd 0xCC1 (some (.write, rs))
  rw [Block.csrAccess, hm, if_pos (show csrAllowed true 0xCC1 (some (CsrOp.write, rs)).isSome = true from rfl)] at he
  exact Completes.onlyHart he rfl

/-- A CSR instruction that its mode does not allow is an illegal instruction (R88). -/
theorem csr_traps {s : State} {core : Nat} (hr : HartRuns s.b core) (rd : Nat) {n : Nat} {w : Option (CsrOp × Nat)}
    (ha : csrAllowed (s.b.core core).hart.machine n w.isSome = false) :
    Completes (exec (.controlProcessorAccess core (.csr rd n w)) s) fun t =>
      OnlyHart core s t ∧ (t.b.core core).hart = (s.b.core core).hart.trap 2 0 := by
  have he : exec (.controlProcessorAccess core (.csr rd n w)) s =
      .next { s with b := s.b.csrAccess core (s.b.core core).hart rd n w } := State.onHart_runs hr fun b h => b.csrAccess core h rd n w
  rw [Block.csrAccess, ha, if_neg Bool.false_ne_true] at he
  exact Completes.onlyHart he rfl

/-- A custom-0 instruction that R87 does not list is an illegal instruction. -/
theorem custom_traps {s : State} {core : Nat} (hr : HartRuns s.b core) (funct3 funct7 : Nat) :
    Completes (exec (.controlProcessorAccess core (.custom funct3 funct7)) s) fun t =>
      OnlyHart core s t ∧ (t.b.core core).hart = (s.b.core core).hart.trap 2 0 :=
  Completes.onlyHart (State.onHart_runs hr fun b _ => b.modHart core fun x => x.trap cIllegal 0) rfl

end Sys2Proof.Machine
end

section
/-! Loads from the cluster cache (R206, R276, R281) and messages between cores (R189). -/

namespace Sys2Proof.Machine

/-! ### A line that the cluster cache has -/

/-- Where the context's descriptor is in the cache, a translation changes its use and the slice's translation cache only (R237). -/
theorem Block.translate_keeps_cached (b : Block) (c va : Nat) (write : Bool) (h : (b.ctx c).cached ≠ none) :
    b.Keeps [.ctxs, .slices] (b.translate c va write).1 := by
  have htouch : b.Keeps [.ctxs] (b.touchCtx c) := by
    rw [Block.touchCtx]
    dsimp only
    split
    · exact Block.Keeps.refl _ b
    · rw [Option.isSome_iff_ne_none.2 h, Bool.true_or, if_pos rfl]
      exact b.modCtx_keeps c _
  simp only [Block.translate]
  refine (htouch.mono (by simp)).trans ?_
  split
  · exact Block.Keeps.refl _ _
  · exact Block.Keeps.refl _ _
  · split
    · exact Block.Keeps.refl _ _
    · exact (Block.modXlat_keeps _ _ _).mono (by simp)

/-- Two control processors that differ in the reservation at most. -/
def Hart.SameButReservation (h h' : Hart) : Prop := h' = { h with reservation := h'.reservation }

theorem Hart.SameButReservation.refl (h : Hart) : h.SameButReservation h := rfl

theorem Hart.SameButReservation.trans {h h' h'' : Hart} (a : h.SameButReservation h') (b : h'.SameButReservation h'') :
    h.SameButReservation h'' := by
  rw [Hart.SameButReservation] at *
  rw [b, a]

theorem Hart.SameButReservation.loaded {h h' : Hart} (a : h.SameButReservation h') (rd : Nat) (v : Dword) :
    h'.loaded rd v = { h.loaded rd v with reservation := (h'.loaded rd v).reservation } := by
  rw [Hart.SameButReservation] at a
  rw [a]
  simp only [Hart.loaded, Hart.setReg, Hart.step4]
  split <;> rfl

/-- Lost data-cache copies take reservations with them, and nothing else of a control processor (R292). -/
theorem Block.loseCopies_hart (b : Block) (line : Nat) (p : Nat → Bool) (c : Nat) :
    ((b.core c).hart).SameButReservation ((b.loseCopies line p).core c).hart := by
  have hone : ∀ (n : Nat) (b : Block), ((b.core c).hart).SameButReservation ((b.modHart n fun h =>
      if h.reservation == some line then { h with reservation := none } else h).core c).hart := by
    intro n b
    by_cases hn : c = n
    · subst hn
      rw [Block.modHart, Block.modCore_core_same]
      dsimp only
      split <;> rfl
    · rw [Block.modHart, Block.modCore_core_ne _ _ hn]
      rfl
  have hall : ∀ (l : List Nat) (b : Block), ((b.core c).hart).SameButReservation ((b.each l fun n b => b.modHart n fun h =>
      if h.reservation == some line then { h with reservation := none } else h).core c).hart := by
    intro l
    induction l with
    | nil => exact fun b => Hart.SameButReservation.refl _
    | cons n l ih => exact fun b => (hone n b).trans (ih _)
  simp only [Block.loseCopies]
  split
  · exact Hart.SameButReservation.refl _
  · exact hall _ b

/-- A data cache that takes a line may lose another's copy; while it has room it loses none (R276). -/
theorem Block.dcacheFill_keeps (b : Block) (core line : Nat) (st : LineSt) :
    b.Keeps [.coh, .cores] (b.dcacheFill core line st) ∧
      ((b.core core).hart).SameButReservation ((b.dcacheFill core line st).core core).hart ∧
      ((b.coh.dcache.filter fun x => x.1 == core).length < 256 → ((b.dcacheFill core line st).core core).hart = (b.core core).hart) := by
  have hroom : (b.coh.dcache.filter fun x => x.1 == core).length < 256 →
      (b.coh.dcache.filter fun x => x.1 == core && x.2.1 != line).length < 256 := by
    refine Nat.lt_of_le_of_lt ?_
    rw [← List.countP_eq_length_filter, ← List.countP_eq_length_filter]
    exact List.countP_mono_left fun x _ hx => by simp at hx; simp [hx]
  simp only [Block.dcacheFill]
  split
  · exact ⟨(b.modCoh_keeps _).mono (by simp), Hart.SameButReservation.refl _, fun _ => rfl⟩
  · rename_i hfull
    split
    · exact ⟨(b.modCoh_keeps _).mono (by simp), Hart.SameButReservation.refl _, fun _ => rfl⟩
    · exact ⟨(b.loseCopies_keeps _ _).trans ((Block.modCoh_keeps _ _).mono (by simp)), b.loseCopies_hart _ _ core,
        fun h => absurd (hroom h) hfull⟩

theorem Block.copyFill_keeps (b : Block) (a : Agent) (core line : Nat) :
    b.Keeps [.coh, .cores] (b.copyFill a core line) ∧
      ((b.core core).hart).SameButReservation ((b.copyFill a core line).core core).hart ∧
      ((b.coh.dcache.filter fun x => x.1 == core).length < 256 → ((b.copyFill a core line).core core).hart = (b.core core).hart) := by
  rw [Block.copyFill]
  split
  · exact b.dcacheFill_keeps core line .s
  · exact ⟨Block.Keeps.refl _ b, Hart.SameButReservation.refl _, fun _ => rfl⟩

theorem Block.dropLines_keeps (b : Block) (core unit : Nat) : b.Keeps [.ports] (b.dropLines core unit) := by
  have hif : ∀ (p : Prop) [Decidable p] (b : Block) (f : Ports → Ports), b.Keeps [.ports] (if p then b.modPorts f else b) := by
    intro p _ b f
    split
    · exact b.modPorts_keeps f
    · exact Block.Keeps.refl _ b
  rw [Block.dropLines]
  exact ((hif _ b _).trans (Block.Keeps.foldl Block.dropTag Block.dropTag_keeps _ _)).trans (hif _ _ _)

theorem Block.accessOver_keeps (b : Block) (core : Nat) (h : Hart) : b.Keeps [.ports] (b.accessOver core h) := by
  rw [Block.accessOver]
  split
  · exact Block.Keeps.refl _ b
  · exact b.dropLines_keeps core 7

/-- A load of a line that the cluster cache has is a use of it, a copy in the data cache, and the value. -/
theorem Block.coherentAccess_hit {b : Block} {core k key : Nat} {l : CLine} (h : Hart) (rd rs1 n : Nat) (uns : Bool) (off : Int) (va : Dword)
    (hl : b.coh.lineOf (b.clusterOf core) (k / 128) = some l) :
    b.coherentAccess core h (.load rd rs1 n uns off) k key va =
      ((b.useLine (b.clusterOf core) (k / 128) false).copyFill (b.clusterOf core) core (k / 128)).modHart core fun x =>
        x.loaded rd (extend (2 ^ n) uns (leNat (((lineBytes l.data).drop (k % 128)).take (2 ^ n)))) := by
  have hline : b.hartLine core (b.clusterOf core) (k / 128) key = .ok (b.useLine (b.clusterOf core) (k / 128) false) l := by
    simp only [Block.hartLine, Block.readLine, hl, Option.isNone_some, Bool.false_and, Bool.false_eq_true, if_false]
  simp only [Block.coherentAccess, hline]
  rfl

theorem Block.useLine_keeps (b : Block) (a : Agent) (line : Nat) (first : Bool) :
    b.Keeps [.coh] (b.useLine a line first) ∧ (b.useLine a line first).coh.dcache = b.coh.dcache := by
  cases a with
  | cluster n c => exact ⟨b.modCoh_keeps _, rfl⟩
  | _ => exact ⟨Block.Keeps.refl _ b, rfl⟩

/-- A load of device memory from a line that the cluster cache has gives its bytes (R276). -/
theorem cached_load {s : State} {core : Nat} (hr : HartRuns s.b core) (hn : NoAccess s.b core) (rd rs1 k : Nat) (uns : Bool) (off : Int)
    {p : Nat} {key : Nat} {adv : Nat} {l : CLine} :
    let h := (s.b.core core).hart
    let va := effAddr h rs1 off
    scratchEnd ≤ va.toNat → va.toNat < 2 ^ 57 → va.toNat % 128 + 2 ^ k ≤ 128 → s.b.pageMoves h.zhCtx va.toNat = false →
    (s.b.ctx h.zhCtx).cached ≠ none → s.b.mustWalk core 7 h.zhCtx va.toNat = false →
    ((s.b.ctx h.zhCtx).allocVa = 0 ∨ va.toNat / 65536 ≠ (s.b.ctx h.zhCtx).allocVa / 65536) →
    (s.b.translate h.zhCtx va.toNat false).2 = .dev p key adv → s.b.coh.lineOf (s.b.clusterOf core) (gaKey p / 128) = some l →
    Completes (exec (.controlProcessorAccess core (.access (.load rd rs1 k uns off))) s) fun t =>
      Frame [.cores, .coh, .ctxs, .slices, .ports] s t ∧
      let h' := h.loaded rd (extend (2 ^ k) uns (leNat (((lineBytes l.data).drop (gaKey p % 128)).take (2 ^ k))))
      (t.b.core core).hart = { h' with reservation := (t.b.core core).hart.reservation } ∧
      ((s.b.coh.dcache.filter fun x => x.1 == core).length < 256 → (t.b.core core).hart = h') := by
  intro h va hs hva hal hmove hcached hwalk halloc htr hline
  have he := exec_access hr hn (.load rd rs1 k uns off)
  have hmod : va.toNat % 2 ^ 57 = va.toNat := Nat.mod_eq_of_lt hva
  have hpage : ¬((scratchEnd ≤ va.toNat && (s.b.ctx h.zhCtx).allocVa != 0 &&
      va.toNat / 65536 == (s.b.ctx h.zhCtx).allocVa / 65536 && (allocCall (.load rd rs1 k uns off) va.toNat
        (s.b.ctx h.zhCtx).allocVa).isNone) = true) := by
    rw [Bool.and_eq_true, Bool.and_eq_true, Bool.and_eq_true]
    rintro ⟨⟨⟨-, h2⟩, h3⟩, -⟩
    exact halloc.elim (bne_iff_ne.1 h2) fun hp => hp (beq_iff_eq.1 h3)
  have hmis : misaligned va.toNat (accBytes (.load rd rs1 k uns off)) (accStrict (.load rd rs1 k uns off)) = false := misaligned_within hal
  -- the block after the translation, whose caches are as before
  have ht := s.b.translate_keeps_cached h.zhCtx va.toNat false hcached
  obtain ⟨b1, hb1⟩ : ∃ b1, s.b.translate h.zhCtx va.toNat false = (b1, .dev p key adv) := ⟨_, Prod.ext rfl htr⟩
  rw [hb1] at ht
  have hcl : b1.clusterOf core = s.b.clusterOf core := by rw [Block.clusterOf, Block.clusterOf, ht.core_eq (by simp)]
  have hl1 : b1.coh.lineOf (b1.clusterOf core) (gaKey p / 128) = some l := by rw [hcl, show b1.coh = s.b.coh from ht .coh (by simp), hline]
  have hserved : (b1.servedHere core h (.load rd rs1 k uns off) (gaKey p / 128) || b1.hasPassed core h.zhCtx va.toNat) = true := by
    simp [Block.servedHere, hl1]
  have hacc : s.b.cpAccess core (.load rd rs1 k uns off) h =
      (((b1.useLine (b1.clusterOf core) (gaKey p / 128) false).copyFill (b1.clusterOf core) core (gaKey p / 128)).modHart core fun x =>
        x.loaded rd (extend (2 ^ k) uns (leNat (((lineBytes l.data).drop (gaKey p % 128)).take (2 ^ k))))).accessOver core h := by
    rw [Block.cpAccess, show accAddr h (.load rd rs1 k uns off) = va from rfl, hmod, if_neg hpage, hmis, if_neg Bool.false_ne_true,
      if_neg (Nat.not_lt.2 hs), show allocCall (.load rd rs1 k uns off) va.toNat (s.b.ctx h.zhCtx).allocVa = none from rfl]
    dsimp only
    rw [Block.memAccess, hmove, hwalk, if_neg Bool.false_ne_true, if_neg Bool.false_ne_true,
      show accWrites (.load rd rs1 k uns off) = false from rfl, hb1]
    dsimp only
    rw [if_pos hserved, Block.coherentAccess_hit _ _ _ _ _ _ _ hl1]
  rw [show (s.b.core core).hart = h from rfl, hacc] at he
  obtain ⟨huse, hdc⟩ := b1.useLine_keeps (b1.clusterOf core) (gaKey p / 128) false
  obtain ⟨hfill, hsame, hroom⟩ := (b1.useLine (b1.clusterOf core) (gaKey p / 128) false).copyFill_keeps (b1.clusterOf core) core (gaKey p / 128)
  have hhart : ((b1.useLine (b1.clusterOf core) (gaKey p / 128) false).core core).hart = h := by
    rw [huse.core_eq (by simp), ht.core_eq (by simp)]
  rw [hhart] at hsame hroom
  rw [hdc, show b1.coh = s.b.coh from ht .coh (by simp)] at hroom
  have hover := Block.accessOver_keeps (((b1.useLine (b1.clusterOf core) (gaKey p / 128) false).copyFill (b1.clusterOf core) core
    (gaKey p / 128)).modHart core fun x =>
      x.loaded rd (extend (2 ^ k) uns (leNat (((lineBytes l.data).drop (gaKey p % 128)).take (2 ^ k))))) core h
  refine Completes.framed rfl ((((ht.mono (by simp)).trans (huse.mono (by simp))).trans (hfill.mono (by simp))).trans
    ((Block.modHart_keeps _ _ _).mono (by simp)) |>.trans (hover.mono (by simp))) ?_ he
  dsimp only
  rw [hover.core_eq (by simp), Block.modHart, Block.modCore_core_same]
  exact ⟨hsame.loaded _ _, fun hlen => by rw [hroom hlen]⟩

/-! ### Messages between cores (R189) -/

/-- A message whose target this member holds, or that names no member. -/
theorem exec_coreMessage {s : State} {core : Nat} {target : Dword} (body : List Byte) (hr : HartRuns s.b core) (hn : NoAccess s.b core)
    (hi : dfld target 15 13 = s.b.start.inst ∨ s.b.start.instCount ≤ dfld target 15 13) :
    exec (.coreMessage core target body) s = .next { s with b :=
      (if s.b.roleMatches (s.b.core core).owner target then
        (s.b.modHart core Hart.step4).modHart (targetCore (dfld target 15 0)) fun x => { x with inbox := x.inbox ++ [body] }
      else ((s.b.ctxCode (s.b.core core).hart.zhCtx cStaleRole).freeDword.2).modHart core fun x =>
        x.trap cStoreFault (s.b.ctxCode (s.b.core core).hart.zhCtx cStaleRole).freeDword.1) } := by
  have hf : fld (dfld target 15 0) 15 13 = dfld target 15 13 := by simp only [dfld, fld]; omega
  have hhere : (fld (dfld target 15 0) 15 13 != s.b.start.inst && decide (fld (dfld target 15 0) 15 13 < s.b.start.instCount)) = false := by
    rw [hf, Bool.and_eq_false_iff]
    exact hi.imp (fun h => by simp [h]) fun h => by simp [h]
  show execCoreMessage core target body s = _
  rw [execCoreMessage, State.onBlock_eq, Block.onHart_runs _ _ _ _ hr]
  dsimp only
  rw [Block.newAccess_eq hn, hhere, if_neg Bool.false_ne_true]

/-- A message to a core in the role its sender meant stands in its inbox (R189). -/
theorem coreMessage_delivered {s : State} {core : Nat} {target : Dword} (body : List Byte) (hr : HartRuns s.b core) (hn : NoAccess s.b core)
    (hi : dfld target 15 13 = s.b.start.inst ∨ s.b.start.instCount ≤ dfld target 15 13) :
    let c := targetCore (dfld target 15 0)
    s.b.roleMatches (s.b.core core).owner target = true → c ≠ core →
    Completes (exec (.coreMessage core target body) s) fun t =>
      Frame [.cores] s t ∧ (t.b.core c).hart.inbox = (s.b.core c).hart.inbox ++ [body] ∧
      (t.b.core core).hart.pc = (s.b.core core).hart.pc + 4 := by
  intro c hrole hc
  have he := exec_coreMessage body hr hn hi
  rw [hrole, if_pos rfl] at he
  refine Completes.framed rfl ((Block.modHart_keeps _ _ _).trans (Block.modHart_keeps _ _ _)) ⟨?_, ?_⟩ he
  · show ((Block.modHart _ c _).core c).hart.inbox = _
    rw [Block.modHart, Block.modCore_core_same, Block.modHart, Block.modCore_core_ne _ _ hc]
  · show ((Block.modHart _ c _).core core).hart.pc = _
    rw [Block.modHart, Block.modCore_core_ne _ _ hc.symm, Block.modHart, Block.modCore_core_same]
    rfl

/-- A message to a role that is gone is a store access fault (R189). -/
theorem coreMessage_stale {s : State} {core : Nat} {target : Dword} (body : List Byte) (hr : HartRuns s.b core) (hn : NoAccess s.b core)
    (hi : dfld target 15 13 = s.b.start.inst ∨ s.b.start.instCount ≤ dfld target 15 13)
    (hrole : s.b.roleMatches (s.b.core core).owner target = false) :
    Completes (exec (.coreMessage core target body) s) fun t =>
      Frame [.cores, .ctxs, .slices, .ports, .draws] s t ∧ ∃ v, (t.b.core core).hart = (s.b.core core).hart.trap 7 v := by
  have he := exec_coreMessage body hr hn hi
  rw [hrole, if_neg Bool.false_ne_true] at he
  have hcode := s.b.ctxCode_keeps (s.b.core core).hart.zhCtx cStaleRole
  have hdraw : ∀ b : Block, b.Keeps [.draws] b.freeDword.2 := fun b p hp => by
    cases p <;> first | rfl | exact absurd (by simp) hp
  refine Completes.framed rfl (((hcode.mono (by simp)).trans ((hdraw _).mono (by simp))).trans ((Block.modHart_keeps _ _ _).mono (by simp)))
    ⟨(s.b.ctxCode (s.b.core core).hart.zhCtx cStaleRole).freeDword.1, ?_⟩ he
  show ((Block.modHart _ core _).core core).hart = _
  rw [Block.modHart, Block.modCore_core_same]
  dsimp only
  rw [(hdraw _).core_eq (by simp), hcode.core_eq (by simp)]
  rfl

end Sys2Proof.Machine
end

section
/-! The obligation on federation, the aperture, registers and control processors. -/

namespace Sys2Proof.Machine

/-- Settles O56: each flit, access, register write and message acts as the lemma about its place says. -/
theorem federationApertureRegistersAndCores : Obligations.FederationApertureRegistersAndCores := by
  intro s
  refine ⟨?_, ?_, ?_, ?_, ?_, ?_, ?_, ?_, ?_, ?_, ?_, ?_, ?_, ?_⟩
  · exact fun q v hg ht hl => doorbellFwd_accepted hg ht hl
  · exact fun q v hq hg hl hi ho => doorbell_passes v hq hg hl hi ho
  · exact fun src bs l hg hn hl => fedCtrl_commons src bs hg hn hl
  · exact fun src x rest => fedCtrl_levelMax s src x rest
  · exact fun src bs hg hn => ⟨fun st hst hb => fedCtrl_stagedBytes src hg hn hst hb, fun hb => fedCtrl_stagedBegins src hg hn hb⟩
  · exact fun east dst src kind origin body hk => fedForward_passes s east dst src origin body hk
  · exact fun i hi hc hl => instanceLost_noted hi hc hl
  · intro off len g hg hk hfree
    obtain ⟨hread, hpoison⟩ := aperture_reads hg hfree hk
    exact ⟨hread, hpoison, fun bs hl _ hm => aperture_writes hg hfree hk hl hm⟩
  · exact fun off len hg hk => aperture_refused hg hk
  · exact fun n v hst hg => ⟨fun hk => zhAptKeyWrite_held hst hg hk, fun hk => zhAptKeyWrite_notHeld hk⟩
  · exact fun off size v hg => registerWrite_gated hg off size v
  · refine fun hg => ⟨fun q v hq ht hl => ?_, fun q v hq => registerWrite_doorbell hg v hq, fun n v h1 h28 => registerWrite_aptKey hg v h1 h28,
      fun q v hq he => registerWrite_queueEnable hg v hq he, fun off size v h h' _ => registerWrite_nowhere v h h'⟩
    rw [registerWrite_doorbell hg v hq]
    exact doorbell_accepted hg hq ht hl
  · refine fun tag r core rd l uns va hf hu hw hg hs => ⟨fun bs hl => ?_, fun bs => ?_⟩
    · exact hostCompletion_load (ok := true) hf hu hw hg hs (by simp [hl])
    · exact (hostCompletion_load (ok := false) hf hu hw hg hs rfl).mono fun t ⟨hframe, _, hhart⟩ => ⟨hframe, hhart⟩
  · intro core hr hremote hreads hwait hport h
    have hn : NoAccess s.b core := ⟨hremote, hreads, hwait, hport⟩
    refine ⟨?_, ?_, ?_, ?_, ?_, ?_, ?_, ?_, ?_, ?_, ?_⟩
    · exact fun rd rs1 l uns off ha hal => scratch_load hr hn rd rs1 l uns off ha hal
    · exact fun rs1 rs2 l off ha hal => scratch_store hr hn rs1 rs2 l off ha hal
    · refine fun rd rs1 l ha hal h3 => ⟨fun hp => ⟨scratch_lr hr hn rd rs1 l ha hal hp, fun rs2 hl => ?_⟩,
        fun rs2 => scratch_sc hr hn rd rs1 rs2 l ha hal h3⟩
      subst hl
      exact scratch_amoAdd hr hn rd rs1 rs2 ha hal hp
    · exact fun rd rs1 k uns off p key adv l => cached_load hr hn rd rs1 k uns off
    · exact fun rd rs1 l uns off hs ha hp => alloc_load_traps hr hn rd rs1 l uns off hs ha hp
    · exact fun rd n ha => csr_reads hr rd ha
    · exact fun rd rs hm => csr_writesZhCtx hr rd rs hm
    · exact fun rd n w ha => csr_traps hr rd ha
    · exact fun funct3 funct7 => custom_traps hr funct3 funct7
    · exact fun rd rs1 l uns off hp hm => misaligned_load_traps hr hn rd rs1 l uns off hp hm
    · exact fun target body hi => ⟨fun hrole hc => coreMessage_delivered body hr hn hi hrole hc,
        fun hrole => coreMessage_stale body hr hn hi hrole⟩

end Sys2Proof.Machine
end


section
/-! What operations at the lines' homes and the block's own writes leave of cores and slices (R276, R281 to R291): all of a core but its
control processor's reservation, and the state and the ladder of every slice. -/

namespace Sys2Proof.Machine

/-- What operations at the homes, and the records of the slices that Q names, can do in the detail that rungs need. -/
structure Homelike (Q : Nat → Prop) (b b' : Block) : Prop where
  keeps : b.Keeps [.mem, .coh, .cores, .slices, .draws] b'
  core : ∀ c, ∃ r, b'.core c = { b.core c with hart := { (b.core c).hart with reservation := r } }
  st : ∀ n, (b'.slice n).st = (b.slice n).st
  ladder : ∀ n, ¬Q n → (b'.slice n).ladder = (b.slice n).ladder

namespace Homelike

variable {Q : Nat → Prop}

theorem refl (b : Block) : Homelike Q b b := ⟨Block.Keeps.refl _ b, fun _ => ⟨_, rfl⟩, fun _ => rfl, fun _ _ => rfl⟩

theorem trans {b c d : Block} (h : Homelike Q b c) (g : Homelike Q c d) : Homelike Q b d where
  keeps := h.keeps.trans g.keeps
  core k := by
    obtain ⟨r, hr⟩ := h.core k
    obtain ⟨r', hr'⟩ := g.core k
    exact ⟨r', by rw [hr', hr]⟩
  st n := (g.st n).trans (h.st n)
  ladder n hn := (g.ladder n hn).trans (h.ladder n hn)

theorem foldl {α : Type} (f : Block → α → Block) (hf : ∀ (b : Block) (x : α), Homelike Q b (f b x)) (l : List α) (b : Block) :
    Homelike Q b (l.foldl f b) := by
  induction l generalizing b with
  | nil => exact refl b
  | cons x l ih => exact (hf b x).trans (ih (f b x))

theorem ite {b x y : Block} {p : Prop} [Decidable p] (hx : Homelike Q b x) (hy : Homelike Q b y) : Homelike Q b (if p then x else y) := by
  split
  · exact hx
  · exact hy

/-- An operation that leaves cores and slices alone. -/
theorem of_keeps {b b' : Block} {L : List Part} (h : b.Keeps L b') (hs : L ⊆ [.mem, .coh, .draws]) : Homelike Q b b' := by
  have hc : Part.cores ∉ L := fun hl => by simpa using hs hl
  have hn : Part.slices ∉ L := fun hl => by simpa using hs hl
  refine ⟨h.mono fun p hp => ?_, fun c => ⟨_, h.core_eq hc c⟩, fun n => by rw [h.slice_eq hn], fun n _ => by rw [h.slice_eq hn]⟩
  have := hs hp
  simp only [List.mem_cons, List.not_mem_nil, or_false] at this ⊢
  tauto

theorem modCoh (b : Block) (f : Coh → Coh) : Homelike Q b (b.modCoh f) := of_keeps (b.modCoh_keeps f) (by simp)
theorem send (b : Block) (m : CohMsg) : Homelike Q b (b.send m) := modCoh b _
theorem storeLine (b : Block) (line key : Nat) (d : BitVec 1024) : Homelike Q b (b.storeLine line key d) :=
  of_keeps (b.storeLine_keeps line key d) (by simp)
theorem setPoison (b : Block) (line : Nat) (v : Bool) : Homelike Q b (b.setPoison line v) := of_keeps (b.setPoison_keeps line v) (by simp)

/-- A change of a slice that leaves its state and its ladder alone. -/
theorem modSlice (b : Block) (n : Nat) (f : Slice → Slice) (hst : ∀ x, (f x).st = x.st) (hl : Q n ∨ ∀ x, (f x).ladder = x.ladder) :
    Homelike Q b (b.modSlice n f) where
  keeps := (b.modSlice_keeps n f).mono (by simp)
  core c := ⟨_, rfl⟩
  st m := by
    by_cases h : m = n
    · rw [h, Block.modSlice_slice_same, hst]
    · rw [Block.modSlice_slice_ne _ _ h]
  ladder m hm := by
    by_cases h : m = n
    · rw [h] at hm ⊢
      rw [Block.modSlice_slice_same, hl.resolve_left hm]
    · rw [Block.modSlice_slice_ne _ _ h]

theorem modCnt (b : Block) (n : Nat) (f : Counters → Counters) : Homelike Q b (b.modCnt n f) :=
  modSlice b n _ (fun _ => rfl) (.inr fun _ => rfl)

theorem dropReservation (b : Block) (n : Nat) (p : Hart → Prop) [DecidablePred p] :
    Homelike Q b (b.modHart n fun h => if p h then { h with reservation := none } else h) where
  keeps := (b.modHart_keeps n _).mono (by simp)
  core c := by
    by_cases h : c = n
    · subst h
      rw [Block.modHart, Block.modCore_core_same]
      dsimp only
      split
      · exact ⟨none, rfl⟩
      · exact ⟨_, rfl⟩
    · exact ⟨_, Block.modCore_core_ne _ _ h⟩
  st n := rfl
  ladder n _ := rfl

theorem loseCopies (b : Block) (line : Nat) (p : Nat → Bool) : Homelike Q b (b.loseCopies line p) := by
  simp only [Block.loseCopies]
  exact ite (refl b) ((foldl _ (fun b n => dropReservation b n _) _ b).trans (modCoh _ _))

theorem takeMsg {b b' : Block} {p : CohMsg → Bool} {m : CohMsg} (h : b.takeMsg p = some (m, b')) : Homelike Q b b' := by
  simp only [Block.takeMsg] at h
  split at h
  · cases h
  · cases h; exact modCoh b _

end Homelike

end Sys2Proof.Machine
end
section
/-! The same for every operation at the homes that a write of the block's own can lead to: the laws of the homes' operations say which
parts of the block change, and these say what of cores and slices stays. -/

namespace Sys2Proof.Machine
namespace Homelike

variable {Q : Nat → Prop}

/-! ### The home -/

theorem dropCopy (b : Block) (a : Agent) (line : Nat) : Homelike Q b (b.dropCopy a line) := by
  simp only [Block.dropCopy]
  split
  · exact (loseCopies b line _).trans (modCoh _ _)
  · exact modCoh b _

theorem modTxn (b : Block) (line : Nat) (f : Txn → Txn) : Homelike Q b (b.modTxn line f) := modCoh b _

theorem grantLine (b : Block) (a : Agent) (line : Nat) (st : LineSt) (d : BitVec 1024) (key : Nat) : Homelike Q b (b.grantLine a line st d key) :=
  send b _

theorem poisonReq (b : Block) (a : Agent) (line : Nat) : Homelike Q b (b.poisonReq a line) :=
  (modTxn b _ _).trans (ite (refl _) (send _ _))

theorem freeFilt (b : Block) (line : Nat) (kept : Bool) : Homelike Q b (b.freeFilt line kept) := by
  rw [Block.freeFilt]
  split
  · exact refl b
  · exact modCoh b _

theorem resolve (b : Block) (line : Nat) : Homelike Q b (b.resolve line) := by
  simp only [Block.resolve]
  split
  · exact refl b
  · rename_i t _
    have hm : ∀ f : Block → Block, Homelike Q b (f b) → Homelike Q b
        (if (t.wbd.isNone && b.linePoisoned line) = true then
          (b.poisonReq t.requester line).freeFilt line (t.kept || (!((b.coh.filt line).map fun x => x.owner.isSome).getD false && t.req == .uncrd))
         else f b) := by
      intro f hf
      split
      · exact (poisonReq b _ _).trans (freeFilt _ _ _)
      · exact hf
    split
    · split
      · exact modCoh b _
      · refine hm (fun b' => if t.kept = true then _ else _) ?_
        split
        · exact (grantLine b _ _ _ _ _).trans (modCoh _ _)
        · exact (grantLine b _ _ _ _ _).trans (modCoh _ _)
    · split
      · exact modCoh b _
      · exact hm (fun b' => _) ((grantLine b _ _ _ _ _).trans (modCoh _ _))
    · split
      · exact ((storeLine b _ _ _).trans (setPoison _ _ _)).trans ((grantLine _ _ _ _ _ _).trans (modCoh _ _))
      · exact ((storeLine b _ _ _).trans (setPoison _ _ _)).trans ((modCoh _ _).trans (modCoh _ _))
    · exact ite (refl b) (hm (fun b' => _) ((send b _).trans (freeFilt _ _ _)))
    · exact (storeLine b _ _ _).trans (modCoh _ _)
    · exact hm (fun b' => _) (((storeLine b _ _ _).trans (send _ _)).trans (modCoh _ _))
    · exact refl b
    · split
      · exact modCoh b _
      · exact (storeLine b _ _ _).trans (modCoh _ _)

theorem openTxn (b : Block) (w : Want) (v : Option Nat) : Homelike Q b (b.openTxn w v) := by
  simp only [Block.openTxn]
  split
  · exact (modCoh b _).trans (ite (refl _) (resolve _ _))
  · exact (modCoh b _).trans (ite (resolve _ _) (foldl _ (fun b _ => send b _) _ _))

theorem turnAway (b : Block) (w : Want) : Homelike Q b (b.turnAway w) :=
  ite (modCoh b _) (((send b _).trans (modCnt _ _ _)).trans (ite (modCoh _ _) (refl _)))

theorem handleReq (b : Block) (w : Want) : Homelike Q b (b.handleReq w) := by
  refine ite (turnAway _ w) ?_
  split
  · exact (modCoh _ _).trans (openTxn _ _ _)
  · exact (modCoh _ _).trans (((openTxn _ _ _).trans (openTxn _ _ _)).trans (modCnt _ _ _))

theorem acceptWb (b : Block) (a : Agent) (line : Nat) : Homelike Q b (b.acceptWb a line) := by
  simp only [Block.acceptWb]
  split
  · exact refl b
  · refine ite (ite (refl b) (modCoh b _)) ((ite ((storeLine b _ _ _).trans (modCoh _ _)) (refl b)).trans ((modCoh _ _).trans (send _ _)))

theorem acceptWbs (b : Block) (line : Nat) : Homelike Q b (b.acceptWbs line) :=
  ite (refl b) ((modCoh b _).trans (foldl _ (fun b _ => acceptWb b _ _) _ _))

theorem freeLine (b : Block) (line : Nat) : Homelike Q b (b.freeLine line).1 := by
  simp only [Block.freeLine]
  refine (acceptWbs b line).trans ?_
  split
  · dsimp only; exact modCoh _ _
  · split
    · exact refl _
    · exact (modCoh _ _).trans (handleReq _ _)

theorem wake (b : Block) (line : Nat) : Homelike Q b (b.wake line) :=
  foldl _ (fun b _ => (modTxn b _ _).trans (resolve _ _)) _ b

theorem settleLine (line n : Nat) (b : Block) : Homelike Q b (Block.settleLine line n b) := by
  induction n generalizing b with
  | zero => exact refl b
  | succ n ih =>
    rw [Block.settleLine]
    split
    · exact refl b
    · split
      · have h : Homelike Q b _ := (modCoh b fun c => { c with busy := Tab.erase c.busy line }).trans ((wake _ line).trans (freeLine _ line))
        dsimp only
        split
        · exact h.trans (ih _)
        · exact h
      · exact refl b

theorem settleTxn (b : Block) (line : Nat) : Homelike Q b (b.settleTxn line) := settleLine line _ b

/-! ### Agents -/

theorem answerSnoop (b : Block) (a : Agent) (line : Nat) (s : Snoop) (req : Agent) : Homelike Q b (b.answerSnoop a line s req) := by
  rw [Block.answerSnoop]
  dsimp only
  split
  · split
    · exact (modCoh b _).trans (send _ _)
    · exact send b _
  · split
    · exact send b _
    · exact (modCoh b _).trans ((grantLine _ _ _ _ _ _).trans (send _ _))
    · exact (dropCopy b _ _).trans (send _ _)
    · exact (dropCopy b _ _).trans (ite ((grantLine _ _ _ _ _ _).trans (send _ _)) (send _ _))
    · exact send b _
    · exact send b _
    · exact send b _

theorem deliverSnoop (b : Block) (a : Agent) (line : Nat) (s : Snoop) : Homelike Q b (b.deliverSnoop a line s) := by
  rw [Block.deliverSnoop]
  split
  · rename_i h
    refine (takeMsg h).trans ?_
    split
    · exact (modCoh _ _).trans (modCnt _ _ _)
    · exact answerSnoop _ _ _ _ _
  · exact refl b

theorem holdEnds (b : Block) (a : Agent) (line : Nat) : Homelike Q b (b.holdEnds a line) :=
  (modCoh b _).trans (foldl _ (fun b _ => answerSnoop b _ _ _ _) _ _)

theorem useLine (b : Block) (a : Agent) (line : Nat) (first : Bool) : Homelike Q b (b.useLine a line first) := by
  cases a with
  | cluster n c => rw [Block.useLine]; exact modCoh b _
  | priv n i => exact refl b
  | uncached n i => exact refl b

theorem evictCopy (b : Block) (l : CLine) : Homelike Q b (b.evictCopy l) := (dropCopy b _ _).trans (ite (modCoh _ _) (refl _))

theorem makeRoom (b : Block) (a : Agent) (line : Nat) : Homelike Q b (b.makeRoom a line).1 := by
  cases a with
  | cluster n c =>
    simp only [Block.makeRoom]
    split
    · exact refl b
    · split
      · exact refl b
      · split
        · exact refl b
        · exact evictCopy b _
  | priv n i => exact refl b
  | uncached n i => exact refl b

theorem install (b : Block) (a : Agent) (line : Nat) (st : LineSt) (d : BitVec 1024) (key : Nat) : Homelike Q b (b.install a line st d key) :=
  (makeRoom b a line).trans (((modCoh _ _).trans (useLine _ _ _ _)).trans ((ite (evictCopy _ _) (refl _)).trans (send _ _)))

theorem takeData (b : Block) (a : Agent) (line : Nat) : Homelike Q b (b.takeData a line) := by
  rw [Block.takeData]
  split
  · rename_i h; exact (takeMsg h).trans (install _ _ _ _ _ _)
  · rename_i h; exact (takeMsg h).trans (modCoh _ _)
  · exact refl b

theorem takeRsp (b : Block) (a : Agent) (line : Nat) : Homelike Q b (b.takeRsp a line) := by
  rw [Block.takeRsp]
  split
  · rename_i h
    refine (takeMsg h).trans ?_
    split
    · exact refl _
    · rename_i b' _ t _
      have hs : ∀ b'' : Block, Homelike Q b' b'' → ∀ f : Txn → Txn, ∀ p : Bool,
          Homelike Q b' (if p = true then ((b''.modTxn line f).resolve line).settleTxn line else (b''.modTxn line f).settleTxn line) := by
        intro b'' h f p
        split
        · exact h.trans ((modTxn _ _ _).trans ((resolve _ _).trans (settleTxn _ _)))
        · exact h.trans ((modTxn _ _ _).trans (settleTxn _ _))
      dsimp only
      apply hs
      split
      · exact storeLine _ _ _ _
      · exact storeLine _ _ _ _
      · split
        · exact storeLine _ _ _ _
        · exact refl _
      · exact refl _
  · exact refl b

theorem takeAck (b : Block) (a : Agent) (line : Nat) : Homelike Q b (b.takeAck a line) := by
  rw [Block.takeAck]
  split
  · rename_i h; exact (takeMsg h).trans ((modTxn _ _ _).trans (settleTxn _ _))
  · exact refl b

/-! ### A transaction made whole -/

theorem answerNow (b : Block) (a : Agent) (line : Nat) : Homelike Q b (b.answerNow a line) := by
  refine Homelike.trans (foldl _ (fun b m => ?_) _ b) ((ite (refl _) (holdEnds _ _ _)).trans (takeRsp _ _ _))
  split
  · exact ite (deliverSnoop b _ _ _) (refl b)
  · exact refl b

theorem pushGo (line n : Nat) (b : Block) : Homelike Q b (Block.pushGo line n b) := by
  induction n generalizing line b with
  | zero => exact refl b
  | succ n ih =>
    rw [Block.pushGo]
    split
    · exact refl b
    · rename_i t _
      refine ite (refl b) ?_
      have h1 : Homelike Q b (match t.waitsFor with | none => b | some v => Block.pushGo v n b) := by
        split
        · exact refl b
        · exact ih _ b
      refine h1.trans ((foldl _ (fun b x => answerNow b x line) t.snoops _).trans (Homelike.trans ?_ (ih line _)))
      exact ite ((takeData _ _ _).trans (takeAck _ _ _)) (settleTxn _ _)

theorem push (b : Block) (line : Nat) : Homelike Q b (b.push line) := ite (pushGo _ _ _) (refl b)

theorem recallLine (b : Block) (line : Nat) (own : Bool) : Homelike Q b (b.recall line own) := (openTxn b _ _).trans (push _ _)

/-! ### The block's own writes -/

theorem takeLine (b : Block) (line : Nat) : Homelike Q b (b.takeLine line) := by
  simp only [Block.takeLine]
  have h1 : ∀ b : Block, Homelike Q b (match b.coh.newest line with | none => b | some x => b.storeLine line x.2 x.1) := by
    intro b
    split
    · exact refl b
    · exact storeLine b _ _ _
  exact ((h1 b).trans (loseCopies _ line fun _ => true)).trans (ite (modCoh _ _) (refl _))

theorem wrLater (b : Block) (g k : Nat) (bs : List Byte) : Homelike Q b (b.wrLater g k bs) :=
  (modCoh b _).trans (ite (refl _) (recallLine _ _ _))

theorem wrLine (b : Block) (g k : Nat) (bs : List Byte) : Homelike Q b (b.wrLine g k bs) := by
  rw [Block.wrLine]
  refine ite (wrLater b g k bs) ((takeLine b (k / 128)).trans (of_keeps (L := [.mem]) ?_ (by simp)))
  intro p hp
  cases p <;> first | rfl | exact absurd (by simp) hp

theorem wrMem (b : Block) (g k : Nat) (bs : List Byte) : Homelike Q b (b.wrMem g k bs) :=
  foldl (α := Nat × List Byte) _ (fun b c => wrLine b g c.1 c.2) _ b

theorem wrOwn (b : Block) (n a : Nat) (bs : List Byte) : Homelike Q b (b.wrOwn n a bs) := by
  rw [Block.wrOwn]
  exact ite (wrMem b _ _ _) (refl b)

theorem ctxWriteBack (b : Block) (c : Nat) : Homelike Q b (b.ctxWriteBack c) := by
  simp only [Block.ctxWriteBack]
  exact ite (wrOwn b _ _ _) (refl b)

end Homelike

end Sys2Proof.Machine
end
section
/-! What ends of work leave: nothing begins, no slice and no core changes hands, and only the contexts and ladders that are named change
(R75, R234, R313, R348). -/

namespace Sys2Proof.Machine

/-! ### A core on which no work begins -/

/-- Every op of the second engine is one of the first, by its ticket. -/
structure Engine.Fewer (e e' : Engine) : Prop where
  queue : e'.queue.map (·.ticket) ⊆ e.queue.map (·.ticket)
  active : e'.active.map (·.ticket) ⊆ e.active.map (·.ticket)

structure Vec.Fewer (v v' : Vec) : Prop where
  run : v.run = none → v'.run = none
  queue : v'.queue ⊆ v.queue

structure Adapter.Fewer (a a' : Adapter) : Prop where
  steps : a'.steps ⊆ a.steps
  fires : a'.fires ⊆ a.fires

/-- No launch runs or waits. -/
def Hart.Idle (h : Hart) : Prop := h.launch = none ∧ h.waitingLaunches = []

structure Hart.Fewer (h h' : Hart) : Prop where
  halted : h.halted = true → h'.halted = true
  idle : h.Idle → h'.Idle

structure Core.Fewer (c c' : Core) : Prop where
  owner : c'.owner = c.owner
  place : c'.place = c.place
  eng : ∀ e, (c.eng e).Fewer (c'.eng e)
  vec : c.vec.Fewer c'.vec
  adapter : c.adapter.Fewer c'.adapter
  hart : c.hart.Fewer c'.hart

theorem Engine.Fewer.refl (e : Engine) : e.Fewer e := ⟨List.Subset.refl _, List.Subset.refl _⟩
theorem Engine.Fewer.trans {e e' e'' : Engine} (h : e.Fewer e') (g : e'.Fewer e'') : e.Fewer e'' :=
  ⟨List.Subset.trans g.queue h.queue, List.Subset.trans g.active h.active⟩

theorem Engine.Fewer.queue_nil {e e' : Engine} (h : e.Fewer e') (hq : e.queue = []) : e'.queue = [] := by
  have hs := h.queue
  rw [hq] at hs
  exact List.map_eq_nil_iff.1 (List.subset_nil.1 hs)

theorem Vec.Fewer.refl (v : Vec) : v.Fewer v := ⟨id, List.Subset.refl _⟩
theorem Vec.Fewer.trans {v v' v'' : Vec} (h : v.Fewer v') (g : v'.Fewer v'') : v.Fewer v'' := ⟨fun w => g.run (h.run w), List.Subset.trans g.queue h.queue⟩

theorem Adapter.Fewer.refl (a : Adapter) : a.Fewer a := ⟨List.Subset.refl _, List.Subset.refl _⟩
theorem Adapter.Fewer.trans {a a' a'' : Adapter} (h : a.Fewer a') (g : a'.Fewer a'') : a.Fewer a'' :=
  ⟨List.Subset.trans g.steps h.steps, List.Subset.trans g.fires h.fires⟩

theorem Hart.Fewer.refl (h : Hart) : h.Fewer h := ⟨id, id⟩
theorem Hart.Fewer.trans {h h' h'' : Hart} (a : h.Fewer h') (b : h'.Fewer h'') : h.Fewer h'' :=
  ⟨fun w => b.halted (a.halted w), fun w => b.idle (a.idle w)⟩

theorem Core.Fewer.refl (c : Core) : c.Fewer c :=
  ⟨rfl, rfl, fun _ => Engine.Fewer.refl _, Vec.Fewer.refl _, Adapter.Fewer.refl _, Hart.Fewer.refl _⟩

theorem Core.Fewer.trans {c c' c'' : Core} (h : c.Fewer c') (g : c'.Fewer c'') : c.Fewer c'' where
  owner := g.owner.trans h.owner
  place := g.place.trans h.place
  eng e := (h.eng e).trans (g.eng e)
  vec := h.vec.trans g.vec
  adapter := h.adapter.trans g.adapter
  hart := h.hart.trans g.hart

/-- A queue of the ring lane on which no command begins and that is not enabled. -/
structure Queue.Fewer (q q' : Queue) : Prop where
  enable : q.enable = false → q'.enable = false
  cmds : q.cmds = [] → q'.cmds = []

theorem Queue.Fewer.refl (q : Queue) : q.Fewer q := ⟨id, id⟩
theorem Queue.Fewer.trans {q q' q'' : Queue} (h : q.Fewer q') (g : q'.Fewer q'') : q.Fewer q'' :=
  ⟨fun w => g.enable (h.enable w), fun w => g.cmds (h.cmds w)⟩

/-! ### A block in which work ends -/

/-- Parts that an end of work can change and of which the rungs' statements say nothing. -/
def quietParts : List Part := [.mem, .coh, .draws, .ports, .fences, .dmas, .dict, .power]

/-- Parts that an end of work can change. -/
def endParts : List Part := quietParts ++ [.cores, .slices, .ctxs, .queues, .vis, .tally]

/-- What ends of work can do: contexts change their state where P names them, ladders where Q names their slice. -/
structure Ends (P Q : Nat → Prop) (b b' : Block) : Prop where
  keeps : b.Keeps endParts b'
  core : ∀ c, (b.core c).Fewer (b'.core c)
  st : ∀ n, (b'.slice n).st = (b.slice n).st
  ladder : ∀ n, ¬Q n → (b'.slice n).ladder = (b.slice n).ladder
  ctxSlice : ∀ c, (b'.ctx c).slice = (b.ctx c).slice
  ctxSt : ∀ c, ¬P c → (b'.ctx c).st = (b.ctx c).st ∧ (b'.ctx c).toSuspect = (b.ctx c).toSuspect
  queue : ∀ q, (b.queue q).Fewer (b'.queue q)
  gen : ∀ v, (b'.vi v).gen = (b.vi v).gen
  save : b'.tally.savePending = b.tally.savePending

namespace Ends

variable {P Q : Nat → Prop}

theorem refl (b : Block) : Ends P Q b b where
  keeps := Block.Keeps.refl _ b
  core _ := Core.Fewer.refl _
  st _ := rfl
  ladder _ _ := rfl
  ctxSlice _ := rfl
  ctxSt _ _ := ⟨rfl, rfl⟩
  queue _ := Queue.Fewer.refl _
  gen _ := rfl
  save := rfl

theorem trans {b c d : Block} (h : Ends P Q b c) (g : Ends P Q c d) : Ends P Q b d where
  keeps := h.keeps.trans g.keeps
  core k := (h.core k).trans (g.core k)
  st n := (g.st n).trans (h.st n)
  ladder n hn := (g.ladder n hn).trans (h.ladder n hn)
  ctxSlice c := (g.ctxSlice c).trans (h.ctxSlice c)
  ctxSt c hc := ⟨(g.ctxSt c hc).1.trans (h.ctxSt c hc).1, (g.ctxSt c hc).2.trans (h.ctxSt c hc).2⟩
  queue q := (h.queue q).trans (g.queue q)
  gen v := (g.gen v).trans (h.gen v)
  save := g.save.trans h.save

theorem mono {P' Q' : Nat → Prop} {b b' : Block} (h : Ends P Q b b') (hP : ∀ c, P c → P' c) (hQ : ∀ n, Q n → Q' n) : Ends P' Q' b b' :=
  { h with ladder := fun n hn => h.ladder n fun w => hn (hQ n w), ctxSt := fun c hc => h.ctxSt c fun w => hc (hP c w) }

/-- A fold of ends of work over a list. -/
theorem foldl {α : Type} (f : Block → α → Block) (l : List α) (hf : ∀ x ∈ l, ∀ b, Ends P Q b (f b x)) (b : Block) :
    Ends P Q b (l.foldl f b) := by
  induction l generalizing b with
  | nil => exact refl b
  | cons x l ih => exact (hf x List.mem_cons_self b).trans (ih (fun y hy => hf y (List.mem_cons_of_mem _ hy)) _)

theorem each (f : Nat → Block → Block) (hf : ∀ n b, Ends P Q b (f n b)) (l : List Nat) (b : Block) : Ends P Q b (b.each l f) :=
  foldl _ l (fun n _ b => hf n b) b

theorem ite {b x y : Block} {p : Prop} [Decidable p] (hx : Ends P Q b x) (hy : Ends P Q b y) : Ends P Q b (if p then x else y) := by
  split
  · exact hx
  · exact hy

/-- An operation on quiet parts is one. -/
theorem of_keeps {b b' : Block} {L : List Part} (h : b.Keeps L b') (hs : L ⊆ quietParts) : Ends P Q b b' := by
  have hn : ∀ p, p ∉ quietParts → p ∉ L := fun p hp hl => hp (hs hl)
  have hqueue := h.queue_eq (hn .queues (by decide))
  have hctx := h.ctx_eq (hn .ctxs (by decide))
  have hslice := h.slice_eq (hn .slices (by decide))
  have htally : b'.tally = b.tally := h .tally (hn .tally (by decide))
  constructor
  · exact h.mono fun p hp => List.mem_append_left _ (hs hp)
  · exact fun c => h.core_eq (hn .cores (by decide)) c ▸ Core.Fewer.refl _
  · exact fun n => by rw [hslice]
  · exact fun n _ => by rw [hslice]
  · exact fun c => by rw [hctx]
  · exact fun c _ => by rw [hctx]; exact ⟨rfl, rfl⟩
  · exact fun q => hqueue q ▸ Queue.Fewer.refl _
  · exact fun v => by rw [h.vi_eq (hn .vis (by decide))]
  · rw [htally]

theorem modPorts (b : Block) (f : Ports → Ports) : Ends P Q b (b.modPorts f) := of_keeps (b.modPorts_keeps f) (by decide)
theorem modCoh (b : Block) (f : Coh → Coh) : Ends P Q b (b.modCoh f) := of_keeps (b.modCoh_keeps f) (by decide)

/-- A change of one core. -/
theorem modCore (b : Block) (n : Nat) {f : Core → Core} (hf : ∀ x : Core, x.Fewer (f x)) : Ends P Q b (b.modCore n f) where
  keeps := (b.modCore_keeps n f).mono (by decide)
  core c := by
    by_cases h : c = n
    · rw [h, Block.modCore_core_same]; exact hf _
    · rw [Block.modCore_core_ne _ _ h]; exact Core.Fewer.refl _
  st _ := rfl
  ladder _ _ := rfl
  ctxSlice _ := rfl
  ctxSt _ _ := ⟨rfl, rfl⟩
  queue _ := Queue.Fewer.refl _
  gen _ := rfl
  save := rfl

theorem modEng (b : Block) (c k : Nat) {f : Engine → Engine} (hf : ∀ x : Engine, x.Fewer (f x)) : Ends P Q b (b.modEng c k f) := by
  refine modCore b c fun x => { Core.Fewer.refl x with eng := fun e => ?_ }
  by_cases h : e = k
  · rw [h, Core.eng, Core.eng, Core.modEng, Tab.get_upd_same]; exact hf _
  · rw [Core.eng, Core.eng, Core.modEng, Tab.get_upd_ne _ _ _ h]; exact Engine.Fewer.refl _

theorem modVec (b : Block) (c : Nat) {f : Vec → Vec} (hf : ∀ x : Vec, x.Fewer (f x)) : Ends P Q b (b.modVec c f) :=
  modCore b c fun x => { Core.Fewer.refl x with vec := hf _ }

theorem modAdapter (b : Block) (c : Nat) {f : Adapter → Adapter} (hf : ∀ x : Adapter, x.Fewer (f x)) : Ends P Q b (b.modAdapter c f) :=
  modCore b c fun x => { Core.Fewer.refl x with adapter := hf _ }

theorem modHart (b : Block) (c : Nat) {f : Hart → Hart} (hf : ∀ x : Hart, x.Fewer (f x)) : Ends P Q b (b.modHart c f) :=
  modCore b c fun x => { Core.Fewer.refl x with hart := hf _ }

theorem progress (b : Block) (c u : Nat) : Ends P Q b (b.progress c u) := modCore b c fun x => { Core.Fewer.refl x with }

/-- A change of one slice. -/
theorem modSlice (b : Block) (n : Nat) {f : Slice → Slice} (hst : ∀ x, (f x).st = x.st) (hl : Q n ∨ ∀ x, (f x).ladder = x.ladder) :
    Ends P Q b (b.modSlice n f) where
  keeps := (b.modSlice_keeps n f).mono (by decide)
  core _ := Core.Fewer.refl _
  st m := by
    by_cases h : m = n
    · rw [h, Block.modSlice_slice_same, hst]
    · rw [Block.modSlice_slice_ne _ _ h]
  ladder m hm := by
    by_cases h : m = n
    · rw [h] at hm ⊢
      rw [Block.modSlice_slice_same, hl.resolve_left hm]
    · rw [Block.modSlice_slice_ne _ _ h]
  ctxSlice _ := rfl
  ctxSt _ _ := ⟨rfl, rfl⟩
  queue _ := Queue.Fewer.refl _
  gen _ := rfl
  save := rfl

theorem modXlat (b : Block) (n : Nat) (f : XlatRegs → XlatRegs) : Ends P Q b (b.modXlat n f) :=
  modSlice b n (fun _ => rfl) (.inr fun _ => rfl)
theorem modCtxr (b : Block) (n : Nat) (f : CtxRegs → CtxRegs) : Ends P Q b (b.modCtxr n f) :=
  modSlice b n (fun _ => rfl) (.inr fun _ => rfl)
theorem modCnt (b : Block) (n : Nat) (f : Counters → Counters) : Ends P Q b (b.modCnt n f) :=
  modSlice b n (fun _ => rfl) (.inr fun _ => rfl)
theorem modJob (b : Block) (n j : Nat) (f : Job → Job) : Ends P Q b (b.modJob n j f) :=
  modSlice b n (fun _ => rfl) (.inr fun _ => rfl)

/-- A change of a named slice's ladder. -/
theorem modLad (b : Block) {n : Nat} (f : LadderRegs → LadderRegs) (h : Q n) : Ends P Q b (b.modLad n f) :=
  modSlice b n (fun _ => rfl) (.inl h)

/-- A change of one context. -/
theorem modCtx (b : Block) (k : Nat) {f : Ctx → Ctx} (hs : ∀ x, (f x).slice = x.slice)
    (hst : P k ∨ ∀ x, (f x).st = x.st ∧ (f x).toSuspect = x.toSuspect) : Ends P Q b (b.modCtx k f) where
  keeps := (b.modCtx_keeps k f).mono (by decide)
  core _ := Core.Fewer.refl _
  st _ := rfl
  ladder _ _ := rfl
  ctxSlice c := by
    by_cases h : c = k
    · rw [h, Block.modCtx_ctx_same, hs]
    · rw [Block.modCtx_ctx_ne _ _ h]
  ctxSt c hc := by
    by_cases h : c = k
    · rw [h] at hc ⊢
      rw [Block.modCtx_ctx_same]
      exact hst.resolve_left hc _
    · rw [Block.modCtx_ctx_ne _ _ h]; exact ⟨rfl, rfl⟩
  queue _ := Queue.Fewer.refl _
  gen _ := rfl
  save := rfl

/-- A change of one queue. -/
theorem modQueue (b : Block) (k : Nat) {f : Queue → Queue} (hf : ∀ x : Queue, x.Fewer (f x)) : Ends P Q b (b.modQueue k f) where
  keeps := (b.modQueue_keeps k f).mono (by decide)
  core _ := Core.Fewer.refl _
  st _ := rfl
  ladder _ _ := rfl
  ctxSlice _ := rfl
  ctxSt _ _ := ⟨rfl, rfl⟩
  queue q := by
    by_cases h : q = k
    · rw [h, Block.modQueue_queue_same]; exact hf _
    · rw [Block.modQueue_queue_ne _ _ h]; exact Queue.Fewer.refl _
  gen _ := rfl
  save := rfl

/-- A change of one command interface under the same generation. -/
theorem modVi (b : Block) (k : Nat) {f : Vi → Vi} (hf : ∀ x, (f x).gen = x.gen) : Ends P Q b (b.modVi k f) where
  keeps := (b.modVi_keeps k f).mono (by decide)
  core _ := Core.Fewer.refl _
  st _ := rfl
  ladder _ _ := rfl
  ctxSlice _ := rfl
  ctxSt _ _ := ⟨rfl, rfl⟩
  queue _ := Queue.Fewer.refl _
  gen v := by
    by_cases h : v = k
    · rw [h, Block.modVi_vi_same, hf]
    · rw [Block.modVi_vi_ne _ _ h]
  save := rfl

theorem tallyAdd (b : Block) (i sub n : Nat) : Ends P Q b (b.tallyAdd i sub n) :=
  { refl b with keeps := (b.tallyAdd_keeps i sub n).mono (by decide) }

theorem tallyUp (b : Block) (i sub : Nat) : Ends P Q b (b.tallyUp i sub) := tallyAdd b i sub 1

/-- An operation at the homes, or a record, is one. -/
theorem of_homelike {b b' : Block} (h : Homelike Q b b') : Ends P Q b b' where
  keeps := h.keeps.mono (by decide)
  core c := by
    obtain ⟨r, hr⟩ := h.core c
    rw [hr]
    exact { Core.Fewer.refl _ with hart := ⟨id, id⟩ }
  st := h.st
  ladder := h.ladder
  ctxSlice c := by rw [h.keeps.ctx_eq (by simp)]
  ctxSt c _ := by rw [h.keeps.ctx_eq (by simp)]; exact ⟨rfl, rfl⟩
  queue q := by rw [h.keeps.queue_eq (by simp)]; exact Queue.Fewer.refl _
  gen v := by rw [h.keeps.vi_eq (by simp)]
  save := by rw [show b'.tally = b.tally from h.keeps .tally (by simp)]

end Ends

end Sys2Proof.Machine
end
section
/-! Ends of work on one core: ops, programs, steps and bindings (R75, R77, R137, R234, R313). -/

namespace Sys2Proof.Machine
namespace Ends

variable {P Q : Nat → Prop}

/-! ### Codes -/

theorem ctxCode (b : Block) (c code : Nat) : Ends P Q b (b.ctxCode c code) := by
  have hcode : ∀ x : Ctx, (x.code code b.stamp).slice = x.slice ∧ (x.code code b.stamp).st = x.st ∧
      (x.code code b.stamp).toSuspect = x.toSuspect := by
    intro x
    simp only [Ctx.code]
    split <;> exact ⟨rfl, rfl, rfl⟩
  rw [Block.ctxCode]
  exact ite (modPorts b _) (modCtx b c (fun x => (hcode x).1) (.inr fun x => (hcode x).2))

theorem vecCode (b : Block) (core ctx code : Nat) : Ends P Q b (b.vecCode core ctx code) :=
  (ctxCode b ctx code).trans (modVec _ _ fun _ => ⟨id, List.Subset.refl _⟩)

theorem engCode (b : Block) (core eng ctx code : Nat) : Ends P Q b (b.engCode core eng ctx code) :=
  (ctxCode b ctx code).trans (modEng _ _ _ fun _ => ⟨List.Subset.refl _, List.Subset.refl _⟩)

theorem engCodes (b : Block) (core eng ctx : Nat) (seen codes : List Nat) : Ends P Q b (b.engCodes core eng ctx seen codes).1 := by
  rw [Block.engCodes]
  induction codes generalizing b seen with
  | nil => exact refl b
  | cons k codes ih =>
    rw [List.foldl_cons]
    dsimp only
    split
    · exact ih b seen
    · exact (engCode b core eng ctx k).trans (ih _ _)

end Ends

/-! ### Engines -/

/-- A change of an op under its ticket. -/
theorem Engine.Fewer.modOp (e : Engine) (ticket : Nat) {f : EOp → EOp} (hf : ∀ o, (f o).ticket = o.ticket) : e.Fewer (e.modOp ticket f) := by
  have hmap : ∀ l : List EOp, (l.map fun o => if o.ticket == ticket then f o else o).map (·.ticket) = l.map (·.ticket) := by
    intro l
    rw [List.map_map]
    refine List.map_congr_left fun o _ => ?_
    dsimp only [Function.comp]
    split
    · exact hf o
    · rfl
  exact ⟨(hmap e.queue).symm ▸ List.Subset.refl _, (hmap e.active).symm ▸ List.Subset.refl _⟩

/-- The tile in NEXT whose op is gone is nobody's. -/
theorem Engine.Fewer.noNext (e : Engine) : e.Fewer (if e.nextOwner.isSome then e else { e with nextOp := none }) := by
  split
  · exact Engine.Fewer.refl e
  · exact ⟨List.Subset.refl _, List.Subset.refl _⟩

/-- The counting of tickets changes no op. -/
theorem Engine.settle_ops (n : Nat) (e : Engine) : (Engine.settle n e).queue = e.queue ∧ (Engine.settle n e).active = e.active := by
  induction n generalizing e with
  | zero => exact ⟨rfl, rfl⟩
  | succ n ih =>
    simp only [Engine.settle]
    split
    · exact ih _
    · exact ⟨rfl, rfl⟩

namespace Ends

variable {P Q : Nat → Prop}

theorem settle (b : Block) (core eng : Nat) : Ends P Q b (b.settle core eng) :=
  modEng b core eng fun e => by
    obtain ⟨hq, ha⟩ := Engine.settle_ops (e.refused.length + 1) e
    exact ⟨by rw [hq]; exact List.Subset.refl _, by rw [ha]; exact List.Subset.refl _⟩

theorem opCodes (b : Block) (core eng : Nat) (o : EOp) (codes : List Nat) : Ends P Q b (b.opCodes core eng o codes) :=
  (engCodes b core eng o.ctx _ codes).trans (modEng _ _ _ fun e => Engine.Fewer.modOp e _ fun _ => rfl)

theorem endOp (b : Block) (core eng ticket : Nat) : Ends P Q b (b.endOp core eng ticket) := by
  rw [Block.endOp]
  refine trans ?_ (settle _ core eng)
  refine trans (progress b core eng) (modEng _ core eng fun e => ?_)
  exact ⟨List.map_subset _ (List.filter_subset_self _), List.map_subset _ (List.filter_subset_self _)⟩

theorem dropLines (b : Block) (core unit : Nat) : Ends P Q b (b.dropLines core unit) := of_keeps (b.dropLines_keeps core unit) (by decide)

/-! ### The adapter unit -/

theorem aimPrefs (b : Block) (core : Nat) (l : List Pref) : Ends P Q b (b.aimPrefs core l).1 := by
  simp only [Block.aimPrefs]
  exact ite (refl b) (modCnt b _ _)

theorem settleSlot (core slot n : Nat) (b : Block) : Ends P Q b (Block.settleSlot core slot n b) := by
  induction n generalizing b with
  | zero => exact refl b
  | succ n ih =>
    rw [Block.settleSlot]
    dsimp only
    split
    · exact refl b
    · split
      · exact refl b
      · refine trans ?_ (ih _)
        refine trans ?_ (modAdapter _ core fun a => ⟨List.Subset.refl _, List.Subset.refl _⟩)
        refine trans ?_ (aimPrefs _ core _)
        exact modAdapter b core fun a => ⟨List.Subset.refl _, List.filter_subset_self _⟩

theorem settleSlots (b : Block) (core : Nat) (slots : List Nat) : Ends P Q b (b.settleSlots core slots) :=
  foldl _ slots (fun s _ b => settleSlot core s _ b) b

theorem dropSteps (b : Block) (core : Nat) (gone : Step → Bool) : Ends P Q b (b.dropSteps core gone) := by
  rw [Block.dropSteps]
  refine trans ?_ (settleSlots _ core _)
  exact modAdapter b core fun a => ⟨List.filter_subset_self _, List.Subset.refl _⟩

theorem endBindings (b : Block) (core ctx : Nat) : Ends P Q b (b.endBindings core ctx) := by
  rw [Block.endBindings]
  refine trans ?_ (settleSlots _ core _)
  refine modAdapter b core fun a => ?_
  generalize Tab.keys (b.core core).adapter.slots = slots
  induction slots generalizing a with
  | nil => exact Adapter.Fewer.refl a
  | cons s slots ih =>
    rw [List.foldl_cons]
    refine Adapter.Fewer.trans ?_ (ih _)
    dsimp only
    split
    · exact ⟨List.Subset.refl _, List.filter_subset_self _⟩
    · exact ⟨List.Subset.refl _, List.Subset.refl _⟩

/-! ### Ends of ops and programs -/

/-- What follows the op's leaving its engine. -/
theorem endWith_rest (b : Block) (core eng : Nat) (o : EOp) (code : Nat) :
    Ends P Q ((b.opCodes core eng o [code]).endOp core eng o.ticket) (b.endWith core eng o code) := by
  rw [Block.endWith, Block.dropOpSteps]
  refine trans ?_ (modEng _ core eng fun _ => ⟨List.Subset.refl _, List.Subset.refl _⟩)
  refine trans ?_ (modAdapter _ core fun _ => ⟨List.Subset.refl _, List.Subset.refl _⟩)
  exact trans (dropLines _ core 4) (dropSteps _ core _)

theorem endWith (b : Block) (core eng : Nat) (o : EOp) (code : Nat) : Ends P Q b (b.endWith core eng o code) :=
  trans (trans (opCodes b core eng o [code]) (endOp _ core eng o.ticket)) (endWith_rest b core eng o code)

theorem endOps (b : Block) (core eng code : Nat) (gone : List EOp) : Ends P Q b (b.endOps core eng code gone) := by
  rw [Block.endOps]
  refine trans ?_ (modEng _ core eng Engine.Fewer.noNext)
  refine trans ?_ (foldl _ gone (fun o _ b => endWith b core eng o code) _)
  exact ite (refl b) (dropLines b core eng)

theorem dropOps (b : Block) (core eng code : Nat) (p : EOp → Bool) : Ends P Q b (b.dropOps core eng code p) := endOps b core eng code _

theorem dropArrivals (b : Block) (core eng code : Nat) (p : Placement → Bool) : Ends P Q b (b.dropArrivals core eng code p) := by
  rw [Block.dropArrivals]
  refine trans ?_ (foldl _ _ (fun x _ b => ctxCode b x.ctx code) _)
  exact modEng b core eng fun _ => ⟨List.Subset.refl _, List.Subset.refl _⟩

end Ends

/-- The counting of tickets changes no program. -/
theorem Vec.settle_progs (n : Nat) (v : Vec) : (Vec.settle n v).run = v.run ∧ (Vec.settle n v).queue = v.queue := by
  induction n generalizing v with
  | zero => exact ⟨rfl, rfl⟩
  | succ n ih =>
    simp only [Vec.settle]
    split
    · exact ih _
    · exact ⟨rfl, rfl⟩

/-- Programs that a choice names leave the unit. -/
def Vec.dropped (v : Vec) (k : Nat) (p : VProg → Bool) (tickets : List Nat) : Vec :=
  Vec.settle k { v with queue := v.queue.filter (fun x => !p x), run := v.run.filter (fun x => !p x), refused := v.refused ++ tickets }

theorem Vec.dropped_progs (v : Vec) (k : Nat) (p : VProg → Bool) (tickets : List Nat) :
    (v.dropped k p tickets).run = v.run.filter (fun x => !p x) ∧ (v.dropped k p tickets).queue = v.queue.filter fun x => !p x :=
  Vec.settle_progs k _

namespace Ends

variable {P Q : Nat → Prop}

theorem dropProgs (b : Block) (core code : Nat) (p : VProg → Bool) : Ends P Q b (b.dropProgs core code p) := by
  rw [Block.dropProgs]
  refine trans (trans (ite (refl b) (dropLines b core 6)) (foldl _ _ (fun x _ b => vecCode b core x.ctx code) _)) (modVec _ core fun v => ?_)
  obtain ⟨hrun, hqueue⟩ := v.dropped_progs (v.refused.length + (((b.core core).vec.run.toList ++ (b.core core).vec.queue).filter p).length + 1) p
    ((((b.core core).vec.run.toList ++ (b.core core).vec.queue).filter p).map (·.ticket))
  exact ⟨fun h => hrun.trans (by rw [h]; rfl), fun x hx => List.mem_of_mem_filter (hqueue ▸ hx)⟩

/-- Everything of a context on a core ends (R234). -/
theorem cancelOn (b : Block) (core c code : Nat) : Ends P Q b (b.cancelOn core c code) := by
  rw [Block.cancelOn]
  exact trans (trans (each _ (fun e b => trans (dropOps b core e code _) (dropArrivals _ core e code _)) _ b) (dropProgs _ core code _))
    (endBindings _ core c)

/-! ### Transfers, and all work of a core -/

theorem cmdDone (b : Block) (q k : Nat) : Ends P Q b (b.cmdDone q k) :=
  modQueue b q fun x => ⟨id, fun h => by dsimp only; rw [h]; rfl⟩

theorem endDmas (b : Block) (code : Nat) (p : Dma → Bool) : Ends P Q b (b.endDmas code p) := by
  have hdmas : Ends P Q b { b with dmas := b.dmas.filter fun d => !p d } :=
    of_keeps (L := [.dmas]) (fun p hp => by cases p <;> first | rfl | exact absurd (by simp) hp) (by decide)
  rw [Block.endDmas]
  exact hdmas.trans (foldl _ _ (fun d _ b => ((dropLines b d.agent (8 + d.channel)).trans (ctxCode _ d.ctx code)).trans (cmdDone _ d.queue d.k)) _)

theorem coreStops (b : Block) (core code : Nat) : Ends P Q b (b.coreStops core code) := by
  rw [Block.coreStops]
  have hops : Ends P Q b (b.each (List.range 4) fun e b =>
      (b.dropOps core e code fun _ => true).dropArrivals core e code fun _ => true) :=
    each _ (fun e b => (dropOps b core e code _).trans (dropArrivals _ core e code _)) _ b
  refine trans ?_ (modAdapter _ core fun _ => ⟨List.nil_subset _, List.nil_subset _⟩)
  refine trans ?_ (each _ (fun u b => dropLines b core u) _ _)
  exact trans (trans hops (dropProgs _ core code _)) (endDmas _ code _)

end Ends

end Sys2Proof.Machine
end
section
/-! Resets of contexts and invalidations (R216, R234, R305, R316). -/

namespace Sys2Proof.Machine

theorem Queue.Fewer.stop (q : Queue) : q.Fewer q.stop := ⟨id, fun h => by simp [Queue.stop, h]⟩
theorem Queue.Fewer.drained (q : Queue) : q.Fewer q.drained := ⟨id, fun _ => rfl⟩
theorem Queue.Fewer.dropCtx (q : Queue) (c : Nat) : q.Fewer (q.dropCtx c) := ⟨id, fun h => by simp [Queue.dropCtx, h]⟩

namespace Ends

variable {P Q : Nat → Prop}

/-! ### The block's own writes of memory -/

theorem wrOwn (b : Block) (n a : Nat) (bs : List Byte) : Ends P Q b (b.wrOwn n a bs) := of_homelike (Homelike.wrOwn b n a bs)
theorem ctxWriteBack (b : Block) (c : Nat) : Ends P Q b (b.ctxWriteBack c) := of_homelike (Homelike.ctxWriteBack b c)

theorem setCtxSt (b : Block) {c : Nat} (st : CtxSt) (h : P c) : Ends P Q b (b.setCtxSt c st) := by
  rw [Block.setCtxSt]
  refine trans ?_ (ctxWriteBack _ c)
  exact modCtx b c (fun _ => rfl) (.inl h)

/-! ### The beginning of a reset -/

theorem dropCtxGrant (b : Block) (n c : Nat) : Ends P Q b (b.dropCtxGrant n c) := by
  rw [Block.dropCtxGrant]
  split
  · exact ite (modSlice b n (fun _ => rfl) (.inr fun _ => rfl)) (refl b)
  · exact refl b

theorem dropGrant (b : Block) (n : Nat) (qs : List Nat) : Ends P Q b (b.dropGrant n qs) := by
  rw [Block.dropGrant]
  split
  · exact ite (modSlice b n (fun _ => rfl) (.inr fun _ => rfl)) (refl b)
  · exact refl b

theorem stopQueues (b : Block) (c : Nat) : Ends P Q b (b.stopQueues c) := by
  rw [Block.stopQueues]
  refine trans ?_ (dropGrant _ _ _)
  exact each _ (fun q b => modQueue b q Queue.Fewer.stop) _ b

theorem askReset (b : Block) (core mclk : Nat) (p : Launch → Bool) : Ends P Q b (b.modHart core fun h => h.askReset mclk p) :=
  modHart b core fun h => ⟨id, fun ⟨hl, hw⟩ => ⟨by rw [Hart.askReset, hl]; rfl, by rw [Hart.askReset, hw]; rfl⟩⟩

/-- What follows the change of STATE. -/
theorem resetStart_rest (b : Block) (c code : Nat) : Ends P Q (b.setCtxSt c .resetting) (b.resetStart c code) := by
  rw [Block.resetStart]
  refine trans ?_ (each _ (fun core b => askReset b core _ _) _ _)
  refine trans ?_ (modXlat _ _ _)
  refine trans ?_ (endDmas _ code _)
  refine trans ?_ (each _ (fun core b => cancelOn b core c code) _ _)
  exact trans (dropCtxGrant _ _ c) (stopQueues _ c)

theorem resetStart (b : Block) {c : Nat} (code : Nat) (h : P c) : Ends P Q b (b.resetStart c code) :=
  trans (setCtxSt b .resetting h) (resetStart_rest b c code)

/-! ### Invalidations -/

theorem setWinStatus (b : Block) (c w status cause : Nat) : Ends P Q b (b.setWinStatus c w status cause) := by
  have hpin : Ends P Q b (b.unpin c w) := by
    rw [Block.unpin]
    exact ite (modCtx b c (fun _ => rfl) (.inr fun _ => ⟨rfl, rfl⟩)) (refl b)
  exact trans (trans hpin (wrOwn _ _ _ _)) (wrOwn _ _ _ _)

theorem startInval (b : Block) (n : Nat) (i : Inval) : Ends P Q b (b.startInval n i) := by
  rw [Block.startInval]
  refine trans (modXlat b n _) (each _ (fun c b => each _ (fun w b => ?_) _ b) _ _)
  exact ite (setWinStatus b c w 3 0) (refl b)

theorem addInval (b : Block) (n : Nat) (i : Inval) : Ends P Q b (b.addInval n i) := by
  rw [Block.addInval]
  exact trans (modXlat b n _) (ite (startInval _ n i) (refl _))

theorem viInval (b : Block) (v : Nat) : Ends P Q b (b.viInval v) := by
  rw [Block.viInval]
  refine ite (refl b) ?_
  refine trans ?_ (foldl _ _ (fun c _ b => addInval b _ _) _)
  exact modVi b v fun _ => rfl

/-! ### The end of a reset -/

theorem dropEffect (b : Block) (g : Option (Nat × Nat)) : Ends P Q b (b.dropEffect g) := by
  cases g with
  | none => exact refl b
  | some g => exact modVi b _ fun _ => rfl

end Ends

/-- The next launch begins where one waits; a control processor without launches stays so. -/
theorem Hart.Fewer.endLaunch (h : Hart) : h.Fewer h.endLaunch := by
  rw [Hart.endLaunch]
  split
  · rename_i hw; exact ⟨id, fun _ => ⟨rfl, hw⟩⟩
  · rename_i hw; exact ⟨id, fun hi => by rw [hi.2] at hw; cases hw⟩

/-- The state that a reset leaves: ACTIVE, or SUSPECT with its code and stopped queues (R317). -/
def Block.resetState (b : Block) (c : Nat) : Block :=
  if (b.ctx c).toSuspect then
    (((b.ctxCode c cLadder).modCtx c fun x => { x with toSuspect := false }).setCtxSt c .suspect).stopQueues c
  else b.setCtxSt c .active

/-- The end of an operation of ZH_CTX_CTRL that was a reset of the context. -/
def CtxRegs.resetEnds (c : Nat) (r : CtxRegs) : CtxRegs :=
  if r.ctrlGo && r.ctrlCtx == c then { r with ctrlGo := false, ctrlResult := 0 } else r

namespace Ends

variable {P Q : Nat → Prop}

theorem closeLaunch (b : Block) (core : Nat) : Ends P Q b (b.closeLaunch core) := by
  rw [Block.closeLaunch]
  split
  · exact refl b
  · refine trans ?_ (modHart _ core Hart.Fewer.endLaunch)
    exact ite (dropEffect b _) (ite (ctxCode b _ _) (refl b))

theorem lateEnds (b : Block) (q : Nat) : Ends P Q b (b.lateEnds q) := foldl _ _ (fun c _ b => dropEffect b c.gen) b

/-- Launches of a context end, and its entries leave the queues (steps 6 and 7 of R234). -/
theorem resetEnd_begins (b : Block) (c : Nat) : ∃ b', Ends P Q b b' ∧
    b.resetEnd c = (((b'.resetState c).viResets c).foldl Block.viInval (b'.resetState c)).modCtxr (b.ctx c).slice
      (CtxRegs.resetEnds c) := by
  refine ⟨_, ?_, rfl⟩
  refine trans ?_ (each _ (fun q b => modQueue b q fun x => Queue.Fewer.dropCtx x c) _ _)
  refine trans ?_ (each _ (fun q b => trans (lateEnds b q) (modQueue _ q Queue.Fewer.drained)) _ _)
  exact each _ (fun core b => ite (closeLaunch b core) (refl b)) _ b

theorem resetState (b : Block) {c : Nat} (h : P c) : Ends P Q b (b.resetState c) := by
  rw [Block.resetState]
  refine ite ?_ (setCtxSt b .active h)
  refine trans ?_ (stopQueues _ c)
  refine trans ?_ (setCtxSt _ .suspect h)
  refine trans (ctxCode b c cLadder) ?_
  exact modCtx _ c (fun _ => rfl) (.inl h)

theorem resetEnd (b : Block) {c : Nat} (h : P c) : Ends P Q b (b.resetEnd c) := by
  obtain ⟨b', hb, he⟩ := resetEnd_begins (P := P) (Q := Q) b c
  rw [he]
  exact trans (trans (trans hb (resetState b' h)) (foldl _ _ (fun v _ b => viInval b v) _)) (modCtxr _ _ _)

end Ends

end Sys2Proof.Machine
end
section
/-! Signals of fences and copies of secure jobs that are given up (R255 to R262, R344 to R348), write-back of caches (R90, R318), records
and reports of rungs (R322, R323, R329). -/

namespace Sys2Proof.Machine

theorem Hart.Fewer.note (h : Hart) (f : Nat) : h.Fewer (h.note f) := by
  rw [Hart.note]
  split
  · exact Hart.Fewer.refl h
  · split
    · exact ⟨id, id⟩
    · exact ⟨id, id⟩

namespace Ends

variable {P Q : Nat → Prop}

/-! ### Signals -/

theorem modFence (b : Block) (i : Nat) (f : Fence → Fence) : Ends P Q b (b.modFence i f) := of_keeps (b.modFence_keeps i f) (by decide)

theorem snapshots (b : Block) (f : Nat) : Ends P Q b (b.snapshots f) := by
  rw [Block.snapshots]
  split
  · exact refl b
  · refine each _ (fun j b => ?_) _ b
    split
    · exact refl b
    · exact ite (modJob b _ j _) (refl b)

theorem writeMirror (b : Block) (n f : Nat) (y : Signaller) : Ends P Q b (b.writeMirror n f y) := by
  rw [Block.writeMirror]
  exact ite (refl b) (ite (of_keeps (b.hostWrite_keeps _ _ _ _ _ _ _) (by decide)) (ite (wrOwn b _ _ _) (refl b)))

theorem notify (b : Block) (n f : Nat) : Ends P Q b (b.notify n f) := by
  rw [Block.notify]
  refine ite (refl b) ?_
  split
  · exact modHart b _ fun h => Hart.Fewer.note h f
  · exact modCtx b _ (fun _ => rfl) (.inr fun _ => ⟨rfl, rfl⟩)

theorem wakeWaits (b : Block) (f : Nat) : Ends P Q b (b.wakeWaits f) := by
  rw [Block.wakeWaits]
  refine each _ (fun q b => ite ?_ (refl b)) _ b
  exact modQueue b q fun x => ⟨id, fun h => by simp [h]⟩

theorem fenceChanged (b : Block) (f : Nat) (y : Signaller) : Ends P Q b (b.fenceChanged f y) := by
  rw [Block.fenceChanged]
  split
  · exact wakeWaits b f
  · exact trans (trans (writeMirror b _ f y) (notify _ _ f)) (wakeWaits _ f)

theorem signal (b : Block) (f : Nat) (w : Dword) (y : Signaller) : Ends P Q b (b.signal f w y) := by
  rw [Block.signal]
  refine ite (refl b) (ite ?_ (modCtx b _ (fun _ => rfl) (.inr fun _ => ⟨rfl, rfl⟩)))
  exact trans (trans (modFence b f _) (snapshots _ f)) (fenceChanged _ f y)

/-! ### Copies of secure jobs -/

theorem report (b : Block) (code pkg a0 a1 : Nat) : Ends P Q b (b.report code pkg a0 a1) := of_keeps (b.report_keeps code pkg a0 a1) (by decide)
theorem irq (b : Block) (n k : Nat) : Ends P Q b (b.irq n k) := of_keeps (b.irq_keeps n k) (by decide)

theorem jobSignal (b : Block) (n f : Nat) (w : Dword) : Ends P Q b (b.jobSignal n f w) := by
  rw [Block.jobSignal]
  exact ite (signal b f w noCmd) (refl b)

theorem secureEvent (b : Block) (n j result : Nat) : Ends P Q b (b.secureEvent n j result) := by
  rw [Block.secureEvent]
  refine trans ?_ (report _ _ _ _ _)
  refine trans ?_ (ite (irq _ n 7) (refl _))
  refine trans ?_ (modSlice _ n (fun _ => rfl) (.inr fun _ => rfl))
  exact modJob b n j _

theorem secureResult (b : Block) (n j result : Nat) (f : Dword) : Ends P Q b (b.secureResult n j result f) := by
  rw [Block.secureResult]
  refine trans ?_ (jobSignal _ n _ f)
  exact trans (modJob b n j _) (ite (secureEvent _ n j result) (refl _))

theorem regen (b : Block) (n : Nat) : Ends P Q b (b.regen n) := by
  rw [Block.regen]
  refine ite (refl b) (trans ?_ (modSlice _ n (fun _ => rfl) (.inr fun _ => rfl)))
  exact modSlice b n (fun _ => rfl) (.inr fun _ => rfl)

theorem regenFeed (b : Block) (n : Nat) {f : Block → Block} (hf : Ends P Q b (f b)) : Ends P Q b (b.regenFeed n f) := by
  rw [Block.regenFeed]
  exact ite (trans hf (regen _ n)) hf

theorem dropTag (b : Block) (tag : Nat) : Ends P Q b (b.dropTag tag) := of_keeps (b.dropTag_keeps tag) (by decide)

theorem endCopy (b : Block) (n j result : Nat) : Ends P Q b (b.endCopy n j result) := by
  rw [Block.endCopy]
  split
  · exact refl b
  · exact regenFeed b n (trans (trans (dropTag b _) (modJob _ n j _)) (secureResult _ n j result _))

theorem exposureEnd (b : Block) (n j : Nat) : Ends P Q b (b.exposureEnd n j) := by
  rw [Block.exposureEnd]
  exact trans (modJob b n j _) (foldl _ _ (fun t _ b => trans (tallyAdd b _ _ _) (tallyAdd _ _ _ _)) _)

theorem copyDone (b : Block) (n j : Nat) (c : Copy) : Ends P Q b (b.copyDone n j c) := by
  rw [Block.copyDone]
  refine trans ?_ (endCopy _ n j 1)
  refine trans ?_ (exposureEnd _ n j)
  exact trans (modJob b n j _) (ite (tallyUp _ _ _) (refl _))

theorem emitOwn (b : Block) (port : Nat) (o : Out) : Ends P Q b (b.emitOwn port o) := modPorts b _

theorem abandonCopy (b : Block) (n j : Nat) : Ends P Q b (b.abandonCopy n j) := by
  rw [Block.abandonCopy]
  split
  · exact refl b
  · split
    · exact copyDone b n j _
    · exact trans (endCopy b n j 8) (emitOwn _ _ _)
    · exact trans (endCopy b n j 8) (emitOwn _ _ _)
    · exact endCopy b n j 8
    · exact endCopy b n j 8

theorem abandonCopies (b : Block) (n : Nat) : Ends P Q b (b.abandonCopies n) := each _ (fun j b => abandonCopy b n j) _ b

/-! ### Caches given back -/

theorem dropDcache (b : Block) (cores : List Nat) : Ends P Q b (b.dropDcache cores) := by
  rw [Block.dropDcache]
  refine trans ?_ (modCoh _ _)
  refine each _ (fun core b => ?_) _ b
  exact modHart b core fun _ => ⟨id, id⟩

theorem flushCluster (b : Block) (n cl : Nat) (way : Nat → Bool) : Ends P Q b (b.flushCluster n cl way) := by
  rw [Block.flushCluster]
  refine trans (foldl _ _ (fun l _ b => of_homelike ?_) b) (modCoh _ _)
  exact Homelike.trans (Homelike.ite (Homelike.storeLine b _ _ _) (Homelike.refl b)) (Homelike.dropCopy _ _ _)

theorem sliceWriteBack (b : Block) (n : Nat) : Ends P Q b (b.sliceWriteBack n) := by
  rw [Block.sliceWriteBack]
  refine trans ?_ (each _ (fun c b => ctxWriteBack b c) _ _)
  exact trans (dropDcache b _) (each _ (fun cl b => flushCluster b n cl _) _ _)

end Ends

/-! ### Records of rungs -/

namespace Homelike

variable {Q : Nat → Prop}

theorem modLad (b : Block) {n : Nat} (f : LadderRegs → LadderRegs) (h : Q n) : Homelike Q b (b.modLad n f) :=
  modSlice b n _ (fun _ => rfl) (.inl h)

theorem draws (b : Block) (k : Nat) : Homelike Q b { b with draws := k } :=
  of_keeps (L := [.draws]) (fun p hp => by cases p <;> first | rfl | exact absurd (by simp) hp) (by simp)

theorem writeRecord (b : Block) {n : Nat} (off : Nat) (bytes : List Byte) (bad : List Nat) (k : Nat) (h : Q n) :
    Homelike Q b (b.writeRecord n off bytes bad k) := by
  rw [Block.writeRecord]
  refine trans ?_ (modLad _ _ h)
  split
  · exact refl b
  · exact trans (wrMem b _ _ _) (foldl _ (fun b i => setPoison b _ true) _ _)

theorem cutSample (b : Block) {n : Nat} (h : Q n) : Homelike Q b (b.cutSample n) := by
  rw [Block.cutSample]
  split
  · exact refl b
  · exact trans (writeRecord b _ _ _ _ h) (draws _ _)

/-- The beginning of a record. -/
theorem takeSample (b : Block) (t : Dword) {n : Nat} (rung cause : Nat) (cores : List Nat) (unit core : Nat) (h : Q n) :
    Homelike Q b (b.takeSample t n rung cause cores unit core) := by
  rw [Block.takeSample]
  refine trans (cutSample b h) ?_
  dsimp only
  split
  · exact refl _
  · exact trans (draws _ _) (modLad _ _ h)

end Homelike

end Sys2Proof.Machine
end
section
/-! What a slice owns, while work ends: its cores, contexts and queues (R20, R178, R188, R230, R238). -/

namespace Sys2Proof.Machine

/-- What a table holds at a key is listed, or is what an unlisted key reads as. -/
theorem Tab.get_mem {α : Type} (d : α) (t : Tab α) (k : Nat) : Tab.get d t k = d ∨ (k, Tab.get d t k) ∈ t := by
  induction t with
  | nil => exact .inl rfl
  | cons e t ih =>
    obtain ⟨j, x⟩ := e
    rw [Tab.get]
    split
    · rename_i h; exact .inr (h ▸ List.mem_cons_self)
    · exact ih.imp_right (List.mem_cons_of_mem _)

/-- A key is listed where the table holds anything else there than for an unlisted one. -/
theorem Tab.mem_keys {α : Type} {d : α} {t : Tab α} {k : Nat} (h : Tab.get d t k ≠ d) : k ∈ Tab.keys t :=
  List.mem_map.2 ⟨_, (Tab.get_mem d t k).resolve_left h, rfl⟩

/-! ### Cores -/

/-- Filtering a list is looking each of its elements up among those that are wanted. -/
theorem filter_eq_filterMap_find? (l : List Nat) (p : Nat → Bool) : l.filter p = l.filterMap fun k => (l.filter p).find? fun c => c == k := by
  rw [← List.filterMap_eq_filter]
  refine List.filterMap_congr fun k hk => ?_
  rw [List.filterMap_eq_filter, Option.guard]
  split
  · rename_i hp
    obtain ⟨y, hy⟩ := Option.isSome_iff_exists.1 (List.find?_isSome (p := fun c => c == k).2 ⟨k, List.mem_filter.2 ⟨hk, hp⟩, beq_self_eq_true k⟩)
    rw [hy, beq_iff_eq.1 (List.find?_some (p := fun c => c == k) hy)]
  · rename_i hp
    refine (List.find?_eq_none.2 fun c hc hck => hp ?_).symm
    rw [← beq_iff_eq.1 hck]
    exact (List.mem_filter.1 hc).2

/-- The slice's cores in its core order, by owner and place alone. -/
theorem Block.coresOf_eq (b : Block) (n : Nat) : b.coresOf n = (List.range 64).filterMap fun p =>
    ((List.range 64).filter fun c => (b.core c).owner == n).find? fun c => (b.core c).place.getD c == p := by
  simp only [Block.coresOf]
  split
  · rename_i hall
    have hplace : ∀ c, (b.core c).place = none := by
      intro c
      rcases Tab.get_mem Core.reset b.cores c with h | h
      · rw [Block.core, h]; rfl
      · exact Option.isNone_iff_eq_none.1 (List.all_eq_true.1 hall _ h)
    simp only [hplace, Option.getD_none]
    exact filter_eq_filterMap_find? _ _
  · rfl

theorem Block.coresOf_congr {b b' : Block} (h : ∀ c, (b'.core c).owner = (b.core c).owner ∧ (b'.core c).place = (b.core c).place) (n : Nat) :
    b'.coresOf n = b.coresOf n := by
  simp only [Block.coresOf_eq, fun c => (h c).1, fun c => (h c).2]

theorem Ends.coresOf {P Q : Nat → Prop} {b b' : Block} (h : Ends P Q b b') (n : Nat) : b'.coresOf n = b.coresOf n :=
  Block.coresOf_congr (fun c => ⟨(h.core c).owner, (h.core c).place⟩) n

theorem Ends.live {P Q : Nat → Prop} {b b' : Block} (h : Ends P Q b b') : b'.live = b.live := by
  simp only [Block.live, h.st]

/-! ### Contexts -/

/-- A slice's contexts are those of it that exist. -/
theorem Block.mem_ctxsOf {b : Block} {n c : Nat} : c ∈ b.ctxsOf n ↔ (b.ctx c).slice = n ∧ (b.ctx c).st ≠ .free := by
  rw [Block.ctxsOf, List.mem_filter, Bool.and_eq_true, beq_iff_eq, decide_eq_true_eq]
  refine ⟨fun h => h.2, fun h => ⟨Tab.mem_keys (d := Ctx.reset) fun hr => h.2 ?_, h⟩⟩
  rw [Block.ctx, hr]
  rfl

end Sys2Proof.Machine
end
section
/-! What each step of a rung brings about: contexts in reset and out of it (R234, R317, R318), units without work (R313), reports (R329). -/

namespace Sys2Proof.Machine

/-- No context, and no slice. -/
def Nobody (_ : Nat) : Prop := False

/-- What one element of a fold brings about and no other undoes holds after it. -/
theorem foldl_holds {α : Type} {f : Block → α → Block} {p : Block → Prop} {x : α} {l : List α} (hx : x ∈ l)
    (hest : ∀ b, p (f b x)) (hkeep : ∀ b y, y ≠ x → p b → p (f b y)) (b : Block) : p (l.foldl f b) := by
  have hstay : ∀ (l : List α) (b : Block), p b → p (l.foldl f b) := by
    intro l
    induction l with
    | nil => exact fun b h => h
    | cons y l ih =>
      intro b h
      refine ih _ ?_
      by_cases hy : y = x
      · exact hy ▸ hest b
      · exact hkeep b y hy h
  induction l generalizing b with
  | nil => cases hx
  | cons y l ih =>
    rcases List.mem_cons.1 hx with h | h
    · exact hstay l _ (h ▸ hest b)
    · exact ih h _

theorem Block.each_holds {f : Nat → Block → Block} {p : Block → Prop} {x : Nat} {l : List Nat} (hx : x ∈ l)
    (hest : ∀ b, p (f x b)) (hkeep : ∀ b y, y ≠ x → p b → p (f y b)) (b : Block) : p (b.each l f) :=
  foldl_holds (f := fun b n => f n b) hx hest hkeep b

/-! ### Contexts -/

theorem Block.setCtxSt_ctx (b : Block) (c : Nat) (st : CtxSt) : (b.setCtxSt c st).ctx c = { b.ctx c with st := st } := by
  have h := (Homelike.ctxWriteBack (Q := Nobody) (b.modCtx c fun x => { x with st := st }) c).keeps.ctx_eq (by simp) c
  rw [Block.setCtxSt, h, Block.modCtx_ctx_same]

theorem Block.resetStart_resetting (b : Block) (c code : Nat) : ((b.resetStart c code).ctx c).st = .resetting := by
  have h := (Ends.resetStart_rest (P := Nobody) (Q := Nobody) b c code).ctxSt c id
  rw [h.1, Block.setCtxSt_ctx]

/-- A reset that does not end in SUSPECT ends in ACTIVE. -/
theorem Block.resetEnd_active {b : Block} {c : Nat} (h : (b.ctx c).toSuspect = false) : ((b.resetEnd c).ctx c).st = .active := by
  obtain ⟨b', hb, he⟩ := Ends.resetEnd_begins (P := Nobody) (Q := Nobody) b c
  have hs : b'.resetState c = b'.setCtxSt c .active := by
    rw [Block.resetState, (hb.ctxSt c id).2, h, if_neg Bool.false_ne_true]
  rw [he, hs]
  have hrest := Ends.trans (Ends.foldl (P := Nobody) (Q := Nobody) _ ((b'.setCtxSt c .active).viResets c) (fun v _ b => Ends.viInval b v)
    (b'.setCtxSt c .active)) (Ends.modCtxr _ (b.ctx c).slice (CtxRegs.resetEnds c))
  rw [(hrest.ctxSt c id).1, Block.setCtxSt_ctx]

/-- One context of a slice rung, from its reset to ACTIVE with the rung's code. -/
def Block.ctxThroughReset (c : Nat) (b : Block) : Block :=
  (((if (b.ctx c).st == .resetting then b else b.resetStart c cCancelled).modCtx c fun x => { x with toSuspect := false }).resetEnd c).ctxCode
    c cLadder

theorem Ends.ctxThroughReset {P Q : Nat → Prop} (b : Block) {c : Nat} (h : P c) : Ends P Q b (b.ctxThroughReset c) := by
  rw [Block.ctxThroughReset]
  refine trans ?_ (ctxCode _ c cLadder)
  refine trans ?_ (resetEnd _ h)
  refine trans ?_ (modCtx _ c (fun _ => rfl) (.inl h))
  exact ite (refl b) (resetStart b cCancelled h)

theorem Block.ctxThroughReset_active (b : Block) (c : Nat) : ((b.ctxThroughReset c).ctx c).st = .active := by
  rw [Block.ctxThroughReset, ((Ends.ctxCode (P := Nobody) (Q := Nobody) _ c cLadder).ctxSt c id).1]
  exact Block.resetEnd_active (by rw [Block.modCtx_ctx_same])

theorem Block.ctxsReset_eq (b : Block) (n : Nat) : b.ctxsReset n = b.each (b.ctxsOf n) Block.ctxThroughReset := rfl

theorem Ends.ctxsReset {P Q : Nat → Prop} (b : Block) {n : Nat} (h : ∀ c, (b.ctx c).slice = n → P c) : Ends P Q b (b.ctxsReset n) := by
  rw [Block.ctxsReset_eq]
  exact foldl _ _ (fun c hc b' => ctxThroughReset b' (h c (Block.mem_ctxsOf.1 hc).1)) b

/-- After a slice rung's reset every context of the slice that exists is ACTIVE. -/
theorem Block.ctxsReset_active {b : Block} {n c : Nat} (h : c ∈ b.ctxsOf n) : ((b.ctxsReset n).ctx c).st = .active := by
  rw [Block.ctxsReset_eq]
  refine Block.each_holds (p := fun b => (b.ctx c).st = .active) h (fun b => b.ctxThroughReset_active c) (fun b k hk hb => ?_) b
  have hends : Ends (fun i => i = k) Nobody b (b.ctxThroughReset k) := Ends.ctxThroughReset b rfl
  exact (hends.ctxSt c (Ne.symm hk)).1.trans hb

/-! ### Suspects (R317) -/

/-- A context that a rung has put into reset towards SUSPECT. -/
def Ctx.TowardsSuspect (x : Ctx) : Prop := x.st = .resetting ∧ x.toSuspect = true

theorem Ends.suspectReset {P Q : Nat → Prop} (b : Block) {c : Nat} (h : P c) : Ends P Q b (b.suspectReset c) := by
  rw [Block.suspectReset]
  have hto : ∀ b : Block, Ends P Q b (if (b.ctx c).st == .resetting then b.modCtx c fun x => { x with toSuspect := true } else b) :=
    fun b => ite (modCtx b c (fun _ => rfl) (.inl h)) (refl b)
  refine trans ?_ (hto _)
  exact ite (resetStart b cCancelled h) (refl b)

theorem Block.suspectReset_suspect {b : Block} {c : Nat} (h : (b.ctx c).st = .active ∨ (b.ctx c).st = .resetting) :
    ((b.suspectReset c).ctx c).TowardsSuspect := by
  have hreset : ∀ b : Block, (b.ctx c).st = .resetting →
      (((if (b.ctx c).st == .resetting then b.modCtx c fun x => { x with toSuspect := true } else b)).ctx c).TowardsSuspect := by
    intro b hb
    rw [if_pos (beq_iff_eq.2 hb), Block.modCtx_ctx_same]
    exact ⟨hb, rfl⟩
  refine hreset _ ?_
  rcases h with h | h
  · have hact : ((b.ctx c).st == .active || (b.ctx c).st == .faulted) = true := by rw [h]; rfl
    rw [if_pos hact]
    exact b.resetStart_resetting c cCancelled
  · have hact : ((b.ctx c).st == .active || (b.ctx c).st == .faulted) = false := by rw [h]; rfl
    rw [hact, if_neg Bool.false_ne_true]
    exact h

/-- Every ACTIVE suspect is on its way to SUSPECT. -/
theorem Block.suspectsReset {b : Block} {c : Nat} {l : List Nat} (hc : c ∈ l) (h : (b.ctx c).st = .active) :
    ((b.each l fun c b => b.suspectReset c).ctx c).TowardsSuspect := by
  have hother : ∀ {k : Nat} (b : Block), k ≠ c → ((b.suspectReset k).ctx c).st = (b.ctx c).st ∧
      ((b.suspectReset k).ctx c).toSuspect = (b.ctx c).toSuspect := by
    intro k b hk
    have hends : Ends (fun i => i = k) Nobody b (b.suspectReset k) := Ends.suspectReset b rfl
    exact hends.ctxSt c (Ne.symm hk)
  have hstay : ∀ (l : List Nat) (b : Block), (b.ctx c).TowardsSuspect → ((b.each l fun c b => b.suspectReset c).ctx c).TowardsSuspect := by
    intro l
    induction l with
    | nil => exact fun b h => h
    | cons k l ih =>
      intro b hb
      refine ih _ ?_
      by_cases hk : k = c
      · exact hk ▸ Block.suspectReset_suspect (.inr (hk ▸ hb.1))
      · exact ⟨(hother b hk).1.trans hb.1, (hother b hk).2.trans hb.2⟩
  induction l generalizing b with
  | nil => cases hc
  | cons k l ih =>
    by_cases hk : k = c
    · exact hstay l _ (hk ▸ Block.suspectReset_suspect (.inl (hk ▸ h)))
    · exact ih ((List.mem_cons.1 hc).resolve_left (Ne.symm hk)) ((hother b hk).1.trans h)

end Sys2Proof.Machine
end
section
/-! Units without work (R313, R317) and the reports of rungs (R329). -/

namespace Sys2Proof.Machine

/-! ### Engines -/

/-- No op of the engine has the ticket. -/
def Engine.Lacks (e : Engine) (ticket : Nat) : Prop := ticket ∉ e.queue.map (·.ticket) ∧ ticket ∉ e.active.map (·.ticket)

theorem Engine.Lacks.fewer {e e' : Engine} {ticket : Nat} (h : e.Lacks ticket) (hf : e.Fewer e') : e'.Lacks ticket :=
  ⟨fun hq => h.1 (hf.queue hq), fun ha => h.2 (hf.active ha)⟩

theorem Block.modEng_eng_same (b : Block) (c e : Nat) (f : Engine → Engine) : (b.modEng c e f).eng c e = f (b.eng c e) := by
  rw [Block.modEng, Block.eng, Block.modCore_core_same]
  exact Tab.get_upd_same _ _ _ _

theorem Block.progress_eng (b : Block) (c u e : Nat) : (b.progress c u).eng c e = b.eng c e := by
  rw [Block.progress, Block.eng, Block.modCore_core_same]
  rfl

/-- An op that is ended leaves its engine. -/
theorem Block.endOp_lacks (b : Block) (core eng ticket : Nat) : ((b.endOp core eng ticket).eng core eng).Lacks ticket := by
  have hout : ∀ l : List EOp, ticket ∉ (l.filter fun o => o.ticket != ticket).map (·.ticket) := by
    intro l h
    obtain ⟨o, ho, rfl⟩ := List.mem_map.1 h
    simpa using (List.mem_filter.1 ho).2
  rw [Block.endOp, Block.settle, Block.modEng_eng_same, Block.modEng_eng_same]
  refine Engine.Lacks.fewer (e := { (b.progress core eng).eng core eng with
    queue := ((b.progress core eng).eng core eng).queue.filter fun o => o.ticket != ticket
    active := ((b.progress core eng).eng core eng).active.filter fun o => o.ticket != ticket }) ⟨hout _, hout _⟩ ⟨?_, ?_⟩
  · rw [(Engine.settle_ops _ _).1]; exact List.Subset.refl _
  · rw [(Engine.settle_ops _ _).2]; exact List.Subset.refl _

theorem Block.endWith_lacks (b : Block) (core eng : Nat) (o : EOp) (code : Nat) : ((b.endWith core eng o code).eng core eng).Lacks o.ticket :=
  ((b.opCodes core eng o [code]).endOp_lacks core eng o.ticket).fewer
    (((Ends.endWith_rest (P := Nobody) (Q := Nobody) b core eng o code).core core).eng eng)

/-- Ops that are ended leave their engine. -/
theorem Block.endOps_lacks (b : Block) (core eng code : Nat) {gone : List EOp} {o : EOp} (ho : o ∈ gone) :
    ((b.endOps core eng code gone).eng core eng).Lacks o.ticket := by
  have hkeep : ∀ (b : Block) (y : EOp), y ≠ o → (b.eng core eng).Lacks o.ticket → ((b.endWith core eng y code).eng core eng).Lacks o.ticket :=
    fun b y _ hb => hb.fewer (((Ends.endWith (P := Nobody) (Q := Nobody) b core eng y code).core core).eng eng)
  have hfold := foldl_holds (f := fun b o => b.endWith core eng o code) (p := fun b => (b.eng core eng).Lacks o.ticket) ho
    (fun b => b.endWith_lacks core eng o code) hkeep (if gone.isEmpty then b else b.dropLines core eng)
  rw [Block.endOps, Block.modEng_eng_same]
  exact hfold.fewer (Engine.Fewer.noNext _)

/-- The running op, by the engine, the clock and the requests under way. -/
theorem Block.runningOp_congr {b b' : Block} {core eng : Nat} (he : b'.eng core eng = b.eng core eng) (ht : b'.time = b.time)
    (hp : b'.ports = b.ports) : b'.runningOp core eng = b.runningOp core eng := by
  simp only [Block.runningOp, Block.opOver, Block.unanswered, he, ht, hp]

/-! ### Resets of units -/

theorem Ends.unitReset {P Q : Nat → Prop} (b : Block) (core unit : Nat) : Ends P Q b (b.unitReset core unit) := by
  rw [Block.unitReset]
  refine trans (progress b core unit) (ite (endOps _ core unit _ _) (ite (dropProgs _ core _ _) ?_))
  refine trans ?_ (modAdapter _ core fun _ => ⟨List.Subset.refl _, List.nil_subset _⟩)
  exact trans (each _ (fun e b => endOps b core e _ _) _ _) (dropSteps _ core _)

/-- An engine that is reset has an empty queue, and its running op is gone. -/
theorem Block.unitReset_engine (b : Block) (core : Nat) {unit : Nat} (h : unit < 4) :
    ((b.unitReset core unit).eng core unit).queue = [] ∧
      ∀ o, b.runningOp core unit = some o → ((b.unitReset core unit).eng core unit).Lacks o.ticket := by
  have heng := b.progress_eng core unit unit
  have hrun : (b.progress core unit).runningOp core unit = b.runningOp core unit := Block.runningOp_congr heng rfl rfl
  have hreset : b.unitReset core unit = (b.progress core unit).endOps core unit cCancelled
      ((b.runningOp core unit).toList ++ (b.eng core unit).queue) := by
    rw [Block.unitReset, if_pos h, hrun, heng]
  rw [hreset]
  have hfewer := ((Ends.endOps (P := Nobody) (Q := Nobody) (b.progress core unit) core unit cCancelled
    ((b.runningOp core unit).toList ++ (b.eng core unit).queue)).core core).eng unit
  have hlacks : ∀ o ∈ (b.runningOp core unit).toList ++ (b.eng core unit).queue, (((b.progress core unit).endOps core unit cCancelled
      ((b.runningOp core unit).toList ++ (b.eng core unit).queue)).eng core unit).Lacks o.ticket :=
    fun o ho => Block.endOps_lacks _ core unit cCancelled ho
  refine ⟨List.eq_nil_iff_forall_not_mem.2 fun x hx => ?_, fun o ho => ?_⟩
  · obtain ⟨o, ho, hox⟩ := List.mem_map.1 (hfewer.queue (List.mem_map_of_mem hx))
    have hq : o ∈ (b.eng core unit).queue := by
      have : o ∈ ((b.progress core unit).eng core unit).queue := ho
      rwa [heng] at this
    refine (hlacks o (List.mem_append_right _ hq)).1 ?_
    rw [hox]
    exact List.mem_map_of_mem hx
  · exact hlacks o (List.mem_append_left _ (by rw [ho]; exact List.mem_singleton_self o))

/-- A vector unit that is reset runs and queues no program. -/
theorem Block.unitReset_vector (b : Block) (core : Nat) :
    ((b.unitReset core 4).core core).vec.run = none ∧ ((b.unitReset core 4).core core).vec.queue = [] := by
  rw [Block.unitReset, if_neg (by decide), if_pos (by decide), Block.dropProgs, Block.modVec, Block.modCore_core_same]
  have hnone : ∀ o : Option VProg, o.filter (fun _ => !true) = none := fun o => by cases o <;> rfl
  exact ⟨(Vec.settle_progs _ _).1.trans (hnone _), (Vec.settle_progs _ _).2.trans (List.filter_eq_nil_iff.2 fun _ _ => Bool.false_ne_true)⟩

/-- An adapter unit that is reset has no step and no prefetch to fire. -/
theorem Block.unitReset_adapter (b : Block) (core : Nat) :
    ((b.unitReset core 5).core core).adapter.steps = [] ∧ ((b.unitReset core 5).core core).adapter.fires = [] := by
  have hsteps : ∀ b : Block, ((b.dropSteps core fun _ => true).core core).adapter.steps = [] := by
    intro b
    have hfewer := ((Ends.settleSlots (P := Nobody) (Q := Nobody)
      (b.modAdapter core fun a => { a with steps := a.steps.filter fun _ => !true }) core (Tab.keys (b.core core).adapter.slots)).core core).adapter.steps
    refine List.eq_nil_iff_forall_not_mem.2 fun x hx => ?_
    have hin := hfewer hx
    rw [Block.modAdapter, Block.modCore_core_same] at hin
    exact Bool.false_ne_true (List.mem_filter.1 hin).2
  obtain ⟨b', hb'⟩ : ∃ b' : Block, b.unitReset core 5 = (b'.dropSteps core fun _ => true).modAdapter core fun a => { a with fires := [] } :=
    ⟨_, by rw [Block.unitReset, if_neg (by decide), if_neg (by decide)]⟩
  rw [hb', Block.modAdapter, Block.modCore_core_same]
  exact ⟨hsteps b', rfl⟩

/-! ### Reports -/

/-- ZH_LADDER_STAT after a report. -/
def LadderRegs.reported (l : LadderRegs) (t : Dword) (rung cause unit idx : Nat) : LadderRegs :=
  { l with rung := rung, cause := cause, unit := unit, core := idx, stride := BitVec.ofNat 48 (dfld t 63 16), irqEvent := true }

theorem Block.ladderSlice_ladder (b : Block) (t : Dword) (n rung cause unit idx : Nat) :
    ((b.ladderSlice t n rung cause unit idx).slice n).ladder = (b.slice n).ladder.reported t rung cause unit idx := by
  have hslices : (b.ladderSlice t n rung cause unit idx).slices = (b.modLad n fun l => l.reported t rung cause unit idx).slices := by
    simp only [Block.ladderSlice]
    split <;> rfl
  rw [Block.slice, hslices, ← Block.slice, Block.modLad, Block.modSlice_slice_same]

theorem Ends.ladderSlice {P Q : Nat → Prop} (b : Block) (t : Dword) {n : Nat} (rung cause unit idx : Nat) (h : Q n) :
    Ends P Q b (b.ladderSlice t n rung cause unit idx) := by
  rw [Block.ladderSlice]
  refine trans ?_ (tallyUp _ _ _)
  refine trans ?_ (of_keeps (Block.modDict_keeps _ _) (by decide))
  refine trans ?_ (ite (refl _) (irq _ n 5))
  exact modLad b _ h

theorem Ends.ladderReport {P Q : Nat → Prop} (b : Block) (t : Dword) {ns : List Nat} (rung cause unit idx : Nat) (h : ∀ n ∈ ns, Q n) :
    Ends P Q b (b.ladderReport t ns rung cause unit idx) := by
  rw [Block.ladderReport]
  exact trans (foldl _ ns (fun n hn b => ladderSlice b t rung cause unit idx (h n hn)) b) (tallyUp _ _ _)

/-- The report of one slice. -/
theorem Block.ladderReport_one (b : Block) (t : Dword) (n rung cause unit idx : Nat) :
    ((b.ladderReport t [n] rung cause unit idx).slice n).ladder = (b.slice n).ladder.reported t rung cause unit idx :=
  b.ladderSlice_ladder t n rung cause unit idx

/-- A report reaches each of its slices. -/
theorem Block.ladderReport_reaches (b : Block) (t : Dword) {n : Nat} {ns : List Nat} (rung cause unit idx : Nat) (h : n ∈ ns) :
    ((b.ladderReport t ns rung cause unit idx).slice n).ladder.rung = rung ∧
      ((b.ladderReport t ns rung cause unit idx).slice n).ladder.cause = cause := by
  refine Block.each_holds (p := fun b => (b.slice n).ladder.rung = rung ∧ (b.slice n).ladder.cause = cause) h (fun b => ?_)
    (fun b m hm hb => ?_) b
  · rw [b.ladderSlice_ladder]; exact ⟨rfl, rfl⟩
  · have hends : Ends Nobody (fun i => i = m) b (b.ladderSlice t m rung cause unit idx) := Ends.ladderSlice b t rung cause unit idx rfl
    rw [hends.ladder n (Ne.symm hm)]
    exact hb

end Sys2Proof.Machine
end
section
/-! The engine rung (R317). -/

namespace Sys2Proof.Machine

/-! ### Its report -/

/-- The replay of an engine rung (R324). -/
def EngRung.replay (e : EngRung) : Replay :=
  { core := e.core, unit := e.unit, left := e.suspects, turn := none, turnStride := 0, reserved := false }

/-- The rung's own state is over, and its replay begins or waits for its turn. -/
def LadderRegs.replayDue (l : LadderRegs) (e : EngRung) : LadderRegs :=
  if e.suspects.isEmpty then { l with engRung := none }
  else if l.replay.isNone then { l with engRung := none, replay := some e.replay, suspects := e.suspects, replayed := true }
  else { l with engRung := none, waitingReplays := l.waitingReplays ++ [e.replay] }

/-- A replay that becomes due leaves the report alone. -/
theorem LadderRegs.replayDue_report (l : LadderRegs) (e : EngRung) : (l.replayDue e).engRung = none ∧ (l.replayDue e).rung = l.rung ∧
    (l.replayDue e).cause = l.cause ∧ (l.replayDue e).unit = l.unit ∧ (l.replayDue e).irqEvent = l.irqEvent ∧
    (l.replayDue e).stride = l.stride ∧ (l.replayDue e).busy = l.busy ∧ (l.replayDue e).sampling = l.sampling := by
  rw [LadderRegs.replayDue]
  split
  · exact ⟨rfl, rfl, rfl, rfl, rfl, rfl, rfl, rfl⟩
  · split <;> exact ⟨rfl, rfl, rfl, rfl, rfl, rfl, rfl, rfl⟩

/-- The record is not written yet, or a suspect is still in reset. -/
def Block.engineLate (b : Block) (n : Nat) (e : EngRung) : Prop :=
  (b.slice n).ladder.sampling.isSome = true ∨ ∃ c ∈ e.suspects, (b.ctx c).st = .resetting

theorem Block.engineLate_iff (b : Block) (n : Nat) (e : EngRung) :
    ((b.slice n).ladder.sampling.isSome || e.suspects.any fun c => (b.ctx c).st == .resetting) = true ↔ b.engineLate n e := by
  rw [Bool.or_eq_true, List.any_eq_true]
  simp only [beq_iff_eq]
  rfl

theorem Block.engineReport_waits {b : Block} {n : Nat} {e : EngRung} (he : (b.slice n).ladder.engRung = some e) (hl : b.engineLate n e) :
    b.engineReport n = b := by
  simp only [Block.engineReport, he]
  exact if_pos ((b.engineLate_iff n e).2 hl)

theorem Block.engineReport_eq {b : Block} {n : Nat} {e : EngRung} (he : (b.slice n).ladder.engRung = some e) (hl : ¬b.engineLate n e) :
    b.engineReport n = (b.ladderReport e.stamp [n] 2 e.cause e.unit ((b.coresOf n).idxOf e.core)).modLad n fun l => l.replayDue e := by
  simp only [Block.engineReport, he]
  exact if_neg fun h => hl ((b.engineLate_iff n e).1 h)

theorem Block.engineReport_ladder {b : Block} {n : Nat} {e : EngRung} (he : (b.slice n).ladder.engRung = some e) (hl : ¬b.engineLate n e) :
    ((b.engineReport n).slice n).ladder =
      ((b.slice n).ladder.reported e.stamp 2 e.cause e.unit ((b.coresOf n).idxOf e.core)).replayDue e := by
  rw [Block.engineReport_eq he hl, Block.modLad, Block.modSlice_slice_same]
  dsimp only
  rw [Block.ladderReport_one]

theorem Ends.engineReport {P Q : Nat → Prop} (b : Block) {n : Nat} (h : Q n) : Ends P Q b (b.engineReport n) := by
  cases he : (b.slice n).ladder.engRung with
  | none => simp only [Block.engineReport, he]; exact refl b
  | some e =>
    by_cases hl : b.engineLate n e
    · rw [Block.engineReport_waits he hl]; exact refl b
    · rw [Block.engineReport_eq he hl]
      refine trans (ladderReport b _ _ _ _ _ fun m hm => ?_) (modLad _ _ h)
      rw [List.mem_singleton.1 hm]; exact h

/-- R317, steps 5 and 6: the report of an engine rung whose record is written and whose suspects are in SUSPECT. -/
theorem engineReport_reports {b : Block} {n : Nat} {e : EngRung} (he : (b.slice n).ladder.engRung = some e)
    (hs : (b.slice n).ladder.sampling = none) (hr : ∀ c ∈ e.suspects, (b.ctx c).st ≠ .resetting) :
    let y := ((b.engineReport n).slice n).ladder
    y.engRung = none ∧ y.rung = 2 ∧ y.cause = e.cause ∧ y.unit = e.unit ∧ y.irqEvent = true ∧
    y.stride = BitVec.ofNat 48 (dfld e.stamp 63 16) ∧
    (e.suspects = [] → y.replay = (b.slice n).ladder.replay) ∧
    (e.suspects ≠ [] → (b.slice n).ladder.replay = none → y.suspects = e.suspects ∧ y.replay = some e.replay) := by
  have hl : ¬b.engineLate n e := by
    rintro (h | ⟨c, hc, h⟩)
    · rw [hs] at h; exact Bool.false_ne_true h
    · exact hr c hc h
  dsimp only
  rw [Block.engineReport_ladder he hl]
  obtain ⟨h1, h2, h3, h4, h5, h6, _, _⟩ :=
    LadderRegs.replayDue_report ((b.slice n).ladder.reported e.stamp 2 e.cause e.unit ((b.coresOf n).idxOf e.core)) e
  refine ⟨h1, h2, h3, h4, h5, h6, fun hn => ?_, fun hn hrep => ?_⟩
  · rw [LadderRegs.replayDue, if_pos (List.isEmpty_iff.2 hn)]
    rfl
  · have hnone : ((b.slice n).ladder.reported e.stamp 2 e.cause e.unit ((b.coresOf n).idxOf e.core)).replay.isNone = true := by
      rw [Option.isNone_iff_eq_none]; exact hrep
    rw [LadderRegs.replayDue, if_neg (by rwa [List.isEmpty_iff]), if_pos hnone]
    exact ⟨rfl, rfl⟩

/-! ### The rung -/

/-- Suspects of an engine rung: one with CAUSE 3 has none (R326). -/
def Block.suspectsOf (b : Block) (core unit cause : Nat) : List Nat := if cause == 3 then [] else b.unitCtxs core unit

/-- The rung's state until it is reported. -/
def Block.engRungOf (b : Block) (t : Dword) (core unit cause : Nat) : EngRung :=
  { core := core, unit := unit, cause := cause, suspects := b.suspectsOf core unit cause, stamp := t }

/-- The rung, after its record is begun: the unit is reset, its contexts are suspects, and it reports itself once it can. -/
def Block.engineRungSteps (b : Block) (n : Nat) (e : EngRung) : Block :=
  (((b.unitReset e.core e.unit).each e.suspects fun c b => b.suspectReset c).modLad n fun l =>
    { l with busy := some (2, 0), engRung := some e }).engineReport n

theorem Block.engineRung_eq (b : Block) (t : Dword) (n core unit cause : Nat) : b.engineRung t n core unit cause =
    (b.takeSample t n 2 cause [core] unit (b.zhCore core)).engineRungSteps n (b.engRungOf t core unit cause) := rfl

variable {P Q : Nat → Prop}

/-- What follows the reset of the unit ends work only. -/
theorem Ends.engineRung_suspects (b : Block) {n : Nat} (e : EngRung) (hP : ∀ c ∈ e.suspects, P c) (hQ : Q n) :
    Ends P Q (b.unitReset e.core e.unit) (b.engineRungSteps n e) := by
  rw [Block.engineRungSteps]
  refine trans ?_ (engineReport _ hQ)
  refine trans (foldl _ _ (fun c hc b => suspectReset b (hP c hc)) _) ?_
  exact modLad _ _ hQ

theorem Ends.engineRung (b : Block) (t : Dword) {n : Nat} (core unit cause : Nat) (hP : ∀ c ∈ b.suspectsOf core unit cause, P c) (hQ : Q n) :
    Ends P Q b (b.engineRung t n core unit cause) := by
  rw [Block.engineRung_eq]
  exact trans (trans (of_homelike (Homelike.takeSample b t 2 cause [core] unit _ hQ)) (unitReset _ core unit))
    (engineRung_suspects _ (b.engRungOf t core unit cause) hP hQ)

/-- The rung's state in the slice: under way, and reported where neither its record nor a suspect's reset is still to end. -/
theorem Block.engineRungSteps_ladder (b : Block) (n : Nat) (e : EngRung) :
    let b' := b.engineRungSteps n e
    let y := (b'.slice n).ladder
    let late := y.sampling.isSome = true ∨ ∃ c ∈ e.suspects, (b'.ctx c).st = .resetting
    y.busy = some (2, 0) ∧ (late → y.engRung = some e) ∧
    (¬late → y.engRung = none ∧ y.rung = 2 ∧ y.cause = e.cause ∧ y.unit = e.unit ∧ y.irqEvent = true) := by
  dsimp only
  rw [Block.engineRungSteps]
  generalize ((b.unitReset e.core e.unit).each e.suspects fun c b => b.suspectReset c) = b₀
  have hlad : ((b₀.modLad n fun l => { l with busy := some (2, 0), engRung := some e }).slice n).ladder =
      { (b₀.slice n).ladder with busy := some (2, 0), engRung := some e } := by rw [Block.modLad, Block.modSlice_slice_same]
  have he : ((b₀.modLad n fun l => { l with busy := some (2, 0), engRung := some e }).slice n).ladder.engRung = some e := by rw [hlad]
  generalize hb1 : (b₀.modLad n fun l => { l with busy := some (2, 0), engRung := some e }) = b₁ at *
  have hctx : ∀ c, ((b₁.engineReport n).ctx c).st = (b₁.ctx c).st := fun c =>
    ((Ends.engineReport (P := Nobody) (Q := fun i => i = n) b₁ rfl).ctxSt c id).1
  simp only [hctx]
  by_cases hl : b₁.engineLate n e
  · rw [Block.engineReport_waits he hl]
    exact ⟨by rw [hlad], fun _ => he, fun h => absurd hl h⟩
  · rw [Block.engineReport_ladder he hl]
    obtain ⟨h1, h2, h3, h4, h5, _, h7, h8⟩ :=
      LadderRegs.replayDue_report ((b₁.slice n).ladder.reported e.stamp 2 e.cause e.unit ((b₁.coresOf n).idxOf e.core)) e
    refine ⟨h7.trans ?_, fun h => absurd ?_ hl, fun _ => ⟨h1, h2, h3, h4, h5⟩⟩
    · show (b₁.slice n).ladder.busy = _
      rw [hlad]
    · rw [h8] at h; exact h

/-- What an engine rung leaves of its unit. -/
theorem engineRung_unit (b : Block) (t : Dword) (n core unit cause : Nat) :
    let b' := b.engineRung t n core unit cause
    (unit < 4 → (b'.eng core unit).queue = [] ∧ ∀ o, b.runningOp core unit = some o → ∀ x ∈ (b'.eng core unit).active, x.ticket ≠ o.ticket) ∧
    (unit = 4 → (b'.core core).vec.run = none ∧ (b'.core core).vec.queue = []) ∧
    (unit = 5 → (b'.core core).adapter.steps = [] ∧ (b'.core core).adapter.fires = []) := by
  intro b'
  have hsample := Homelike.takeSample (Q := fun i => i = n) b t 2 cause [core] unit (b.zhCore core) rfl
  have hrest : Ends (fun c => c ∈ b.suspectsOf core unit cause) (fun i => i = n)
      ((b.takeSample t n 2 cause [core] unit (b.zhCore core)).unitReset core unit) b' :=
    Ends.engineRung_suspects _ (b.engRungOf t core unit cause) (fun c hc => hc) rfl
  generalize b.takeSample t n 2 cause [core] unit (b.zhCore core) = b₁ at hsample hrest
  have hcore := hrest.core core
  refine ⟨fun h => ?_, fun h => ?_, fun h => ?_⟩
  · have heng : b₁.eng core unit = b.eng core unit := by
      obtain ⟨r, hr⟩ := hsample.core core
      rw [Block.eng, Block.eng, hr]
      rfl
    have hrun : b₁.runningOp core unit = b.runningOp core unit :=
      Block.runningOp_congr heng (hsample.keeps .time (by simp)) (hsample.keeps .ports (by simp))
    obtain ⟨hq, hl⟩ := b₁.unitReset_engine core h
    have hfewer := hcore.eng unit
    exact ⟨hfewer.queue_nil hq, fun o ho x hx hxo => ((hl o (hrun.trans ho)).fewer hfewer).2 (hxo ▸ List.mem_map_of_mem hx)⟩
  · subst h
    obtain ⟨hrun, hqueue⟩ := b₁.unitReset_vector core
    exact ⟨hcore.vec.run hrun, List.subset_nil.1 (hqueue ▸ hcore.vec.queue)⟩
  · subst h
    obtain ⟨hsteps, hfires⟩ := b₁.unitReset_adapter core
    exact ⟨List.subset_nil.1 (hsteps ▸ hcore.adapter.steps), List.subset_nil.1 (hfires ▸ hcore.adapter.fires)⟩

/-- An engine rung puts the ACTIVE contexts of its unit into reset towards SUSPECT. -/
theorem engineRung_suspect (b : Block) (t : Dword) (n core unit : Nat) {cause c : Nat} (hc : c ∈ b.suspectsOf core unit cause)
    (hst : (b.ctx c).st = .active) : ((b.engineRung t n core unit cause).ctx c).TowardsSuspect := by
  have hsample := Homelike.takeSample (Q := fun i => i = n) b t 2 cause [core] unit (b.zhCore core) rfl
  rw [Block.engineRung_eq, Block.engineRungSteps]
  generalize b.takeSample t n 2 cause [core] unit (b.zhCore core) = b₁ at hsample ⊢
  have hunit : ((b₁.unitReset core unit).ctx c).st = .active := by
    rw [((Ends.unitReset (P := Nobody) (Q := Nobody) b₁ core unit).ctxSt c id).1, hsample.keeps.ctx_eq (by simp)]
    exact hst
  have hsus := Block.suspectsReset hc hunit
  have hrest := (Ends.modLad (P := Nobody) (Q := fun i => i = n) ((b₁.unitReset core unit).each (b.suspectsOf core unit cause) fun c b => b.suspectReset c)
    (fun l => { l with busy := some (2, 0), engRung := some (b.engRungOf t core unit cause) }) rfl).trans (Ends.engineReport _ rfl)
  obtain ⟨h1, h2⟩ := hrest.ctxSt c id
  exact ⟨h1.trans hsus.1, h2.trans hsus.2⟩

/-- The rung of a unit is no longer due. -/
def Block.takesDue (b : Block) (d : Nat × Nat × Nat × Dword) : Block := b.modLadder fun l => { l with dueUnit := l.dueUnit.erase d }

/-- The engine rung of a unit that is due, and that no other of the slice comes before. -/
theorem exec_engineRung {s : State} {core unit : Nat} {d : Nat × Nat × Nat × Dword} (hown : (s.b.core core).owner ≠ 0)
    (hd : (s.b.ladder.dueUnit.find? fun x => x.1 == core && x.2.1 == unit) = some d) (hdone : s.b.rungDone (s.b.core core).owner = true)
    (hfirst : ∀ x ∈ s.b.ladder.dueUnit, (s.b.core x.1).owner = (s.b.core core).owner → dueBefore x d = false) :
    exec (.engineRung core unit) s = .next { s with b :=
      ((s.b.takesDue d).engineRung d.2.2.2 (s.b.core core).owner core unit d.2.2.1) } := by
  have hnone : (s.b.ladder.dueUnit.any fun x => (s.b.core x.1).owner == (s.b.core core).owner && dueBefore x d) = false := by
    rw [List.any_eq_false]
    intro x hx
    rw [Bool.and_eq_true, beq_iff_eq]
    rintro ⟨ho, hb⟩
    rw [hfirst x hx ho] at hb
    exact Bool.false_ne_true hb
  show execEngineRung core unit s = _
  rw [execEngineRung, State.onBlock_eq]
  simp only [hd, hdone, hnone, hown, beq_iff_eq, Bool.not_true, Bool.or_self, Bool.false_eq_true, if_false]
  rfl

/-- R317: an engine rung resets its unit and turns its contexts to reset for SUSPECT; it reports itself once it can. -/
theorem engineRung_runs {s : State} {core unit : Nat} {d : Nat × Nat × Nat × Dword} (hown : (s.b.core core).owner ≠ 0)
    (hd : (s.b.ladder.dueUnit.find? fun x => x.1 == core && x.2.1 == unit) = some d) (hdone : s.b.rungDone (s.b.core core).owner = true)
    (hfirst : ∀ x ∈ s.b.ladder.dueUnit, (s.b.core x.1).owner = (s.b.core core).owner → dueBefore x d = false) :
    Completes (exec (.engineRung core unit) s) fun t =>
      let y := (t.b.slice (s.b.core core).owner).ladder
      let suspects := if d.2.2.1 = 3 then [] else s.b.unitCtxs core unit
      let late := y.sampling.isSome = true ∨ ∃ c ∈ suspects, (t.b.ctx c).st = .resetting
      t.pending = s.pending ∧ t.fuse = s.fuse ∧ t.flash = s.flash ∧ t.b.ladder = { s.b.ladder with dueUnit := s.b.ladder.dueUnit.erase d } ∧
      y.busy = some (2, 0) ∧
      (late → y.engRung = some { core := core, unit := unit, cause := d.2.2.1, suspects := suspects, stamp := d.2.2.2 }) ∧
      (¬late → y.engRung = none ∧ y.rung = 2 ∧ y.cause = d.2.2.1 ∧ y.unit = unit ∧ y.irqEvent = true) ∧
      (unit < 4 → (t.b.eng core unit).queue = [] ∧
        ∀ o, s.b.runningOp core unit = some o → ∀ x ∈ (t.b.eng core unit).active, x.ticket ≠ o.ticket) ∧
      (unit = 4 → (t.b.core core).vec.run = none ∧ (t.b.core core).vec.queue = []) ∧
      (unit = 5 → (t.b.core core).adapter.steps = [] ∧ (t.b.core core).adapter.fires = []) ∧
      (d.2.2.1 ≠ 3 → ∀ c ∈ s.b.unitCtxs core unit, (s.b.ctx c).st = .active →
        (t.b.ctx c).st = .resetting ∧ (t.b.ctx c).toSuspect = true) := by
  refine ⟨_, exec_engineRung hown hd hdone hfirst, ?_⟩
  have hsus : (if d.2.2.1 = 3 then [] else s.b.unitCtxs core unit) =
      (s.b.takesDue d).suspectsOf core unit d.2.2.1 := by
    simp only [Block.suspectsOf, beq_iff_eq]
    rfl
  have hends := Ends.engineRung (P := fun _ => True) (Q := fun _ => True) (s.b.takesDue d) d.2.2.2 (n := (s.b.core core).owner) core unit
    d.2.2.1 (fun _ _ => trivial) trivial
  obtain ⟨hengine, hvector, hadapter⟩ := engineRung_unit (s.b.takesDue d) d.2.2.2 (s.b.core core).owner core unit d.2.2.1
  obtain ⟨hbusy, hlate, hreported⟩ := Block.engineRungSteps_ladder
    ((s.b.takesDue d).takeSample d.2.2.2 (s.b.core core).owner 2 d.2.2.1 [core] unit ((s.b.takesDue d).zhCore core))
    (s.b.core core).owner ((s.b.takesDue d).engRungOf d.2.2.2 core unit d.2.2.1)
  dsimp only
  rw [hsus]
  refine ⟨rfl, rfl, rfl, hends.keeps .ladder (by decide), hbusy, hlate, hreported, hengine, hvector, hadapter, fun h3 c hc hst => ?_⟩
  have hin : c ∈ (s.b.takesDue d).suspectsOf core unit d.2.2.1 := by
    rw [← hsus, if_neg h3]
    exact hc
  exact engineRung_suspect _ _ _ core unit hin hst

end Sys2Proof.Machine
end
section
/-! The slice rung (R24, R318). -/

namespace Sys2Proof.Machine

/-! ### Its steps -/

/-- Steps 2 and 3: everything that runs on the slice ends, with its replays, and its caches are written back. -/
def Block.sliceStops (b : Block) (n : Nat) (lost : Bool) : Block :=
  let b := b.each (b.coresOf n) fun c b => b.coreStops c cCancelled
  let b := (b.endDmas cCancelled fun d => (b.ctx d.ctx).slice == n).abandonCopies n
  let b := b.modLad n fun l => { l with replay := none, waitingReplays := [], suspects := [], engRung := none }
  if lost then b else b.sliceWriteBack n

/-- Every control processor of the cores halts without a launch. -/
def Block.coresHalt (b : Block) (cores : List Nat) : Block :=
  b.each cores fun c b => b.modHart c fun h => { h.halt with launch := none, waitingLaunches := [] }

/-- The queues are drained and disabled. -/
def Block.queuesDisable (b : Block) (l : List Nat) : Block := b.each l fun q b => b.modQueue q fun x => x.drained.off

/-- Steps 5 and 6: the cores' power cycle, and caches, cached contexts, translations and estimates are dropped. -/
def Block.sliceForgets (b : Block) (n : Nat) (cores : List Nat) : Block :=
  let b := b.modPower fun p => cores.foldl (fun p c => if p.isFailed c then p else p.cycle c) p
  let b := (b.dropDcache cores).modCoh fun c => { c with lines := c.lines.filter fun l => match l.agent with
    | .cluster k _ => k != n
    | _ => true }
  let b := b.each (b.ctxsOf n) fun c b => b.modCtx c fun x => { x with cached := none }
  (b.modXlat n fun x => { x with tlb := [] }).modSlice n fun x => { x with rein := { x.rein with est := [] } }

theorem Block.sliceClears_eq (b : Block) (n : Nat) (lost : Bool) : b.sliceClears n lost =
    ((((b.sliceStops n lost).coresHalt (b.coresOf n)).ctxsReset n).queuesDisable (((b.sliceStops n lost).coresHalt (b.coresOf n)).queuesOf n)
      ).sliceForgets n (b.coresOf n) := rfl

namespace Ends

variable {P Q : Nat → Prop}

theorem sliceStops (b : Block) {n : Nat} (lost : Bool) (h : Q n) : Ends P Q b (b.sliceStops n lost) := by
  rw [Block.sliceStops]
  refine trans ?_ (ite (refl _) (sliceWriteBack _ n))
  refine trans ?_ (modLad _ _ h)
  refine trans ?_ (abandonCopies _ n)
  refine trans ?_ (endDmas _ cCancelled _)
  exact each _ (fun c b => coreStops b c cCancelled) _ b

theorem coresHalt (b : Block) (cores : List Nat) : Ends P Q b (b.coresHalt cores) := by
  rw [Block.coresHalt]
  refine each _ (fun c b => ?_) _ b
  exact modHart b c fun _ => ⟨fun _ => rfl, fun _ => ⟨rfl, rfl⟩⟩

theorem queuesDisable (b : Block) (l : List Nat) : Ends P Q b (b.queuesDisable l) := by
  rw [Block.queuesDisable]
  refine each _ (fun q b => ?_) _ b
  exact modQueue b q fun _ => ⟨fun _ => rfl, fun _ => rfl⟩

theorem sliceForgets (b : Block) (n : Nat) (cores : List Nat) : Ends P Q b (b.sliceForgets n cores) := by
  have hctx : ∀ (c : Nat) (b : Block), Ends P Q b (b.modCtx c fun x => { x with cached := none }) :=
    fun c b => modCtx b c (fun _ => rfl) (.inr fun _ => ⟨rfl, rfl⟩)
  rw [Block.sliceForgets]
  refine trans ?_ (modSlice _ n (fun _ => rfl) (.inr fun _ => rfl))
  refine trans ?_ (modXlat _ _ _)
  refine trans ?_ (each _ hctx _ _)
  refine trans ?_ (modCoh _ _)
  refine trans ?_ (dropDcache _ _)
  exact of_keeps (b.modPower_keeps _) (by decide)

theorem sliceClears (b : Block) {n : Nat} (lost : Bool) (hP : ∀ c, (b.ctx c).slice = n → P c) (hQ : Q n) :
    Ends P Q b (b.sliceClears n lost) := by
  rw [Block.sliceClears_eq]
  have hhalt := trans (sliceStops b lost hQ) (coresHalt (P := P) (b.sliceStops n lost) (b.coresOf n))
  refine trans ?_ (sliceForgets _ n _)
  refine trans ?_ (queuesDisable _ _)
  exact trans hhalt (ctxsReset _ fun c hc => hP c (by rwa [hhalt.ctxSlice] at hc))

end Ends

/-! ### What they bring about -/

/-- No replay is left. -/
theorem Block.sliceStops_replay (b : Block) (n : Nat) (lost : Bool) : ((b.sliceStops n lost).slice n).ladder.replay = none := by
  have hlad : ∀ b : Block, ((b.modLad n fun l => { l with replay := none, waitingReplays := [], suspects := [], engRung := none }).slice
      n).ladder.replay = none := fun b => by rw [Block.modLad, Block.modSlice_slice_same]
  rw [Block.sliceStops]
  split
  · exact hlad _
  · rw [(Ends.sliceWriteBack (P := Nobody) (Q := Nobody) _ n).ladder n id]
    exact hlad _

/-- A control processor that has halted without a launch. -/
def Hart.Stopped (h : Hart) : Prop := h.halted = true ∧ h.Idle

theorem Hart.Stopped.fewer {h h' : Hart} (hs : h.Stopped) (hf : h.Fewer h') : h'.Stopped := ⟨hf.halted hs.1, hf.idle hs.2⟩

theorem Block.coresHalt_stopped (b : Block) {cores : List Nat} {c : Nat} (hc : c ∈ cores) : ((b.coresHalt cores).core c).hart.Stopped := by
  refine Block.each_holds (p := fun b => (b.core c).hart.Stopped) hc (fun b => ?_) (fun b k hk hb => ?_) b
  · rw [Block.modHart, Block.modCore_core_same]; exact ⟨rfl, rfl, rfl⟩
  · rw [Block.modHart, Block.modCore_core_ne _ _ (Ne.symm hk)]; exact hb

/-- A queue that is off, with no command. -/
def Queue.Off (q : Queue) : Prop := q.enable = false ∧ q.cmds = []

theorem Queue.Off.fewer {q q' : Queue} (h : q.Off) (hf : q.Fewer q') : q'.Off := ⟨hf.enable h.1, hf.cmds h.2⟩

/-- A queue of the slice is listed, or stands as after reset. -/
theorem Block.queue_listed {b : Block} {n q : Nat} (hq : b.queueOwner q = n) : q ∈ b.queuesOf n ∨ (b.queue q).Off := by
  rcases Tab.get_mem Queue.reset b.queues q with h | h
  · right; rw [Block.queue, h]; exact ⟨rfl, rfl⟩
  · exact .inl (List.mem_filter.2 ⟨List.mem_map.2 ⟨_, h, rfl⟩, beq_iff_eq.2 hq⟩)

theorem Block.queuesDisable_off {b : Block} {l : List Nat} {q : Nat} (hq : q ∈ l ∨ (b.queue q).Off) : ((b.queuesDisable l).queue q).Off := by
  rcases hq with hq | hq
  · refine Block.each_holds (p := fun b => (b.queue q).Off) hq (fun b => ?_) (fun b k hk hb => ?_) b
    · rw [Block.modQueue_queue_same]; exact ⟨rfl, rfl⟩
    · rw [Block.modQueue_queue_ne _ _ (Ne.symm hk)]; exact hb
  · exact hq.fewer ((Ends.queuesDisable (P := Nobody) (Q := Nobody) b l).queue q)

/-- R318: what the clearing of a slice leaves of it. -/
theorem Block.sliceClears_leaves (b : Block) (n : Nat) (lost : Bool) :
    ((b.sliceClears n lost).slice n).ladder.replay = none ∧
    (∀ c ∈ b.coresOf n, ((b.sliceClears n lost).core c).hart.Stopped) ∧
    (∀ q, b.queueOwner q = n → ((b.sliceClears n lost).queue q).Off) ∧
    ∀ c ∈ b.ctxsOf n, ((b.sliceClears n lost).ctx c).st = .active := by
  rw [Block.sliceClears_eq]
  have hstop : Ends Nobody (fun i => i = n) b (b.sliceStops n lost) := Ends.sliceStops b lost rfl
  have hreplay := b.sliceStops_replay n lost
  generalize b.sliceStops n lost = b₁ at hstop hreplay
  have hhalt : Ends Nobody Nobody b₁ (b₁.coresHalt (b.coresOf n)) := Ends.coresHalt b₁ _
  have hstopped := fun c hc => b₁.coresHalt_stopped (cores := b.coresOf n) (c := c) hc
  generalize b₁.coresHalt (b.coresOf n) = b₂ at hhalt hstopped
  have hbegin := hstop.trans (hhalt.mono (fun _ => id) fun _ h => h.elim)
  have hctxs : Ends (fun _ => True) Nobody b₂ (b₂.ctxsReset n) := Ends.ctxsReset b₂ fun _ _ => trivial
  have hqueues : Ends Nobody Nobody (b₂.ctxsReset n) ((b₂.ctxsReset n).queuesDisable (b₂.queuesOf n)) := Ends.queuesDisable _ _
  have hforget : Ends Nobody Nobody ((b₂.ctxsReset n).queuesDisable (b₂.queuesOf n)) _ := Ends.sliceForgets _ n (b.coresOf n)
  have hend := hctxs.trans ((hqueues.trans hforget).mono (fun _ _ => trivial) fun _ => id)
  refine ⟨?_, fun c hc => ?_, fun q hq => ?_, fun c hc => ?_⟩
  · rw [hend.ladder n id, hhalt.ladder n id]
    exact hreplay
  · exact (hstopped c hc).fewer (hend.core c).hart
  · have howner : b₂.queueOwner q = n := by
      rw [Block.queueOwner, show b₂.recon = b.recon from hbegin.keeps .recon (by decide)]; exact hq
    have hlisted := (Block.queue_listed howner).imp_right fun h => h.fewer (hctxs.queue q)
    exact (Block.queuesDisable_off hlisted).fewer (hforget.queue q)
  · have hin : c ∈ b₂.ctxsOf n := by
      rw [Block.mem_ctxsOf] at hc ⊢
      rw [hbegin.ctxSlice, (hbegin.ctxSt c id).1]
      exact hc
    rw [((hqueues.trans hforget).ctxSt c id).1]
    exact Block.ctxsReset_active hin

/-! ### The rung -/

/-- Unit rungs that are due on slice n are not any more. -/
def Block.unitRungsGone (b : Block) (n : Nat) : Block :=
  b.modLadder fun l => { l with dueUnit := l.dueUnit.filter fun d => (b.core d.1).owner != n }

/-- The rung of slice n after its record is begun, up to its report. -/
def Block.sliceRungSteps (b : Block) (t : Dword) (n cause : Nat) : Block :=
  (b.sliceClears n (b.slice n).ladder.lost).ladderReport t [n] 3 cause 7 0

theorem Block.sliceRung_eq (b : Block) (t : Dword) (n cause : Nat) :
    b.sliceRung t n cause =
      ((((b.unitRungsGone n).takeSample t n 3 cause (b.coresOf n) 7 0).sliceRungSteps t n cause).queueFirmware n).modLad n
        fun l => { l with busy := some (3, 0) } := rfl

/-- Every pending request stands ahead. -/
def Recon.AllAhead (r : Recon) : Prop := ∀ x ∈ r.pend, x.ahead = true

theorem Block.queueAhead_recon (b : Block) (act : Action) (n : Nat) (fw : Dword) (subst : Option (Bool × Nat × Nat)) :
    ∃ f, b.queueAhead act n fw subst = b.modRecon f ∧ ∀ r : Recon, r.AllAhead → (f r).AllAhead := by
  refine ⟨_, rfl, fun r hr x hx => ?_⟩
  rcases List.mem_append.1 hx with hx | hx
  · rcases List.mem_append.1 hx with hx | hx
    · exact hr x (List.mem_of_mem_filter hx)
    · rw [List.mem_singleton.1 hx]
  · exact hr x (List.mem_of_mem_filter hx)

/-- No request ahead starts firmware on slice n. -/
def Recon.dropsFirmware (n : Nat) (r : Recon) : Recon := { r with pend := r.pend.filter fun x => !(x.ahead && x.slice == n && x.act == .firmware) }

theorem Recon.AllAhead.dropsFirmware {r : Recon} (h : r.AllAhead) (n : Nat) : (r.dropsFirmware n).AllAhead :=
  fun x hx => h x (List.mem_of_mem_filter hx)

/-- The request for firmware changes the pending requests only, and stands ahead. -/
theorem Block.queueFirmware_recon (b : Block) (n : Nat) :
    ∃ f, b.queueFirmware n = b.modRecon f ∧ ∀ r : Recon, r.AllAhead → (f r).AllAhead := by
  rw [Block.queueFirmware]
  split
  · exact ⟨Recon.dropsFirmware n, rfl, fun r hr => hr.dropsFirmware n⟩
  · rename_i fw _
    obtain ⟨f, hf, hahead⟩ := Block.queueAhead_recon (b.modRecon (Recon.dropsFirmware n)) .firmware n fw none
    exact ⟨fun r => f (r.dropsFirmware n), hf, fun r hr => hahead _ (hr.dropsFirmware n)⟩

theorem Block.queueFirmware_keeps (b : Block) (n : Nat) : b.Keeps [.recon] (b.queueFirmware n) := by
  obtain ⟨f, hf, _⟩ := b.queueFirmware_recon n
  rw [hf]
  exact b.modRecon_keeps f

/-- What a slice's rung leaves of the other slices and of what they own. -/
structure Beside (n : Nat) (b b' : Block) : Prop where
  core : ∀ c, (b.core c).Fewer (b'.core c)
  st : ∀ m, (b'.slice m).st = (b.slice m).st
  ladder : ∀ m, m ≠ n → (b'.slice m).ladder = (b.slice m).ladder
  ctxSlice : ∀ c, (b'.ctx c).slice = (b.ctx c).slice
  ctxSt : ∀ c, (b.ctx c).slice ≠ n → (b'.ctx c).st = (b.ctx c).st
  queue : ∀ q, (b.queue q).Fewer (b'.queue q)
  due : b'.ladder.dueSlice = b.ladder.dueSlice

theorem Ends.sliceRungSteps (b : Block) (t : Dword) (n cause : Nat) :
    Ends (fun c => (b.ctx c).slice = n) (fun m => m = n) b (b.sliceRungSteps t n cause) := by
  rw [Block.sliceRungSteps]
  exact trans (sliceClears b _ (fun _ hc => hc) rfl) (ladderReport _ t 3 cause 7 0 fun m hm => List.mem_singleton.1 hm)

/-- The rung's ends of work, from the block on in which no unit rung of the slice is due. -/
theorem Ends.sliceRung_reported (b : Block) (t : Dword) (n cause : Nat) : Ends (fun c => (b.ctx c).slice = n) (fun m => m = n)
    (b.unitRungsGone n) (((b.unitRungsGone n).takeSample t n 3 cause (b.coresOf n) 7 0).sliceRungSteps t n cause) := by
  have hsample : Ends (fun c => (b.ctx c).slice = n) (fun m => m = n) (b.unitRungsGone n)
      ((b.unitRungsGone n).takeSample t n 3 cause (b.coresOf n) 7 0) := of_homelike (Homelike.takeSample _ t 3 cause _ 7 0 rfl)
  refine trans hsample ((sliceRungSteps _ t n cause).mono (fun c hc => ?_) fun _ => id)
  rwa [hsample.ctxSlice] at hc

theorem Block.sliceRung_beside (b : Block) (t : Dword) (n cause : Nat) : Beside n b (b.sliceRung t n cause) := by
  have hends := Ends.sliceRung_reported b t n cause
  rw [Block.sliceRung_eq]
  generalize ((b.unitRungsGone n).takeSample t n 3 cause (b.coresOf n) 7 0).sliceRungSteps t n cause = b₁ at hends
  have hlast : (b₁.queueFirmware n).Keeps [.slices] ((b₁.queueFirmware n).modLad n fun l => { l with busy := some (3, 0) }) :=
    Block.modLad_keeps _ _ _
  have hlad : Homelike (fun i => i = n) (b₁.queueFirmware n) ((b₁.queueFirmware n).modLad n fun l => { l with busy := some (3, 0) }) :=
    Homelike.modLad _ _ rfl
  have hfw := b₁.queueFirmware_keeps n
  have hkeeps := (hfw.mono (M := [.recon, .slices]) (by simp)).trans (hlast.mono (by simp))
  constructor
  · intro c; rw [hkeeps.core_eq (by simp)]; exact hends.core c
  · intro m; rw [hlad.st, hfw.slice_eq (by simp), hends.st]; rfl
  · intro m hm; rw [hlad.ladder m hm, hfw.slice_eq (by simp), hends.ladder m hm]; rfl
  · intro c; rw [hkeeps.ctx_eq (by simp)]; exact hends.ctxSlice c
  · intro c hc; rw [hkeeps.ctx_eq (by simp)]; exact (hends.ctxSt c hc).1
  · intro q; rw [hkeeps.queue_eq (by simp)]; exact hends.queue q
  · rw [show _ = b₁.ladder from hkeeps .ladder (by simp), show b₁.ladder = _ from hends.keeps .ladder (by decide)]
    rfl

/-- What a slice has after its rung. -/
structure RungLeaves (b : Block) (n cause : Nat) (t : Dword) (b' : Block) : Prop where
  rung : (b'.slice n).ladder.rung = 3
  cause : (b'.slice n).ladder.cause = cause
  irq : (b'.slice n).ladder.irqEvent = true
  replay : (b'.slice n).ladder.replay = none
  busy : (b'.slice n).ladder.busy = some (3, 0)
  stride : (b'.slice n).ladder.stride = BitVec.ofNat 48 (dfld t 63 16)
  cores : ∀ c ∈ b.coresOf n, (b'.core c).hart.Stopped
  queues : ∀ q, b.queueOwner q = n → (b'.queue q).Off
  ctxs : ∀ c ∈ b.ctxsOf n, (b'.ctx c).slice = n ∧ (b'.ctx c).st = .active

theorem Block.sliceRung_leaves (b : Block) (t : Dword) (n cause : Nat) : RungLeaves b n cause t (b.sliceRung t n cause) := by
  have hsample : Homelike (fun i => i = n) (b.unitRungsGone n) ((b.unitRungsGone n).takeSample t n 3 cause (b.coresOf n) 7 0) :=
    Homelike.takeSample _ t 3 cause _ 7 0 rfl
  rw [Block.sliceRung_eq, Block.sliceRungSteps]
  generalize (b.unitRungsGone n).takeSample t n 3 cause (b.coresOf n) 7 0 = b₁ at hsample
  obtain ⟨hreplay, hcores, hqueues, hctxs⟩ := b₁.sliceClears_leaves n (b₁.slice n).ladder.lost
  have hclears : Ends (fun _ => True) (fun i => i = n) b₁ (b₁.sliceClears n (b₁.slice n).ladder.lost) :=
    Ends.sliceClears b₁ _ (fun _ _ => trivial) rfl
  generalize b₁.sliceClears n (b₁.slice n).ladder.lost = b₂ at hreplay hcores hqueues hctxs hclears
  have hreport : Ends Nobody (fun i => i = n) b₂ (b₂.ladderReport t [n] 3 cause 7 0) :=
    Ends.ladderReport b₂ t 3 cause 7 0 fun m hm => List.mem_singleton.1 hm
  have hladder := b₂.ladderReport_one t n 3 cause 7 0
  generalize b₂.ladderReport t [n] 3 cause 7 0 = b₃ at hreport hladder
  have hfw := b₃.queueFirmware_keeps n
  have hkeeps := (hfw.mono (M := [.recon, .slices]) (by simp)).trans
    ((Block.modLad_keeps (b₃.queueFirmware n) n fun l => { l with busy := some (3, 0) }).mono (by simp))
  have hlast : (((b₃.queueFirmware n).modLad n fun l => { l with busy := some (3, 0) }).slice n).ladder =
      { (b₂.slice n).ladder.reported t 3 cause 7 0 with busy := some (3, 0) } := by
    rw [Block.modLad, Block.modSlice_slice_same, hfw.slice_eq (by simp), hladder]
  constructor
  · rw [hlast]; rfl
  · rw [hlast]; rfl
  · rw [hlast]; rfl
  · rw [hlast]; exact hreplay
  · rw [hlast]
  · rw [hlast]; rfl
  · intro c hc
    have hown : b₁.coresOf n = b.coresOf n := (Ends.of_homelike (P := Nobody) hsample).coresOf n
    rw [hkeeps.core_eq (by simp)]
    exact (hcores c (hown ▸ hc)).fewer (hreport.core c).hart
  · intro q hq
    have hown : b₁.queueOwner q = b.queueOwner q := by
      rw [Block.queueOwner, show b₁.recon = _ from hsample.keeps .recon (by simp)]; rfl
    rw [hkeeps.queue_eq (by simp)]
    exact (hqueues q (hown.trans hq)).fewer (hreport.queue q)
  · intro c hc
    have hctx : b₁.ctx c = b.ctx c := hsample.keeps.ctx_eq (by simp) c
    have hin : c ∈ b₁.ctxsOf n := by rw [Block.mem_ctxsOf, hctx, ← Block.mem_ctxsOf]; exact hc
    rw [hkeeps.ctx_eq (by simp), hreport.ctxSlice, hclears.ctxSlice, (hreport.ctxSt c id).1, hctx]
    exact ⟨(Block.mem_ctxsOf.1 hc).1, hctxs c hin⟩

/-- The rung of another slice changes nothing of it. -/
theorem RungLeaves.beside {b b' b'' : Block} {n m cause : Nat} {t : Dword} (h : RungLeaves b n cause t b') (hm : m ≠ n) (hb : Beside m b' b'') :
    RungLeaves b n cause t b'' := by
  have hl := hb.ladder n (Ne.symm hm)
  constructor
  · rw [hl]; exact h.rung
  · rw [hl]; exact h.cause
  · rw [hl]; exact h.irq
  · rw [hl]; exact h.replay
  · rw [hl]; exact h.busy
  · rw [hl]; exact h.stride
  · exact fun c hc => (h.cores c hc).fewer (hb.core c).hart
  · exact fun q hq => (h.queues q hq).fewer (hb.queue q)
  · intro c hc
    obtain ⟨hs, hst⟩ := h.ctxs c hc
    exact ⟨(hb.ctxSlice c).trans hs, (hb.ctxSt c (by rw [hs]; exact Ne.symm hm)).trans hst⟩

/-- Rungs of slices, one after the other. -/
def Block.sliceRungs (b : Block) (t : Dword) (cause : Nat) (ms : List Nat) : Block := ms.foldl (fun b m => b.sliceRung t m cause) b

theorem Block.sliceRungs_cons (b : Block) (t : Dword) (cause m : Nat) (ms : List Nat) :
    b.sliceRungs t cause (m :: ms) = (b.sliceRung t m cause).sliceRungs t cause ms := by
  simp only [Block.sliceRungs, List.foldl_cons]

theorem RungLeaves.sliceRungs {b : Block} {n cause : Nat} {t : Dword} (t' : Dword) (cause' : Nat) {ms : List Nat} (hms : ∀ m ∈ ms, m ≠ n)
    {b' : Block} (h : RungLeaves b n cause t b') : RungLeaves b n cause t (b'.sliceRungs t' cause' ms) := by
  induction ms generalizing b' with
  | nil => exact h
  | cons m ms ih =>
    have hm : RungLeaves b n cause t (b'.sliceRung t' m cause') := h.beside (hms m List.mem_cons_self) (b'.sliceRung_beside t' m cause')
    rw [Block.sliceRungs_cons]
    exact ih (fun k hk => hms k (List.mem_cons_of_mem _ hk)) hm

theorem Block.sliceRungs_due (t : Dword) (cause : Nat) (ms : List Nat) (b : Block) :
    (b.sliceRungs t cause ms).ladder.dueSlice = b.ladder.dueSlice := by
  induction ms generalizing b with
  | nil => rfl
  | cons m ms ih => rw [Block.sliceRungs_cons, ih, (b.sliceRung_beside t m cause).due]

/-- The other slices that one failure reaches (R24). -/
def Block.alsoReached (b : Block) (n : Nat) (d : Nat × Nat × Nat × Dword) : List Nat :=
  if d.2.1 == 8 then (b.ladder.dueSlice.filter fun x => x.1 != n && x.2.1 == d.2.1 && x.2.2.1 == d.2.2.1).map (·.1) else []

theorem Block.alsoReached_ne {b : Block} {n m : Nat} {d : Nat × Nat × Nat × Dword} (h : m ∈ b.alsoReached n d) : m ≠ n := by
  rw [Block.alsoReached] at h
  split at h
  · obtain ⟨x, hx, rfl⟩ := List.mem_map.1 h
    have := (List.mem_filter.1 hx).2
    simp only [Bool.and_eq_true, bne_iff_ne] at this
    exact this.1.1
  · cases h

theorem Block.mem_alsoReached {b : Block} {n m : Nat} {d : Nat × Nat × Nat × Dword} (h8 : d.2.1 = 8) (hm : (m, d.2) ∈ b.ladder.dueSlice)
    (hne : m ≠ n) : m ∈ b.alsoReached n d := by
  rw [Block.alsoReached, if_pos (beq_iff_eq.2 h8)]
  exact List.mem_map.2 ⟨_, List.mem_filter.2 ⟨hm, by simp [hne]⟩, rfl⟩

/-- The slice rungs of one failure are not due any more. -/
def Block.takesSlices (b : Block) (ns : List Nat) : Block :=
  b.modLadder fun l => { l with dueSlice := l.dueSlice.filter fun x => !ns.contains x.1 }

/-- A slice rung that is due: that slice's own, then those of the other slices that the failure reaches. -/
theorem exec_sliceRung {s : State} {n : Nat} {d : Nat × Nat × Nat × Dword} (hd : (s.b.ladder.dueSlice.find? fun x => x.1 == n) = some d)
    (hst : (s.b.slice n).st ≠ .none) :
    exec (.sliceRung n) s = .next { s with b :=
      (((s.b.takesSlices (n :: s.b.alsoReached n d)).sliceRung d.2.2.2 n d.2.1).sliceRungs d.2.2.2 d.2.1
        ((s.b.alsoReached n d).filter fun m => (s.b.slice m).st != .none)) } := by
  have hkeep : ((n :: s.b.alsoReached n d).filter fun m => (s.b.slice m).st != .none) =
      n :: (s.b.alsoReached n d).filter fun m => (s.b.slice m).st != .none := List.filter_cons_of_pos (bne_iff_ne.2 hst)
  have he : exec (.sliceRung n) s = .next { s with b :=
      ((s.b.takesSlices (n :: s.b.alsoReached n d)).sliceRungs d.2.2.2 d.2.1
        ((n :: s.b.alsoReached n d).filter fun m => (s.b.slice m).st != .none)) } := by
    show execSliceRung n s = _
    rw [execSliceRung, State.onBlock_eq]
    simp only [hd]
    rfl
  rw [he, hkeep, Block.sliceRungs_cons]

/-- R318, R24: a slice rung leaves its slice without work, and slices that one failure reaches report the same stride. -/
theorem sliceRung_runs {s : State} {n : Nat} {d : Nat × Nat × Nat × Dword} (hd : (s.b.ladder.dueSlice.find? fun x => x.1 == n) = some d)
    (hst : (s.b.slice n).st ≠ .none) : Completes (exec (.sliceRung n) s) fun t =>
      let y := (t.b.slice n).ladder
      t.pending = s.pending ∧ t.fuse = s.fuse ∧ t.flash = s.flash ∧ (∀ x ∈ t.b.ladder.dueSlice, x.1 ≠ n) ∧
      y.rung = 3 ∧ y.cause = d.2.1 ∧ y.irqEvent = true ∧ y.replay = none ∧ y.busy = some (3, 0) ∧
      y.stride = BitVec.ofNat 48 (dfld d.2.2.2 63 16) ∧
      (∀ m, d.2.1 = 8 → (m, d.2) ∈ s.b.ladder.dueSlice → (s.b.slice m).st ≠ .none →
        (t.b.slice m).ladder.rung = 3 ∧ (t.b.slice m).ladder.cause = 8 ∧ (t.b.slice m).ladder.stride = y.stride) ∧
      (∀ c ∈ s.b.coresOf n, (t.b.core c).hart.halted = true ∧ (t.b.core c).hart.launch = none) ∧
      (∀ q ∈ s.b.queuesOf n, (t.b.queue q).enable = false ∧ (t.b.queue q).cmds = []) ∧
      ∀ c ∈ s.b.ctxsOf n, (t.b.ctx c).st = .active := by
  refine ⟨_, exec_sliceRung hd hst, ?_⟩
  have hne : ∀ m ∈ (s.b.alsoReached n d).filter fun m => (s.b.slice m).st != SliceSt.none, m ≠ n :=
    fun m hm => Block.alsoReached_ne (List.mem_of_mem_filter hm)
  have hleaves := RungLeaves.sliceRungs d.2.2.2 d.2.1 hne ((s.b.takesSlices (n :: s.b.alsoReached n d)).sliceRung_leaves d.2.2.2 n d.2.1)
  refine ⟨rfl, rfl, rfl, fun x hx => ?_, hleaves.rung, hleaves.cause, hleaves.irq, hleaves.replay, hleaves.busy, hleaves.stride,
    fun m h8 hm hmst => ?_, fun c hc => ?_, fun q hq => ?_, fun c hc => ?_⟩
  · rw [Block.sliceRungs_due, (Block.sliceRung_beside _ _ _ _).due] at hx
    have := (List.mem_filter.1 hx).2
    simp only [List.contains_cons, Bool.not_or, Bool.and_eq_true] at this
    simpa using this.1
  · have hstride := hleaves.stride
    by_cases hmn : m = n
    · rw [hmn]
      exact ⟨hleaves.rung, hleaves.cause.trans h8, rfl⟩
    · have hin : m ∈ (s.b.alsoReached n d).filter fun m => (s.b.slice m).st != SliceSt.none :=
        List.mem_filter.2 ⟨Block.mem_alsoReached h8 hm hmn, bne_iff_ne.2 hmst⟩
      dsimp only
      rw [hstride]
      refine foldl_holds (f := fun b m => b.sliceRung d.2.2.2 m d.2.1) (p := fun b => (b.slice m).ladder.rung = 3 ∧ (b.slice m).ladder.cause = 8 ∧
        (b.slice m).ladder.stride = BitVec.ofNat 48 (dfld d.2.2.2 63 16)) hin (fun b => ?_) (fun b k hk hb => ?_)
        ((s.b.takesSlices (n :: s.b.alsoReached n d)).sliceRung d.2.2.2 n d.2.1)
      · have hm := b.sliceRung_leaves d.2.2.2 m d.2.1
        exact ⟨hm.rung, hm.cause.trans h8, hm.stride⟩
      · rw [(b.sliceRung_beside d.2.2.2 k d.2.1).ladder m (Ne.symm hk)]
        exact hb
  · obtain ⟨hhalted, hlaunch, _⟩ := hleaves.cores c hc
    exact ⟨hhalted, hlaunch⟩
  · exact hleaves.queues q (beq_iff_eq.1 (List.mem_filter.1 hq).2)
  · exact (hleaves.ctxs c hc).2

end Sys2Proof.Machine
end
section
/-! The block-compute rung and the power cycle (R319, R320). -/

namespace Sys2Proof.Machine

/-- Everyone: every context, and every slice. -/
def Anyone (_ : Nat) : Prop := True

/-! ### The debug session ends -/

theorem Ends.stopUnsigned {P Q : Nat → Prop} (b : Block) (n : Nat) : Ends P Q b (b.stopUnsigned n) := by
  rw [Block.stopUnsigned]
  refine ite ?_ (refl b)
  refine trans ?_ (modSlice _ n (fun _ => rfl) (.inr fun _ => rfl))
  refine each _ (fun c b => ?_) _ b
  exact modHart b c fun _ => ⟨fun _ => rfl, id⟩

/-- FIELD-DEBUG is closed, and with it only work ends. -/
theorem Block.closeDebug_ends {P Q : Nat → Prop} (b : Block) : ∃ l : Life, l.debugOpen = false ∧ l.lcs = b.life.lcs ∧ l.svn = b.life.svn ∧
    Ends P Q (b.modLife fun _ => l) b.closeDebug := by
  rw [Block.closeDebug]
  split
  · refine ⟨{ b.life with debugOpen := false, rights := 0, dslices := 0, closeStride := 0 }, rfl, rfl, rfl, ?_⟩
    refine Ends.trans ?_ (Ends.report _ _ _ _ _)
    refine Ends.trans ?_ (Ends.each _ (fun n b => Ends.regen b n) _ _)
    exact Ends.each _ (fun n b => Ends.stopUnsigned b n) _ _
  · rename_i h
    exact ⟨b.life, Bool.eq_false_iff.2 h, rfl, rfl, Ends.refl b⟩

/-! ### Steps of the block-compute rung -/

/-- Steps 1 to 3: debug is closed, no rung is due, every slice's record is begun, its work ends and its registers are as after reset. -/
def Block.blockStops (b : Block) (t : Dword) (cause : Nat) : Block :=
  let b := b.closeDebug.modLadder fun l => { l with dueUnit := [], dueSlice := [], dueBlock := none, blockBusy := some 0 }
  let b := b.each b.live fun n b => b.takeSample t n 4 cause (b.coresOf n) 7 0
  let b := b.each b.live fun n b => b.sliceClears n (b.slice n).ladder.lost
  b.each b.live fun n b => b.modSlice n Slice.rungRegs

/-- Step 4: queues, requests and generations. -/
def Block.blockDiscards (b : Block) : Block :=
  let b := (b.modParade Parade.rungRegs).staleHost fun u => match u with
    | .baseList => true
    | .baseData _ _ => true
    | .stageList => true
    | .stageData _ _ => true
    | _ => false
  { b with queues := [] }.discardRequests.visRung

/-- Steps 5 and 6: the image in force, the commons and the way back of the cores. -/
def Block.blockReloads (b : Block) (fuse : BitVec 4096) (f : Flash) : Block :=
  (if b.imageStands fuse f then b.reloadImage fuse f else b.askPower 6).hashCommons.queueAhead .resize 0 0 none

/-- The reports, and firmware for every slice. -/
def Block.blockReports (b : Block) (t : Dword) (cause : Nat) : Block :=
  let b := b.ladderReport t b.live 4 cause 7 0
  b.each b.live fun n b => b.queueFirmware n

theorem Block.blockRung_eq (b : Block) (fuse : BitVec 4096) (f : Flash) (t : Dword) (cause : Nat) :
    b.blockRung fuse f t cause = (((b.blockStops t cause).blockDiscards).blockReloads fuse f).blockReports t cause := by
  have hlive : ∀ b : Block, (b.hashCommons.queueAhead .resize 0 0 none).live = b.live := fun _ => rfl
  rw [Block.blockReports, Block.blockReloads, hlive]
  rfl

theorem Block.blockStops_ends (b : Block) (t : Dword) (cause : Nat) : Ends Anyone Anyone
    (b.closeDebug.modLadder fun l => { l with dueUnit := [], dueSlice := [], dueBlock := none, blockBusy := some 0 }) (b.blockStops t cause) := by
  have hregs : ∀ (n : Nat) (b : Block), Ends Anyone Anyone b (b.modSlice n Slice.rungRegs) :=
    fun n b => Ends.modSlice b n (fun _ => rfl) (.inl trivial)
  rw [Block.blockStops]
  refine Ends.trans ?_ (Ends.each _ hregs _ _)
  refine Ends.trans ?_ (Ends.each _ (fun n b => Ends.sliceClears b _ (fun _ _ => trivial) trivial) _ _)
  exact Ends.each _ (fun n b => Ends.of_homelike (Homelike.takeSample b t 4 cause _ 7 0 trivial)) _ _

/-- R319: what the rung has done before it discards requests. -/
theorem Block.blockStops_leaves (b : Block) (t : Dword) (cause : Nat) :
    let b' := b.blockStops t cause
    b'.ladder.dueBlock = none ∧ b'.ladder.dueUnit = [] ∧ b'.ladder.dueSlice = [] ∧
    b'.life.debugOpen = false ∧ b'.life.lcs = b.life.lcs ∧ b'.life.svn = b.life.svn ∧ b'.start = b.start ∧
    (∀ v, (b'.vi v).gen = (b.vi v).gen) ∧ b'.live = b.live := by
  obtain ⟨l, hopen, hlcs, hsvn, hdebug⟩ := b.closeDebug_ends (P := Anyone) (Q := Anyone)
  have hstops := b.blockStops_ends t cause
  dsimp only
  generalize b.blockStops t cause = b' at hstops
  have hladder : b'.ladder = _ := hstops.keeps .ladder (by decide)
  have hlife : b'.life = l := (hstops.keeps .life (by decide)).trans (hdebug.keeps .life (by decide))
  refine ⟨by rw [hladder]; rfl, by rw [hladder]; rfl, by rw [hladder]; rfl, by rw [hlife, hopen], by rw [hlife, hlcs], by rw [hlife, hsvn],
    (hstops.keeps .start (by decide)).trans (hdebug.keeps .start (by decide)), fun v => (hstops.gen v).trans (hdebug.gen v),
    hstops.live.trans hdebug.live⟩

/-! ### Requests, generations and the image -/

theorem Homelike.setPending {Q : Nat → Prop} (b : Block) (n : Nat) : Homelike Q b (b.setPending n) := by
  rw [Block.setPending, Block.writeHeader]
  refine trans ?_ (ite (refl _) (wrOwn _ _ _ _))
  exact modSlice b n _ (fun _ => rfl) (.inr fun _ => rfl)

/-- No request is pending any more. -/
theorem Block.discardRequests_leaves (b : Block) : b.Keeps [.recon, .mem, .coh, .cores, .slices, .draws] b.discardRequests ∧
    b.discardRequests.recon.pend = [] ∧ ∀ n, (b.discardRequests.slice n).st = (b.slice n).st := by
  have hends : Homelike Nobody (b.modRecon fun r => { r with pend := [], status := if b.recon.pend.any fun r => !r.ahead then 4 else r.status })
      b.discardRequests := Homelike.foldl _ (fun b n => Homelike.setPending b n) _ _
  refine ⟨((b.modRecon_keeps _).mono (by simp)).trans (hends.keeps.mono (by simp)), ?_, fun n => hends.st n⟩
  rw [show b.discardRequests.recon = _ from hends.keeps .recon (by simp)]
  rfl

/-- Every GEN rises, and nothing else changes than the control pages. -/
theorem Block.visRung_gen (b : Block) : b.Keeps [.vis] b.visRung ∧ ∀ v, v < 2048 → (b.visRung.vi v).gen = (b.vi v).gen + 1 := by
  have hall : ∀ (l : List Nat) (b : Block), l.Nodup → ∀ v, ((b.each l fun v b => b.modVi v Vi.rung).vi v).gen =
      if v ∈ l then (b.vi v).gen + 1 else (b.vi v).gen := by
    intro l
    induction l with
    | nil => exact fun _ _ _ => rfl
    | cons k l ih =>
      intro b hl v
      obtain ⟨hk, hl⟩ := List.nodup_cons.1 hl
      show (((b.modVi k Vi.rung).each l fun v b => b.modVi v Vi.rung).vi v).gen = _
      rw [ih _ hl]
      by_cases hv : v = k
      · subst hv
        rw [if_neg hk, if_pos List.mem_cons_self, Block.modVi_vi_same]
        rfl
      · rw [Block.modVi_vi_ne _ _ hv]
        simp only [List.mem_cons, hv, false_or]
  refine ⟨Block.Keeps.each _ (fun v b => b.modVi_keeps v _) _ b, fun v hv => ?_⟩
  rw [Block.visRung, hall _ _ List.nodup_range, if_pos (List.mem_range.2 hv)]

/-- R319, step 4. -/
theorem Block.blockDiscards_leaves (b : Block) :
    let b' := b.blockDiscards
    b'.ladder = b.ladder ∧ b'.life = b.life ∧ b'.start = b.start ∧ b'.live = b.live ∧
    b'.queues = [] ∧ b'.parade.staged = none ∧ b'.recon.pend = [] ∧ ∀ v, v < 2048 → (b'.vi v).gen = (b.vi v).gen + 1 := by
  intro b'
  obtain ⟨b₁, hb₁, hk₁, hparade, hqueues, hslices⟩ : ∃ b₁ : Block, b' = b₁.discardRequests.visRung ∧ b.Keeps [.parade, .ports, .queues] b₁ ∧
      b₁.parade = b.parade.rungRegs ∧ b₁.queues = [] ∧ b₁.slices = b.slices := by
    refine ⟨_, rfl, ?_, rfl, rfl, rfl⟩
    intro p hp
    cases p <;> first | rfl | exact absurd (by simp) hp
  obtain ⟨hk₂, hpend, hst⟩ := b₁.discardRequests_leaves
  obtain ⟨hk₃, hgen⟩ := b₁.discardRequests.visRung_gen
  have hk := (hk₂.mono (M := [.recon, .mem, .coh, .cores, .slices, .draws, .vis]) (by simp)).trans (hk₃.mono (by simp))
  have hlive : b'.live = b.live := by
    have hs : ∀ n, (b'.slice n).st = (b.slice n).st := fun n => by
      rw [hb₁, hk₃.slice_eq (by simp), hst, Block.slice, hslices]; rfl
    simp only [Block.live, hs]
  rw [← hb₁] at hk hk₃ hgen
  refine ⟨(hk .ladder (by simp)).trans (hk₁ .ladder (by simp)), (hk .life (by simp)).trans (hk₁ .life (by simp)),
    (hk .start (by simp)).trans (hk₁ .start (by simp)), hlive, (hk .queues (by simp)).trans hqueues, ?_, ?_, fun v hv => ?_⟩
  · rw [show b'.parade = b₁.parade from hk .parade (by simp), hparade]; rfl
  · rw [show b'.recon = b₁.discardRequests.recon from hk₃ .recon (by simp), hpend]
  · rw [hgen v hv, hk₂.vi_eq (by simp), hk₁.vi_eq (by simp)]

/-- The image loaded again gives the parade its map, and nothing else changes than the parade. -/
theorem Block.reloadImage_leaves (b : Block) (fuse : BitVec 4096) (f : Flash) :
    b.Keeps [.parade] (b.reloadImage fuse f) ∧ (b.reloadImage fuse f).ladder = b.ladder ∧
    (b.reloadImage fuse f).parade.staged = b.parade.staged ∧
    ∀ x, f.slotImage fuse b b.start.slot = some x → (b.reloadImage fuse f).parade.map = x.map := by
  delta Block.reloadImage
  cases f.slotImage fuse b b.start.slot with
  | none => exact ⟨Block.Keeps.refl _ b, rfl, rfl, fun x hx => nomatch hx⟩
  | some x => exact ⟨b.modParade_keeps _, rfl, rfl, fun y hy => congrArg Image.map (Option.some.inj hy)⟩

/-- R319, steps 5 and 6: the image in force is loaded where it still stands, and the commons are hashed. -/
theorem Block.blockReloads_leaves (b : Block) (fuse : BitVec 4096) (f : Flash) :
    let b' := b.blockReloads fuse f
    b.Keeps [.parade, .ladder, .recon] b' ∧ b'.parade.st = .loading ∧ b'.parade.staged = b.parade.staged ∧
    b'.ladder.dueBlock = b.ladder.dueBlock ∧ b'.ladder.dueUnit = b.ladder.dueUnit ∧ b'.ladder.dueSlice = b.ladder.dueSlice ∧
    (b.recon.AllAhead → b'.recon.AllAhead) ∧
    ∀ x, f.slotImage fuse b b.start.slot = some x → imageDigest x = b.start.configDigest → b'.parade.map = x.map := by
  dsimp only
  generalize hb' : b.blockReloads fuse f = b'
  obtain ⟨b₁, hb₁, hk₁, hstaged, hblock, hunit, hslice, hmap⟩ : ∃ b₁ : Block, b' = b₁.hashCommons.queueAhead .resize 0 0 none ∧
      b.Keeps [.parade, .ladder] b₁ ∧ b₁.parade.staged = b.parade.staged ∧ b₁.ladder.dueBlock = b.ladder.dueBlock ∧
      b₁.ladder.dueUnit = b.ladder.dueUnit ∧ b₁.ladder.dueSlice = b.ladder.dueSlice ∧
      ∀ x, f.slotImage fuse b b.start.slot = some x → imageDigest x = b.start.configDigest → b₁.parade.map = x.map := by
    by_cases hstands : b.imageStands fuse f = true
    · obtain ⟨hk, hladder, hstaged, hmap⟩ := b.reloadImage_leaves fuse f
      refine ⟨b.reloadImage fuse f, by rw [← hb', Block.blockReloads, if_pos hstands], hk.mono (by simp), hstaged, ?_, ?_, ?_, fun x hx _ => hmap x hx⟩
      all_goals rw [hladder]
    · refine ⟨b.askPower 6, by rw [← hb', Block.blockReloads, if_neg hstands], (b.askPower_keeps 6).mono (by simp), rfl, rfl, rfl, rfl,
        fun x hx hd => absurd ?_ hstands⟩
      rw [Block.imageStands, hx, Option.map_some, hd]
      exact beq_self_eq_true _
  obtain ⟨g, hg, hahead⟩ := Block.queueAhead_recon b₁.hashCommons .resize 0 0 none
  rw [hg] at hb₁
  rw [hb₁]
  have hk : b₁.Keeps [.parade, .ladder, .recon] (b₁.hashCommons.modRecon g) :=
    ((Block.modParade_keeps b₁ _).mono (by simp)).trans ((Block.modRecon_keeps _ g).mono (by simp))
  refine ⟨(hk₁.mono (by simp)).trans hk, rfl, hstaged, hblock, hunit, hslice, fun h => ?_, hmap⟩
  exact hahead _ (by rw [show b₁.hashCommons.recon = b.recon from hk₁ .recon (by simp)]; exact h)

theorem Block.ladderReport_keeps (b : Block) (t : Dword) (ns : List Nat) (rung cause unit idx : Nat) :
    b.Keeps [.slices, .ports, .dict, .tally] (b.ladderReport t ns rung cause unit idx) := by
  have hone : ∀ (n : Nat) (b : Block), b.Keeps [.slices, .ports, .dict, .tally] (b.ladderSlice t n rung cause unit idx) := by
    intro n b
    rw [Block.ladderSlice]
    refine Block.Keeps.trans ?_ ((Block.tallyUp_keeps _ _ _).mono (by simp))
    refine Block.Keeps.trans ?_ ((Block.modDict_keeps _ _).mono (by simp))
    split
    · exact (b.modLad_keeps n _).mono (by simp)
    · exact ((b.modLad_keeps n _).mono (by simp)).trans ((Block.irq_keeps _ n 5).mono (by simp))
  exact (Block.Keeps.each _ hone ns b).trans ((Block.tallyUp_keeps _ _ _).mono (by simp))

/-- Requests for the firmware of several slices. -/
theorem Block.queueFirmwares_recon (l : List Nat) (b : Block) : b.Keeps [.recon] (b.each l fun n b => b.queueFirmware n) ∧
    (b.recon.AllAhead → (b.each l fun n b => b.queueFirmware n).recon.AllAhead) := by
  refine ⟨Block.Keeps.each _ (fun n b => b.queueFirmware_keeps n) l b, ?_⟩
  induction l generalizing b with
  | nil => exact id
  | cons n l ih =>
    intro h
    obtain ⟨f, hf, hahead⟩ := b.queueFirmware_recon n
    exact ih (b.queueFirmware n) (by rw [hf]; exact hahead _ h)

/-- R319: every live slice reports the rung, and what is pending stands ahead. -/
theorem Block.blockReports_leaves (b : Block) (t : Dword) (cause : Nat) :
    let b' := b.blockReports t cause
    b.Keeps [.slices, .ports, .dict, .tally, .recon] b' ∧ (b.recon.AllAhead → b'.recon.AllAhead) ∧
    ∀ n ∈ b.live, (b'.slice n).ladder.rung = 4 ∧ (b'.slice n).ladder.cause = cause := by
  have hreport := b.ladderReport_keeps t b.live 4 cause 7 0
  have hreach := fun n hn => b.ladderReport_reaches t (n := n) 4 cause 7 0 (ns := b.live) hn
  dsimp only
  rw [Block.blockReports]
  generalize b.ladderReport t b.live 4 cause 7 0 = b₁ at hreport hreach
  obtain ⟨hk, hahead⟩ := Block.queueFirmwares_recon b₁.live b₁
  refine ⟨(hreport.mono (by simp)).trans (hk.mono (by simp)), fun h => hahead ?_, fun n hn => ?_⟩
  · rw [show b₁.recon = b.recon from hreport .recon (by simp)]; exact h
  · rw [hk.slice_eq (by simp)]; exact hreach n hn

/-- R319: the block rung, over the whole block. -/
theorem blockComputeRung_runs {s : State} {c : Nat × Dword} (hc : s.b.ladder.dueBlock = some c) :
    Completes (exec .blockComputeRung s) fun t =>
      t.pending = s.pending ∧ t.fuse = s.fuse ∧ t.flash = s.flash ∧ t.b.ladder.dueBlock = none ∧ t.b.ladder.dueUnit = [] ∧
      t.b.ladder.dueSlice = [] ∧ t.b.life.debugOpen = false ∧ t.b.queues = [] ∧ t.b.parade.st = .loading ∧
      t.b.parade.staged = none ∧
      (∀ x, s.flash.slotImage s.fuse s.b s.b.start.slot = some x → imageDigest x = s.b.start.configDigest →
        t.b.parade.map = x.map) ∧
      (∀ r ∈ t.b.recon.pend, r.ahead = true) ∧ (∀ v, v < 2048 → (t.b.vi v).gen = (s.b.vi v).gen + 1) ∧
      ∀ n ∈ s.b.live, (t.b.slice n).ladder.rung = 4 ∧ (t.b.slice n).ladder.cause = c.1 := by
  have he : exec .blockComputeRung s = .next { s with b := s.b.blockRung s.fuse s.flash c.2 c.1 } := by
    show execBlockComputeRung s = _
    rw [execBlockComputeRung, State.onBlock_eq]
    simp only [hc]
  refine ⟨_, he, rfl, rfl, rfl, ?_⟩
  dsimp only
  rw [Block.blockRung_eq]
  obtain ⟨hblock, hunit, hslice, hopen, hlcs, hsvn, hstart, hgen, hlive⟩ := s.b.blockStops_leaves c.2 c.1
  generalize s.b.blockStops c.2 c.1 = b₁ at hblock hunit hslice hopen hlcs hsvn hstart hgen hlive
  obtain ⟨hladder₂, hlife₂, hstart₂, hlive₂, hqueues₂, hstaged₂, hpend₂, hgen₂⟩ := b₁.blockDiscards_leaves
  generalize b₁.blockDiscards = b₂ at hladder₂ hlife₂ hstart₂ hlive₂ hqueues₂ hstaged₂ hpend₂ hgen₂
  obtain ⟨hk₃, hst₃, hstaged₃, hblock₃, hunit₃, hslice₃, hahead₃, hmap₃⟩ := b₂.blockReloads_leaves s.fuse s.flash
  generalize b₂.blockReloads s.fuse s.flash = b₃ at hk₃ hst₃ hstaged₃ hblock₃ hunit₃ hslice₃ hahead₃ hmap₃
  obtain ⟨hk₄, hahead₄, hreach₄⟩ := b₃.blockReports_leaves c.2 c.1
  generalize b₃.blockReports c.2 c.1 = b₄ at hk₄ hahead₄ hreach₄
  have hladder : b₄.ladder = b₃.ladder := hk₄ .ladder (by simp)
  have hparade : b₄.parade = b₃.parade := hk₄ .parade (by simp)
  have hlife : b₄.life = b₁.life := ((hk₄ .life (by simp)).trans (hk₃ .life (by simp))).trans hlife₂
  have hqueues : b₄.queues = b₂.queues := (hk₄ .queues (by simp)).trans (hk₃ .queues (by simp))
  have hlive₃ : b₃.live = b₂.live := by simp only [Block.live, hk₃.slice_eq (show Part.slices ∉ _ by simp)]
  refine ⟨?_, ?_, ?_, ?_, hqueues.trans hqueues₂, ?_, ?_, fun x hx hd => ?_, ?_, fun v hv => ?_, fun n hn => ?_⟩
  · rw [hladder, hblock₃, hladder₂, hblock]
  · rw [hladder, hunit₃, hladder₂, hunit]
  · rw [hladder, hslice₃, hladder₂, hslice]
  · rw [hlife, hopen]
  · rw [hparade, hst₃]
  · rw [hparade, hstaged₃, hstaged₂]
  · rw [hparade]
    refine hmap₃ x ?_ (by rw [hstart₂, hstart]; exact hd)
    rw [Flash.slotImage, hstart₂, hlife₂, hstart, hlcs, hsvn]
    exact hx
  · exact hahead₄ (hahead₃ fun r hr => by rw [hpend₂] at hr; cases hr)
  · rw [hk₄.vi_eq (by simp), hk₃.vi_eq (by simp), hgen₂ v hv, hgen]
  · exact hreach₄ n (by rw [hlive₃, hlive₂, hlive]; exact hn)

/-! ### The power cycle -/

/-- The rung up to its reports: the session is closed, a save is due, and TRAY_HOLD runs. -/
def Block.powerWaits (b : Block) : Block :=
  b.closeDebug.saveDue.modLadder fun l =>
    { l with dueUnit := [], dueSlice := [], dueBlock := none, duePower := none, blockBusy := none, trayFrom := some b.time.mclk }

theorem Block.powerWaits_live (b : Block) : b.powerWaits.live = b.live := by
  obtain ⟨l, -, -, -, hdebug⟩ := b.closeDebug_ends (P := Anyone) (Q := Anyone)
  exact hdebug.live

theorem Ends.sampleFive (t : Dword) (cause n : Nat) (b : Block) :
    Ends Anyone Anyone b (b.takeSample t n 5 cause (b.coresOf n) 7 0) :=
  of_homelike (Homelike.takeSample b t 5 cause _ 7 0 trivial)

theorem Ends.powerRung (b : Block) (t : Dword) (cause : Nat) : Ends Anyone Anyone b.powerWaits (b.powerRung t cause) := by
  have hend : ∀ (n : Nat) (b : Block), Ends Anyone Anyone b ((b.abandonCopies n).modLad n fun l => { l with engRung := none }) :=
    fun n b => trans (abandonCopies b n) (modLad _ _ trivial)
  rw [Block.powerRung]
  refine trans ?_ (ladderReport _ t 5 cause 7 0 fun _ _ => trivial)
  refine trans ?_ (each _ hend _ _)
  exact ite (refl _) (each _ (fun n b => sampleFive t cause n b) _ _)

/-- Every live slice reports the rung. -/
theorem Block.powerRung_reaches (b : Block) (t : Dword) (cause : Nat) {n : Nat} (hn : n ∈ b.live) :
    ((b.powerRung t cause).slice n).ladder.rung = 5 ∧ ((b.powerRung t cause).slice n).ladder.cause = cause := by
  rw [Block.powerRung]
  refine Block.ladderReport_reaches _ t 5 cause 7 0 ?_
  rw [Ends.live (P := Anyone) (Q := Anyone) (Ends.ite (Ends.refl _) (Ends.each _ (fun n b => Ends.sampleFive t cause n b) _ _))]
  rw [← b.powerWaits_live] at hn
  exact hn

/-- R320: the power cycle's rung, up to TRAY_HOLD. -/
theorem powerCycleRung_runs {s : State} {c : Nat × Dword} (hc : s.b.ladder.duePower = some c) (ht : s.b.ladder.trayFrom = none) :
    Completes (exec .powerCycleRung s) fun t =>
      t.pending = s.pending ∧ t.fuse = s.fuse ∧ t.flash = s.flash ∧ t.b.ladder.duePower = none ∧
      t.b.ladder.trayFrom = some s.b.time.mclk ∧ t.b.tally.savePending = true ∧ t.b.life.debugOpen = false ∧
      ∀ n ∈ s.b.live, (t.b.slice n).ladder.rung = 5 ∧ (t.b.slice n).ladder.cause = c.1 := by
  have he : exec .powerCycleRung s = .next { s with b := s.b.powerRung c.2 c.1 } := by
    show execPowerCycleRung s = _
    rw [execPowerCycleRung, State.onBlock_eq]
    simp only [hc, ht, Option.isSome_none, Bool.false_eq_true, if_false]
  obtain ⟨l, hopen, hlcs, hsvn, hdebug⟩ := s.b.closeDebug_ends (P := Anyone) (Q := Anyone)
  have hrung := Ends.powerRung s.b c.2 c.1
  have hladder : (s.b.powerRung c.2 c.1).ladder = _ := hrung.keeps .ladder (by decide)
  have hlife : (s.b.powerRung c.2 c.1).life = l := (hrung.keeps .life (by decide)).trans (hdebug.keeps .life (by decide))
  refine ⟨_, he, rfl, rfl, rfl, ?_, ?_, hrung.save.trans rfl, ?_, fun n hn => s.b.powerRung_reaches c.2 c.1 hn⟩
  · dsimp only
    rw [hladder]; rfl
  · dsimp only
    rw [hladder]; rfl
  · dsimp only
    rw [hlife, hopen]

end Sys2Proof.Machine
end

section
/-! The ladder's rungs on their scope (O44). -/

namespace Sys2Proof.Machine

/-- Settles O44, a clause for each rung: the engine rung and its report, the slice rung, the block rung and the power cycle. Each proof
describes the rung's own writes exactly and bounds everything else it does by `Ends` (work only goes away). -/
theorem rungsRunOnTheirScope : Obligations.RungsRunOnTheirScope := by
  intro s
  refine ⟨fun core unit d howner hdue hdone hfirst => engineRung_runs howner hdue hdone hfirst,
    fun n e he hsampling hover => engineReport_reports he hsampling hover,
    fun n d hdue hst => sliceRung_runs hdue hst,
    fun c hc => blockComputeRung_runs hc,
    fun c hc ht => powerCycleRung_runs hc ht⟩

end Sys2Proof.Machine
end

section
/-! What a unit reads depends on no other unit's state (R73, R206): operand reads where only cores and notes of lines to come differ. -/

namespace Sys2Proof.Machine

/-! ### Operand reads -/

/-- The block with other cores and other notes of lines still to come. -/
def Block.withUnits (b : Block) (cores : Tab Core) (wanted : List (Nat × Nat)) : Block :=
  { b with cores := cores, ports := { b.ports with wanted := wanted } }

section
variable (b : Block) (cs : Tab Core) (ws : List (Nat × Nat))

theorem Block.withUnits_rdMem (g k n : Nat) : (b.withUnits cs ws).rdMem g k n = b.rdMem g k n := by
  induction n generalizing k with
  | zero => rfl
  | succ n ih => rw [Block.rdMem, Block.rdMem, ih]; rfl

theorem Block.withUnits_ownRange (n a len : Nat) : (b.withUnits cs ws).ownRange n a len = b.ownRange n a len := rfl

theorem Block.withUnits_poisonedNow (k : Nat) : (b.withUnits cs ws).poisonedNow k = b.poisonedNow k := rfl

theorem Block.withUnits_rdOwn64 (n a : Nat) : (b.withUnits cs ws).rdOwn64 n a = b.rdOwn64 n a := by
  have hown : (b.withUnits cs ws).rdOwn n a 8 = b.rdOwn n a 8 := by
    rw [Block.rdOwn, Block.rdOwn]
    simp only [Block.withUnits_ownRange, Block.withUnits_poisonedNow, Block.withUnits_rdMem]
    rfl
  rw [Block.rdOwn64, Block.rdOwn64, hown]

theorem Block.withUnits_pteFault (n level e : Nat) (write : Bool) :
    (b.withUnits cs ws).pteFault n level e write = b.pteFault n level e write := rfl

theorem Block.withUnits_leafTr (level e va : Nat) : (b.withUnits cs ws).leafTr level e va = b.leafTr level e va := rfl

theorem Block.withUnits_walkFrom (n va : Nat) (write : Bool) (level table : Nat) :
    (b.withUnits cs ws).walkFrom n va write level table = b.walkFrom n va write level table := by
  induction level generalizing table with
  | zero => rfl
  | succ level ih =>
    simp only [Block.walkFrom, Block.withUnits_rdOwn64, Block.withUnits_poisonedNow, Block.withUnits_pteFault,
      Block.withUnits_leafTr, ih]

theorem Block.withUnits_walk (c va : Nat) (write : Bool) : (b.withUnits cs ws).walk c va write = b.walk c va write := by
  simp only [Block.walk, Block.withUnits_ownRange, Block.withUnits_pteFault, Block.withUnits_leafTr, Block.withUnits_walkFrom]
  rfl

theorem Block.withUnits_win (c w : Nat) : (b.withUnits cs ws).win c w = b.win c w := by
  simp only [Block.win, Block.withUnits_ownRange, Block.withUnits_rdOwn64]
  rfl

theorem Block.withUnits_rdWin (core c w off hint : Nat) : (b.withUnits cs ws).rdWin core c w off hint = b.rdWin core c w off hint := by
  simp only [Block.rdWin, Block.winTr, Block.withUnits_win, Block.withUnits_walk, Block.withUnits_leafTr]
  rfl

/-- An operand read depends on its own core's scratchpad only. -/
theorem Block.withUnits_rdOperands {core : Nat} (hs : ((b.withUnits cs ws).core core).scratch = (b.core core).scratch)
    (hp : ((b.withUnits cs ws).core core).poison = (b.core core).poison) (c aw off n : Nat) :
    (b.withUnits cs ws).rdOperands core c aw off n = b.rdOperands core c aw off n := by
  rw [Block.rdOperands, Block.rdOperands]
  refine List.map_congr_left fun i _ => ?_
  simp only [Block.rdOperand, Block.withUnits_rdWin, Core.rdS, hs, hp]
  rfl

end

@[simp] theorem Block.noWants_rdOperands (b : Block) (core c aw off n : Nat) :
    b.noWants.rdOperands core c aw off n = b.rdOperands core c aw off n := b.withUnits_rdOperands b.cores [] rfl rfl c aw off n

end Sys2Proof.Machine
end

section
/-! An instruction of the vector unit that runs (R84, R85, R457): its effect, and what is then read of its core. -/

namespace Sys2Proof.Machine

/-! ### Accesses that meet no line still to come -/

/-- Accesses that meet no line still to come are made at once; the unit's own lines go (R206, R276). -/
theorem Block.attempt_met {b : Block} {f : Block → Block} (h : Met b f) (core unit label : Nat) :
    b.attempt core unit label f = (f b.noWants).dropLines core unit := by
  rw [Met] at h
  simp [Block.attempt, Block.attemptOr, Block.attemptFrom, h]

theorem Block.noWants_keeps (b : Block) : b.Keeps [.ports] b.noWants := b.modPorts_keeps _

/-! ### Changes of one core in turn -/

/-- Two changes of a core are one, where the first does not leave a core in reset. -/
theorem Block.modCore_modCore (b : Block) (core : Nat) (f g : Core → Core) (h : f (b.core core) ≠ Core.reset) :
    (b.modCore core f).modCore core g = b.modCore core fun c => g (f c) := by
  have hget : Tab.get Core.reset (Tab.upd Core.reset b.cores core f) core = f (b.core core) := Tab.get_upd_same _ _ _ _
  show { b with cores := Tab.set _ (Tab.set _ b.cores core (f (b.core core))) core (g (Tab.get _ (Tab.upd _ b.cores core f) core)) } = _
  rw [hget, Tab.set_set b.cores core _ h]
  rfl

/-- A core whose vector unit runs a program is not in reset. -/
theorem Core.ne_reset_of_run {c : Core} {p : VProg} (h : c.vec.run = some p) : c ≠ Core.reset := by
  rintro rfl
  exact nomatch (show (none : Option VProg) = some p from h)

/-! ### The instruction at pc -/

/-- A running program's next instruction, once what it needs through windows has come, is its effect and the step to the next one. -/
theorem Block.vecRun_next {b : Block} {core op : Nat} {p : VProg} (h : VecNext b core p op) (hop : op ∈ vecOps)
    {f : Block → VProg → Nat → Option Block} (hm : Met b fun b' => b'.vecNext core p (f b' p ((b.core core).rdS64 p.pc))) :
    b.vecRun core op f = (b.noWants.vecNext core p (f b.noWants p ((b.core core).rdS64 p.pc))).dropLines core 6 := by
  obtain ⟨hrun, hparked, hgated, hbad, hvi⟩ := h
  have hraw : leNat (b.rdRaw core p.pc 8) = (b.core core).rdS64 p.pc := by simp [Block.rdRaw, hbad, Core.rdS64]
  rw [← Block.attempt_met hm core 6 p.label]
  simp [Block.vecRun, hrun, hparked, hgated, hbad, hraw, hvi, hop]

/-- The block in which an instruction's effect `b` is followed by the step to the next one. -/
def Block.vecStepped (b : Block) (core : Nat) : Block :=
  ((b.progress core 4).modVec core fun v => { v with run := v.run.map fun q => { q with pc := q.pc + 8 } }).dropLines core 6

theorem Block.vecStepped_keeps (b : Block) (core : Nat) : b.Keeps [.cores, .ports] (b.vecStepped core) :=
  (((b.modCore_keeps core _).mono (by simp)).trans ((Block.modVec_keeps _ _ _).mono (by simp))).trans
    ((Block.dropLines_keeps _ _ _).mono (by simp))

/-- The step to the next instruction changes the note that the unit works and the program's pc. -/
theorem Block.vecStepped_core (b : Block) (core : Nat) : (b.vecStepped core).core core =
    { b.core core with watch := Tab.erase (b.core core).watch 4
                       vec := { (b.core core).vec with run := (b.core core).vec.run.map fun q => { q with pc := q.pc + 8 } } } := by
  rw [Block.vecStepped, (Block.dropLines_keeps _ _ _).core_eq (by simp), Block.modVec, Block.modCore_core_same, Block.progress,
    Block.modCore_core_same]

theorem Block.vecStepped_run (b : Block) (core : Nat) : ((b.vecStepped core).core core).vec.run =
    (b.core core).vec.run.map fun q => { q with pc := q.pc + 8 } := by rw [Block.vecStepped_core]

theorem Block.vecStepped_v (b : Block) (core : Nat) : ((b.vecStepped core).core core).vec.v = (b.core core).vec.v := by
  rw [Block.vecStepped_core]

theorem Block.vecStepped_a (b : Block) (core : Nat) : ((b.vecStepped core).core core).vec.a = (b.core core).vec.a := by
  rw [Block.vecStepped_core]

theorem Block.vecStepped_scratch (b : Block) (core : Nat) : ((b.vecStepped core).core core).scratch = (b.core core).scratch := by
  rw [Block.vecStepped_core]

/-- An instruction's command is its effect `b'` and the step to the next one, where it is valid and meets no line still to come. -/
theorem exec_vecNext {s : State} {core op : Nat} {p : VProg} (h : VecNext s.b core p op) (hop : op ∈ vecOps)
    {F : Block → VProg → Nat → Option Block} {i : Instr} (hi : exec i s = s.onBlock fun b => b.vecRun core op F)
    {b' : Block} (hF : F s.b.noWants p ((s.b.core core).rdS64 p.pc) = some b') (hw : b'.ports.wanted = []) :
    exec i s = .next { s with b := b'.vecStepped core } := by
  have hm : Met s.b fun b => b.vecNext core p (F b p ((s.b.core core).rdS64 p.pc)) := by
    rw [Met, hF]; exact hw
  rw [hi, State.onBlock_eq, Block.vecRun_next h hop hm, hF]
  rfl

/-- What such an effect and the step change of the machine. -/
theorem vecStepped_frame {s : State} {b' : Block} {L : List Part} (core : Nat) (hk : s.b.noWants.Keeps L b') (hL : [.cores, .ports] ⊆ L) :
    Frame L s { s with b := b'.vecStepped core } :=
  ⟨rfl, rfl, rfl, ((s.b.noWants_keeps.mono fun _ hp => hL (List.mem_cons_of_mem _ hp)).trans hk).trans ((b'.vecStepped_keeps core).mono hL)⟩

end Sys2Proof.Machine
end

section
/-! Lane-wise instructions of the vector unit (R56, R84, R85, R457; O16). -/

namespace Sys2Proof.Machine

/-! ### Writes of a table at different keys -/

/-- Updates of a table at different keys: each key holds its own update's value of what it held, and no other key changes. -/
theorem Tab.get_foldl_set {α ι : Type} [DecidableEq α] (d : α) (key : ι → Nat) (f : ι → α → α) (l : List ι)
    (hn : (l.map key).Nodup) (t : Tab α) :
    let u := l.foldl (fun t x => Tab.set d t (key x) (f x (Tab.get d t (key x)))) t
    (∀ x ∈ l, Tab.get d u (key x) = f x (Tab.get d t (key x))) ∧ ∀ k, k ∉ l.map key → Tab.get d u k = Tab.get d t k := by
  induction l generalizing t with
  | nil => exact ⟨fun _ hx => (List.not_mem_nil hx).elim, fun _ _ => rfl⟩
  | cons y l ih =>
    rw [List.map_cons, List.nodup_cons] at hn
    obtain ⟨hy, hn⟩ := hn
    obtain ⟨hin, hout⟩ := ih hn (Tab.set d t (key y) (f y (Tab.get d t (key y))))
    refine ⟨fun x hx => ?_, fun k hk => ?_⟩
    · obtain rfl | hx := List.mem_cons.1 hx
      · exact (hout _ hy).trans (Tab.get_set_same _ _ _ _)
      · have hne : key x ≠ key y := fun he => hy (he ▸ List.mem_map_of_mem hx)
        exact (hin x hx).trans (by rw [Tab.get_set_ne _ _ _ hne])
    · obtain ⟨hne, hk⟩ := not_or.1 (mt List.mem_cons.2 hk)
      exact (hout k hk).trans (Tab.get_set_ne _ _ _ hne)

/-! ### Lanes of a register -/

theorem lane_key_inj {r r' l l' : Nat} (hl : l < 512) (hl' : l' < 512) : 512 * r + l = 512 * r' + l' ↔ r = r' ∧ l = l' := by omega

/-- A write of lanes gives those that are named their values, and no other lane of a register changes. -/
theorem Vec.setLanes_lane (v : Vec) (r : Nat) (on : Nat → Bool) (f : Nat → Word) (r' : Nat) {l : Nat} (hl : l < 512) :
    (v.setLanes r on f).lane r' l = if r' = r ∧ on l = true then f l else v.lane r' l := by
  have hmem : ∀ x, x ∈ lanes.filter on ↔ x < 512 ∧ on x = true := fun x => by rw [List.mem_filter, lanes, List.mem_range]
  have hn : (lanes.filter on).Nodup := List.nodup_range.filter on
  rw [Vec.lane, Vec.setLanes, Vec.lane]
  generalize lanes.filter on = L at hmem hn
  obtain ⟨hin, hout⟩ := Tab.get_foldl_set 0 (fun x => 512 * r + x) (fun x _ => f x) L
    (hn.map fun x y h => Nat.add_left_cancel h) v.v
  split
  · rename_i h
    rw [h.1]
    exact hin l ((hmem l).2 ⟨hl, h.2⟩)
  · rename_i h
    refine hout _ fun hk => h ?_
    obtain ⟨x, hx, he⟩ := List.mem_map.1 hk
    obtain ⟨hx, hon⟩ := (hmem x).1 hx
    obtain ⟨hr, rfl⟩ := (lane_key_inj hx hl).1 he
    exact ⟨hr.symm, hon⟩

/-- A lane depends on the registers alone. -/
theorem Vec.lane_congr {v v' : Vec} (h : v'.v = v.v) (r l : Nat) : v'.lane r l = v.lane r l := by rw [Vec.lane, Vec.lane, h]

/-! ### The instruction -/

/-- Where an instruction changes its vector unit alone and leaves the program running, nothing else of the cores changes but the
note that the unit works. -/
theorem Block.vecStepped_cores {b : Block} {core : Nat} {g : Vec → Vec} {p : VProg} (hr : (g (b.core core).vec).run = some p) :
    (((b.noWants.modVec core g).vecStepped core).cores) = (b.modCore core fun c =>
      { c with vec := (((b.noWants.modVec core g).vecStepped core).core core).vec
               watch := (((b.noWants.modVec core g).vecStepped core).core core).watch }).cores := by
  rw [Block.vecStepped_core, Block.modVec, Block.modCore_core_same, Block.vecStepped,
    show ∀ b : Block, (b.dropLines core 6).cores = b.cores from fun b => (b.dropLines_keeps core 6) .cores (by simp), Block.progress,
    Block.modCore_modCore _ _ _ _ (Core.ne_reset_of_run hr), Block.modVec, Block.modCore_modCore _ _ _ _ (Core.ne_reset_of_run hr)]
  rfl

theorem Vec.setLanes_run (v : Vec) (r : Nat) (on : Nat → Bool) (f : Nat → Word) : (v.setLanes r on f).run = v.run := by
  rw [Vec.setLanes]

theorem Block.vecLanes_keeps (b : Block) (core w : Nat) (g : Vec → Nat → Word) : b.Keeps [.cores] (b.vecLanes core w g) :=
  b.modVec_keeps core _

theorem Block.vecLanes_vec (b : Block) (core w : Nat) (g : Vec → Nat → Word) : ((b.vecLanes core w g).core core).vec =
    (b.core core).vec.setLanes (viVD w) ((b.core core).vec.on w) (g (b.core core).vec) := by
  rw [Block.vecLanes, Block.modVec, Block.modCore_core_same]

/-- A lane-wise instruction writes the lanes of VD that the predicate leaves on. -/
theorem Completes.lanesWritten {s : State} {core op : Nat} {p : VProg} (h : VecNext s.b core p op) (hop : op ∈ vecOps)
    {F : Block → VProg → Nat → Option Block} {i : Instr} (hi : exec i s = s.onBlock fun b => b.vecRun core op F) {g : Vec → Nat → Word}
    (hF : F s.b.noWants p ((s.b.core core).rdS64 p.pc) = some (s.b.noWants.vecLanes core ((s.b.core core).rdS64 p.pc) g)) :
    Completes (exec i s) (LanesWritten core p ((s.b.core core).rdS64 p.pc) (g (s.b.core core).vec) s) := by
  obtain ⟨hrun, -⟩ := id h
  have hk := s.b.noWants.vecLanes_keeps core ((s.b.core core).rdS64 p.pc) g
  have hw : (s.b.noWants.vecLanes core ((s.b.core core).rdS64 p.pc) g).ports.wanted = [] :=
    congrArg Ports.wanted (hk .ports (by simp))
  have hcores := Block.vecStepped_cores (b := s.b) (core := core) (p := p) (g := fun v => v.setLanes
    (viVD ((s.b.core core).rdS64 p.pc)) (v.on ((s.b.core core).rdS64 p.pc)) (g v)) ((Vec.setLanes_run _ _ _ _).trans hrun)
  refine ⟨_, exec_vecNext h hop hi hF hw, ⟨vecStepped_frame core (hk.mono (by simp)) (List.Subset.refl _), hcores⟩, ?_, fun r l hl => ?_⟩
  · rw [Block.vecStepped_run, Block.vecLanes_vec, Vec.setLanes_run]
    exact congrArg (Option.map _) hrun
  · rw [Vec.lane_congr (Block.vecStepped_v _ _), Block.vecLanes_vec, Vec.setLanes_lane _ _ _ _ _ hl]
    rfl

/-- The same of an instruction that is valid whatever its fields are. -/
theorem Completes.laneOp (i : Instr) {s : State} {core op : Nat} {p : VProg} (h : VecNext s.b core p op) (hop : op ∈ vecOps)
    {f : Nat → Vec → Nat → Word} (hi : exec i s = s.vecLaneOp core op f) :
    Completes (exec i s) (LanesWritten core p ((s.b.core core).rdS64 p.pc) (f ((s.b.core core).rdS64 p.pc) (s.b.core core).vec) s) :=
  Completes.lanesWritten h hop hi rfl

/-- VSEL takes VA where VC names predicate 0 or one that is set, and VB elsewhere (R457). -/
theorem vsel_lanes {s : State} {core : Nat} {p : VProg} (h : VecNext s.b core p 0x1A) :
    let v := (s.b.core core).vec
    let w := (s.b.core core).rdS64 p.pc
    viVC w < 8 → Completes (exec (.vsel core) s) (LanesWritten core p w (fun l =>
      if viVC w = 0 ∨ v.pbit (viVC w) l = true then v.lane (viVA w) l else v.lane (viVB w) l) s) := by
  intro v w hc
  have hsel := Completes.lanesWritten (i := .vsel core) h (by decide) rfl (g := fun v l =>
    if viVC w == 0 || v.pbit (viVC w) l then v.lane (viVA w) l else v.lane (viVB w) l) (if_neg (Nat.not_le.2 hc))
  simpa only [Bool.or_eq_true, beq_iff_eq] using hsel

/-- VREDADD adds the lanes of VA that the predicate leaves on over a balanced tree (R56, R85). -/
theorem vredadd_lanes {s : State} {core : Nat} {p : VProg} (h : VecNext s.b core p 0x20) :
    let v := (s.b.core core).vec
    let w := (s.b.core core).rdS64 p.pc
    Completes (exec (.vredadd core) s) (LanesWritten core p w
      (fun _ => vecTree 9 ((List.range 512).map fun l => if v.on w l then v.lane (viVA w) l else 0)) s) := by
  intro v w
  rw [← lanes]
  generalize hx : vecTree 9 (lanes.map fun l => if v.on w l then v.lane (viVA w) l else 0) = x
  exact Completes.lanesWritten (i := .vredadd core) h (by decide) rfl (g := fun _ _ => x) (by rw [← hx]; rfl)

/-- VREDMAX takes the largest of the lanes of VA that the predicate leaves on (R85, R457). -/
theorem vredmax_lanes {s : State} {core : Nat} {p : VProg} (h : VecNext s.b core p 0x21) :
    let v := (s.b.core core).vec
    let w := (s.b.core core).rdS64 p.pc
    Completes (exec (.vredmax core) s) (LanesWritten core p w
      (fun _ => (((List.range 512).filter (v.on w)).map fun l => v.lane (viVA w) l).foldl vMax 0xFF800000) s) := by
  intro v w
  rw [← lanes]
  generalize hx : ((lanes.filter (v.on w)).map fun l => v.lane (viVA w) l).foldl vMax 0xFF800000 = x
  exact Completes.lanesWritten (i := .vredmax core) h (by decide) rfl (g := fun _ _ => x) (by rw [← hx]; rfl)

/-- Settles O16: each of the instructions writes lanes, by what its command gives each lane. -/
theorem vectorLanesCompute : Obligations.VectorLanesCompute := by
  intro s core p
  exact ⟨fun h => (Completes.laneOp (.vadd core) h (by decide) rfl :), fun h => (Completes.laneOp (.vsub core) h (by decide) rfl :),
    fun h => (Completes.laneOp (.vmul core) h (by decide) rfl :), fun h => (Completes.laneOp (.vfma core) h (by decide) rfl :),
    fun h => (Completes.laneOp (.vdiv core) h (by decide) rfl :), fun h => (Completes.laneOp (.vsqrt core) h (by decide) rfl :),
    fun h => (Completes.laneOp (.vmax core) h (by decide) rfl :), fun h => (Completes.laneOp (.vmin core) h (by decide) rfl :),
    fun h => (Completes.laneOp (.vabs core) h (by decide) rfl :), fun h => vsel_lanes h,
    fun h => (Completes.laneOp (.vbcast core) h (by decide) rfl :), fun h => vredadd_lanes h, fun h => vredmax_lanes h⟩

end Sys2Proof.Machine
end

section
/-! Q4m tiles as an engine takes them (R39, R42; O57). -/

namespace Sys2Proof.Machine

/-- A byte of an operand that read well. -/
def OpByte.sound (v : Byte) : OpByte := { val := v, bad := false, code := 0 }

theorem getD_map_sound (tile : List Byte) (k : Nat) :
    (tile.map OpByte.sound).getD k { val := 0, bad := false, code := 0 } = OpByte.sound (tile.getD k 0) := by
  rw [List.getD_eq_getElem?_getD, List.getElem?_map, List.getD_eq_getElem?_getD]
  cases tile[k]? <;> rfl

/-- Element (i, j) of a Q4m tile that read well: its code's value, under the scale of its 32 × 32 block (R39). -/
theorem q4Elem_sound (tile : List Byte) (i j : Nat) :
    (q4Elem (tile.map OpByte.sound) i j).val =
        elemVal .q4m (if j % 2 = 0 then (tile.getD ((64 * i + j) / 2) 0).toNat % 16 else (tile.getD ((64 * i + j) / 2) 0).toNat / 16) ∧
      (q4Elem (tile.map OpByte.sound) i j).exp = scaleExp (tile.getD (2048 + 2 * (i / 32) + j / 32) 0).toNat := by
  rw [q4Elem, getD_map_sound, getD_map_sound]
  simp [OpByte.sound]

/-- Settles O57: the presented element is the stored one with its indices exchanged, which reads its own code and scale. -/
theorem transposedTileIsTheStoredTileTurned : Obligations.TransposedTileIsTheStoredTileTurned := by
  intro d tile i j _ hfmt htr _ _ x e
  have he : e = q4Elem (tile.map OpByte.sound) j i := by
    show resElem d _ i j = _
    simp only [resElem, hfmt, htr, if_true, beq_self_eq_true]
    rfl
  rw [he, ← Nat.add_assoc]
  exact q4Elem_sound tile j i

end Sys2Proof.Machine
end

section
/-! Loads of the vector unit (R37, R75, R457; O18): the codes that a program gives leave its registers and its place in the program. -/

namespace Sys2Proof.Machine

/-! ### Codes of a program (R75) -/

/-- A vector unit whose program has at most given codes. -/
structure Vec.Coded (x y : Vec) : Prop where
  v : y.v = x.v
  a : y.a = x.a
  p : y.p = x.p
  pc : y.run.map (·.pc) = x.run.map (·.pc)

theorem Vec.Coded.refl (v : Vec) : v.Coded v := ⟨rfl, rfl, rfl, rfl⟩

theorem Vec.Coded.trans {v v' v'' : Vec} (h : v.Coded v') (g : v'.Coded v'') : v.Coded v'' :=
  ⟨g.v.trans h.v, g.a.trans h.a, g.p.trans h.p, g.pc.trans h.pc⟩

/-- What the giving of codes by a core's vector unit can do. -/
structure GaveCodes (core : Nat) (b b' : Block) : Prop where
  keeps : b.Keeps [.cores, .ctxs, .ports] b'
  core : ∃ v, (b.core core).vec.Coded v ∧ b'.core core = { b.core core with vec := v }
  srCtr : ∀ c, (b'.ctx c).srCtr = (b.ctx c).srCtr

theorem GaveCodes.refl (core : Nat) (b : Block) : GaveCodes core b b := ⟨Block.Keeps.refl _ b, ⟨_, Vec.Coded.refl _, rfl⟩, fun _ => rfl⟩

theorem GaveCodes.trans {core : Nat} {b c d : Block} (h : GaveCodes core b c) (g : GaveCodes core c d) : GaveCodes core b d := by
  refine ⟨h.keeps.trans g.keeps, ?_, fun k => (g.srCtr k).trans (h.srCtr k)⟩
  obtain ⟨v, hv, hc⟩ := h.core
  obtain ⟨v', hv', hd⟩ := g.core
  rw [hc] at hv' hd
  exact ⟨v', hv.trans hv', hd⟩

theorem GaveCodes.vec {core : Nat} {b b' : Block} (h : GaveCodes core b b') : (b.core core).vec.Coded (b'.core core).vec := by
  obtain ⟨v, hv, hc⟩ := h.core
  rw [hc]; exact hv

theorem GaveCodes.scratch {core : Nat} {b b' : Block} (h : GaveCodes core b b') : (b'.core core).scratch = (b.core core).scratch := by
  obtain ⟨v, _, hc⟩ := h.core
  rw [hc]

/-- A code changes the error fields of its context. -/
theorem Block.ctxCode_srCtr (b : Block) (c code k : Nat) : ((b.ctxCode c code).ctx k).srCtr = (b.ctx k).srCtr := by
  rw [Block.ctxCode]
  split
  · rfl
  · by_cases hk : k = c
    · subst hk
      rw [Block.modCtx_ctx_same, Ctx.code]
      dsimp only
      split <;> rfl
    · rw [Block.modCtx_ctx_ne _ _ hk]

theorem GaveCodes.progCode (b : Block) (core : Nat) (p : VProg) (k : Nat) : GaveCodes core b (b.progCodes core p [k]) := by
  rw [Block.progCodes, List.foldl_cons, List.foldl_nil]
  split
  · exact GaveCodes.refl core b
  · rename_i q hq
    split
    · exact GaveCodes.refl core b
    · have hcode := b.ctxCode_keeps p.ctx k
      refine ⟨(hcode.mono (by simp)).trans (((Block.modVec_keeps _ core _).trans (Block.modVec_keeps _ core _)).mono (by simp)), ?_,
        fun c => b.ctxCode_srCtr p.ctx k c⟩
      rw [Block.modVec, Block.modCore_core_same, Block.vecCode, Block.modVec, Block.modCore_core_same, hcode.core_eq (by simp)]
      exact ⟨{ (b.core core).vec with lastErr := k, run := some { q with codes := q.codes ++ [k] } },
        ⟨rfl, rfl, rfl, by rw [hq, Option.map_some, Option.map_some]⟩, rfl⟩

theorem GaveCodes.progCodes (b : Block) (core : Nat) (p : VProg) (codes : List Nat) : GaveCodes core b (b.progCodes core p codes) := by
  induction codes generalizing b with
  | nil => exact GaveCodes.refl core b
  | cons k codes ih => exact (GaveCodes.progCode b core p k).trans (ih _)

/-- Codes of R236 note no line still to come. -/
theorem Block.progCodes_wanted (b : Block) (core : Nat) (p : VProg) {codes : List Nat} (h : ∀ k ∈ codes, k < 65536) :
    (b.progCodes core p codes).ports.wanted = b.ports.wanted := by
  induction codes generalizing b with
  | nil => rfl
  | cons k codes ih =>
    obtain ⟨hk, hcodes⟩ := List.forall_mem_cons.1 h
    have hone : (b.progCodes core p [k]).ports.wanted = b.ports.wanted := by
      rw [Block.progCodes, List.foldl_cons, List.foldl_nil]
      split
      · rfl
      · split
        · rfl
        · simp [Block.modVec, Block.vecCode, Block.ctxCode, Nat.not_le.2 hk]
    exact (ih (b.progCodes core p [k]) hcodes).trans hone

/-- A read of the scratchpad meets failing lines at most. -/
theorem codesOf_scratch (b : Block) (core c off n : Nat) {aw : Nat} (h : awWindow aw = false) :
    ∀ k ∈ codesOf (b.rdOperands core c aw off n), k < 65536 := by
  intro k hk
  rw [codesOf, List.mem_filter, List.mem_eraseDups, List.mem_map] at hk
  obtain ⟨⟨y, hy, rfl⟩, -⟩ := hk
  obtain ⟨i, -, rfl⟩ := List.mem_map.1 hy
  rw [Block.rdOperand, h, if_neg Bool.false_ne_true]
  dsimp only
  split
  · exact (by decide : cEccUncorr < 65536)
  · exact (by decide : 0 < 65536)

theorem awWindow_of_lt {aw : Nat} (h : aw < 2 ^ 63) : awWindow aw = false := Nat.testBit_lt_two_pow h

theorem viImm_lt (w : Nat) : viImm w < 2 ^ 32 := Nat.mod_lt _ (by decide)

/-! ### The instruction -/

/-- A load under a predicate writes lanes, gives codes, and goes on. -/
theorem Completes.loaded {s : State} {core op : Nat} {p : VProg} (h : VecNext s.b core p op) (hop : op ∈ vecOps)
    {F : Block → VProg → Nat → Option Block} {i : Instr} (hi : exec i s = s.onBlock fun b => b.vecRun core op F)
    {f : Nat → Word} {codes : List Nat}
    (hF : F s.b.noWants p ((s.b.core core).rdS64 p.pc) =
      some ((s.b.noWants.vecLanes core ((s.b.core core).rdS64 p.pc) fun _ l => f l).progCodes core p codes))
    (hw : ((s.b.noWants.vecLanes core ((s.b.core core).rdS64 p.pc) fun _ l => f l).progCodes core p codes).ports.wanted = []) :
    Completes (exec i s) fun t => Frame [.cores, .ctxs, .ports] s t ∧ (∃ p', (t.b.core core).vec.run = some p' ∧ p'.pc = p.pc + 8) ∧
      (t.b.core core).scratch = (s.b.core core).scratch ∧ ∀ r l, l < 512 → (t.b.core core).vec.lane r l =
        if r = viVD ((s.b.core core).rdS64 p.pc) ∧ (s.b.core core).vec.on ((s.b.core core).rdS64 p.pc) l = true then f l
        else (s.b.core core).vec.lane r l := by
  obtain ⟨hrun, -⟩ := id h
  have hlanes := s.b.noWants.vecLanes_vec core ((s.b.core core).rdS64 p.pc) fun _ l => f l
  have hcodes := GaveCodes.progCodes (s.b.noWants.vecLanes core ((s.b.core core).rdS64 p.pc) fun _ l => f l) core p codes
  have hpc : (((s.b.noWants.vecLanes core ((s.b.core core).rdS64 p.pc) fun _ l => f l).progCodes core p codes).core core).vec.run.map
      (·.pc) = some p.pc := by
    rw [hcodes.vec.pc, hlanes, Vec.setLanes_run]
    exact congrArg (Option.map _) hrun
  obtain ⟨q, hq, hqpc⟩ := Option.map_eq_some_iff.1 hpc
  refine ⟨_, exec_vecNext h hop hi hF hw, vecStepped_frame core (((Block.vecLanes_keeps _ _ _ _).mono (by simp)).trans hcodes.keeps)
    (by simp), ⟨_, by rw [Block.vecStepped_run, hq, Option.map_some], congrArg (· + 8) hqpc⟩, ?_, fun r l hl => ?_⟩
  · rw [Block.vecStepped_scratch, hcodes.scratch, Block.vecLanes, Block.modVec, Block.modCore_core_same]
    rfl
  · rw [Vec.lane_congr (Block.vecStepped_v _ _), Vec.lane_congr hcodes.vec.v, hlanes, Vec.setLanes_lane _ _ _ _ _ hl]
    rfl

/-- The lanes of a load from the scratchpad note no line still to come. -/
theorem scratchLoad_wanted (b : Block) (core w : Nat) (p : VProg) (g : Vec → Nat → Word) (c off n : Nat) {aw : Nat} (h : awWindow aw = false) :
    ((b.noWants.vecLanes core w g).progCodes core p (codesOf (b.rdOperands core c aw off n))).ports.wanted = [] :=
  (Block.progCodes_wanted _ core p (codesOf_scratch b core c off n h)).trans
    (congrArg Ports.wanted (b.noWants.vecLanes_keeps core w g .ports (by simp)))

theorem immOk_iff (off n : Nat) : immOk off n = true ↔ off % 128 = 0 ∧ off + n ≤ 0x300000 := by
  rw [immOk, scratchEnd, Bool.and_eq_true, beq_iff_eq, decide_eq_true_eq]

/-- VLD fills lanes with the FP32 patterns at IMM (R457). -/
theorem vld_fills {s : State} {core : Nat} {p : VProg} (h : VecNext s.b core p 0x01) :
    let v := (s.b.core core).vec
    let w := (s.b.core core).rdS64 p.pc
    viImm w % 128 = 0 → viImm w + 2048 ≤ 0x300000 → Completes (exec (.vld core) s) fun t =>
      Frame [.cores, .ctxs, .ports] s t ∧ (∃ p', (t.b.core core).vec.run = some p' ∧ p'.pc = p.pc + 8) ∧
      (t.b.core core).scratch = (s.b.core core).scratch ∧
      ∀ r l, l < 512 → (t.b.core core).vec.lane r l = if r = viVD w ∧ v.on w l = true then
        fp32Of (((s.b.rdOperands core p.ctx (viImm w) 0 2048).drop (4 * l)).take 4) else v.lane r l := by
  intro v w halign hend
  refine Completes.loaded (i := .vld core) h (by decide) rfl ?_
    (scratchLoad_wanted _ _ _ _ _ p.ctx 0 2048 (awWindow_of_lt ((viImm_lt w).trans (by decide))))
  dsimp only
  rw [(immOk_iff _ _).2 ⟨halign, hend⟩, Block.noWants_rdOperands]
  rfl

/-- VLDB fills lanes with the BF16 elements at IMM, widened (R37, R457). -/
theorem vldb_fills {s : State} {core : Nat} {p : VProg} (h : VecNext s.b core p 0x03) :
    let v := (s.b.core core).vec
    let w := (s.b.core core).rdS64 p.pc
    let e l := ((s.b.rdOperands core p.ctx (viImm w) 0 1024).drop (2 * l)).take 2
    viImm w % 128 = 0 → viImm w + 1024 ≤ 0x300000 → Completes (exec (.vldb core) s) fun t =>
      Frame [.cores, .ctxs, .ports] s t ∧ (∃ p', (t.b.core core).vec.run = some p' ∧ p'.pc = p.pc + 8) ∧
      (t.b.core core).scratch = (s.b.core core).scratch ∧
      ∀ r l, l < 512 → (t.b.core core).vec.lane r l = if r = viVD w ∧ v.on w l = true then
        (if (e l).any (·.bad) then nan32 else bfToF32 (leNat (opVals (e l)))) else v.lane r l := by
  intro v w e halign hend
  refine Completes.loaded (i := .vldb core) h (by decide) rfl ?_
    (scratchLoad_wanted _ _ _ _ _ p.ctx 0 1024 (awWindow_of_lt ((viImm_lt w).trans (by decide))))
  dsimp only
  rw [(immOk_iff _ _).2 ⟨halign, hend⟩, Block.noWants_rdOperands]
  rfl

/-- VLDN fills lanes with Q6m or Q8m elements under the scales at the address register, once its lines have come (R457). -/
theorem vldn_fills {s : State} {core : Nat} {p : VProg} (h : VecNext s.b core p 0x05) :
    let v := (s.b.core core).vec
    let w := (s.b.core core).rdS64 p.pc
    ∀ f off, narrowImm w = some (f, off) → viVA w < 8 → Met s.b (fun b => b.vecNext core p (b.vldn core p w)) →
    Completes (exec (.vldn core) s) fun t =>
      Frame [.cores, .ctxs, .ports] s t ∧ (∃ p', (t.b.core core).vec.run = some p' ∧ p'.pc = p.pc + 8) ∧
      (t.b.core core).scratch = (s.b.core core).scratch ∧
      ∀ r l, l < 512 → (t.b.core core).vec.lane r l = if r = viVD w ∧ v.on w l = true then
        vecRound (planeElemK true f (s.b.rdOperands core p.ctx off 0 (elemBytes f 512))
          (s.b.rdOperands core p.ctx (v.areg (viVA w)).toNat 0 16) l).full else v.lane r l := by
  intro v w f off himm hva hm
  have hF : s.b.noWants.vldn core p w = some ((s.b.noWants.vecLanes core w fun _ l =>
      vecRound (planeElemK true f (s.b.rdOperands core p.ctx off 0 (elemBytes f 512))
        (s.b.rdOperands core p.ctx (v.areg (viVA w)).toNat 0 16) l).full).progCodes core p
      (codesOf (s.b.rdOperands core p.ctx off 0 (elemBytes f 512) ++ s.b.rdOperands core p.ctx (v.areg (viVA w)).toNat 0 16))) := by
    rw [Block.vldn, himm]
    dsimp only
    rw [if_neg (Nat.not_le.2 hva), Block.noWants_rdOperands, Block.noWants_rdOperands]
    rfl
  rw [Met, hF] at hm
  exact Completes.loaded (i := .vldn core) h (by decide) rfl hF hm

/-- Settles O18: each load writes lanes with what it reads. -/
theorem vectorLoadsFillLanes : Obligations.VectorLoadsFillLanes := by
  intro s core p
  exact ⟨fun h halign hend => vld_fills h halign hend, fun h halign hend => vldb_fills h halign hend,
    fun f off h himm hva hm => vldn_fills h f off himm hva hm⟩

end Sys2Proof.Machine
end

section
/-! Rows of an engine op against the resident tile (R52, R53, R60; O13). -/

namespace Sys2Proof.Machine

/-! ### The accumulator bank -/

/-- Row r of an op is taken: each of its positions that is on gets its new sum. -/
def EOp.takeRow (o : EOp) (f : Nat → Word → Word) (r : Nat) (t : Tab Word) : Tab Word :=
  (List.range 64).foldl (fun t j => if o.on r j then accSet t r j (f j (accGet t r j)) else t) t

theorem acc_key_inj {r r' j j' : Nat} (hj : j < 64) (hj' : j' < 64) : 64 * r + j = 64 * r' + j' ↔ r = r' ∧ j = j' := by omega

/-- A row's positions that are on get their sums, and no other element changes. -/
theorem EOp.takeRow_get (o : EOp) (f : Nat → Word → Word) (r : Nat) (t : Tab Word) (r' : Nat) {j : Nat} (hj : j < 64) :
    accGet (o.takeRow f r t) r' j = if r' = r ∧ o.on r j = true then f j (accGet t r j) else accGet t r' j := by
  have hmem : ∀ j, j ∈ (List.range 64).filter (o.on r) ↔ j < 64 ∧ o.on r j = true := fun j => by rw [List.mem_filter, List.mem_range]
  have hn : ((List.range 64).filter (o.on r)).Nodup := List.nodup_range.filter _
  have hfold : o.takeRow f r t = ((List.range 64).filter (o.on r)).foldl (fun t j => accSet t r j (f j (accGet t r j))) t := by
    rw [List.foldl_filter]; rfl
  rw [hfold]
  generalize (List.range 64).filter (o.on r) = L at hmem hn
  obtain ⟨hin, hout⟩ := Tab.get_foldl_set 0 (fun j => 64 * r + j) f L (hn.map fun x y h => Nat.add_left_cancel h) t
  split
  · rename_i h
    rw [h.1]
    exact hin j ((hmem j).2 ⟨hj, h.2⟩)
  · rename_i h
    refine hout _ fun hk => h ?_
    obtain ⟨x, hx, he⟩ := List.mem_map.1 hk
    obtain ⟨hx, hon⟩ := (hmem x).1 hx
    obtain ⟨hr, rfl⟩ := (acc_key_inj hx hj).1 he
    exact ⟨hr.symm, hon⟩

/-- Rows taken one after another, each once. -/
theorem EOp.takeRows_get (o : EOp) (f : Nat → Nat → Word → Word) (l : List Nat) (hn : l.Nodup) (t : Tab Word) (r : Nat)
    {j : Nat} (hj : j < 64) : accGet (l.foldl (fun t r => o.takeRow (f r) r t) t) r j =
      if r ∈ l ∧ o.on r j = true then f r j (accGet t r j) else accGet t r j := by
  induction l generalizing t with
  | nil => simp
  | cons x l ih =>
    obtain ⟨hx, hn⟩ := List.nodup_cons.1 hn
    rw [List.foldl_cons, ih hn, o.takeRow_get _ _ _ _ hj]
    by_cases hr : r = x
    · subst hr; simp [hx]
    · simp [hr]

theorem EOp.onRows_nodup (o : EOp) : o.onRows.Nodup := List.nodup_range.filter _

theorem Engine.setBank_bank (e : Engine) {k : Nat} (t : Tab Word) : (e.setBank k t).bank k = t := by
  rw [Engine.setBank, Engine.bank]
  split <;> rfl

/-! ### What else the command does to the engine -/

/-- An engine whose sums and whose tile in CUR are as they were. -/
structure Engine.SameSums (e e' : Engine) : Prop where
  bank0 : e'.bank0 = e.bank0
  bank1 : e'.bank1 = e.bank1
  cur : e'.cur = e.cur

theorem Engine.SameSums.bank {e e' : Engine} (h : e.SameSums e') (k : Nat) : e'.bank k = e.bank k := by
  rw [Engine.bank, Engine.bank, h.bank0, h.bank1]

/-- Work of a core's engine that leaves its sums and its tile in CUR alone. -/
structure KeepsSums (core eng : Nat) (b b' : Block) : Prop where
  keeps : b.Keeps [.cores, .ctxs, .ports] b'
  sums : (b.eng core eng).SameSums (b'.eng core eng)

namespace KeepsSums

variable {core eng : Nat}

theorem refl (b : Block) : KeepsSums core eng b b := ⟨Block.Keeps.refl _ b, rfl, rfl, rfl⟩

theorem trans {b c d : Block} (h : KeepsSums core eng b c) (g : KeepsSums core eng c d) : KeepsSums core eng b d :=
  ⟨h.keeps.trans g.keeps, g.sums.bank0.trans h.sums.bank0, g.sums.bank1.trans h.sums.bank1, g.sums.cur.trans h.sums.cur⟩

/-- A change of an engine's other fields. -/
theorem modEng (b : Block) (f : Engine → Engine) (hf : ∀ e : Engine, e.SameSums (f e)) : KeepsSums core eng b (b.modEng core eng f) :=
  ⟨(b.modEng_keeps core eng f).mono (by simp), by rw [Block.modEng_eng_same]; exact hf _⟩

theorem progress (b : Block) (unit : Nat) : KeepsSums core eng b (b.progress core unit) :=
  ⟨(b.modCore_keeps core _).mono (by simp), by rw [Block.progress_eng]; exact ⟨rfl, rfl, rfl⟩⟩

theorem ctxCode (b : Block) (c code : Nat) : KeepsSums core eng b (b.ctxCode c code) :=
  ⟨(b.ctxCode_keeps c code).mono (by simp), by rw [Block.eng, Block.eng, (b.ctxCode_keeps c code).core_eq (by simp)]; exact ⟨rfl, rfl, rfl⟩⟩

theorem engCode (b : Block) (c code : Nat) : KeepsSums core eng b (b.engCode core eng c code) :=
  (ctxCode b c code).trans (modEng _ _ fun _ => ⟨rfl, rfl, rfl⟩)

theorem engCodes (b : Block) (ctx : Nat) (seen codes : List Nat) : KeepsSums core eng b (b.engCodes core eng ctx seen codes).1 := by
  rw [Block.engCodes]
  induction codes generalizing b seen with
  | nil => exact refl b
  | cons k codes ih =>
    rw [List.foldl_cons]
    dsimp only
    split
    · exact ih b seen
    · exact (engCode b ctx k).trans (ih _ _)

theorem modOp (b : Block) (ticket : Nat) (f : EOp → EOp) : KeepsSums core eng b (b.modOp core eng ticket f) :=
  modEng b _ fun _ => ⟨rfl, rfl, rfl⟩

theorem opCodes (b : Block) (o : EOp) (codes : List Nat) : KeepsSums core eng b (b.opCodes core eng o codes) :=
  (engCodes b o.ctx _ codes).trans (modOp _ _ _)

/-- The load of the next tile into NEXT (R63). -/
theorem loadNext (b : Block) (o : EOp) (t : Nat) : KeepsSums core eng b (b.loadNext core eng o t) :=
  ((progress b eng).trans (modEng _ (fun e => { e with
    nextTile := opVals (b.resTile core o.ctx o.desc t), nextBad := badOf (b.resTile core o.ctx o.desc t), nextOp := some o.ticket })
    fun _ => ⟨rfl, rfl, rfl⟩)).trans ((opCodes _ o _).trans (modOp _ _ _))

end KeepsSums

/-! ### The tile in NEXT moves to CUR -/

/-- Column j of the tile in CUR as an op presents it. -/
def EOp.column (o : EOp) (cur : List OpByte) (j : Nat) : List Oper := (List.range 64).map fun i => resElem o.desc cur i j

/-- The new sum of a row's position: its two sub-blocks of 32 products are added in turn (R52). -/
def Block.rowSum (b : Block) (core : Nat) (o : EOp) (t : Nat) (cur : List OpByte) (r j : Nat) (acc : Word) : Word :=
  dot64 acc (b.strRow core o.ctx o.desc r t).1 (o.column cur j)

theorem zipIdx_map_range {α : Type} (g : Nat → α) (n : Nat) : ((List.range n).map g).zipIdx = (List.range n).map fun j => (g j, j) :=
  List.ext_getElem (by simp) (by simp)

/-- The rows that an op takes against the tile in CUR: the tile stays, and its bank gets their sums (R52, R53, R60). -/
theorem Block.takeRows_eng (b : Block) (core eng : Nat) (o : EOp) (t : Nat) :
    b.Keeps [.cores] (b.takeRows core eng o t).1 ∧ ((b.takeRows core eng o t).1.eng core eng).cur = (b.eng core eng).cur ∧
      ((b.takeRows core eng o t).1.eng core eng).bank (dBank o.desc) = o.onRows.foldl (fun a r =>
        o.takeRow (b.rowSum core o t (withBad (b.eng core eng).cur (b.eng core eng).curBad) r) r a)
        ((b.eng core eng).bank (dBank o.desc)) := by
  have hsplit : ∀ (x : Engine) (p : Prop) [Decidable p] (bank : Tab Word) (bs : List Byte),
      let y := if p then x.setBank (dBank o.desc) bank else { x.setBank (dBank o.desc) bank with stream := bs, strFor := none }
      y.cur = x.cur ∧ y.bank (dBank o.desc) = bank := by
    intro x p _ bank bs
    have hb := x.setBank_bank (k := dBank o.desc) bank
    have hc : (x.setBank (dBank o.desc) bank).cur = x.cur := by rw [Engine.setBank]; split <;> rfl
    dsimp only
    split
    · exact ⟨hc, hb⟩
    · exact ⟨hc, hb⟩
  rw [Block.takeRows]
  dsimp only
  rw [Block.modEng_eng_same, Block.progress_eng, List.foldl_map, zipIdx_map_range]
  refine ⟨((b.modCore_keeps core _).trans (Block.modEng_keeps _ _ _ _)), (hsplit _ _ _ _).1, ?_⟩
  rw [(hsplit _ _ _ _).2]
  simp only [List.foldl_map]
  rfl

/-- A read of the streaming operand depends on its core's scratchpad only. -/
theorem Block.strRow_congr {b b' : Block} {core : Nat} (h : ∀ c aw off n, b'.rdOperands core c aw off n = b.rdOperands core c aw off n)
    (ctx : Nat) (d : List Dword) (r t : Nat) : b'.strRow core ctx d r t = b.strRow core ctx d r t := by
  simp only [Block.strRow, Block.strRowK, h]

theorem Block.noWants_modEng_rdOperands (b : Block) (core eng : Nat) (f : Engine → Engine) (c aw off n : Nat) :
    (b.noWants.modEng core eng f).rdOperands core c aw off n = b.rdOperands core c aw off n := by
  have hcore : (b.noWants.modEng core eng f).core core = (b.core core).modEng eng f := Block.modCore_core_same b.noWants core _
  exact b.withUnits_rdOperands (b.noWants.modEng core eng f).cores []
    (show ((b.noWants.modEng core eng f).core core).scratch = _ by rw [hcore]; rfl)
    (show ((b.noWants.modEng core eng f).core core).poison = _ by rw [hcore]; rfl) c aw off n

/-- The move of a tile from NEXT to CUR where a further tile of the op follows (R60, R63). -/
theorem residentMove_takes {b : Block} {core eng : Nat} {o : EOp} (ho : (b.eng core eng).nextOwner = some o)
    (ht : (b.eng core eng).nextTile ≠ []) (hmore : o.tile < dTiles o.desc) :
    KeepsSums core eng ((b.noWants.modEng core eng Engine.shift).takeRows core eng o (o.tile - 1)).1 (b.noWants.residentMove core eng) := by
  have ho' : (b.noWants.eng core eng).nextOwner = some o := ho
  have ht' : (b.noWants.eng core eng).nextTile.isEmpty = false := by
    rw [List.isEmpty_eq_false_iff]; exact ht
  rw [Block.residentMove]
  simp only [ho', ht', Bool.false_eq_true, if_false, if_pos hmore]
  split
  · exact KeepsSums.opCodes _ o _
  · exact (KeepsSums.opCodes _ o _).trans (KeepsSums.loadNext _ o _)

/-- Settles O13: the command is the move, whose rows each position that is on takes once. -/
theorem rowsAccumulateAgainstTheResidentTile : Obligations.RowsAccumulateAgainstTheResidentTile := by
  intro s core eng o e t0 hparked hgated howner htile hmore hmet
  have hexec : exec (.residentLoad core eng) s = .next { s with b := (s.b.noWants.residentMove core eng).dropLines core eng } := by
    show execResidentLoad core eng s = _
    rw [execResidentLoad, State.onCompute, State.onBlock_eq]
    simp only [hgated, hparked, Bool.false_eq_true, if_false]
    rw [Block.attempt_met hmet]
  obtain ⟨hkeeps, hsums⟩ := residentMove_takes howner htile hmore
  obtain ⟨htake, hcur, hbank⟩ := Block.takeRows_eng (s.b.noWants.modEng core eng Engine.shift) core eng o (o.tile - 1)
  have hshift : (s.b.noWants.modEng core eng Engine.shift).eng core eng = e.shift := Block.modEng_eng_same _ _ _ _
  have hdrop := (s.b.noWants.residentMove core eng).dropLines_keeps core eng
  have heng : ((s.b.noWants.residentMove core eng).dropLines core eng).eng core eng = (s.b.noWants.residentMove core eng).eng core eng := by
    rw [Block.eng, Block.eng, hdrop.core_eq (by simp)]
  have hframe : s.b.Keeps [.cores, .ctxs, .ports] ((s.b.noWants.residentMove core eng).dropLines core eng) :=
    (((s.b.noWants_keeps.mono (by simp)).trans ((Block.modEng_keeps _ _ _ _).mono (by simp))).trans (htake.mono (by simp))).trans
      (hkeeps.trans (hdrop.mono (by simp)))
  refine ⟨_, hexec, ⟨rfl, rfl, rfl, hframe⟩, ?_, fun r j _ hj => ?_⟩
  · rw [heng, hsums.cur, hcur, hshift]
    rfl
  · rw [heng, hsums.bank, hbank, hshift, o.takeRows_get _ _ o.onRows_nodup _ _ hj, Block.rowSum,
      Block.strRow_congr (s.b.noWants_modEng_rdOperands core eng Engine.shift)]
    rfl

end Sys2Proof.Machine
end

section
/-! Writes of a core's units in its own scratchpad (R71, R73, R457): what the pieces of a store leave, byte by byte. -/

namespace Sys2Proof.Machine

/-! ### Bytes -/

theorem Mem.writeN_append (m : Mem) (a : Nat) (x y : List Byte) : m.writeN a (x ++ y) = (m.writeN a x).writeN (a + x.length) y := by
  induction x generalizing m a with
  | nil => rfl
  | cons b x ih => rw [List.cons_append, Mem.writeN, Mem.writeN, ih, List.length_cons, Nat.add_right_comm, Nat.add_assoc]

/-- Pieces written one after another, each at its offset from a base. -/
def Mem.writePieces (base : Nat) (l : List (Nat × List Byte)) (m : Mem) : Mem := l.foldl (fun m q => m.writeN (base + q.1) q.2) m

/-- Joined pieces write the same bytes. -/
theorem Mem.writePieces_joinRuns (base : Nat) (l : List (Nat × List Byte)) (m : Mem) :
    m.writePieces base (joinRuns l) = m.writePieces base l := by
  induction l generalizing m with
  | nil => rfl
  | cons q l ih =>
    have hcons : m.writePieces base (q :: l) = (m.writeN (base + q.1) q.2).writePieces base (joinRuns l) := (ih _).symm
    rw [hcons, joinRuns]
    split
    · rename_i a2 y l2 hl
      split
      · rename_i ha
        rw [hl, Mem.writePieces, List.foldl_cons, Mem.writeN_append, Nat.add_assoc, beq_iff_eq.1 ha]
        rfl
      · rw [hl]; rfl
    · rename_i hl
      rw [hl]; rfl

/-- A byte that no piece covers is as it was. -/
theorem Mem.writePieces_out (base k : Nat) (l : List (Nat × List Byte)) (m : Mem)
    (h : ∀ q ∈ l, k < base + q.1 ∨ base + q.1 + q.2.length ≤ k) : (m.writePieces base l).read k = m.read k := by
  induction l generalizing m with
  | nil => rfl
  | cons q l ih =>
    obtain ⟨hq, hl⟩ := List.forall_mem_cons.1 h
    exact (ih _ hl).trans (Mem.read_writeN_out _ _ _ _ hq)

/-- A byte that a piece covers, where every piece that covers it holds the same there. -/
theorem Mem.writePieces_in (base k : Nat) (v : Byte) (l : List (Nat × List Byte)) (m : Mem)
    (hc : ∃ q ∈ l, base + q.1 ≤ k ∧ k < base + q.1 + q.2.length)
    (hv : ∀ q ∈ l, base + q.1 ≤ k → k < base + q.1 + q.2.length → q.2.getD (k - (base + q.1)) 0 = v) :
    (m.writePieces base l).read k = v := by
  induction l generalizing m with
  | nil => obtain ⟨q, hq, -⟩ := hc; exact (List.not_mem_nil hq).elim
  | cons q l ih =>
    obtain ⟨hq, hl⟩ := List.forall_mem_cons.1 hv
    by_cases hrest : ∃ q ∈ l, base + q.1 ≤ k ∧ k < base + q.1 + q.2.length
    · exact ih _ hrest hl
    · obtain ⟨x, hx, hlo, hhi⟩ := hc
      obtain rfl : x = q := (List.mem_cons.1 hx).resolve_right fun hxl => hrest ⟨x, hxl, hlo, hhi⟩
      have hout : ∀ y ∈ l, k < base + y.1 ∨ base + y.1 + y.2.length ≤ k := fun y hy => by
        by_contra hcov
        exact hrest ⟨y, hy, by omega, by omega⟩
      have hi : k - (base + x.1) < x.2.length := by omega
      have hread := Mem.read_writeN_in m (base + x.1) x.2 (k - (base + x.1)) hi
      rw [Nat.add_sub_cancel' hlo] at hread
      refine (Mem.writePieces_out base k l _ hout).trans (hread.trans ?_)
      rw [← hq hlo hhi, List.getD_eq_getElem _ _ hi]

/-! ### A core's scratchpad -/

/-- Bytes written over lines: the scratchpad holds them, and a line with a byte elsewhere keeps its poison (R91). -/
theorem Core.wrChunks_eq (f a : Nat) (bs : List Byte) (c : Core) (hf : bs.length < f) : ∃ tags poison,
    (lineChunks f a bs).foldl (fun c x => c.wrLineS x.1 x.2) c = { c with scratch := c.scratch.writeN a bs, tags := tags, poison := poison } ∧
      ∀ k, (k < a ∨ a + bs.length ≤ k) → Tab.get false poison (k / 128) = Tab.get false c.poison (k / 128) := by
  induction f generalizing a bs c with
  | zero => omega
  | succ f ih =>
    rw [lineChunks]
    split
    · rename_i he
      obtain rfl := List.isEmpty_iff.1 he
      exact ⟨c.tags, c.poison, rfl, fun _ _ => rfl⟩
    · rename_i he
      have hpos : 0 < bs.length := List.length_pos_iff.2 fun h => he (List.isEmpty_iff.2 h)
      have hdrop : (bs.drop (128 - a % 128)).length < f := by rw [List.length_drop]; omega
      obtain ⟨tags, poison, heq, hp⟩ := ih (a + (128 - a % 128)) (bs.drop (128 - a % 128)) (c.wrLineS a (bs.take (128 - a % 128))) hdrop
      have hwrite : (c.scratch.writeN a (bs.take (128 - a % 128))).writeN (a + (128 - a % 128)) (bs.drop (128 - a % 128)) =
          c.scratch.writeN a bs := by
        obtain hle | hle := Nat.le_total bs.length (128 - a % 128)
        · rw [List.take_of_length_le hle, List.drop_of_length_le hle]; rfl
        · have happ := c.scratch.writeN_append a (bs.take (128 - a % 128)) (bs.drop (128 - a % 128))
          rw [List.take_append_drop, List.length_take, Nat.min_eq_left hle] at happ
          exact happ.symm
      refine ⟨tags, poison, ?_, fun k hk => ?_⟩
      · rw [List.foldl_cons, heq, ← hwrite]; rfl
      · rw [hp k (by rw [List.length_drop]; omega), Core.wrLineS]
        dsimp only
        split
        · rename_i hlen
          rw [beq_iff_eq, List.length_take] at hlen
          exact Tab.get_set_ne _ _ _ (by omega)
        · rfl

/-- A unit of a core has written its scratchpad by `f`, with nothing changed at the places that P names. -/
structure Stored (core : Nat) (P : Nat → Prop) (f : Mem → Mem) (b b' : Block) : Prop where
  keeps : b.Keeps [.cores] b'
  core : ∃ tags poison, b'.core core = { b.core core with scratch := f (b.core core).scratch, tags := tags, poison := poison } ∧
    ∀ k, P k → Tab.get false poison (k / 128) = Tab.get false (b.core core).poison (k / 128)
  apart : ∀ m k, P k → (f m).read k = m.read k

namespace Stored

variable {core : Nat} {P : Nat → Prop} {f g : Mem → Mem} {b c d : Block}

theorem refl (b : Block) : Stored core P id b b := ⟨Block.Keeps.refl _ b, ⟨_, _, rfl, fun _ _ => rfl⟩, fun _ _ _ => rfl⟩

theorem trans (h : Stored core P f b c) (h' : Stored core P g c d) : Stored core P (g ∘ f) b d := by
  refine ⟨h.keeps.trans h'.keeps, ?_, fun m k hk => (h'.apart (f m) k hk).trans (h.apart m k hk)⟩
  obtain ⟨tags, poison, hc, hp⟩ := h.core
  obtain ⟨tags', poison', hd, hp'⟩ := h'.core
  rw [hc] at hd hp'
  exact ⟨tags', poison', hd, fun k hk => (hp' k hk).trans (hp k hk)⟩

theorem scratch (h : Stored core P f b c) : (c.core core).scratch = f (b.core core).scratch := by
  obtain ⟨_, _, hc, _⟩ := h.core
  rw [hc]

theorem vec (h : Stored core P f b c) : (c.core core).vec = (b.core core).vec := by
  obtain ⟨_, _, hc, _⟩ := h.core
  rw [hc]

/-- What is read at places named is as before. -/
theorem rdOperands (h : Stored core P f b c) {aw : Nat} (haw : awWindow aw = false) (ctx off n : Nat)
    (hP : ∀ i, i < n → P (awOff aw + (off + i))) : c.rdOperands core ctx aw off n = b.rdOperands core ctx aw off n := by
  obtain ⟨tags, poison, hc, hp⟩ := h.core
  have hdraws : c.draws = b.draws := h.keeps .draws (by simp)
  rw [Block.rdOperands, Block.rdOperands]
  refine List.map_congr_left fun i hi => ?_
  have hPi := hP i (List.mem_range.1 hi)
  simp only [Block.rdOperand, haw, Bool.false_eq_true, if_false, hc, Core.rdS, h.apart _ _ hPi, hp _ hPi, Block.openByte, hdraws]

end Stored

/-- A write at an address word that names the scratchpad is made at once and gives no code (R73). -/
theorem Block.wrOperand_scratch (b : Block) (core label c : Nat) {aw : Nat} (off : Nat) (bs : List Byte) {P : Nat → Prop}
    (haw : awWindow aw = false) (hP : ∀ k, P k → k < awOff aw + off ∨ awOff aw + off + bs.length ≤ k) :
    (b.wrOperand core label c aw off bs).2 = [] ∧
      Stored core P (·.writeN (awOff aw + off) bs) b (b.wrOperand core label c aw off bs).1 := by
  have hfold : ∀ (l : List (Nat × List Byte)) (b : Block),
      let x := l.foldl (fun (x : Block × List Nat) q => (x.1.modCore core fun z => z.wrLineS q.1 q.2, x.2)) (b, [])
      x.2 = [] ∧ b.Keeps [.cores] x.1 ∧ x.1.core core = l.foldl (fun c q => c.wrLineS q.1 q.2) (b.core core) := by
    intro l
    induction l with
    | nil => exact fun b => ⟨rfl, Block.Keeps.refl _ b, rfl⟩
    | cons q l ih =>
      intro b
      obtain ⟨hcodes, hkeeps, hcore⟩ := ih (b.modCore core fun z => z.wrLineS q.1 q.2)
      exact ⟨hcodes, (b.modCore_keeps core _).trans hkeeps, by rw [Block.modCore_core_same] at hcore; exact hcore⟩
  obtain ⟨hcodes, hkeeps, hcore⟩ := hfold (lineChunks (bs.length + 1) (awOff aw + off) bs) b
  obtain ⟨tags, poison, heq, hpoison⟩ := Core.wrChunks_eq (bs.length + 1) (awOff aw + off) bs (b.core core) (Nat.lt_succ_self _)
  have hwr : b.wrOperand core label c aw off bs = (lineChunks (bs.length + 1) (awOff aw + off) bs).foldl
      (fun (x : Block × List Nat) q => (x.1.modCore core fun z => z.wrLineS q.1 q.2, x.2)) (b, []) := by
    rw [Block.wrOperand]
    simp only [haw, Bool.false_eq_true, if_false]
  rw [hwr]
  exact ⟨hcodes, hkeeps, ⟨tags, poison, hcore.trans heq, fun k hk => hpoison k (hP k hk)⟩,
    fun m k hk => Mem.read_writeN_out m _ _ _ (hP k hk)⟩

/-- Pieces of a vector store into the scratchpad. -/
theorem Block.vecStore_scratch (b : Block) (core : Nat) (p : VProg) {aw : Nat} (l : List (Nat × List Byte)) {P : Nat → Prop}
    (haw : awWindow aw = false) (hP : ∀ k, P k → ∀ q ∈ l, k < awOff aw + q.1 ∨ awOff aw + q.1 + q.2.length ≤ k) :
    Stored core P (Mem.writePieces (awOff aw) l) b (b.vecStore core p aw l) := by
  have hfold : ∀ (l : List (Nat × List Byte)) (b : Block),
      (∀ k, P k → ∀ q ∈ l, k < awOff aw + q.1 ∨ awOff aw + q.1 + q.2.length ≤ k) →
      let x := l.foldl (fun (x : Block × List Nat) q =>
        ((x.1.wrOperand core p.label p.ctx aw q.1 q.2).1, x.2 ++ (x.1.wrOperand core p.label p.ctx aw q.1 q.2).2)) (b, [])
      x.2 = [] ∧ Stored core P (Mem.writePieces (awOff aw) l) b x.1 := by
    intro l
    induction l with
    | nil => exact fun b _ => ⟨rfl, Stored.refl b⟩
    | cons q l ih =>
      intro b hP
      obtain ⟨hcodes, hstored⟩ := b.wrOperand_scratch core p.label p.ctx q.1 q.2 haw fun k hk => (hP k hk) q List.mem_cons_self
      rw [List.foldl_cons, hcodes]
      obtain ⟨hcodes', hstored'⟩ := ih (b.wrOperand core p.label p.ctx aw q.1 q.2).1 fun k hk y hy => hP k hk y (List.mem_cons_of_mem _ hy)
      exact ⟨hcodes', hstored.trans hstored'⟩
  obtain ⟨hcodes, hstored⟩ := hfold l b hP
  rw [Block.vecStore]
  dsimp only
  rw [hcodes]
  exact hstored

/-- Joined pieces cover what the pieces cover. -/
theorem joinRuns_apart {base k : Nat} (l : List (Nat × List Byte)) (h : ∀ q ∈ l, k < base + q.1 ∨ base + q.1 + q.2.length ≤ k) :
    ∀ q ∈ joinRuns l, k < base + q.1 ∨ base + q.1 + q.2.length ≤ k := by
  induction l with
  | nil => exact fun q hq => (List.not_mem_nil hq).elim
  | cons q l ih =>
    obtain ⟨hq, hl⟩ := List.forall_mem_cons.1 h
    have hrest := ih hl
    rw [joinRuns]
    split
    · rename_i a2 y l2 hj
      rw [hj] at hrest
      obtain ⟨hy, hl2⟩ := List.forall_mem_cons.1 hrest
      split
      · rename_i ha
        refine List.forall_mem_cons.2 ⟨?_, hl2⟩
        have := beq_iff_eq.1 ha
        rw [List.length_append]
        dsimp only at hq hy ⊢
        omega
      · exact List.forall_mem_cons.2 ⟨hq, hrest⟩
    · exact List.forall_mem_singleton.2 hq

/-- A store of pieces that are joined where they are neighbours. -/
theorem Block.vecStore_joined (b : Block) (core : Nat) (p : VProg) {aw : Nat} (l : List (Nat × List Byte)) {P : Nat → Prop}
    (haw : awWindow aw = false) (hP : ∀ k, P k → ∀ q ∈ l, k < awOff aw + q.1 ∨ awOff aw + q.1 + q.2.length ≤ k) :
    Stored core P (Mem.writePieces (awOff aw) l) b (b.vecStore core p aw (joinRuns l)) := by
  have h := b.vecStore_scratch core p (joinRuns l) haw fun k hk => joinRuns_apart l (hP k hk)
  rwa [show Mem.writePieces (awOff aw) (joinRuns l) = Mem.writePieces (awOff aw) l from
    funext fun m => m.writePieces_joinRuns _ l] at h

end Sys2Proof.Machine
end

section
/-! VST and VSTB (R47, R49, R457). -/

namespace Sys2Proof.Machine

/-- Numbered pieces of one length, side by side: each is where its number puts it, and no other byte changes. -/
theorem Mem.writePieces_numbered (base : Nat) {n : Nat} (L : List Nat) (f : Nat → List Byte)
    (hf : ∀ l ∈ L, (f l).length = n) (m : Mem) :
    (∀ l ∈ L, ∀ i, i < n → (m.writePieces base (L.map fun l => (n * l, f l))).read (base + n * l + i) = (f l).getD i 0) ∧
      ∀ a, (∀ l ∈ L, a < base + n * l ∨ base + n * l + n ≤ a) → (m.writePieces base (L.map fun l => (n * l, f l))).read a = m.read a := by
  refine ⟨fun l hl i hi => Mem.writePieces_in _ _ _ _ _ ?_ ?_, fun a ha => Mem.writePieces_out _ _ _ _ ?_⟩
  · refine ⟨_, List.mem_map_of_mem hl, ?_, ?_⟩
    · dsimp only; omega
    · dsimp only; rw [hf l hl]; omega
  · intro q hq hlo hhi
    obtain ⟨l', hl', rfl⟩ := List.mem_map.1 hq
    dsimp only at hlo hhi ⊢
    rw [hf l' hl'] at hhi
    have hll : l' = l := by
      have h1 : n * l' < n * l + n := by omega
      have h2 : n * l < n * l' + n := by omega
      have h1' := Nat.lt_of_mul_lt_mul_left (Nat.mul_succ n l ▸ h1)
      have h2' := Nat.lt_of_mul_lt_mul_left (Nat.mul_succ n l' ▸ h2)
      omega
    rw [hll, Nat.add_sub_cancel_left]
  · intro q hq
    obtain ⟨l, hl, rfl⟩ := List.mem_map.1 hq
    dsimp only
    rw [hf l hl]
    exact ha l hl

theorem awOff_of_lt {aw : Nat} (h : aw < 2 ^ 48) : awOff aw = aw := Nat.mod_eq_of_lt h

/-- What a store of n bytes a lane leaves: the program at its next instruction, the registers as they were, and in the scratchpad
the bytes of the lanes that are on. -/
def LanesStored (core : Nat) (p : VProg) (w n : Nat) (f : Nat → List Byte) (s t : State) : Prop :=
  (∃ p', (t.b.core core).vec.run = some p' ∧ p'.pc = p.pc + 8) ∧ (t.b.core core).vec.v = (s.b.core core).vec.v ∧
  (∀ l i, l < 512 → i < n → (s.b.core core).vec.on w l = true → (t.b.core core).scratch.read (viImm w + n * l + i) = (f l).getD i 0) ∧
  ∀ a, (∀ l, l < 512 → (s.b.core core).vec.on w l = true → a < viImm w + n * l ∨ viImm w + n * l + n ≤ a) →
    (t.b.core core).scratch.read a = (s.b.core core).scratch.read a

/-- A store of lanes: `b₀` is the block in which the instruction's random numbers are drawn. -/
theorem Completes.lanesStored {s : State} {core op : Nat} {p : VProg} (h : VecNext s.b core p op) (hop : op ∈ vecOps)
    {F : Block → VProg → Nat → Option Block} {i : Instr} (hi : exec i s = s.onBlock fun b => b.vecRun core op F) {b₀ : Block}
    (hk : s.b.noWants.Keeps [.ctxs] b₀) {n : Nat} {f : Nat → List Byte} (hf : ∀ l, (f l).length = n)
    (hF : F s.b.noWants p ((s.b.core core).rdS64 p.pc) =
      some (b₀.vecStore core p (viImm ((s.b.core core).rdS64 p.pc)) (lanePieces (s.b.core core).vec ((s.b.core core).rdS64 p.pc) n f))) :
    Completes (exec i s) fun t => Frame [.cores, .ctxs, .ports] s t ∧ LanesStored core p ((s.b.core core).rdS64 p.pc) n f s t ∧
      t.b.ctxs = b₀.ctxs := by
  obtain ⟨hrun, -⟩ := id h
  obtain ⟨w, hw⟩ : ∃ w, w = (s.b.core core).rdS64 p.pc := ⟨_, rfl⟩
  rw [← hw] at hF ⊢
  have himm := viImm_lt w
  have hcore : b₀.core core = s.b.core core := hk.core_eq (by simp) core
  have hst := b₀.vecStore_joined core p (aw := viImm w) (P := fun _ => False) ((lanes.filter ((s.b.core core).vec.on w)).map fun l => (n * l, f l))
    (awWindow_of_lt (himm.trans (by decide))) (fun _ hk => hk.elim)
  rw [← lanePieces, awOff_of_lt (himm.trans (by decide))] at hst
  generalize b₀.vecStore core p (viImm w) (lanePieces (s.b.core core).vec w n f) = b' at hF hst
  have hwant : b'.ports.wanted = [] := congrArg Ports.wanted ((hst.keeps .ports (by simp)).trans (hk .ports (by simp)))
  have hmem : ∀ l, l ∈ lanes.filter ((s.b.core core).vec.on w) ↔ l < 512 ∧ (s.b.core core).vec.on w l = true := fun l => by
    rw [List.mem_filter, lanes, List.mem_range]
  obtain ⟨hin, hout⟩ := Mem.writePieces_numbered (viImm w) (lanes.filter ((s.b.core core).vec.on w)) f (fun l _ => hf l) (s.b.core core).scratch
  have hscratch := hst.scratch
  rw [hcore] at hscratch
  refine ⟨_, exec_vecNext h hop hi (hw ▸ hF) hwant,
    vecStepped_frame core ((hk.mono (by simp)).trans (hst.keeps.mono (by simp))) (by simp), ⟨?_, ?_, ?_, ?_⟩, ?_⟩
  · exact ⟨_, by rw [Block.vecStepped_run, hst.vec, hcore, hrun, Option.map_some], rfl⟩
  · rw [Block.vecStepped_v, hst.vec, hcore]
  · intro l i hl hin' hon
    rw [Block.vecStepped_scratch, hscratch]
    exact hin l ((hmem l).2 ⟨hl, hon⟩) i hin'
  · intro a ha
    rw [Block.vecStepped_scratch, hscratch]
    exact hout a fun l hl => ha l ((hmem l).1 hl).1 ((hmem l).1 hl).2
  · exact (b'.vecStepped_keeps core .ctxs (by simp)).trans (hst.keeps .ctxs (by simp))

/-- VST writes the FP32 pattern of each lane that is on, and no other byte of the scratchpad (R457). -/
theorem vst_stores {s : State} {core : Nat} {p : VProg} (h : VecNext s.b core p 0x02) :
    let v := (s.b.core core).vec
    let w := (s.b.core core).rdS64 p.pc
    storeOk v w (viImm w) 4 = true → Completes (exec (.vst core) s) fun t =>
      Frame [.cores, .ctxs, .ports] s t ∧ LanesStored core p w 4 (fun l => toLe 4 (v.lane (viVA w) l).toNat) s t := by
  intro v w hok
  refine (Completes.lanesStored (i := .vst core) (b₀ := s.b.noWants) h (by decide) rfl (Block.Keeps.refl _ _)
    (fun l => toLe_length 4 _) ?_).mono fun t ht => ⟨ht.1, ht.2.1⟩
  exact if_neg (by rw [Bool.not_eq_true', Bool.eq_false_iff]; exact fun hn => hn hok)

/-- The instruction's random numbers, and the context's counter after it (R49). -/
theorem Block.vecRand_eq (b : Block) (p : VProg) (w : Nat) :
    (b.vecRand p w).2 = (if viRmode w then some (srRand (b.ctx p.ctx).srSeed (b.ctx p.ctx).srCtr) else none) ∧
      b.Keeps [.ctxs] (b.vecRand p w).1 ∧
      ((b.vecRand p w).1.ctx p.ctx).srCtr = if viRmode w then (b.ctx p.ctx).srCtr + 1 else (b.ctx p.ctx).srCtr := by
  rw [Block.vecRand]
  split
  · exact ⟨rfl, b.modCtx_keeps _ _, by rw [Block.modCtx_ctx_same]⟩
  · exact ⟨rfl, Block.Keeps.refl _ b, rfl⟩

/-- VSTB writes the BF16 value of each lane that is on, and no other byte of the scratchpad (R47, R49, R457). -/
theorem vstb_stores {s : State} {core : Nat} {p : VProg} (h : VecNext s.b core p 0x04) :
    let v := (s.b.core core).vec
    let w := (s.b.core core).rdS64 p.pc
    storeOk v w (viImm w) 2 = true → Completes (exec (.vstb core) s) fun t =>
      Frame [.cores, .ctxs, .ports] s t ∧ LanesStored core p w 2 (fun l => toLe 2 (toBf false (if viRmode w then
        some (srRand (s.b.ctx p.ctx).srSeed (s.b.ctx p.ctx).srCtr l) else none) (v.lane (viVA w) l))) s t ∧
      (t.b.ctx p.ctx).srCtr = if viRmode w then (s.b.ctx p.ctx).srCtr + 1 else (s.b.ctx p.ctx).srCtr := by
  intro v w hok
  obtain ⟨hr, hk, hctr⟩ := s.b.noWants.vecRand_eq p ((s.b.core core).rdS64 p.pc)
  refine (Completes.lanesStored (i := .vstb core) (b₀ := (s.b.noWants.vecRand p w).1) h (by decide) rfl hk
    (fun l => toLe_length 2 _) ?_).mono fun t ht => ⟨ht.1, ht.2.1, ?_⟩
  · refine (if_neg (by rw [Bool.not_eq_true', Bool.eq_false_iff]; exact fun hn => hn hok)).trans ?_
    have hmap : ∀ (c : Bool) (g : Nat → Nat) (l : Nat), ((if c then some g else none).map fun f => f l) = if c then some (g l) else none := by
      intro c g l
      cases c <;> rfl
    dsimp only
    simp only [hr, hmap]
    rfl
  · rw [Block.ctx, ht.2.2]; exact hctr

end Sys2Proof.Machine
end

section
/-! VSTN into the scratchpad (R44, R49, R50, R457): codes, scales and the amax record, each at its place. -/

namespace Sys2Proof.Machine

/-! ### A group's bytes -/

theorem convElems_length (f : Fmt) (e : Int) (rand : Option (Nat → Nat)) (l : List (Fp × Nat)) : (convElems f e rand l).length = l.length := by
  induction l with
  | nil => rfl
  | cons x l ih => rw [convElems, List.length_cons, ih, List.length_cons]

/-- A conversion gives a code for each value. -/
theorem convGroup_codes_length (f : Fmt) (floor : Option Int) (rand : Option (Nat → Nat)) (xs : List (Word × Nat)) :
    (convGroup f floor rand xs).codes.length = xs.length := by
  rw [convGroup]
  split
  · rw [List.length_map]
  · rw [List.length_map, convElems_length, List.length_map]

theorem packQ6_length (n : Nat) (l : List Nat) (h : l.length = 4 * n) : (packQ6 l).length = 3 * n := by
  induction n generalizing l with
  | zero => rw [List.length_eq_zero_iff.1 h]; rfl
  | succ n ih =>
    match l, h with
    | a :: b :: c :: d :: l, h =>
      rw [packQ6, List.length_append, toLe_length, ih l (by simp only [List.length_cons] at h; omega)]
      omega

/-- The codes of 32 elements of Q6m or Q8m fill their bytes. -/
theorem packCodes_length {f : Nat} (hf : f = 1 ∨ f = 2) (l : List Nat) (h : l.length = 32) : (packCodes f l).length = elemBytes f 32 := by
  obtain rfl | rfl := hf
  · exact packQ6_length 8 l h
  · exact (List.length_map _).trans h

/-- Group k of VSTN: 32 lanes of VB, converted (R44, R457). -/
def vstnGroup (v : Vec) (w f : Nat) (rnd : Option (Nat → Nat)) (k : Nat) : Group :=
  convGroup (if f = 1 then .q6m else .q8m) none rnd ((List.range 32).map fun i => (v.lane (viVB w) (32 * k + i), 32 * k + i))

theorem vstnGroups_eq (v : Vec) (w f : Nat) (rnd : Option (Nat → Nat)) :
    vstnGroups v w (if f == 1 then .q6m else .q8m) rnd = (groupsOn v w).map fun k => (k, vstnGroup v w f rnd k) := by
  simp only [vstnGroups, vstnGroup, beq_iff_eq]

theorem vstnGroup_length {f : Nat} (hf : f = 1 ∨ f = 2) (v : Vec) (w : Nat) (rnd : Option (Nat → Nat)) (k : Nat) :
    (packCodes f (vstnGroup v w f rnd k).codes).length = elemBytes f 32 :=
  packCodes_length hf _ (by rw [vstnGroup, convGroup_codes_length, List.length_map, List.length_range])

theorem groupsOn_lt {v : Vec} {w k : Nat} (h : k ∈ groupsOn v w) : k < 16 := List.mem_range.1 (List.mem_filter.1 h).1

/-- The format and the offset that VSTN takes from IMM. -/
theorem narrowStore_spec {v : Vec} {w f off : Nat} (h : narrowStore v w = some (f, off)) : (f = 1 ∨ f = 2) ∧ off < 2 ^ 30 := by
  rw [narrowStore] at h
  split at h
  · rename_i hc
    simp only [Option.some.injEq, Prod.mk.injEq] at h
    obtain ⟨rfl, rfl⟩ := h
    simp only [Bool.and_eq_true, Bool.or_eq_true, beq_iff_eq] at hc
    exact ⟨hc.1.1, Nat.mod_lt _ (by decide)⟩
  · cases h

theorem elemBytes_groups {f : Nat} (hf : f = 1 ∨ f = 2) (k : Nat) : elemBytes f (32 * k) = elemBytes f 32 * k := by
  obtain rfl | rfl := hf
  · show 32 * k * 3 / 4 = 24 * k
    omega
  · rfl

/-! ### The scratchpad after the groups are stored -/

/-- The scratchpad with the groups' codes and scales in it. -/
def groupsStored (off sa f : Nat) (L : List Nat) (g : Nat → Group) (m : Mem) : Mem :=
  (m.writePieces off (L.map fun k => (elemBytes f 32 * k, packCodes f (g k).codes))).writePieces sa
    (L.map fun k => (k, [BitVec.ofNat 8 (g k).scale]))

/-- Places of the groups' codes and scales. -/
def vstnPlace (off sa f a : Nat) : Prop := (off ≤ a ∧ a < off + 16 * elemBytes f 32) ∨ (sa ≤ a ∧ a < sa + 16)

/-- Where codes and scales do not overlap, each is read where it was stored, and no other byte has changed. -/
theorem groupsStored_read {off sa f : Nat} {L : List Nat} (hL : ∀ k ∈ L, k < 16) {g : Nat → Group}
    (hg : ∀ k, (packCodes f (g k).codes).length = elemBytes f 32) (hapart : sa + 16 ≤ off ∨ off + 16 * elemBytes f 32 ≤ sa) (m : Mem) :
    (∀ k ∈ L, (∀ i, i < elemBytes f 32 → (groupsStored off sa f L g m).read (off + elemBytes f 32 * k + i) =
        (packCodes f (g k).codes).getD i 0) ∧ (groupsStored off sa f L g m).read (sa + k) = BitVec.ofNat 8 (g k).scale) ∧
      ∀ a, (∀ k ∈ L, (a < off + elemBytes f 32 * k ∨ off + elemBytes f 32 * k + elemBytes f 32 ≤ a) ∧ a ≠ sa + k) →
        (groupsStored off sa f L g m).read a = m.read a := by
  obtain ⟨hcode, hcodeOut⟩ := Mem.writePieces_numbered off L (fun k => packCodes f (g k).codes) (fun k _ => hg k) m
  obtain ⟨hscale, hscaleOut⟩ := Mem.writePieces_numbered sa L (fun k => [BitVec.ofNat 8 (g k).scale]) (fun _ _ => rfl)
    (m.writePieces off (L.map fun k => (elemBytes f 32 * k, packCodes f (g k).codes)))
  simp only [Nat.one_mul] at hscale hscaleOut
  refine ⟨fun k hk => ⟨fun i hi => ?_, hscale k hk 0 Nat.zero_lt_one⟩, fun a ha => ?_⟩
  · refine (hscaleOut _ fun k' hk' => ?_).trans (hcode k hk i hi)
    have := hL k hk
    have := hL k' hk'
    have : elemBytes f 32 * k ≤ elemBytes f 32 * 15 := Nat.mul_le_mul_left _ (by omega)
    omega
  · exact (hscaleOut a fun k hk => by have := (ha k hk).2; omega).trans (hcodeOut a fun k hk => (ha k hk).1)

/-- The groups' codes and scales go to the scratchpad, and nothing else of the core changes. -/
theorem Block.vstn_stored (b : Block) (core : Nat) (p : VProg) {off sa f : Nat} (hoff : off < 2 ^ 30)
    (hsa : awWindow sa = false) {L : List Nat} (hL : ∀ k ∈ L, k < 16) {g : Nat → Group}
    (hg : ∀ k, (packCodes f (g k).codes).length = elemBytes f 32) :
    Stored core (fun a => ¬ vstnPlace off (awOff sa) f a) (groupsStored off (awOff sa) f L g) b
      ((b.vecStore core p off (joinRuns (L.map fun k => (elemBytes f 32 * k, packCodes f (g k).codes)))).vecStore core p sa
        (joinRuns (L.map fun k => (k, [BitVec.ofNat 8 (g k).scale])))) := by
  have hoff' : awOff off = off := awOff_of_lt (hoff.trans (by decide))
  have hcodes := b.vecStore_joined core p (aw := off) (P := fun a => ¬ vstnPlace off (awOff sa) f a)
    (L.map fun k => (elemBytes f 32 * k, packCodes f (g k).codes)) (awWindow_of_lt (hoff.trans (by decide))) fun a ha q hq => by
      obtain ⟨k, hk, rfl⟩ := List.mem_map.1 hq
      have := hL k hk
      have : elemBytes f 32 * k ≤ elemBytes f 32 * 15 := Nat.mul_le_mul_left _ (by omega)
      rw [vstnPlace] at ha
      rw [hoff', hg]
      dsimp only
      omega
  rw [hoff'] at hcodes
  refine hcodes.trans (Block.vecStore_joined _ core p _ hsa fun a ha q hq => ?_)
  obtain ⟨k, hk, rfl⟩ := List.mem_map.1 hq
  have := hL k hk
  rw [vstnPlace] at ha
  rw [List.length_singleton]
  dsimp only
  omega

/-! ### The amax record (R50) -/

/-- The record after the merge of groups' statistics into what was read. -/
def mergedRecord (old : List OpByte) (l : List Amax) : List Byte :=
  toLe 8 ((Amax.ofDword (BitVec.ofNat 64 (leNat (opVals old)))).merge (l.foldl Amax.merge Amax.zero)).toDword.toNat

/-- A merge into a record in the scratchpad. -/
theorem Block.amaxMerge_scratch (b : Block) (core label ctx : Nat) {aw : Nat} (haw : awWindow aw = false) (l : List Amax) :
    (b.amaxMerge core label ctx aw (l.foldl Amax.merge Amax.zero)).2 = codesOf (b.rdOperands core ctx aw 0 8) ∧
      Stored core (fun _ => False) (·.writeN (awOff aw) (mergedRecord (b.rdOperands core ctx aw 0 8) l)) b
        (b.amaxMerge core label ctx aw (l.foldl Amax.merge Amax.zero)).1 := by
  obtain ⟨hcodes, hst⟩ := b.wrOperand_scratch core label ctx 0 (mergedRecord (b.rdOperands core ctx aw 0 8) l) (P := fun _ => False) haw
    (fun _ hk => hk.elim)
  have hnone : b.winAtomic core label ctx aw 0 .amaxMerge (l.foldl Amax.merge Amax.zero).toDword = none := by
    rw [Block.winAtomic]
    exact if_pos (by rw [haw]; rfl)
  rw [Block.amaxMerge, hnone]
  dsimp only
  rw [← mergedRecord, hcodes, List.append_nil]
  exact ⟨rfl, hst⟩

/-! ### The instruction -/

/-- The random numbers of VSTN, where RMODE asks for them (R49). -/
def Block.vstnRand (b : Block) (p : VProg) (w : Nat) : Option (Nat → Nat) :=
  if viRmode w then some (srRand (b.ctx p.ctx).srSeed (b.ctx p.ctx).srCtr) else none

/-- VSTN as its random numbers, its pieces and its merge. -/
theorem Block.vstn_eq (b : Block) (core : Nat) (p : VProg) {w f off : Nat} (hn : narrowStore (b.core core).vec w = some (f, off))
    (hva : viVA w < 8) (hvc : viVC w < 8) :
    let v := (b.core core).vec
    let g := vstnGroup v w f (b.vstnRand p w)
    let b' := ((b.vecRand p w).1.vecStore core p off
      (joinRuns ((groupsOn v w).map fun k => (elemBytes f 32 * k, packCodes f (g k).codes)))).vecStore core p (v.areg (viVA w)).toNat
      (joinRuns ((groupsOn v w).map fun k => (k, [BitVec.ofNat 8 (g k).scale])))
    let merged := b'.amaxMerge core p.label p.ctx (v.areg (viVC w)).toNat (((groupsOn v w).map fun k => (g k).stats).foldl Amax.merge Amax.zero)
    b.vstn core p w = some (if viVC w ≠ 0 ∧ groupsOn v w ≠ [] then merged.1.progCodes core p merged.2 else b') := by
  intro v g b' merged
  have hbytes : ∀ k, elemBytes f (32 * k) = elemBytes f 32 * k := elemBytes_groups (narrowStore_spec hn).1
  have hrand : (b.vecRand p w).2 = b.vstnRand p w := (b.vecRand_eq p w).1
  have hmode : (viVC w == 0 || ((groupsOn v w).map fun k => (k, g k)).isEmpty) = !decide (viVC w ≠ 0 ∧ groupsOn v w ≠ []) := by
    rw [Bool.eq_iff_iff]
    simp [List.isEmpty_iff]
  rw [Block.vstn]
  dsimp only
  rw [hn]
  dsimp only
  rw [if_neg (by simp [hva, hvc]), hrand, vstnGroups_eq, hmode]
  simp only [List.map_map, Function.comp_def, hbytes]
  by_cases hmerge : viVC w ≠ 0 ∧ groupsOn v w ≠ []
  · rw [if_pos hmerge, decide_eq_true hmerge]
    rfl
  · rw [if_neg hmerge, decide_eq_false hmerge]
    rfl

end Sys2Proof.Machine
end

section
/-! VSTN with its scales and its record in the scratchpad (R457). -/

namespace Sys2Proof.Machine

/-- VSTN completes with its effect `b'`, in which the program has at most given codes. -/
theorem vstn_goesOn {s : State} {core : Nat} {p : VProg} (h : VecNext s.b core p 0x06) {b' : Block}
    (hF : s.b.noWants.vstn core p ((s.b.core core).rdS64 p.pc) = some b') (hw : b'.ports.wanted = []) {L : List Part}
    (hk : s.b.noWants.Keeps L b') (hL : [.cores, .ports] ⊆ L) (hv : (s.b.core core).vec.Coded (b'.core core).vec) :
    exec (.vstn core) s = .next { s with b := b'.vecStepped core } ∧ Frame L s { s with b := b'.vecStepped core } ∧
      ((b'.vecStepped core).core core).vec.v = (s.b.core core).vec.v ∧ ((b'.vecStepped core).core core).vec.a = (s.b.core core).vec.a ∧
      ∃ p', ((b'.vecStepped core).core core).vec.run = some p' ∧ p'.pc = p.pc + 8 := by
  obtain ⟨hrun, -⟩ := id h
  have hpc : (b'.core core).vec.run.map (·.pc) = some p.pc := by rw [hv.pc, hrun, Option.map_some]
  obtain ⟨q, hq, hqpc⟩ := Option.map_eq_some_iff.1 hpc
  have hexec := exec_vecNext (i := .vstn core) h (by decide) rfl hF hw
  exact ⟨hexec, vecStepped_frame core hk hL, (b'.vecStepped_v core).trans hv.v,
    (b'.vecStepped_a core).trans hv.a, _, by rw [Block.vecStepped_run, hq, Option.map_some], congrArg (· + 8) hqpc⟩

/-- A read of the scratchpad depends on the core and on the free values still to be drawn. -/
theorem Block.rdOperands_scratch {b b' : Block} {core : Nat} (hc : b'.core core = b.core core) (hd : b'.draws = b.draws) {aw : Nat}
    (haw : awWindow aw = false) (ctx off n : Nat) : b'.rdOperands core ctx aw off n = b.rdOperands core ctx aw off n := by
  simp only [Block.rdOperands, Block.rdOperand, haw, Bool.false_eq_true, if_false, hc, Block.openByte, hd]

/-- VSTN's effect where its scales are in the scratchpad, and its record, where it merges, as well and apart from them. -/
theorem Block.vstn_scratch {b : Block} {core : Nat} {p : VProg} {w f off : Nat} (hn : narrowStore (b.core core).vec w = some (f, off))
    (hva : viVA w < 8) (hvc : viVC w < 8) :
    let v := (b.core core).vec
    let sa := (v.areg (viVA w)).toNat
    let ra := (v.areg (viVC w)).toNat
    let g := vstnGroup v w f (b.vstnRand p w)
    let M := groupsStored off (awOff sa) f (groupsOn v w) g (b.core core).scratch
    awWindow sa = false → (viVC w ≠ 0 → awWindow ra = false ∧ ∀ i, i < 8 → ¬vstnPlace off (awOff sa) f (awOff ra + i)) →
    ∃ b', b.vstn core p w = some b' ∧ b.Keeps [.cores, .ctxs, .ports] b' ∧ b'.ports.wanted = b.ports.wanted ∧ v.Coded (b'.core core).vec ∧
      (b'.core core).scratch = if viVC w ≠ 0 ∧ groupsOn v w ≠ [] then
        M.writeN (awOff ra) (mergedRecord (b.rdOperands core p.ctx ra 0 8) ((groupsOn v w).map fun k => (g k).stats)) else M := by
  intro v sa ra g M hsa hra
  obtain ⟨hf, hoff⟩ := narrowStore_spec hn
  obtain ⟨-, hrand, -⟩ := b.vecRand_eq p w
  have hcore : (b.vecRand p w).1.core core = b.core core := hrand.core_eq (by simp) core
  have hst := (b.vecRand p w).1.vstn_stored core p (f := f) (L := groupsOn v w) hoff hsa (fun k hk => groupsOn_lt hk)
    (vstnGroup_length hf v w (b.vstnRand p w))
  have heq := b.vstn_eq core p hn hva hvc
  dsimp only at heq
  generalize ((b.vecRand p w).1.vecStore core p off _).vecStore core p _ _ = b' at hst heq
  have hkeeps : b.Keeps [.cores, .ctxs, .ports] b' := (hrand.mono (by simp)).trans (hst.keeps.mono (by simp))
  have hports : b'.ports = b.ports := (hst.keeps .ports (by simp)).trans (hrand .ports (by simp))
  have hscratch : (b'.core core).scratch = M := by rw [hst.scratch, hcore]
  have hvec : (b'.core core).vec = v := by rw [hst.vec, hcore]
  refine ⟨_, heq, ?_⟩
  split
  · rename_i hmerge
    obtain ⟨hraw, hplace⟩ := hra hmerge.1
    have hold : b'.rdOperands core p.ctx ra 0 8 = b.rdOperands core p.ctx ra 0 8 :=
      (hst.rdOperands hraw p.ctx 0 8 fun i hi => by rw [Nat.zero_add]; exact hplace i hi).trans
        (Block.rdOperands_scratch hcore (hrand .draws (by simp)) hraw p.ctx 0 8)
    obtain ⟨hcodes, hrec⟩ := b'.amaxMerge_scratch core p.label p.ctx hraw ((groupsOn v w).map fun k => (g k).stats)
    have hgave := GaveCodes.progCodes (b'.amaxMerge core p.label p.ctx ra (((groupsOn v w).map fun k => (g k).stats).foldl Amax.merge Amax.zero)).1
      core p (codesOf (b'.rdOperands core p.ctx ra 0 8))
    rw [hcodes]
    refine ⟨hkeeps.trans ((hrec.keeps.mono (by simp)).trans hgave.keeps), ?_, ?_, ?_⟩
    · rw [Block.progCodes_wanted _ core p (codesOf_scratch b' core p.ctx 0 8 hraw),
        show (b'.amaxMerge core p.label p.ctx ra _).1.ports = b'.ports from hrec.keeps .ports (by simp), hports]
    · have := hgave.vec
      rwa [hrec.vec, hvec] at this
    · rw [hgave.scratch, hrec.scratch, hscratch, hold]
  · exact ⟨hkeeps, congrArg Ports.wanted hports, by rw [hvec]; exact Vec.Coded.refl v, hscratch⟩

/-- VSTN where its three places lie in the scratchpad and do not overlap. -/
theorem vstn_stores {s : State} {core : Nat} {p : VProg} (h : VecNext s.b core p 0x06) :
    let v := (s.b.core core).vec
    let w := (s.b.core core).rdS64 p.pc
    ∀ f off, narrowStore v w = some (f, off) → viVA w < 8 → viVC w < 8 →
      let sa := (v.areg (viVA w)).toNat
      let ra := (v.areg (viVC w)).toNat
      let m := elemBytes f 32
      let g := vstnGroup v w f (s.b.vstnRand p w)
      let merges := viVC w ≠ 0 ∧ groupsOn v w ≠ []
      let apart (a n : Nat) : Prop := a + n ≤ off ∨ off + 16 * m ≤ a
      awWindow sa = false → apart (awOff sa) 16 →
      (viVC w ≠ 0 → awWindow ra = false ∧ apart (awOff ra) 8 ∧ (awOff ra + 8 ≤ awOff sa ∨ awOff sa + 16 ≤ awOff ra)) →
      Completes (exec (.vstn core) s) fun t =>
        Frame [.cores, .ctxs, .ports] s t ∧ (t.b.core core).vec.v = v.v ∧ (t.b.core core).vec.a = v.a ∧
        (∃ p', (t.b.core core).vec.run = some p' ∧ p'.pc = p.pc + 8) ∧
        (∀ k ∈ groupsOn v w,
          (∀ i, i < m → (t.b.core core).scratch.read (off + m * k + i) = (packCodes f (g k).codes).getD i 0) ∧
          (t.b.core core).scratch.read (awOff sa + k) = BitVec.ofNat 8 (g k).scale) ∧
        (merges → (t.b.core core).scratch.readN (awOff ra) 8 =
          mergedRecord (s.b.rdOperands core p.ctx ra 0 8) ((groupsOn v w).map fun k => (g k).stats)) ∧
        ∀ a, (∀ k ∈ groupsOn v w, (a < off + m * k ∨ off + m * k + m ≤ a) ∧ a ≠ awOff sa + k) →
          (merges → a < awOff ra ∨ awOff ra + 8 ≤ a) → (t.b.core core).scratch.read a = (s.b.core core).scratch.read a := by
  intro v w f off hn hva hvc sa ra m g merges apart hsa hapart hra
  obtain ⟨b', hF, hkeeps, hwant, hcoded, hbytes⟩ := Block.vstn_scratch (b := s.b.noWants) (core := core) (p := p) hn hva hvc hsa fun hvc0 => by
    obtain ⟨hraw, hcodes, hscales⟩ := hra hvc0
    refine ⟨hraw, fun i hi => ?_⟩
    rw [vstnPlace]
    show ¬((off ≤ awOff ra + i ∧ awOff ra + i < off + 16 * m) ∨ (awOff sa ≤ awOff ra + i ∧ awOff ra + i < awOff sa + 16))
    dsimp only [apart] at hcodes
    omega
  obtain ⟨hexec, hframe, hvv, hva', hpc⟩ := vstn_goesOn h hF hwant hkeeps (by simp) hcoded
  rw [Block.noWants_rdOperands] at hbytes
  have hscratch : (b'.core core).scratch = if merges then (groupsStored off (awOff sa) f (groupsOn v w) g (s.b.core core).scratch).writeN
      (awOff ra) (mergedRecord (s.b.rdOperands core p.ctx ra 0 8) ((groupsOn v w).map fun k => (g k).stats))
    else groupsStored off (awOff sa) f (groupsOn v w) g (s.b.core core).scratch := hbytes
  obtain ⟨hread, hout⟩ := groupsStored_read (L := groupsOn v w) (fun k hk => groupsOn_lt hk)
    (vstnGroup_length (narrowStore_spec hn).1 v w (s.b.vstnRand p w)) hapart (s.b.core core).scratch
  have hlen : (mergedRecord (s.b.rdOperands core p.ctx ra 0 8) ((groupsOn v w).map fun k => (g k).stats)).length = 8 := toLe_length 8 _
  have hbyte : ∀ a, (merges → a < awOff ra ∨ awOff ra + 8 ≤ a) → ((b'.vecStepped core).core core).scratch.read a =
      (groupsStored off (awOff sa) f (groupsOn v w) g (s.b.core core).scratch).read a := by
    intro a ha
    rw [Block.vecStepped_scratch, hscratch]
    split
    · rename_i hmerge
      exact Mem.read_writeN_out _ _ _ _ (by rw [hlen]; exact ha hmerge)
    · rfl
  refine ⟨_, hexec, hframe, hvv, hva', hpc, fun k hk => ⟨fun i hi => ?_, ?_⟩, fun hmerge => ?_, fun a hgroups hrec => ?_⟩
  · refine (hbyte _ fun hmerge => ?_).trans ((hread k hk).1 i hi)
    have := (hra hmerge.1).2.1
    have := groupsOn_lt hk
    have : m * k ≤ m * 15 := Nat.mul_le_mul_left _ (by omega)
    dsimp only [apart] at *
    omega
  · refine (hbyte _ fun hmerge => ?_).trans (hread k hk).2
    have := (hra hmerge.1).2.2
    have := groupsOn_lt hk
    omega
  · rw [Block.vecStepped_scratch, hscratch, if_pos hmerge]
    exact hlen ▸ Mem.readN_writeN _ _ _
  · exact (hbyte a hrec).trans (hout a hgroups)

end Sys2Proof.Machine
end

section
/-! Accesses of a core's units through windows (R206, R276, R281, R287): of the cores they change reservations and codes only. -/

namespace Sys2Proof.Machine
namespace Homelike

variable {Q : Nat → Prop}

/-! ### Requests and turns at a line's home -/

theorem request (b : Block) (a : Agent) (line key : Nat) (r : CohReq) (auto : Bool) : Homelike Q b (b.request a line key r auto) := by
  refine ite (refl b) ?_
  split
  · exact (modCoh b _).trans (handleReq _ _)
  · exact ite (refl b) ((modCoh b _).trans (handleReq _ _))

theorem takeNack (b : Block) (a : Agent) (line : Nat) : Homelike Q b (b.takeNack a line) := by
  rw [Block.takeNack]
  split
  · exact refl b
  · rename_i h
    refine (takeMsg h).trans ?_
    split
    · exact refl _
    · exact ite (modCoh _ _) (modCoh _ _)

theorem whole (b : Block) (a : Agent) (line key : Nat) (r : CohReq) : Homelike Q b (b.whole a line key r).1 := by
  rw [Block.whole]
  dsimp only
  refine ((request b a line key r true).trans (push _ line)).trans ?_
  generalize (b.request a line key r true).push line = b
  split
  · dsimp only
    exact modCoh _ _
  · split
    · exact takeNack _ _ _
    · dsimp only
      exact modCoh _ _

theorem nackHome (b : Block) (a : Agent) (line : Nat) : Homelike Q b (b.nackHome a line) :=
  ite (refl b) ((modCoh b _).trans ((turnAway _ _).trans (takeNack _ _ _)))

theorem homeTurn (b : Block) (a : Agent) (line : Nat) (own : Bool) : Homelike Q b (b.homeTurn a line own).1 := by
  rw [Block.homeTurn]
  refine (push b line).trans ?_
  split
  · exact refl _
  · split
    · exact nackHome _ _ _
    · generalize (if own = true then CohReq.evict else CohReq.uncrd) = q
      split
      · exact recallLine _ _ _
      · split
        · dsimp only
          exact modCoh _ _
        · exact refl _

theorem homeAtomic (b : Block) (key k : Nat) (op : AtomicOp) (x y : Dword) : Homelike Q b (b.homeAtomic key k op x y).1 := by
  rw [Block.homeAtomic]
  dsimp only
  split
  · exact takeLine b _
  · exact (takeLine b _).trans (storeLine _ _ _ _)

/-! ### The cluster cache -/

theorem storeIn (b : Block) (l : CLine) (off : Nat) (bs : List Byte) (but : Option Nat) : Homelike Q b (b.storeIn l off bs but) :=
  (loseCopies b _ _).trans (modCoh _ _)

end Homelike

/-- The block in which an access of a cluster cache to a line ends. -/
def LineRes.block : LineRes → Block
  | .wait b => b
  | .bad b => b
  | .ok b _ => b

namespace Homelike

variable {Q : Nat → Prop}

theorem fetchLine (b : Block) (a : Agent) (line key : Nat) (r : CohReq) : Homelike Q b (b.fetchLine a line key r).block := by
  have hw := whole (Q := Q) b a line key r
  rw [Block.fetchLine]
  split
  · exact refl b
  · split
    · rename_i h; rw [h] at hw; exact hw
    · rename_i h
      rw [h] at hw
      split
      · exact hw
      · split
        · exact hw
        · exact hw

theorem ownLine (b : Block) (a : Agent) (line key : Nat) : Homelike Q b (b.ownLine a line key).block := by
  rw [Block.ownLine]
  split
  · split
    · exact useLine b a line false
    · exact fetchLine b a line key .rdx
  · exact fetchLine b a line key .rdx

theorem cacheWrite (b : Block) (a : Agent) (core key k hint : Nat) (bs : List Byte) :
    Homelike Q b (b.cacheWrite a core key k hint bs).1 := by
  rw [Block.cacheWrite]
  dsimp only
  split
  · have hturn := homeTurn (Q := Q) b (Agent.uncached (agentSlice a) core) (k / 128) true
    split
    · rename_i h; rw [h] at hturn; exact hturn
    · rename_i h; rw [h] at hturn; exact hturn.trans (whole _ _ _ _ _)
  · split
    · exact (whole b a _ key _).trans (ite (useLine _ _ _ _) (refl _))
    · have hown := ownLine (Q := Q) b a (k / 128) key
      split
      · rename_i h; rw [h] at hown; exact hown
      · rename_i h; rw [h] at hown; exact hown
      · rename_i h
        rw [h] at hown
        exact (hown.trans (storeIn _ _ _ _ _)).trans (ite (useLine _ _ _ _) (refl _))

end Homelike

/-! ### What an access through a window can do -/

/-- What accesses of a core's vector unit can do, its own scratchpad and windows included. -/
structure UnitAccess (core : Nat) (b b' : Block) : Prop where
  keeps : b.Keeps [.cores, .ctxs, .mem, .coh, .slices, .ports, .draws] b'
  vec : (b.core core).vec.Coded (b'.core core).vec
  srCtr : ∀ c, (b'.ctx c).srCtr = (b.ctx c).srCtr

namespace UnitAccess

variable {core : Nat}

theorem refl (b : Block) : UnitAccess core b b := ⟨Block.Keeps.refl _ b, Vec.Coded.refl _, fun _ => rfl⟩

theorem trans {b c d : Block} (h : UnitAccess core b c) (g : UnitAccess core c d) : UnitAccess core b d :=
  ⟨h.keeps.trans g.keeps, h.vec.trans g.vec, fun k => (g.srCtr k).trans (h.srCtr k)⟩

/-- A fold that carries more than the block. -/
theorem foldlFst {α β : Type} (f : Block × β → α → Block × β) (hf : ∀ x q, UnitAccess core x.1 (f x q).1) (l : List α)
    (x : Block × β) :
    UnitAccess core x.1 (l.foldl f x).1 := by
  induction l generalizing x with
  | nil => exact refl x.1
  | cons q l ih => exact (hf x q).trans (ih (f x q))

theorem foldl {α : Type} (f : Block → α → Block) (hf : ∀ (b : Block) (x : α), UnitAccess core b (f b x)) (l : List α) (b : Block) :
    UnitAccess core b (l.foldl f b) := by
  induction l generalizing b with
  | nil => exact refl b
  | cons x l ih => exact (hf b x).trans (ih (f b x))

theorem of_homelike {b b' : Block} (h : Homelike (fun _ => True) b b') : UnitAccess core b b' := by
  refine ⟨h.keeps.mono (by simp), ?_, fun c => by rw [h.keeps.ctx_eq (by simp)]⟩
  obtain ⟨r, hr⟩ := h.core core
  rw [hr]
  exact Vec.Coded.refl _

theorem of_ports {b b' : Block} (h : b.Keeps [.ports] b') : UnitAccess core b b' :=
  ⟨h.mono (by simp), by rw [h.core_eq (by simp)]; exact Vec.Coded.refl _, fun c => by rw [h.ctx_eq (by simp)]⟩

theorem of_codes {b b' : Block} (h : GaveCodes core b b') : UnitAccess core b b' := ⟨h.keeps.mono (by simp), h.vec, h.srCtr⟩

theorem modCtx (b : Block) (c : Nat) (f : Ctx → Ctx) (hf : ∀ x, (f x).srCtr = x.srCtr) : UnitAccess core b (b.modCtx c f) := by
  refine ⟨(b.modCtx_keeps c f).mono (by simp), Vec.Coded.refl _, fun k => ?_⟩
  by_cases hk : k = c
  · rw [hk, Block.modCtx_ctx_same, hf]
  · rw [Block.modCtx_ctx_ne _ _ hk]

theorem modCore (b : Block) (f : Core → Core) (hf : ∀ x, (f x).vec = x.vec) : UnitAccess core b (b.modCore core f) :=
  ⟨(b.modCore_keeps core f).mono (by simp), by rw [Block.modCore_core_same, hf]; exact Vec.Coded.refl _, fun _ => rfl⟩

/-- A use of a context's descriptor (R237). -/
theorem touchCtx (b : Block) (c : Nat) : UnitAccess core b (b.touchCtx c) := by
  rw [Block.touchCtx]
  dsimp only
  split
  · exact refl b
  · refine trans ?_ (modCtx _ c _ fun _ => rfl)
    split
    · exact refl b
    · split
      · exact refl b
      · exact (of_homelike (Homelike.ctxWriteBack b _)).trans (modCtx _ _ _ fun _ => rfl)

theorem patchLines (b : Block) (c va : Nat) (bs : List Byte) : UnitAccess core b (b.patchLines c va bs) := by
  rw [Block.patchLines]
  split
  · exact refl b
  · exact of_ports (b.modPorts_keeps _)

theorem remoteWrite (b : Block) (n : Nat) (m : Maker) (u : RemoteUse) (a : Nat) (bs : List Byte) :
    UnitAccess core b (b.remoteWrite n m u a bs) := by
  rw [Block.remoteWrite]
  exact (of_ports (b.takeTag_keeps _ _)).trans ((of_ports (Block.waitAt_keeps _ _ _ _ _ _ _)).trans
    (foldl _ (fun b _ => of_ports (b.waitAt_keeps _ _ _ _ _ _)) _ _))

theorem remoteAtomic (b : Block) (n : Nat) (m : Maker) (u : RemoteUse) (a op x y : Nat) :
    UnitAccess core b (b.remoteAtomic n m u a op x y) :=
  (of_ports (b.takeTag_keeps _ _)).trans (of_ports (Block.waitAt_keeps _ _ _ _ _ _ _))

/-- A write through a window within one line. -/
theorem wrWinLine (b : Block) (m : Maker) (c w off hint : Nat) (bs : List Byte) : UnitAccess core b (b.wrWinLine m c w off hint bs).1 := by
  rw [Block.wrWinLine]
  dsimp only
  split
  · exact refl b
  · split
    · exact refl b
    · have htouch := touchCtx (core := core) b c
      split
      · rename_i a key _ _
        split
        · exact htouch
        · have hcache := Homelike.cacheWrite (Q := fun _ => True) (b.touchCtx c) ((b.touchCtx c).clusterOf m.point) m.point
            ((b.touchCtx c).keyGen key) (gaKey a) hint (bs.take ((b.win c w).len - off))
          split
          · rename_i h; rw [h] at hcache; exact htouch.trans (of_homelike hcache)
          · rename_i h; rw [h] at hcache; exact (htouch.trans (of_homelike hcache)).trans (patchLines _ _ _ _)
      · exact htouch.trans ((patchLines _ _ _ _).trans (remoteWrite _ _ _ _ _ _))
      · exact htouch
      · exact htouch

/-- A write of an operand. -/
theorem wrOperand (b : Block) (label c aw off : Nat) (bs : List Byte) : UnitAccess core b (b.wrOperand core label c aw off bs).1 := by
  rw [Block.wrOperand]
  refine foldlFst _ (fun x q => ?_) _ (b, [])
  dsimp only
  split
  · exact wrWinLine x.1 _ c _ _ _ _
  · exact modCore x.1 (fun z => z.wrLineS q.1 q.2) fun _ => rfl

theorem vecStore (b : Block) (p : VProg) (aw : Nat) (l : List (Nat × List Byte)) : UnitAccess core b (b.vecStore core p aw l) := by
  rw [Block.vecStore]
  refine trans (foldlFst _ (fun x q => ?_) l (b, [])) (of_codes (GaveCodes.progCodes _ core p _))
  exact wrOperand x.1 p.label p.ctx aw q.1 q.2

/-- An atomic behind a window. -/
theorem winAtomic {b b' : Block} {label c aw off : Nat} {op : AtomicOp} {v : Dword} {codes : List Nat}
    (h : b.winAtomic core label c aw off op v = some (b', codes)) : UnitAccess core b b' := by
  have htouch := touchCtx (core := core) b c
  rw [Block.winAtomic] at h
  dsimp only at h
  split at h
  · cases h
  · split at h
    · obtain ⟨k, -, hk⟩ := Option.map_eq_some_iff.1 h
      cases hk
      exact htouch.trans (remoteAtomic _ _ _ _ _ _ _ _)
    · rename_i a key _ _
      have hturn : ∀ (q : Bool) (a : Agent) (line : Nat) (b : Block),
          UnitAccess core b (if q = true then b.homeTurn a line true else (b, false)).1 := fun q a line b => by
        split
        · exact of_homelike (Homelike.homeTurn b a line true)
        · exact refl b
      replace hturn := htouch.trans (hturn ((b.touchCtx c).hasPassed core c ((b.win c (awWin aw)).base + (awOff aw + off)))
        ((b.touchCtx c).clusterOf core) (gaKey a / 128) (b.touchCtx c))
      split at h
      · rename_i hq
        rw [hq] at hturn
        cases h
        exact hturn
      · rename_i b₁ hq
        rw [hq] at hturn
        have hatomic := of_homelike (core := core) (Homelike.homeAtomic b₁ (b₁.keyGen key) (gaKey a) op v 0)
        split at h
        · rename_i hold
          rw [hold] at hatomic
          cases h
          exact hturn.trans hatomic
        · rename_i hold
          rw [hold] at hatomic
          cases h
          exact (hturn.trans hatomic).trans (patchLines _ _ _ _)
    · cases h

/-- A merge into an amax record. -/
theorem amaxMerge (b : Block) (label c aw : Nat) (a : Amax) : UnitAccess core b (b.amaxMerge core label c aw a).1 := by
  rw [Block.amaxMerge]
  split
  · rename_i h
    exact winAtomic h
  · exact wrOperand b label c aw 0 _

end UnitAccess

end Sys2Proof.Machine
end

section
/-! VSTN through windows, and the stores together (R49, R50, R457). -/

namespace Sys2Proof.Machine

/-- VSTN's effect, wherever its places lie, after the one draw of its random source. -/
theorem UnitAccess.vstn {b : Block} {core : Nat} {p : VProg} {w f off : Nat} (hn : narrowStore (b.core core).vec w = some (f, off))
    (hva : viVA w < 8) (hvc : viVC w < 8) : ∃ b', b.vstn core p w = some b' ∧ UnitAccess core (b.vecRand p w).1 b' := by
  refine ⟨_, b.vstn_eq core p hn hva hvc, ?_⟩
  split
  · exact ((vecStore _ p _ _).trans (vecStore _ p _ _)).trans ((amaxMerge _ _ _ _ _).trans (of_codes (GaveCodes.progCodes _ core p _)))
  · exact (vecStore _ p _ _).trans (vecStore _ p _ _)

/-- VSTN completes once its lines have come. -/
theorem vstn_completes {s : State} {core : Nat} {p : VProg} (h : VecNext s.b core p 0x06) :
    let v := (s.b.core core).vec
    let w := (s.b.core core).rdS64 p.pc
    ∀ f off, narrowStore v w = some (f, off) → viVA w < 8 → viVC w < 8 →
      Met s.b (fun b => b.vecNext core p (b.vstn core p w)) →
      Completes (exec (.vstn core) s) fun t =>
        Frame [.cores, .ctxs, .mem, .coh, .slices, .ports, .draws] s t ∧ (t.b.core core).vec.v = v.v ∧
        (t.b.core core).vec.a = v.a ∧ (∃ p', (t.b.core core).vec.run = some p' ∧ p'.pc = p.pc + 8) ∧
        (t.b.ctx p.ctx).srCtr = if viRmode w then (s.b.ctx p.ctx).srCtr + 1 else (s.b.ctx p.ctx).srCtr := by
  intro v w f off hn hva hvc hmet
  obtain ⟨b', hF, hacc⟩ := UnitAccess.vstn (b := s.b.noWants) (core := core) (p := p) hn hva hvc
  obtain ⟨-, hrand, hctr⟩ := s.b.noWants.vecRand_eq p w
  rw [Met, hF] at hmet
  have hvec : (s.b.core core).vec.Coded (b'.core core).vec := by
    have hcore : (s.b.noWants.vecRand p w).1.core core = s.b.core core := hrand.core_eq (by simp) core
    rw [← hcore]
    exact hacc.vec
  obtain ⟨hexec, hframe, hv, ha, hpc⟩ := vstn_goesOn h hF hmet ((hrand.mono (by simp)).trans hacc.keeps) (by simp) hvec
  refine ⟨_, hexec, hframe, hv, ha, hpc, ?_⟩
  calc ((b'.vecStepped core).ctx p.ctx).srCtr = (b'.ctx p.ctx).srCtr := by rw [(b'.vecStepped_keeps core).ctx_eq (by simp)]
    _ = ((s.b.noWants.vecRand p w).1.ctx p.ctx).srCtr := hacc.srCtr p.ctx
    _ = _ := hctr

/-- Settles O19: each store's bytes, VSTN's through windows too. -/
theorem vectorStoresWriteWhatTheyName : Obligations.VectorStoresWriteWhatTheyName := by
  intro s core p
  exact ⟨vst_stores, vstb_stores, fun f off h => vstn_completes h f off, fun f off h => vstn_stores h f off⟩

end Sys2Proof.Machine
end

section
/-! Dispatch instructions of a control processor (R87; O21). -/

namespace Sys2Proof.Machine

/-- What a register reads after a write to one: x0 stays as it is. -/
theorem Hart.setReg_reg (h : Hart) (rd : Nat) (v : Dword) (r : Nat) : (h.setReg rd v).reg r = if r = rd ∧ rd ≠ 0 then v else h.reg r := by
  by_cases hr : r = rd
  · subst hr
    by_cases h0 : r = 0
    · subst h0; simp [Hart.reg]
    · simp [h0]
  · simp [hr, h.setReg_reg_ne rd v hr]

/-- A trap keeps the address of its instruction, its cause and its value. -/
theorem Hart.trap_csrs (h : Hart) (cause : Nat) (tval : Dword) :
    (h.trap cause tval).csrGet 0x341 = h.pc ∧ (h.trap cause tval).csrGet 0x342 = BitVec.ofNat 64 cause ∧
      (h.trap cause tval).csrGet 0x343 = tval := by
  simp [Hart.trap, Hart.csrGet, Hart.csrSet, Tab.get_set]

/-- An instruction whose effect is a change `f` of its own control processor. -/
theorem Completes.hartOnly {i : Instr} {s : State} {core : Nat} {f : Hart → Hart} (p : Hart → Prop)
    (he : exec i s = .next { s with b := s.b.modHart core f }) (hp : p (f (s.b.core core).hart)) :
    Completes (exec i s) fun t => OnlyHart core s t ∧ p (t.b.core core).hart :=
  (Completes.onlyHart he rfl).mono fun _ ⟨hs, hh⟩ => ⟨hs, hh ▸ hp⟩

/-- An instruction that waits: the control processor goes on, or stalls at it. -/
def Hart.goesOrStalls (h : Hart) (go : Bool) (w : Stall) : Hart := if go then h.step4 else { h with stall := some w }

/-- What such an instruction leaves of the control processor `h`. -/
structure GoesOrStalls (h : Hart) (go : Bool) (w : Stall) (h' : Hart) : Prop where
  reg : ∀ r, h'.reg r = h.reg r
  goes : go = true → h'.pc = h.pc + 4 ∧ h'.stall = none
  stalls : go = false → h'.pc = h.pc ∧ h'.stall = some w

theorem Hart.goesOrStalls_does (h : Hart) (go : Bool) (w : Stall) : GoesOrStalls h go w (h.goesOrStalls go w) := by
  cases go with
  | true => exact ⟨fun _ => rfl, fun _ => ⟨rfl, rfl⟩, nofun⟩
  | false => exact ⟨fun _ => rfl, nofun, fun _ => ⟨rfl, rfl⟩⟩

theorem Block.modHart_goesOrStalls (b : Block) (core : Nat) (go : Bool) (w : Stall) :
    (if go then b.modHart core Hart.step4 else b.modHart core fun x => { x with stall := some w }) =
      b.modHart core fun x => x.goesOrStalls go w := by
  cases go <;> rfl

/-- A core whose control processor is not halted is not in reset. -/
theorem Core.ne_reset_of_halted {c : Core} (h : c.hart.halted = false) : c ≠ Core.reset := by
  rintro rfl
  exact nomatch (show true = false from h)

section
variable {s : State} {core : Nat} (hr : HartRuns s.b core)
include hr

theorem engStat_reads (rd rs2 : Nat) (hu : dfld ((s.b.core core).hart.reg rs2) 2 0 < 5) :
    let h := (s.b.core core).hart
    Completes (exec (.engStat core rd rs2) s) fun t => OnlyHart core s t ∧ (t.b.core core).hart.pc = h.pc + 4 ∧
      ∀ r, (t.b.core core).hart.reg r = if r = rd ∧ rd ≠ 0 then s.b.unitStat core (dfld (h.reg rs2) 2 0) else h.reg r := by
  intro h
  have he : exec (.engStat core rd rs2) s = .next { s with b := s.b.modHart core fun x =>
      (x.setReg rd (s.b.unitStat core (dfld (h.reg rs2) 2 0))).step4 } := by
    show execEngStat core rd rs2 s = _
    rw [execEngStat, State.onBlock_eq, Block.onHart_runs _ _ _ _ hr, if_neg (Nat.not_le.2 hu)]
  exact Completes.hartOnly (fun h' => h'.pc = h.pc + 4 ∧ ∀ r, h'.reg r = if r = rd ∧ rd ≠ 0 then _ else h.reg r) he
    ⟨by rw [Hart.step4_pc, Hart.setReg_pc], fun r => by rw [Hart.step4_reg, Hart.setReg_reg]⟩

theorem engStat_traps (rd rs2 : Nat) (hu : 5 ≤ dfld ((s.b.core core).hart.reg rs2) 2 0) :
    let h := (s.b.core core).hart
    Completes (exec (.engStat core rd rs2) s) fun t =>
      OnlyHart core s t ∧ (t.b.core core).hart.machine = true ∧ (t.b.core core).hart.csrGet 0x341 = h.pc ∧
      (t.b.core core).hart.csrGet 0x342 = 2 ∧ (t.b.core core).hart.pc = h.csrGet 0x305 &&& ~~~(3 : Dword) := by
  intro h
  have he : exec (.engStat core rd rs2) s = .next { s with b := s.b.modHart core fun x => x.trap cIllegal 0 } := by
    show execEngStat core rd rs2 s = _
    rw [execEngStat, State.onBlock_eq, Block.onHart_runs _ _ _ _ hr, if_pos hu]
  obtain ⟨hmachine, -, -, hpc⟩ := h.trap_enters cIllegal 0
  obtain ⟨hepc, hcause, -⟩ := h.trap_csrs cIllegal 0
  exact Completes.hartOnly (fun h' => h'.machine = true ∧ h'.csrGet 0x341 = h.pc ∧ h'.csrGet 0x342 = 2 ∧ h'.pc = _) he
    ⟨hmachine, hepc, hcause, hpc⟩

theorem engWait_waits (rs1 rs2 : Nat) (hu : dfld ((s.b.core core).hart.reg rs2) 2 0 < 5) :
    let h := (s.b.core core).hart
    Completes (exec (.engWait core rs1 rs2) s) fun t =>
      let done := ticketDone (s.b.unitDone core (dfld (h.reg rs2) 2 0)) (dfld (h.reg rs1) 15 0)
      OnlyHart core s t ∧ (∀ r, (t.b.core core).hart.reg r = h.reg r) ∧
      (done = true → (t.b.core core).hart.pc = h.pc + 4 ∧ (t.b.core core).hart.stall = none) ∧
      (done = false → (t.b.core core).hart.pc = h.pc ∧
        (t.b.core core).hart.stall = some (.ticket (dfld (h.reg rs2) 2 0) (dfld (h.reg rs1) 15 0))) := by
  intro h
  have he : exec (.engWait core rs1 rs2) s = .next { s with
      b := s.b.modHart core fun x => x.goesOrStalls
        (ticketDone (s.b.unitDone core (dfld (h.reg rs2) 2 0)) (dfld (h.reg rs1) 15 0))
        (.ticket (dfld (h.reg rs2) 2 0) (dfld (h.reg rs1) 15 0)) } := by
    show execEngWait core rs1 rs2 s = _
    rw [execEngWait, State.onBlock_eq, Block.onHart_runs _ _ _ _ hr, if_neg (Nat.not_le.2 hu), Block.modHart_goesOrStalls]
  refine (Completes.hartOnly (GoesOrStalls h _ _) he (h.goesOrStalls_does _ _)).mono fun t ⟨hs, hreg, hgo, hwait⟩ => ?_
  exact ⟨hs, hreg, hgo, hwait⟩

theorem fenceEng_waits :
    let h := (s.b.core core).hart
    Completes (exec (.fenceEng core) s) fun t =>
      OnlyHart core s t ∧ (∀ r, (t.b.core core).hart.reg r = h.reg r) ∧
      ((s.b.core core).ownDone = true → (t.b.core core).hart.pc = h.pc + 4) ∧
      ((s.b.core core).ownDone = false → (t.b.core core).hart.pc = h.pc ∧ (t.b.core core).hart.stall = some .fence) := by
  intro h
  have he : exec (.fenceEng core) s = .next { s with b := s.b.modHart core fun x => x.goesOrStalls (s.b.core core).ownDone .fence } := by
    show execFenceEng core s = _
    rw [execFenceEng, State.onBlock_eq, Block.onHart_runs _ _ _ _ hr, Block.modHart_goesOrStalls]
  refine (Completes.hartOnly (GoesOrStalls h _ _) he (h.goesOrStalls_does _ _)).mono fun t ⟨hs, hreg, hgo, hwait⟩ => ?_
  exact ⟨hs, hreg, fun hd => (hgo hd).1, hwait⟩

theorem tagClr_clears (rs1 rs2 : Nat) :
    let h := (s.b.core core).hart
    Completes (exec (.tagClr core rs1 rs2) s) fun t =>
      OnlyCore core s t ∧ (t.b.core core).hart.pc = h.pc + 4 ∧ (∀ r, (t.b.core core).hart.reg r = h.reg r) ∧
      ∀ a, (t.b.core core).scratch.read a =
        if lineWithin (h.reg rs1).toNat (h.reg rs2).toNat (a / 128) then 0 else (s.b.core core).scratch.read a := by
  intro h
  obtain ⟨hrun, -⟩ := id hr
  have he : exec (.tagClr core rs1 rs2) s = .next { s with b := s.b.modCore core fun c =>
      { c.tagClr (h.reg rs1).toNat (h.reg rs2).toNat with hart := c.hart.step4 } } := by
    show execTagClr core rs1 rs2 s = _
    rw [execTagClr, State.onBlock_eq, Block.onHart_runs _ _ _ _ hr, Block.modHart, Block.modCore_modCore]
    · rfl
    · exact Core.ne_reset_of_halted hrun
  exact Completes.onlyCore he (p := fun c => c.hart.pc = h.pc + 4 ∧ (∀ r, c.hart.reg r = h.reg r) ∧ ∀ a, c.scratch.read a =
      if lineWithin (h.reg rs1).toNat (h.reg rs2).toNat (a / 128) then 0 else (s.b.core core).scratch.read a)
    ⟨rfl, fun _ => rfl, (s.b.core core).tagClr_read _ _⟩

end

/-- Settles O21: each instruction changes its own control processor, and tag.clr its core's scratchpad besides. -/
theorem dispatchInstructionsOfAHart : Obligations.DispatchInstructionsOfAHart := by
  intro s core hr
  exact ⟨fun rd rs2 hu => engStat_reads hr rd rs2 hu, fun rs1 rs2 hu => engWait_waits hr rs1 rs2 hu, fenceEng_waits hr,
    fun rs1 rs2 => tagClr_clears hr rs1 rs2, fun rd rs2 hu => engStat_traps hr rd rs2 hu⟩

end Sys2Proof.Machine
end

section
/-! Programs of the vector unit: their start, their end, address registers and predicates, and invalid fields (R75, R85, R457; O17). -/

namespace Sys2Proof.Machine

/-! ### The end of a program -/

/-- A vector unit whose program p has ended (R77). -/
def Vec.ended (v : Vec) (p : VProg) : Vec := Vec.settle (v.refused.length + 2) { v with run := none, refused := v.refused ++ [p.ticket] }

theorem Vec.settle_v (n : Nat) (v : Vec) : (Vec.settle n v).v = v.v := by
  induction n generalizing v with
  | zero => rfl
  | succ n ih =>
    simp only [Vec.settle]
    split
    · exact ih _
    · rfl

theorem Vec.ended_run (v : Vec) (p : VProg) : (v.ended p).run = none := (Vec.settle_progs _ _).1
theorem Vec.ended_v (v : Vec) (p : VProg) : (v.ended p).v = v.v := Vec.settle_v _ _

/-- DONE advances to the ticket of the program that ends, where no ticket before it or after it was dropped. -/
theorem Vec.ended_done (v : Vec) (p : VProg) (ht : p.ticket = (v.done + 1).toNat) (hr : v.refused = []) : (v.ended p).done = v.done + 1 := by
  simp [Vec.ended, Vec.settle, hr, ht]

/-- Changes of a core that agree on it are one. -/
theorem Block.modCore_congr {b : Block} {core : Nat} {f g : Core → Core} (h : f (b.core core) = g (b.core core)) :
    b.modCore core f = b.modCore core g := by
  show { b with cores := Tab.set _ b.cores core (f (b.core core)) } = { b with cores := Tab.set _ b.cores core (g (b.core core)) }
  rw [h]

theorem Block.vecEnd_eq {b : Block} {core : Nat} {p : VProg} (h : (b.core core).vec.run = some p) :
    b.vecEnd core = b.modCore core fun c => { c with watch := Tab.erase c.watch 4, vec := (b.core core).vec.ended p } := by
  have hne : { b.core core with watch := Tab.erase (b.core core).watch 4 } ≠ Core.reset := Core.ne_reset_of_run h
  rw [Block.vecEnd, Block.progress, Block.modVec, Block.modCore_modCore b core _ _ hne]
  refine Block.modCore_congr ?_
  dsimp only
  rw [h]
  rfl

theorem vectorProgramStart_starts {s : State} {core : Nat} {p : VProg} {rest : List VProg} (hparked : s.b.parked = false)
    (hgated : s.b.gated = false) :
    let v := (s.b.core core).vec
    v.run = none → v.queue = p :: rest → Completes (exec (.vectorProgramStart core) s) fun t =>
      OnlyVec core s t ∧ (t.b.core core).vec = { v with run := some p, queue := rest } := by
  intro v hrun hqueue
  have he : exec (.vectorProgramStart core) s = .next { s with b := s.b.modVec core fun v => { v with run := some p, queue := rest } } := by
    show execVectorProgramStart core s = _
    simp only [execVectorProgramStart, State.onBlock_eq, show (s.b.core core).vec.run = none from hrun,
      show (s.b.core core).vec.queue = p :: rest from hqueue, hparked, hgated, Bool.or_self, Bool.false_eq_true, if_false]
  have hvec : ((s.b.modVec core fun v => { v with run := some p, queue := rest }).core core).vec = { v with run := some p, queue := rest } := by
    rw [Block.modVec, Block.modCore_core_same]
  exact ⟨_, he, by rw [OnlyVec, hvec]; rfl, hvec⟩

theorem vend_ends {s : State} {core : Nat} {p : VProg} (h : VecNext s.b core p 0x3F) :
    let v := (s.b.core core).vec
    Completes (exec (.vend core) s) fun t => OnlyLanes core s t ∧ (t.b.core core).vec.run = none ∧ (t.b.core core).vec.v = v.v ∧
      (p.ticket = (v.done + 1).toNat → v.refused = [] → (t.b.core core).vec.done = v.done + 1) := by
  intro v
  obtain ⟨hrun, hparked, hgated, hbad, hop⟩ := h
  have hraw : leNat (s.b.rdRaw core p.pc 8) = (s.b.core core).rdS64 p.pc := by simp [Block.rdRaw, hbad, Core.rdS64]
  have he : exec (.vend core) s = .next { s with
      b := s.b.modCore core fun c => { c with watch := Tab.erase c.watch 4, vec := v.ended p } } := by
    show execVend core s = _
    rw [← Block.vecEnd_eq hrun]
    simp [execVend, State.onBlock_eq, hrun, hparked, hgated, hbad, hraw, hop, vecOps]
  have hcore : ((s.b.modCore core fun c => { c with watch := Tab.erase c.watch 4, vec := v.ended p }).core core).vec = v.ended p := by
    rw [Block.modCore_core_same]
  refine ⟨_, he, ⟨⟨rfl, rfl, rfl, (s.b.modCore_keeps core _).mono (by simp)⟩, ?_⟩, ?_, ?_, fun ht hr => ?_⟩
  · dsimp only
    rw [Block.modCore_core_same]
    exact congrArg Block.cores (Block.modCore_congr rfl)
  · rw [hcore, Vec.ended_run]
  · rw [hcore, Vec.ended_v]
  · rw [hcore, Vec.ended_done _ _ ht hr]

/-! ### Address registers and predicates -/

/-- An instruction that changes its vector unit alone, by `g`, and goes on. -/
theorem Completes.vecChanged {s : State} {core op : Nat} {p : VProg} (h : VecNext s.b core p op) (hop : op ∈ vecOps)
    {F : Block → VProg → Nat → Option Block} {i : Instr} (hi : exec i s = s.onBlock fun b => b.vecRun core op F) {g : Vec → Vec}
    (hF : F s.b.noWants p ((s.b.core core).rdS64 p.pc) = some (s.b.noWants.modVec core g)) (hg : ∀ v, (g v).run = v.run) :
    Completes (exec i s) fun t => OnlyLanes core s t ∧ (t.b.core core).vec.run = some { p with pc := p.pc + 8 } ∧
      (t.b.core core).vec.v = (g (s.b.core core).vec).v ∧ (t.b.core core).vec.a = (g (s.b.core core).vec).a ∧
      (t.b.core core).vec.p = (g (s.b.core core).vec).p := by
  obtain ⟨hrun, -⟩ := id h
  have hg' : (g (s.b.core core).vec).run = some p := (hg _).trans hrun
  have hk := s.b.noWants.modVec_keeps core g
  refine ⟨_, exec_vecNext h hop hi hF rfl, ⟨vecStepped_frame core (hk.mono (by simp)) (List.Subset.refl _), Block.vecStepped_cores hg'⟩, ?_⟩
  have hvec : ((s.b.noWants.modVec core g).core core).vec = g (s.b.core core).vec := by rw [Block.modVec, Block.modCore_core_same]; rfl
  rw [Block.vecStepped_core]
  dsimp only
  rw [hvec, hg']
  exact ⟨rfl, rfl, rfl, rfl⟩

theorem vseta_sets {s : State} {core : Nat} {p : VProg} (h : VecNext s.b core p 0x08) :
    let v := (s.b.core core).vec
    let w := (s.b.core core).rdS64 p.pc
    viVD w < 8 → Completes (exec (.vseta core) s) fun t =>
      OnlyLanes core s t ∧ (t.b.core core).vec.run = some { p with pc := p.pc + 8 } ∧ (t.b.core core).vec.v = v.v ∧
        ∀ k, (t.b.core core).vec.areg k = if k = viVD w then (BitVec.ofNat 32 (viImm w)).signExtend 64 else v.areg k := by
  intro v w hd
  have hset := Completes.vecChanged (i := .vseta core) h (by decide) rfl (g := fun v =>
    { v with a := Tab.set 0 v.a (viVD w) ((BitVec.ofNat 32 (viImm w)).signExtend 64) }) (if_neg (Nat.not_le.2 hd)) fun _ => rfl
  clear_value w
  refine hset.mono fun t ⟨hs, hrun, hv, ha, _⟩ => ⟨hs, hrun, hv, fun k => ?_⟩
  rw [Vec.areg, ha]
  exact Tab.get_set _ _ _ _ _

/-- A write of a predicate's bits gives those that are named their values, and no other bit changes. -/
theorem Vec.setBits_pbit (v : Vec) (k : Nat) (on f : Nat → Bool) (k' : Nat) {l : Nat} (hl : l < 512) :
    (v.setBits k on f).pbit k' l = if k' = k ∧ on l = true then f l else v.pbit k' l := by
  have hmem : ∀ x, x ∈ lanes.filter on ↔ x < 512 ∧ on x = true := fun x => by rw [List.mem_filter, lanes, List.mem_range]
  have hn : (lanes.filter on).Nodup := List.nodup_range.filter on
  rw [Vec.pbit, Vec.setBits, Vec.pbit]
  generalize lanes.filter on = L at hmem hn
  obtain ⟨hin, hout⟩ := Tab.get_foldl_set false (fun x => 512 * k + x) (fun x _ => f x) L
    (hn.map fun x y h => Nat.add_left_cancel h) v.p
  split
  · rename_i h
    rw [h.1]
    exact hin l ((hmem l).2 ⟨hl, h.2⟩)
  · rename_i h
    refine hout _ fun hk => h ?_
    obtain ⟨x, hx, he⟩ := List.mem_map.1 hk
    obtain ⟨hx, hon⟩ := (hmem x).1 hx
    obtain ⟨hr, rfl⟩ := (lane_key_inj hx hl).1 he
    exact ⟨hr.symm, hon⟩

/-- A bit depends on the predicates alone. -/
theorem Vec.pbit_congr {v v' : Vec} (h : v'.p = v.p) (k l : Nat) : v'.pbit k l = v.pbit k l := by rw [Vec.pbit, Vec.pbit, h]

theorem Vec.setBits_run (v : Vec) (k : Nat) (on f : Nat → Bool) : (v.setBits k on f).run = v.run := by rw [Vec.setBits]
theorem Vec.setBits_v (v : Vec) (k : Nat) (on f : Nat → Bool) : (v.setBits k on f).v = v.v := by rw [Vec.setBits]

theorem vcmplt_compares {s : State} {core : Nat} {p : VProg} (h : VecNext s.b core p 0x19) :
    let v := (s.b.core core).vec
    let w := (s.b.core core).rdS64 p.pc
    1 ≤ viVD w → viVD w < 8 → Completes (exec (.vcmplt core) s) fun t =>
      OnlyLanes core s t ∧ (t.b.core core).vec.run = some { p with pc := p.pc + 8 } ∧ (t.b.core core).vec.v = v.v ∧
        ∀ k l, l < 512 → (t.b.core core).vec.pbit k l =
          if k = viVD w ∧ v.on w l = true then (unpack32 (v.lane (viVA w) l)).lt (unpack32 (v.lane (viVB w) l)) else v.pbit k l := by
  intro v w h1 h8
  have hvalid : ¬((viVD w == 0 || decide (8 ≤ viVD w)) = true) := by
    rw [Bool.or_eq_true, beq_iff_eq, decide_eq_true_eq]; omega
  have hcmp := Completes.vecChanged (i := .vcmplt core) h (by decide) rfl (g := fun v =>
    v.setBits (viVD w) (v.on w) fun l => (unpack32 (v.lane (viVA w) l)).lt (unpack32 (v.lane (viVB w) l))) (if_neg hvalid)
      fun _ => Vec.setBits_run _ _ _ _
  clear_value w
  refine hcmp.mono fun t ⟨hs, hrun, hv, _, hp⟩ => ⟨hs, hrun, hv.trans (Vec.setBits_v _ _ _ _), fun k l hl => ?_⟩
  rw [Vec.pbit_congr hp, Vec.setBits_pbit _ _ _ _ _ hl]

/-! ### Fields that R457 forbids -/

/-- A vector unit gives a code to the context of its program. -/
theorem Block.vecCode_keeps (b : Block) (core ctx code : Nat) : b.Keeps [.cores, .ctxs, .ports] (b.vecCode core ctx code) :=
  ((b.ctxCode_keeps ctx code).mono (by simp)).trans ((Block.modVec_keeps _ core _).mono (by simp))

theorem Block.vecCode_vec (b : Block) (core ctx code : Nat) :
    ((b.vecCode core ctx code).core core).vec = { (b.core core).vec with lastErr := code } := by
  rw [Block.vecCode, Block.modVec, Block.modCore_core_same, (b.ctxCode_keeps ctx code).core_eq (by simp)]

/-- A code of R236 notes no line still to come. -/
theorem Block.ctxCode_ports (b : Block) (c : Nat) {code : Nat} (h : code < 65536) : (b.ctxCode c code).ports = b.ports := by
  rw [Block.ctxCode, if_neg (Nat.not_le.2 h)]
  rfl

/-- An instruction with a field that is forbidden ends its program with OP_INVALID. -/
theorem vecRun_stops {s : State} {core op : Nat} {p : VProg} (h : VecNext s.b core p op) (hop : op ∈ vecOps)
    {F : Block → VProg → Nat → Option Block} {i : Instr} (hi : exec i s = s.onBlock fun b => b.vecRun core op F)
    (hF : F s.b.noWants p ((s.b.core core).rdS64 p.pc) = none) :
    Completes (exec i s) fun t => Frame [.cores, .ctxs, .ports] s t ∧ (t.b.core core).vec.run = none ∧
      (t.b.core core).vec.v = (s.b.core core).vec.v ∧ (t.b.ctx p.ctx).lastCode = 0x21 := by
  obtain ⟨hrun, -⟩ := id h
  have hcode := s.b.noWants.vecCode_keeps core p.ctx cOpInvalid
  have hvec : ((s.b.noWants.vecCode core p.ctx cOpInvalid).core core).vec = { (s.b.core core).vec with lastErr := cOpInvalid } :=
    s.b.noWants.vecCode_vec core p.ctx cOpInvalid
  have hend := Block.vecEnd_eq (b := s.b.noWants.vecCode core p.ctx cOpInvalid) (core := core) (p := p) (by rw [hvec]; exact hrun)
  rw [hvec] at hend
  have hinvalid : s.b.noWants.vecInvalid core p = _ := hend
  have hmet : Met s.b fun b => b.vecNext core p (F b p ((s.b.core core).rdS64 p.pc)) := by
    rw [Met, hF, Block.vecNext, hinvalid]
    exact congrArg Ports.wanted (s.b.noWants.ctxCode_ports p.ctx (by decide : cOpInvalid < 65536))
  have hdrop := (s.b.noWants.vecInvalid core p).dropLines_keeps core 6
  have he : exec i s = .next { s with b := (s.b.noWants.vecInvalid core p).dropLines core 6 } := by
    rw [hi, State.onBlock_eq, Block.vecRun_next h hop hmet, hF, Block.vecNext]
  refine ⟨_, he, ⟨rfl, rfl, rfl, ?_⟩, ?_, ?_, ?_⟩
  · refine ((s.b.noWants_keeps.mono (by simp)).trans ?_).trans (hdrop.mono (by simp))
    rw [hinvalid]
    exact hcode.trans ((Block.modCore_keeps _ core _).mono (by simp))
  · rw [hdrop.core_eq (by simp), hinvalid, Block.modCore_core_same, Vec.ended_run]
  · rw [hdrop.core_eq (by simp), hinvalid, Block.modCore_core_same, Vec.ended_v]
  · rw [hdrop.ctx_eq (by simp), hinvalid, Block.modCore_ctx]
    exact Block.ctxCode_lastCode _ _ _ (by decide : cOpInvalid < 65536)

/-- An offset that is misaligned, or runs past the scratchpad's end. -/
theorem immOk_false {off n : Nat} (h : off % 128 ≠ 0 ∨ 0x300000 < off + n) : immOk off n = false := by
  rw [← Bool.not_eq_true, immOk_iff]; omega

theorem vldn_invalid {b : Block} {core w : Nat} {p : VProg} (bad : narrowImm w = none ∨ 8 ≤ viVA w) : b.vldn core p w = none := by
  rw [Block.vldn]
  split
  · rfl
  · rename_i himm
    exact if_pos (bad.resolve_left (himm ▸ nofun))

theorem vstn_invalid {b : Block} {core w : Nat} {p : VProg}
    (bad : narrowStore (b.core core).vec w = none ∨ 8 ≤ viVA w ∨ 8 ≤ viVC w) : b.vstn core p w = none := by
  rw [Block.vstn]
  dsimp only
  split
  · rfl
  · rename_i himm
    exact if_pos (by simpa using bad.resolve_left (himm ▸ nofun))

theorem vscupd_invalid {b : Block} {core w : Nat} {p : VProg} (bad : 8 ≤ viVA w ∨ 8 ≤ viVB w ∨ 2 ≤ viImm w) :
    b.vscupd core p w = none := by
  refine if_pos ?_
  rw [Bool.or_eq_true, Bool.or_eq_true, decide_eq_true_eq, decide_eq_true_eq, bne_iff_ne]
  omega

/-- Settles O17: a program's start and end, the two instructions that write address registers and predicates, and every field
that R457 forbids. -/
theorem vectorProgramsRunAndStop : Obligations.VectorProgramsRunAndStop := by
  intro s core p v w
  refine ⟨fun rest hrun hqueue hparked hgated => vectorProgramStart_starts hparked hgated hrun hqueue, vend_ends, vseta_sets, vcmplt_compares, ?_⟩
  intro stops off
  refine ⟨fun h bad => vecRun_stops h (by decide) (i := .vld core) rfl ?_, fun h bad => vecRun_stops h (by decide) (i := .vst core) rfl ?_,
    fun h bad => vecRun_stops h (by decide) (i := .vldb core) rfl ?_, fun h bad => vecRun_stops h (by decide) (i := .vstb core) rfl ?_,
    fun h bad => vecRun_stops h (by decide) (i := .vldn core) rfl ?_, fun h bad => vecRun_stops h (by decide) (i := .vstn core) rfl ?_,
    fun h bad => vecRun_stops h (by decide) (i := .vseta core) rfl ?_, fun h bad => vecRun_stops h (by decide) (i := .vcmplt core) rfl ?_,
    fun h bad => vecRun_stops h (by decide) (i := .vsel core) rfl ?_, fun h bad => vecRun_stops h (by decide) (i := .vscupd core) rfl ?_,
    fun h bad => vecRun_stops h (by decide) (i := .vadamw core) rfl ?_, fun h bad => vecRun_stops h (by decide) (i := .vsgdm core) rfl ?_⟩
  · exact if_pos (by rw [immOk_false bad, Bool.not_false])
  · exact if_pos (by rw [Bool.not_eq_true']; exact bad)
  · exact if_pos (by rw [immOk_false bad, Bool.not_false])
  · exact if_pos (by rw [Bool.not_eq_true']; exact bad)
  · exact vldn_invalid bad
  · exact vstn_invalid bad
  · exact if_pos bad
  · exact if_pos (by rw [Bool.or_eq_true, beq_iff_eq, decide_eq_true_eq]; exact bad)
  · exact if_pos bad
  · exact vscupd_invalid bad
  · exact if_pos (by rw [immOk_false bad, Bool.not_false])
  · exact if_pos (by
      rw [Bool.or_eq_true, bne_iff_ne, Bool.not_eq_true']
      exact (or_assoc.2 bad).imp_left immOk_false)

end Sys2Proof.Machine
end

section
/-! Accesses to memory by the units of a core, as the steps that they are made of (R71, R206, R232, R237, R281 to R291): whatever such
steps leave alone, every access leaves alone. -/

namespace Sys2Proof.Machine

/-- What accesses of a core's units, its own scratchpad and windows included, are made of: changes of the homes and agents of the domains,
of counters of slices, of the device memory, of reservations of control processors, of the ports, of the marks of the context cache, and
writes of lines of the core's scratchpad. -/
inductive Accesses (core : Nat) : Block → Block → Prop where
  | refl (b : Block) : Accesses core b b
  | trans {b c d : Block} : Accesses core b c → Accesses core c d → Accesses core b d
  | modCoh (b : Block) (f : Coh → Coh) : Accesses core b (b.modCoh f)
  | modCnt (b : Block) (n : Nat) (f : Counters → Counters) : Accesses core b (b.modCnt n f)
  | modMem (b : Block) (m : DevMem) : Accesses core b { b with mem := m }
  | dropReservation (b : Block) (n : Nat) (p : Hart → Bool) :
    Accesses core b (b.modHart n fun h => if p h then { h with reservation := none } else h)
  | modPorts (b : Block) (f : Ports → Ports) : Accesses core b (b.modPorts f)
  | cached (b : Block) (c : Nat) (x : Option Nat) : Accesses core b (b.modCtx c fun y => { y with cached := x })
  | scratch (b : Block) (a : Nat) (bs : List Byte) : Accesses core b (b.modCore core fun z => z.wrLineS a bs)

namespace Accesses

variable {core : Nat}

theorem foldl {α : Type} (f : Block → α → Block) (hf : ∀ (b : Block) (x : α), Accesses core b (f b x)) (l : List α) (b : Block) :
    Accesses core b (l.foldl f b) := by
  induction l generalizing b with
  | nil => exact refl b
  | cons x l ih => exact (hf b x).trans (ih (f b x))

theorem ite {b x y : Block} {p : Prop} [Decidable p] (hx : Accesses core b x) (hy : Accesses core b y) :
    Accesses core b (if p then x else y) := by
  split
  · exact hx
  · exact hy

theorem send (b : Block) (m : CohMsg) : Accesses core b (b.send m) := modCoh b _
theorem storeLine (b : Block) (line key : Nat) (d : BitVec 1024) : Accesses core b (b.storeLine line key d) := modMem b _
theorem setPoison (b : Block) (line : Nat) (v : Bool) : Accesses core b (b.setPoison line v) := modMem b _

theorem loseCopies (b : Block) (line : Nat) (p : Nat → Bool) : Accesses core b (b.loseCopies line p) := by
  simp only [Block.loseCopies]
  exact ite (refl b) ((foldl _ (fun b n => dropReservation b n _) _ b).trans (modCoh _ _))

theorem takeMsg {b b' : Block} {p : CohMsg → Bool} {m : CohMsg} (h : b.takeMsg p = some (m, b')) : Accesses core b b' := by
  simp only [Block.takeMsg] at h
  split at h
  · cases h
  · cases h; exact modCoh b _

/-! ### The home -/

theorem dropCopy (b : Block) (a : Agent) (line : Nat) : Accesses core b (b.dropCopy a line) := by
  simp only [Block.dropCopy]
  split
  · exact (loseCopies b line _).trans (modCoh _ _)
  · exact modCoh b _

theorem modTxn (b : Block) (line : Nat) (f : Txn → Txn) : Accesses core b (b.modTxn line f) := modCoh b _

theorem grantLine (b : Block) (a : Agent) (line : Nat) (st : LineSt) (d : BitVec 1024) (key : Nat) : Accesses core b (b.grantLine a line st d key) :=
  send b _

theorem poisonReq (b : Block) (a : Agent) (line : Nat) : Accesses core b (b.poisonReq a line) :=
  (modTxn b _ _).trans (ite (refl _) (send _ _))

theorem freeFilt (b : Block) (line : Nat) (kept : Bool) : Accesses core b (b.freeFilt line kept) := by
  rw [Block.freeFilt]
  split
  · exact refl b
  · exact modCoh b _

theorem resolve (b : Block) (line : Nat) : Accesses core b (b.resolve line) := by
  simp only [Block.resolve]
  split
  · exact refl b
  · rename_i t _
    have hm : ∀ f : Block → Block, Accesses core b (f b) → Accesses core b
        (if (t.wbd.isNone && b.linePoisoned line) = true then
          (b.poisonReq t.requester line).freeFilt line (t.kept || (!((b.coh.filt line).map fun x => x.owner.isSome).getD false && t.req == .uncrd))
         else f b) := by
      intro f hf
      split
      · exact (poisonReq b _ _).trans (freeFilt _ _ _)
      · exact hf
    split
    · split
      · exact modCoh b _
      · refine hm (fun b' => if t.kept = true then _ else _) ?_
        split
        · exact (grantLine b _ _ _ _ _).trans (modCoh _ _)
        · exact (grantLine b _ _ _ _ _).trans (modCoh _ _)
    · split
      · exact modCoh b _
      · exact hm (fun b' => _) ((grantLine b _ _ _ _ _).trans (modCoh _ _))
    · split
      · exact ((storeLine b _ _ _).trans (setPoison _ _ _)).trans ((grantLine _ _ _ _ _ _).trans (modCoh _ _))
      · exact ((storeLine b _ _ _).trans (setPoison _ _ _)).trans ((modCoh _ _).trans (modCoh _ _))
    · exact ite (refl b) (hm (fun b' => _) ((send b _).trans (freeFilt _ _ _)))
    · exact (storeLine b _ _ _).trans (modCoh _ _)
    · exact hm (fun b' => _) (((storeLine b _ _ _).trans (send _ _)).trans (modCoh _ _))
    · exact refl b
    · split
      · exact modCoh b _
      · exact (storeLine b _ _ _).trans (modCoh _ _)

theorem openTxn (b : Block) (w : Want) (v : Option Nat) : Accesses core b (b.openTxn w v) := by
  simp only [Block.openTxn]
  split
  · exact (modCoh b _).trans (ite (refl _) (resolve _ _))
  · exact (modCoh b _).trans (ite (resolve _ _) (foldl _ (fun b _ => send b _) _ _))

theorem turnAway (b : Block) (w : Want) : Accesses core b (b.turnAway w) :=
  ite (modCoh b _) (((send b _).trans (modCnt _ _ _)).trans (ite (modCoh _ _) (refl _)))

theorem handleReq (b : Block) (w : Want) : Accesses core b (b.handleReq w) := by
  refine ite (turnAway _ w) ?_
  split
  · exact (modCoh _ _).trans (openTxn _ _ _)
  · exact (modCoh _ _).trans (((openTxn _ _ _).trans (openTxn _ _ _)).trans (modCnt _ _ _))

theorem acceptWb (b : Block) (a : Agent) (line : Nat) : Accesses core b (b.acceptWb a line) := by
  simp only [Block.acceptWb]
  split
  · exact refl b
  · refine ite (ite (refl b) (modCoh b _)) ((ite ((storeLine b _ _ _).trans (modCoh _ _)) (refl b)).trans ((modCoh _ _).trans (send _ _)))

theorem acceptWbs (b : Block) (line : Nat) : Accesses core b (b.acceptWbs line) :=
  ite (refl b) ((modCoh b _).trans (foldl _ (fun b _ => acceptWb b _ _) _ _))

theorem freeLine (b : Block) (line : Nat) : Accesses core b (b.freeLine line).1 := by
  simp only [Block.freeLine]
  refine (acceptWbs b line).trans ?_
  split
  · dsimp only; exact modCoh _ _
  · split
    · exact refl _
    · exact (modCoh _ _).trans (handleReq _ _)

theorem wake (b : Block) (line : Nat) : Accesses core b (b.wake line) :=
  foldl _ (fun b _ => (modTxn b _ _).trans (resolve _ _)) _ b

theorem settleLine (line n : Nat) (b : Block) : Accesses core b (Block.settleLine line n b) := by
  induction n generalizing b with
  | zero => exact refl b
  | succ n ih =>
    rw [Block.settleLine]
    split
    · exact refl b
    · split
      · have h : Accesses core b _ := (modCoh b fun c => { c with busy := Tab.erase c.busy line }).trans ((wake _ line).trans (freeLine _ line))
        dsimp only
        split
        · exact h.trans (ih _)
        · exact h
      · exact refl b

theorem settleTxn (b : Block) (line : Nat) : Accesses core b (b.settleTxn line) := settleLine line _ b

/-! ### Agents -/

theorem answerSnoop (b : Block) (a : Agent) (line : Nat) (s : Snoop) (req : Agent) : Accesses core b (b.answerSnoop a line s req) := by
  rw [Block.answerSnoop]
  dsimp only
  split
  · split
    · exact (modCoh b _).trans (send _ _)
    · exact send b _
  · split
    · exact send b _
    · exact (modCoh b _).trans ((grantLine _ _ _ _ _ _).trans (send _ _))
    · exact (dropCopy b _ _).trans (send _ _)
    · exact (dropCopy b _ _).trans (ite ((grantLine _ _ _ _ _ _).trans (send _ _)) (send _ _))
    · exact send b _
    · exact send b _
    · exact send b _

theorem deliverSnoop (b : Block) (a : Agent) (line : Nat) (s : Snoop) : Accesses core b (b.deliverSnoop a line s) := by
  rw [Block.deliverSnoop]
  split
  · rename_i h
    refine (takeMsg h).trans ?_
    split
    · exact (modCoh _ _).trans (modCnt _ _ _)
    · exact answerSnoop _ _ _ _ _
  · exact refl b

theorem holdEnds (b : Block) (a : Agent) (line : Nat) : Accesses core b (b.holdEnds a line) :=
  (modCoh b _).trans (foldl _ (fun b _ => answerSnoop b _ _ _ _) _ _)

theorem useLine (b : Block) (a : Agent) (line : Nat) (first : Bool) : Accesses core b (b.useLine a line first) := by
  cases a with
  | cluster n c => rw [Block.useLine]; exact modCoh b _
  | priv n i => exact refl b
  | uncached n i => exact refl b

theorem evictCopy (b : Block) (l : CLine) : Accesses core b (b.evictCopy l) := (dropCopy b _ _).trans (ite (modCoh _ _) (refl _))

theorem makeRoom (b : Block) (a : Agent) (line : Nat) : Accesses core b (b.makeRoom a line).1 := by
  cases a with
  | cluster n c =>
    simp only [Block.makeRoom]
    split
    · exact refl b
    · split
      · exact refl b
      · split
        · exact refl b
        · exact evictCopy b _
  | priv n i => exact refl b
  | uncached n i => exact refl b

theorem install (b : Block) (a : Agent) (line : Nat) (st : LineSt) (d : BitVec 1024) (key : Nat) : Accesses core b (b.install a line st d key) :=
  (makeRoom b a line).trans (((modCoh _ _).trans (useLine _ _ _ _)).trans ((ite (evictCopy _ _) (refl _)).trans (send _ _)))

theorem takeData (b : Block) (a : Agent) (line : Nat) : Accesses core b (b.takeData a line) := by
  rw [Block.takeData]
  split
  · rename_i h; exact (takeMsg h).trans (install _ _ _ _ _ _)
  · rename_i h; exact (takeMsg h).trans (modCoh _ _)
  · exact refl b

theorem takeRsp (b : Block) (a : Agent) (line : Nat) : Accesses core b (b.takeRsp a line) := by
  rw [Block.takeRsp]
  split
  · rename_i h
    refine (takeMsg h).trans ?_
    split
    · exact refl _
    · rename_i b' _ t _
      have hs : ∀ b'' : Block, Accesses core b' b'' → ∀ f : Txn → Txn, ∀ p : Bool,
          Accesses core b' (if p = true then ((b''.modTxn line f).resolve line).settleTxn line else (b''.modTxn line f).settleTxn line) := by
        intro b'' h f p
        split
        · exact h.trans ((modTxn _ _ _).trans ((resolve _ _).trans (settleTxn _ _)))
        · exact h.trans ((modTxn _ _ _).trans (settleTxn _ _))
      dsimp only
      apply hs
      split
      · exact storeLine _ _ _ _
      · exact storeLine _ _ _ _
      · split
        · exact storeLine _ _ _ _
        · exact refl _
      · exact refl _
  · exact refl b

theorem takeAck (b : Block) (a : Agent) (line : Nat) : Accesses core b (b.takeAck a line) := by
  rw [Block.takeAck]
  split
  · rename_i h; exact (takeMsg h).trans ((modTxn _ _ _).trans (settleTxn _ _))
  · exact refl b

/-! ### A transaction made whole -/

theorem answerNow (b : Block) (a : Agent) (line : Nat) : Accesses core b (b.answerNow a line) := by
  refine Accesses.trans (foldl _ (fun b m => ?_) _ b) ((ite (refl _) (holdEnds _ _ _)).trans (takeRsp _ _ _))
  split
  · exact ite (deliverSnoop b _ _ _) (refl b)
  · exact refl b

theorem pushGo (line n : Nat) (b : Block) : Accesses core b (Block.pushGo line n b) := by
  induction n generalizing line b with
  | zero => exact refl b
  | succ n ih =>
    rw [Block.pushGo]
    split
    · exact refl b
    · rename_i t _
      refine ite (refl b) ?_
      have h1 : Accesses core b (match t.waitsFor with | none => b | some v => Block.pushGo v n b) := by
        split
        · exact refl b
        · exact ih _ b
      refine h1.trans ((foldl _ (fun b x => answerNow b x line) t.snoops _).trans (Accesses.trans ?_ (ih line _)))
      exact ite ((takeData _ _ _).trans (takeAck _ _ _)) (settleTxn _ _)

theorem push (b : Block) (line : Nat) : Accesses core b (b.push line) := ite (pushGo _ _ _) (refl b)

theorem recallLine (b : Block) (line : Nat) (own : Bool) : Accesses core b (b.recall line own) := (openTxn b _ _).trans (push _ _)

/-! ### The block's own writes -/

theorem takeLine (b : Block) (line : Nat) : Accesses core b (b.takeLine line) := by
  simp only [Block.takeLine]
  have h1 : ∀ b : Block, Accesses core b (match b.coh.newest line with | none => b | some x => b.storeLine line x.2 x.1) := by
    intro b
    split
    · exact refl b
    · exact storeLine b _ _ _
  exact ((h1 b).trans (loseCopies _ line fun _ => true)).trans (ite (modCoh _ _) (refl _))

theorem wrLater (b : Block) (g k : Nat) (bs : List Byte) : Accesses core b (b.wrLater g k bs) :=
  (modCoh b _).trans (ite (refl _) (recallLine _ _ _))

theorem wrLine (b : Block) (g k : Nat) (bs : List Byte) : Accesses core b (b.wrLine g k bs) := by
  rw [Block.wrLine]
  refine ite (wrLater b g k bs) ((takeLine b (k / 128)).trans (modMem _ _))

theorem wrMem (b : Block) (g k : Nat) (bs : List Byte) : Accesses core b (b.wrMem g k bs) :=
  foldl (α := Nat × List Byte) _ (fun b c => wrLine b g c.1 c.2) _ b

theorem wrOwn (b : Block) (n a : Nat) (bs : List Byte) : Accesses core b (b.wrOwn n a bs) := by
  rw [Block.wrOwn]
  exact ite (wrMem b _ _ _) (refl b)

theorem ctxWriteBack (b : Block) (c : Nat) : Accesses core b (b.ctxWriteBack c) := by
  simp only [Block.ctxWriteBack]
  exact ite (wrOwn b _ _ _) (refl b)

/-! ### Requests and turns at a line's home -/

theorem request (b : Block) (a : Agent) (line key : Nat) (r : CohReq) (auto : Bool) : Accesses core b (b.request a line key r auto) := by
  refine ite (refl b) ?_
  split
  · exact (modCoh b _).trans (handleReq _ _)
  · exact ite (refl b) ((modCoh b _).trans (handleReq _ _))

theorem takeNack (b : Block) (a : Agent) (line : Nat) : Accesses core b (b.takeNack a line) := by
  rw [Block.takeNack]
  split
  · exact refl b
  · rename_i h
    refine (takeMsg h).trans ?_
    split
    · exact refl _
    · exact ite (modCoh _ _) (modCoh _ _)

theorem whole (b : Block) (a : Agent) (line key : Nat) (r : CohReq) : Accesses core b (b.whole a line key r).1 := by
  rw [Block.whole]
  dsimp only
  refine ((request b a line key r true).trans (push _ line)).trans ?_
  generalize (b.request a line key r true).push line = b
  split
  · dsimp only
    exact modCoh _ _
  · split
    · exact takeNack _ _ _
    · dsimp only
      exact modCoh _ _

theorem nackHome (b : Block) (a : Agent) (line : Nat) : Accesses core b (b.nackHome a line) :=
  ite (refl b) ((modCoh b _).trans ((turnAway _ _).trans (takeNack _ _ _)))

theorem homeTurn (b : Block) (a : Agent) (line : Nat) (own : Bool) : Accesses core b (b.homeTurn a line own).1 := by
  rw [Block.homeTurn]
  refine (push b line).trans ?_
  split
  · exact refl _
  · split
    · exact nackHome _ _ _
    · generalize (if own = true then CohReq.evict else CohReq.uncrd) = q
      split
      · exact recallLine _ _ _
      · split
        · dsimp only
          exact modCoh _ _
        · exact refl _

theorem homeAtomic (b : Block) (key k : Nat) (op : AtomicOp) (x y : Dword) : Accesses core b (b.homeAtomic key k op x y).1 := by
  rw [Block.homeAtomic]
  dsimp only
  split
  · exact takeLine b _
  · exact (takeLine b _).trans (storeLine _ _ _ _)

/-! ### The cluster cache -/

theorem storeIn (b : Block) (l : CLine) (off : Nat) (bs : List Byte) (but : Option Nat) : Accesses core b (b.storeIn l off bs but) :=
  (loseCopies b _ _).trans (modCoh _ _)

theorem fetchLine (b : Block) (a : Agent) (line key : Nat) (r : CohReq) : Accesses core b (b.fetchLine a line key r).block := by
  have hw := whole (core := core) b a line key r
  rw [Block.fetchLine]
  split
  · exact refl b
  · split
    · rename_i h; rw [h] at hw; exact hw
    · rename_i h
      rw [h] at hw
      split
      · exact hw
      · split
        · exact hw
        · exact hw

theorem ownLine (b : Block) (a : Agent) (line key : Nat) : Accesses core b (b.ownLine a line key).block := by
  rw [Block.ownLine]
  split
  · split
    · exact useLine b a line false
    · exact fetchLine b a line key .rdx
  · exact fetchLine b a line key .rdx

theorem cacheWrite (b : Block) (a : Agent) (point key k hint : Nat) (bs : List Byte) :
    Accesses core b (b.cacheWrite a point key k hint bs).1 := by
  rw [Block.cacheWrite]
  dsimp only
  split
  · have hturn := homeTurn (core := core) b (Agent.uncached (agentSlice a) point) (k / 128) true
    split
    · rename_i h; rw [h] at hturn; exact hturn
    · rename_i h; rw [h] at hturn; exact hturn.trans (whole _ _ _ _ _)
  · split
    · exact (whole b a _ key _).trans (ite (useLine _ _ _ _) (refl _))
    · have hown := ownLine (core := core) b a (k / 128) key
      split
      · rename_i h; rw [h] at hown; exact hown
      · rename_i h; rw [h] at hown; exact hown
      · rename_i h
        rw [h] at hown
        exact (hown.trans (storeIn _ _ _ _ _)).trans (ite (useLine _ _ _ _) (refl _))

/-! ### Accesses of a core's units -/

/-- A use of a context's descriptor (R237). -/
theorem touchCtx (b : Block) (c : Nat) : Accesses core b (b.touchCtx c) := by
  rw [Block.touchCtx]
  dsimp only
  split
  · exact refl b
  · refine trans ?_ (cached _ c _)
    split
    · exact refl b
    · split
      · exact refl b
      · exact (ctxWriteBack b _).trans (cached _ _ _)

theorem patchLines (b : Block) (c va : Nat) (bs : List Byte) : Accesses core b (b.patchLines c va bs) := by
  rw [Block.patchLines]
  split
  · exact refl b
  · exact modPorts b _

theorem takeTag (b : Block) (u : RemoteUse) (port : Nat) : Accesses core b (b.takeTag u port).1 := by
  rw [Block.takeTag]; dsimp only; exact modPorts b _
theorem waitAt (b : Block) (path n : Nat) (m : Maker) (addr : Nat) (gen : Option (Nat × Nat)) (what : PortWhat) :
    Accesses core b (b.waitAt path n m addr gen what) := by
  rw [Block.waitAt]; exact modPorts b _

theorem remoteWrite (b : Block) (n : Nat) (m : Maker) (u : RemoteUse) (a : Nat) (bs : List Byte) :
    Accesses core b (b.remoteWrite n m u a bs) := by
  rw [Block.remoteWrite]
  exact (takeTag b _ _).trans ((waitAt _ _ _ _ _ _ _).trans (foldl _ (fun b _ => waitAt b _ _ _ _ _ _) _ _))

theorem remoteAtomic (b : Block) (n : Nat) (m : Maker) (u : RemoteUse) (a op x y : Nat) :
    Accesses core b (b.remoteAtomic n m u a op x y) :=
  (takeTag b _ _).trans (waitAt _ _ _ _ _ _ _)

/-- A write through a window within one line. -/
theorem wrWinLine (b : Block) (m : Maker) (c w off hint : Nat) (bs : List Byte) : Accesses core b (b.wrWinLine m c w off hint bs).1 := by
  rw [Block.wrWinLine]
  dsimp only
  split
  · exact refl b
  · split
    · exact refl b
    · have htouch := touchCtx (core := core) b c
      split
      · rename_i a key _ _
        split
        · exact htouch
        · have hcache := cacheWrite (core := core) (b.touchCtx c) ((b.touchCtx c).clusterOf m.point) m.point
            ((b.touchCtx c).keyGen key) (gaKey a) hint (bs.take ((b.win c w).len - off))
          split
          · rename_i h; rw [h] at hcache; exact htouch.trans hcache
          · rename_i h; rw [h] at hcache; exact (htouch.trans hcache).trans (patchLines _ _ _ _)
      · exact htouch.trans ((patchLines _ _ _ _).trans (remoteWrite _ _ _ _ _ _))
      · exact htouch
      · exact htouch

/-- A fold that carries more than the block. -/
theorem foldlFst {α β : Type} (f : Block × β → α → Block × β) (hf : ∀ x q, Accesses core x.1 (f x q).1) (l : List α)
    (x : Block × β) : Accesses core x.1 (l.foldl f x).1 := by
  induction l generalizing x with
  | nil => exact refl x.1
  | cons q l ih => exact (hf x q).trans (ih (f x q))

/-- A write of an operand. -/
theorem wrOperand (b : Block) (label c aw off : Nat) (bs : List Byte) : Accesses core b (b.wrOperand core label c aw off bs).1 := by
  rw [Block.wrOperand]
  refine foldlFst _ (fun x q => ?_) _ (b, [])
  dsimp only
  split
  · exact wrWinLine x.1 _ c _ _ _ _
  · exact scratch x.1 q.1 q.2

/-- An atomic behind a window. -/
theorem winAtomic {b b' : Block} {label c aw off : Nat} {op : AtomicOp} {v : Dword} {codes : List Nat}
    (h : b.winAtomic core label c aw off op v = some (b', codes)) : Accesses core b b' := by
  have htouch := touchCtx (core := core) b c
  rw [Block.winAtomic] at h
  dsimp only at h
  split at h
  · cases h
  · split at h
    · obtain ⟨k, -, hk⟩ := Option.map_eq_some_iff.1 h
      cases hk
      exact htouch.trans (remoteAtomic _ _ _ _ _ _ _ _)
    · rename_i a key _ _
      have hturn : ∀ (q : Bool) (a : Agent) (line : Nat) (b : Block),
          Accesses core b (if q = true then b.homeTurn a line true else (b, false)).1 := fun q a line b => by
        split
        · exact homeTurn b a line true
        · exact refl b
      replace hturn := htouch.trans (hturn ((b.touchCtx c).hasPassed core c ((b.win c (awWin aw)).base + (awOff aw + off)))
        ((b.touchCtx c).clusterOf core) (gaKey a / 128) (b.touchCtx c))
      split at h
      · rename_i hq
        rw [hq] at hturn
        cases h
        exact hturn
      · rename_i b₁ hq
        rw [hq] at hturn
        have hatomic := homeAtomic (core := core) b₁ (b₁.keyGen key) (gaKey a) op v 0
        split at h
        · rename_i hold
          rw [hold] at hatomic
          cases h
          exact hturn.trans hatomic
        · rename_i hold
          rw [hold] at hatomic
          cases h
          exact (hturn.trans hatomic).trans (patchLines _ _ _ _)
    · cases h

/-- A merge into an amax record. -/
theorem amaxMerge (b : Block) (label c aw : Nat) (a : Amax) : Accesses core b (b.amaxMerge core label c aw a).1 := by
  rw [Block.amaxMerge]
  split
  · rename_i h
    exact winAtomic h
  · exact wrOperand b label c aw 0 _

end Accesses

/-! ### What accesses leave alone -/

/-- A core as accesses of its units and of others can leave it. -/
def Core.Accessed (c c' : Core) : Prop := ∃ scratch tags poison r,
  c' = { c with scratch := scratch, tags := tags, poison := poison, hart := { c.hart with reservation := r } }

theorem Core.Accessed.refl (c : Core) : c.Accessed c := ⟨_, _, _, _, rfl⟩

theorem Core.Accessed.trans {c c' c'' : Core} (h : c.Accessed c') (g : c'.Accessed c'') : c.Accessed c'' := by
  obtain ⟨_, _, _, _, rfl⟩ := h
  obtain ⟨_, _, _, _, rfl⟩ := g
  exact ⟨_, _, _, _, rfl⟩

/-- A change of one core that is none but an access. -/
theorem Core.Accessed.modCore (b : Block) (n : Nat) {f : Core → Core} (hf : ∀ c : Core, c.Accessed (f c)) (k : Nat) :
    (b.core k).Accessed ((b.modCore n f).core k) := by
  by_cases h : k = n
  · rw [h, Block.modCore_core_same]; exact hf _
  · rw [Block.modCore_core_ne _ _ h]; exact Core.Accessed.refl _

/-- What every access leaves of the block. -/
structure Block.Accessed (b b' : Block) : Prop where
  keeps : b.Keeps [.cores, .ctxs, .mem, .coh, .slices, .ports] b'
  core : ∀ k, (b.core k).Accessed (b'.core k)
  hold : ∀ n, (b'.slice n).hold = (b.slice n).hold

theorem Block.Accessed.of_slices {b b' : Block} (hk : b.Keeps [.cores, .ctxs, .mem, .coh, .slices, .ports] b')
    (hs : b'.slices = b.slices) (hc : ∀ k, (b.core k).Accessed (b'.core k)) : b.Accessed b' :=
  ⟨hk, hc, fun n => by rw [Block.slice, hs]; rfl⟩

theorem Accesses.accessed {core : Nat} {b b' : Block} (h : Accesses core b b') : b.Accessed b' := by
  induction h with
  | refl b => exact ⟨Block.Keeps.refl _ b, fun _ => Core.Accessed.refl _, fun _ => rfl⟩
  | trans _ _ ih ih' => exact ⟨ih.keeps.trans ih'.keeps, fun k => (ih.core k).trans (ih'.core k), fun n => (ih'.hold n).trans (ih.hold n)⟩
  | modCoh b f => exact .of_slices ((b.modCoh_keeps f).mono (by simp)) rfl fun _ => Core.Accessed.refl _
  | modCnt b n f =>
    refine ⟨(b.modCnt_keeps n f).mono (by simp), fun _ => Core.Accessed.refl _, fun k => ?_⟩
    by_cases hk : k = n
    · rw [hk, Block.modCnt, Block.modSlice_slice_same]
    · rw [Block.modCnt, Block.modSlice_slice_ne _ _ hk]
  | modMem b m =>
    refine .of_slices (fun p hp => ?_) rfl fun _ => Core.Accessed.refl _
    cases p <;> first | rfl | exact absurd (by simp) hp
  | dropReservation b n p =>
    refine .of_slices ((b.modHart_keeps n _).mono (by simp)) rfl (Core.Accessed.modCore b n fun c => ?_)
    dsimp only
    split
    · exact ⟨_, _, _, none, rfl⟩
    · exact Core.Accessed.refl _
  | modPorts b f => exact .of_slices ((b.modPorts_keeps f).mono (by simp)) rfl fun _ => Core.Accessed.refl _
  | cached b c x => exact .of_slices ((b.modCtx_keeps c _).mono (by simp)) rfl fun _ => Core.Accessed.refl _
  | scratch b a bs =>
    exact .of_slices ((b.modCore_keeps core _).mono (by simp)) rfl (Core.Accessed.modCore b core fun c => ⟨_, _, _, _, rfl⟩)

end Sys2Proof.Machine
end

section
/-! Work on the ops of an engine (R75, R77, R130, R134 to R137): what the giving of codes, the reading of tags and accesses leave of the
engine's ops, of its counts of tickets and of the core's control processor. -/

namespace Sys2Proof.Machine

/-! ### Ops apart from what their work adds to them -/

/-- An op apart from the codes that it has given and the requests that it has made. -/
def EOp.face (o : EOp) : EOp := { o with codes := [], sent := [] }

/-- What names an op: its ticket, its descriptor and its context. -/
def EOp.name (o : EOp) : Nat × List Dword × Nat := (o.ticket, o.desc, o.ctx)

theorem EOp.face_name {o o' : EOp} (h : o'.face = o.face) : o'.name = o.name := (congrArg EOp.name h :)
theorem EOp.ticket_of_name {o o' : EOp} (h : o'.name = o.name) : o'.ticket = o.ticket := congrArg Prod.fst h
theorem EOp.desc_of_name {o o' : EOp} (h : o'.name = o.name) : o'.desc = o.desc := congrArg (fun n => n.2.1) h
theorem EOp.face_phase {o o' : EOp} (h : o'.face = o.face) : o'.phase = o.phase := (congrArg EOp.phase h :)

/-- An engine with the same ops by a key, place for place, and the same counts of tickets. -/
structure Engine.SameOps {α : Type} (key : EOp → α) (e e' : Engine) : Prop where
  queue : e'.queue.map key = e.queue.map key
  active : e'.active.map key = e.active.map key
  issued : e'.issued = e.issued
  done : e'.done = e.done
  arrivals : e'.arrivals = e.arrivals

namespace Engine.SameOps

variable {α : Type} {key : EOp → α} {e e' e'' : Engine}

theorem refl (e : Engine) : e.SameOps key e := ⟨rfl, rfl, rfl, rfl, rfl⟩

theorem trans (h : e.SameOps key e') (g : e'.SameOps key e'') : e.SameOps key e'' :=
  ⟨g.queue.trans h.queue, g.active.trans h.active, g.issued.trans h.issued, g.done.trans h.done, g.arrivals.trans h.arrivals⟩

/-- Ops that are the same by a key are the same by what the key decides. -/
theorem mono {β : Type} {key' : EOp → β} (h : e.SameOps key e') (hk : ∀ {o o' : EOp}, key o' = key o → key' o' = key' o) :
    e.SameOps key' e' := by
  have hmap : ∀ {l l' : List EOp}, l'.map key = l.map key → l'.map key' = l.map key' := by
    intro l l' hl
    rw [← List.forall₂_eq_eq_eq, List.forall₂_map_left_iff, List.forall₂_map_right_iff] at hl ⊢
    exact hl.imp fun _ _ => hk
  exact { h with queue := hmap h.queue, active := hmap h.active }

theorem queue_length (h : e.SameOps key e') : e'.queue.length = e.queue.length := by
  rw [← List.length_map (f := key), h.queue, List.length_map]

/-- A running op is still there by its key. -/
theorem mem_active (h : e.SameOps key e') {o : EOp} (ho : o ∈ e.active) : ∃ o' ∈ e'.active, key o' = key o := by
  rw [← List.mem_map, h.active]
  exact List.mem_map_of_mem ho

/-- So is the op that joined the queue last. -/
theorem getLast?_queue (h : e.SameOps key e') {o : EOp} (ho : e.queue.getLast? = some o) :
    ∃ o', e'.queue.getLast? = some o' ∧ key o' = key o := by
  have hl := congrArg List.getLast? h.queue
  rw [List.getLast?_map, List.getLast?_map, ho, Option.map_some] at hl
  exact Option.map_eq_some_iff.1 hl

/-- A change of ops under a ticket that leaves their key. -/
theorem modOp (e : Engine) (ticket : Nat) {f : EOp → EOp} (hf : ∀ o, key (f o) = key o) : e.SameOps key (e.modOp ticket f) := by
  have hmap : ∀ l : List EOp, (l.map fun o => if o.ticket == ticket then f o else o).map key = l.map key := by
    intro l
    rw [List.map_map]
    refine List.map_congr_left fun o _ => ?_
    dsimp only [Function.comp]
    split
    · exact hf o
    · rfl
  exact ⟨hmap e.queue, hmap e.active, rfl, rfl, rfl⟩

end Engine.SameOps

/-- An op under the ticket gets its change. -/
theorem Engine.mem_modOp {e : Engine} {o : EOp} (ho : o ∈ e.active) (f : EOp → EOp) : f o ∈ (e.modOp o.ticket f).active :=
  List.mem_map.2 ⟨o, ho, if_pos (beq_self_eq_true _)⟩

/-! ### What work on an engine's ops leaves -/

/-- Work that leaves the ops of an engine as they are by a key, its counts of tickets, and of the core's control processor all but the
reservation. -/
structure Worked {α : Type} (key : EOp → α) (core eng : Nat) (b b' : Block) : Prop where
  keeps : b.Keeps [.cores, .ctxs, .mem, .coh, .slices, .ports] b'
  ops : (b.eng core eng).SameOps key (b'.eng core eng)
  hart : ∃ r, (b'.core core).hart = { (b.core core).hart with reservation := r }

namespace Worked

variable {α : Type} {key : EOp → α} {core eng : Nat}

theorem refl (b : Block) : Worked key core eng b b := ⟨Block.Keeps.refl _ b, .refl _, _, rfl⟩

theorem trans {b c d : Block} (h : Worked key core eng b c) (g : Worked key core eng c d) : Worked key core eng b d := by
  obtain ⟨r, hr⟩ := h.hart
  obtain ⟨r', hr'⟩ := g.hart
  exact ⟨h.keeps.trans g.keeps, h.ops.trans g.ops, r', by rw [hr', hr]⟩

theorem mono {β : Type} {key' : EOp → β} {b b' : Block} (h : Worked key core eng b b')
    (hk : ∀ {o o' : EOp}, key o' = key o → key' o' = key' o) : Worked key' core eng b b' := { h with ops := h.ops.mono hk }

theorem ite {b x y : Block} {p : Prop} [Decidable p] (hx : Worked key core eng b x) (hy : Worked key core eng b y) :
    Worked key core eng b (if p then x else y) := by
  split
  · exact hx
  · exact hy

theorem foldl {β : Type} (f : Block → β → Block) (hf : ∀ (b : Block) (x : β), Worked key core eng b (f b x)) (l : List β) (b : Block) :
    Worked key core eng b (l.foldl f b) := by
  induction l generalizing b with
  | nil => exact refl b
  | cons x l ih => exact (hf b x).trans (ih (f b x))

/-- A fold that carries more than the block. -/
theorem foldlFst {β γ : Type} (f : Block × γ → β → Block × γ) (hf : ∀ x q, Worked key core eng x.1 (f x q).1) (l : List β)
    (x : Block × γ) : Worked key core eng x.1 (l.foldl f x).1 := by
  induction l generalizing x with
  | nil => exact refl x.1
  | cons q l ih => exact (hf x q).trans (ih (f x q))

/-- Accesses of the core's units leave all ops. -/
theorem of_accesses {point : Nat} {b b' : Block} (h : Accesses point b b') : Worked key core eng b b' := by
  have ha := h.accessed
  obtain ⟨_, _, _, r, hc⟩ := ha.core core
  exact ⟨ha.keeps, by rw [Block.eng, Block.eng, hc]; exact .refl _, r, by rw [hc]⟩

/-- An operation that leaves the cores alone. -/
theorem of_keeps {b b' : Block} {L : List Part} (h : b.Keeps L b') (hs : L ⊆ [.ctxs, .mem, .coh, .slices, .ports]) :
    Worked key core eng b b' := by
  have hc : b'.core core = b.core core := h.core_eq (fun hl => by simpa using hs hl) core
  exact ⟨h.mono fun _ hp => List.mem_cons_of_mem _ (hs hp), by rw [Block.eng, Block.eng, hc]; exact .refl _, _, by rw [hc]⟩

theorem modEng (b : Block) (f : Engine → Engine) (hf : ∀ e : Engine, e.SameOps key (f e)) : Worked key core eng b (b.modEng core eng f) :=
  ⟨(b.modEng_keeps core eng f).mono (by simp), by rw [Block.modEng_eng_same]; exact hf _, _, by
    rw [Block.modEng, Block.modCore_core_same]; rfl⟩

/-- A change of the core's other units. -/
theorem modCore (b : Block) (f : Core → Core) (hf : ∀ c : Core, (f c).engines = c.engines ∧ (f c).hart = c.hart) :
    Worked key core eng b (b.modCore core f) := by
  obtain ⟨he, hh⟩ := hf (b.core core)
  refine ⟨(b.modCore_keeps core f).mono (by simp), ?_, _, by rw [Block.modCore_core_same, hh]⟩
  rw [Block.eng, Block.eng, Block.modCore_core_same, Core.eng, Core.eng, he]
  exact .refl _

theorem progress (b : Block) (unit : Nat) : Worked key core eng b (b.progress core unit) := modCore b _ fun _ => ⟨rfl, rfl⟩
theorem modAdapter (b : Block) (f : Adapter → Adapter) : Worked key core eng b (b.modAdapter core f) := modCore b _ fun _ => ⟨rfl, rfl⟩
theorem modCnt (b : Block) (n : Nat) (f : Counters → Counters) : Worked key core eng b (b.modCnt n f) :=
  of_keeps (b.modCnt_keeps n f) (by simp)
theorem modOp (b : Block) (ticket : Nat) {f : EOp → EOp} (hf : ∀ o, key (f o) = key o) :
    Worked key core eng b (b.modOp core eng ticket f) := modEng b _ fun e => .modOp e ticket hf

/-! ### Codes (R75) -/

theorem ctxCode (b : Block) (c code : Nat) : Worked key core eng b (b.ctxCode c code) := of_keeps (b.ctxCode_keeps c code) (by simp)
theorem ctxCodes (b : Block) (c : Nat) (codes : List Nat) : Worked key core eng b (b.ctxCodes c codes) :=
  of_keeps (b.ctxCodes_keeps c codes) (by simp)

theorem engCode (b : Block) (c code : Nat) : Worked key core eng b (b.engCode core eng c code) :=
  (ctxCode b c code).trans (modEng _ _ fun _ => ⟨rfl, rfl, rfl, rfl, rfl⟩)

theorem engCodes (b : Block) (ctx : Nat) (seen codes : List Nat) : Worked key core eng b (b.engCodes core eng ctx seen codes).1 := by
  rw [Block.engCodes]
  refine foldlFst _ (fun x k => ?_) codes (b, seen)
  dsimp only
  split
  · exact refl _
  · exact engCode _ ctx k

theorem opCodes (b : Block) (o : EOp) (codes : List Nat) : Worked EOp.face core eng b (b.opCodes core eng o codes) :=
  (engCodes b o.ctx _ codes).trans (modOp _ _ fun _ => rfl)

/-! ### Tags and load lists (R130, R134 to R137) -/

theorem aimPrefs (b : Block) (l : List Pref) : Worked key core eng b (b.aimPrefs core l).1 := by
  simp only [Block.aimPrefs]
  exact ite (refl b) (modCnt b _ _)

theorem settleSlot (slot n : Nat) (b : Block) : Worked key core eng b (Block.settleSlot core slot n b) := by
  induction n generalizing b with
  | zero => exact refl b
  | succ n ih =>
    rw [Block.settleSlot]
    dsimp only
    split
    · exact refl b
    · split
      · exact refl b
      · exact (((modAdapter b _).trans (aimPrefs _ _)).trans (modAdapter _ _)).trans (ih _)

theorem settleSlots (b : Block) (slots : List Nat) : Worked key core eng b (b.settleSlots core slots) :=
  foldl _ (fun b s => settleSlot s _ b) slots b

theorem adaptLoad (b : Block) (ctx : Nat) : Worked key core eng b (b.adaptLoad core eng ctx) := by
  rw [Block.adaptLoad]
  split
  · exact engCode b ctx _
  · exact (engCode b ctx _).trans (modCnt _ _ _)

theorem loadEntry1 (b : Block) (seq : Nat) (bs : List Byte) : Worked key core eng b (b.loadEntry1 core seq bs).1 := by
  rw [Block.loadEntry1]
  dsimp only
  split
  · exact refl b
  · split
    · exact refl b
    · exact (modAdapter b _).trans (settleSlots _ _)
  · split
    · exact refl b
    · exact (modAdapter b _).trans (settleSlots _ _)
  · split
    · exact refl b
    · split
      · dsimp only
        exact ((modAdapter b _).trans (aimPrefs _ _)).trans (modAdapter _ _)
      · dsimp only
        exact (modAdapter b _).trans (modAdapter _ _)
  · exact refl b

theorem readTags (b : Block) (ctx : Nat) (d : List Dword) : Worked key core eng b (b.readTags core eng ctx d).1 := by
  rw [Block.readTags]
  dsimp only
  split
  · exact adaptLoad b ctx
  · refine trans (modAdapter b fun a => { a with seq := (b.core core).adapter.seq + 1 }) ?_
    refine foldlFst _ (fun x i => ?_) _ (b.modAdapter core fun a => { a with seq := (b.core core).adapter.seq + 1 }, _)
    dsimp only
    split
    · exact (loadEntry1 _ _ _).trans (adaptLoad _ ctx)
    · exact loadEntry1 _ _ _

end Worked

end Sys2Proof.Machine
end

section
/-! The acceptance of an op (R74, R76, R77) and issues of a control processor (R85, R87; O22). -/

namespace Sys2Proof.Machine

/-! ### An op takes the next ticket -/

/-- What an acceptance leaves: the next ticket is taken, the placements stay, and of the control processor all but the reservation. -/
structure Took (core eng : Nat) (b b' : Block) : Prop where
  keeps : b.Keeps [.cores, .ctxs, .mem, .coh, .slices, .ports, .draws] b'
  issued : (b'.eng core eng).issued = (b.eng core eng).issued + 1
  arrivals : (b'.eng core eng).arrivals = (b.eng core eng).arrivals
  hart : ∃ r, (b'.core core).hart = { (b.core core).hart with reservation := r }

theorem Took.worked {α : Type} {key : EOp → α} {core eng : Nat} {b c d : Block} (h : Took core eng b c) (g : Worked key core eng c d) :
    Took core eng b d := by
  obtain ⟨r, hr⟩ := h.hart
  obtain ⟨r', hr'⟩ := g.hart
  exact ⟨h.keeps.trans (g.keeps.mono (by simp)), g.ops.issued.trans h.issued, g.ops.arrivals.trans h.arrivals, r', by rw [hr', hr]⟩

/-- A change of the engine that leaves its tickets issued and its placements. -/
theorem Took.modEng {core eng : Nat} {b c : Block} (h : Took core eng b c) {f : Engine → Engine}
    (hf : ∀ e, (f e).issued = e.issued ∧ (f e).arrivals = e.arrivals) : Took core eng b (c.modEng core eng f) := by
  obtain ⟨r, hr⟩ := h.hart
  refine ⟨h.keeps.trans ((c.modEng_keeps core eng f).mono (by simp)), ?_, ?_, r, ?_⟩
  · rw [Block.modEng_eng_same, (hf _).1, h.issued]
  · rw [Block.modEng_eng_same, (hf _).2, h.arrivals]
  · rw [Block.modEng, Block.modCore_core_same, ← hr]; rfl

/-- The block in which an op of the context has taken its ticket (R77, R237). -/
def Block.numbered (b : Block) (core eng ctx : Nat) : Block :=
  (b.touchCtx ctx).modEng core eng fun e => { e with issued := e.issued + 1 }

/-- The block in which its descriptor has been read too: the bytes of failing lines are drawn (R91). -/
def Block.ticketed (b : Block) (core eng off ctx : Nat) : Block :=
  if ((b.numbered core eng ctx).core core).badAt off 128 then { b.numbered core eng ctx with draws := (b.numbered core eng ctx).draws + 128 }
  else b.numbered core eng ctx

theorem Block.ticketed_keeps (b : Block) (core eng off ctx : Nat) : (b.numbered core eng ctx).Keeps [.draws] (b.ticketed core eng off ctx) := by
  rw [Block.ticketed]
  split
  · intro p hp; cases p <;> first | rfl | exact absurd (by simp) hp
  · exact Block.Keeps.refl _ _

/-- A use of its context's descriptor leaves the engine. -/
theorem Block.touchCtx_eng (b : Block) (c core eng : Nat) : (b.touchCtx c).eng core eng = b.eng core eng := by
  obtain ⟨_, _, _, _, hc⟩ := (Accesses.touchCtx (core := core) b c).accessed.core core
  rw [Block.eng, Block.eng, hc]
  rfl

theorem Block.ticketed_eng (b : Block) (core eng off ctx : Nat) :
    (b.ticketed core eng off ctx).eng core eng = { b.eng core eng with issued := (b.eng core eng).issued + 1 } := by
  rw [Block.eng, (b.ticketed_keeps core eng off ctx).core_eq (by simp), ← Block.eng, Block.numbered, Block.modEng_eng_same,
    Block.touchCtx_eng]

theorem Block.ticketed_took (b : Block) (core eng off ctx : Nat) : Took core eng b (b.ticketed core eng off ctx) := by
  have ht := (Accesses.touchCtx (core := core) b ctx).accessed
  have hdraws := b.ticketed_keeps core eng off ctx
  obtain ⟨_, _, _, r, hc⟩ := ht.core core
  refine ⟨?_, by rw [Block.ticketed_eng], by rw [Block.ticketed_eng], r, ?_⟩
  · exact ((ht.keeps.mono (by simp)).trans ((Block.modEng_keeps _ core eng _).mono (by simp))).trans (hdraws.mono (by simp))
  · rw [hdraws.core_eq (by simp), Block.numbered, Block.modEng, Block.modCore_core_same, hc]
    rfl

/-- The codes that an op meets before those of its checks: that of a failing line of its descriptor (R91). -/
def Block.descCodes (b : Block) (core eng off ctx : Nat) (codes : List Nat) : List Nat :=
  if ((b.numbered core eng ctx).core core).badAt off 128 then cEccUncorr :: codes else codes

section
variable {b : Block} {core eng off ctx : Nat} {iss : Issuer} {m : Option MaskBlock} {codes : List Nat}

/-- The acceptance of an op that a check refuses (R74). -/
theorem Block.acceptOp_of_refused {k : Nat} (h : (b.ticketed core eng off ctx).opRefusal core eng ctx (b.readDesc core off)
    ((b.ticketed core eng off ctx).realTime iss) = (some k, m, codes)) (label : Nat) : b.acceptOp core eng off ctx iss label =
    ((b.ticketed core eng off ctx).ctxCodes ctx (b.descCodes core eng off ctx codes).eraseDups).refuseOp core eng ctx
      ((b.eng core eng).issued + 1).toNat k iss.isHart := by
  delta Block.ticketed Block.numbered at h
  delta Block.acceptOp Block.ticketed Block.descCodes Block.numbered
  dsimp only
  rw [h]

/-- The acceptance of an op that no check refuses (R76). -/
theorem Block.acceptOp_of_joined (h : (b.ticketed core eng off ctx).opRefusal core eng ctx (b.readDesc core off)
    ((b.ticketed core eng off ctx).realTime iss) = (none, m, codes)) (label : Nat) : b.acceptOp core eng off ctx iss label =
    (b.ticketed core eng off ctx).joinOp core eng ctx ((b.eng core eng).issued + 1).toNat (b.readDesc core off) iss label m
      (b.descCodes core eng off ctx codes) := by
  delta Block.ticketed Block.numbered at h
  delta Block.acceptOp Block.ticketed Block.descCodes Block.numbered
  dsimp only
  rw [h]

end

/-! ### An op that is refused -/

/-- The counting of tickets leaves those issued and the placements. -/
theorem Engine.settle_issued (n : Nat) (e : Engine) : (Engine.settle n e).issued = e.issued ∧ (Engine.settle n e).arrivals = e.arrivals := by
  induction n generalizing e with
  | zero => exact ⟨rfl, rfl⟩
  | succ n ih =>
    simp only [Engine.settle]
    split
    · exact ih _
    · exact ⟨rfl, rfl⟩

/-- A refused op gives its code and joins nothing. -/
theorem Block.refuseOp_refuses {core eng : Nat} {b c : Block} (h : Took core eng b c) (ctx ticket : Nat) {code : Nat} (hc : code < 65536)
    (hart : Bool) : Took core eng b (c.refuseOp core eng ctx ticket code hart) ∧
      ((c.refuseOp core eng ctx ticket code hart).eng core eng).queue = (c.eng core eng).queue ∧
      ((c.refuseOp core eng ctx ticket code hart).ctx ctx).lastCode = code := by
  have hcode := c.ctxCode_keeps ctx code
  refine ⟨?_, ?_, ?_⟩
  · exact ((h.worked (Worked.engCode (key := EOp.name) c ctx code)).modEng (f := fun e => e.refuse ticket hart) fun _ => ⟨rfl, rfl⟩).modEng
      (f := fun e => e.settle (e.refused.length + 1)) fun _ => Engine.settle_issued _ _
  · rw [Block.refuseOp, Block.settle, Block.modEng_eng_same, (Engine.settle_ops _ _).1, Block.modEng_eng_same, Engine.refuse]
    dsimp only
    rw [Block.engCode, Block.modEng_eng_same, Block.eng, hcode.core_eq (by simp)]
    rfl
  · exact c.ctxCode_lastCode ctx code hc

/-! ### An op that joins the queue -/

/-- An op joins the queue with its descriptor, and what it reads once leaves all ops (R49, R51, R76, R130). -/
theorem Block.joinOp_joins (b : Block) (core eng ctx ticket : Nat) (d : List Dword) (iss : Issuer) (label : Nat) (m : Option MaskBlock)
    (codes : List Nat) : ∃ (o : EOp) (c : Block), o.name = (ticket, d, ctx) ∧ Worked EOp.face core eng b c ∧
      Worked EOp.face core eng (c.modEng core eng fun e => { e with queue := e.queue ++ [o] })
        (b.joinOp core eng ctx ticket d iss label m codes) := by
  have hsto : Worked EOp.face core eng b (if dSto d then b.modCtx ctx fun x => { x with srCtr := x.srCtr + 1 } else b) :=
    .ite (.of_keeps (b.modCtx_keeps ctx _) (by simp)) (.refl b)
  rw [Block.joinOp]
  dsimp only
  generalize (if dSto d then b.modCtx ctx fun x => { x with srCtr := x.srCtr + 1 } else b) = b₁ at hsto
  have htags : Worked EOp.face core eng b₁ (if dOpcode d == 1 && dAdapt d then b₁.readTags core eng ctx d else (b₁, none, [])).1 := by
    split
    · exact .readTags b₁ ctx d
    · exact .refl b₁
  generalize (if dOpcode d == 1 && dAdapt d then b₁.readTags core eng ctx d else (b₁, none, [])) = x at htags
  exact ⟨_, x.1, rfl, hsto.trans htags, (Worked.modAdapter _ _).trans (Worked.opCodes _ _ _)⟩

/-! ### The acceptance -/

theorem opRefusal_code {b : Block} {core eng ctx : Nat} {d : List Dword} {rt : Bool} {k : Nat}
    (h : (b.opRefusal core eng ctx d rt).1 = some k) : k < 65536 := by
  rw [Block.opRefusal] at h
  split at h
  · cases h; decide
  · split at h
    · cases h; decide
    · split at h
      · dsimp only at h
        split at h
        · cases h; decide
        · cases h
      · cases h

/-- An acceptance takes the next ticket. -/
theorem Block.acceptOp_took (b : Block) (core eng off ctx : Nat) (iss : Issuer) (label : Nat) :
    Took core eng b (b.acceptOp core eng off ctx iss label) := by
  have ht := b.ticketed_took core eng off ctx
  rcases h : (b.ticketed core eng off ctx).opRefusal core eng ctx (b.readDesc core off) ((b.ticketed core eng off ctx).realTime iss) with
    ⟨_ | k, m, codes⟩
  · rw [Block.acceptOp_of_joined h]
    obtain ⟨o, c, -, hpre, hpost⟩ := Block.joinOp_joins (b.ticketed core eng off ctx) core eng ctx ((b.eng core eng).issued + 1).toNat
      (b.readDesc core off) iss label m (b.descCodes core eng off ctx codes)
    exact ((ht.worked hpre).modEng (f := fun e => { e with queue := e.queue ++ [o] }) fun _ => ⟨rfl, rfl⟩).worked hpost
  · rw [Block.acceptOp_of_refused h]
    exact (Block.refuseOp_refuses (ht.worked (Worked.ctxCodes (key := EOp.name) _ _ _)) ctx _ (opRefusal_code (congrArg Prod.fst h)) _).1

section
variable {b : Block} {core eng off ctx : Nat} {iss : Issuer} {m : Option MaskBlock} {codes : List Nat}

/-- An op that no check refuses joins the queue. -/
theorem Block.acceptOp_joins (h : (b.ticketed core eng off ctx).opRefusal core eng ctx (b.readDesc core off)
    ((b.ticketed core eng off ctx).realTime iss) = (none, m, codes)) (label : Nat) :
    ∃ o, ((b.acceptOp core eng off ctx iss label).eng core eng).queue.getLast? = some o ∧
      o.name = (((b.eng core eng).issued + 1).toNat, b.readDesc core off, ctx) := by
  rw [Block.acceptOp_of_joined h]
  obtain ⟨o, c, hname, -, hpost⟩ := Block.joinOp_joins (b.ticketed core eng off ctx) core eng ctx ((b.eng core eng).issued + 1).toNat
    (b.readDesc core off) iss label m (b.descCodes core eng off ctx codes)
  have hlast : ((c.modEng core eng fun e => { e with queue := e.queue ++ [o] }).eng core eng).queue.getLast? = some o := by
    rw [Block.modEng_eng_same]; exact List.getLast?_concat
  obtain ⟨o', ho', hface⟩ := hpost.ops.getLast?_queue hlast
  exact ⟨o', ho', (EOp.face_name hface).trans hname⟩

/-- An op that a check refuses gives its code and joins nothing. -/
theorem Block.acceptOp_refuses {k : Nat} (h : (b.ticketed core eng off ctx).opRefusal core eng ctx (b.readDesc core off)
    ((b.ticketed core eng off ctx).realTime iss) = (some k, m, codes)) (label : Nat) :
    ((b.acceptOp core eng off ctx iss label).eng core eng).queue = (b.eng core eng).queue ∧
      ((b.acceptOp core eng off ctx iss label).ctx ctx).lastCode = k := by
  have hcodes := (b.ticketed core eng off ctx).ctxCodes_keeps ctx (b.descCodes core eng off ctx codes).eraseDups
  obtain ⟨-, hq, hlast⟩ := Block.refuseOp_refuses ((b.ticketed_took core eng off ctx).worked (Worked.ctxCodes (key := EOp.name) _ ctx
    (b.descCodes core eng off ctx codes).eraseDups)) ctx ((b.eng core eng).issued + 1).toNat (opRefusal_code (congrArg Prod.fst h)) iss.isHart
  rw [Block.acceptOp_of_refused h]
  refine ⟨hq.trans ?_, hlast⟩
  rw [Block.eng, hcodes.core_eq (by simp), ← Block.eng, Block.ticketed_eng]

end

end Sys2Proof.Machine
end

section
/-! Issues of a control processor (R76, R77, R85, R87; O22). -/

namespace Sys2Proof.Machine

/-- Accesses that meet no line still to come are made at once, whatever the unit would do while it waits (R206, R276). -/
theorem Block.attemptOr_met {b : Block} {f : Block → Block} (h : Met b f) (core unit label : Nat) (wait : Block → Block) :
    b.attemptOr core unit label wait f = (f b.noWants).dropLines core unit := by
  rw [Met] at h
  simp [Block.attemptOr, Block.attemptFrom, h]

/-- The control processor goes on from an issue with the ticket in rd. -/
def Hart.issued (h : Hart) (rd : Nat) (ticket : BitVec 16) : Hart := (h.setReg rd (BitVec.ofNat 64 ticket.toNat)).step4

theorem Hart.issued_pc (h : Hart) (rd : Nat) (ticket : BitVec 16) : (h.issued rd ticket).pc = h.pc + 4 := by
  rw [Hart.issued, Hart.step4_pc, Hart.setReg_pc]

theorem Hart.issued_reg (h : Hart) (rd : Nat) (ticket : BitVec 16) (r : Nat) :
    (h.issued rd ticket).reg r = if r = rd ∧ rd ≠ 0 then BitVec.ofNat 64 ticket.toNat else h.reg r := by
  rw [Hart.issued, Hart.step4_reg, Hart.setReg_reg]

section
variable {s : State} {core : Nat} (hr : HartRuns s.b core)
include hr

/-- An issue to an engine takes its next ticket and returns it. -/
theorem engIssue_takes (rd rs1 rs2 : Nat) :
    let h := (s.b.core core).hart
    let u := dfld (h.reg rs2) 2 0
    let f := fun b : Block => b.acceptOp core u (dfld (h.reg rs1) 21 0) h.zhCtx (.hart h.launchQ) (b.hartLabel core)
    u < 4 → s.b.issueWaits core u (dfld (h.reg rs1) 21 0) h.zhCtx = false → Met s.b f →
      Completes (exec (.engIssue core rd rs1 rs2) s) fun t =>
        Frame [.cores, .ctxs, .mem, .coh, .slices, .ports, .draws] s t ∧
        (t.b.eng core u).issued = (s.b.eng core u).issued + 1 ∧ (t.b.core core).hart.pc = h.pc + 4 ∧
        ∀ r, (t.b.core core).hart.reg r = if r = rd ∧ rd ≠ 0 then
          BitVec.ofNat 64 ((s.b.eng core u).issued + 1).toNat else h.reg r := by
  intro h u f hu hfree hmet
  have hgo : Met s.b fun b => (f b).modHart core fun x => x.issued rd ((s.b.eng core u).issued + 1) := hmet
  have he : exec (.engIssue core rd rs1 rs2) s = .next { s with
      b := ((f s.b.noWants).modHart core fun x => x.issued rd ((s.b.eng core u).issued + 1)).dropLines core u } := by
    show execEngIssue core rd rs1 rs2 s = _
    rw [execEngIssue, State.onBlock_eq, Block.onHart_runs _ _ _ _ hr, if_neg (show ¬ 5 ≤ u by omega),
      if_neg (show ¬ (u == 4) = true by simp only [beq_iff_eq]; omega),
      if_neg (show ¬ s.b.issueWaits core u (dfld (h.reg rs1) 21 0) h.zhCtx = true by rw [hfree]; exact Bool.false_ne_true)]
    exact congrArg _ (congrArg _ (Block.attemptOr_met hgo core u _ _))
  obtain ⟨hkeeps, hissued, -, r, hhart⟩ := Block.acceptOp_took s.b.noWants core u (dfld (h.reg rs1) 21 0) h.zhCtx (.hart h.launchQ)
    (s.b.noWants.hartLabel core)
  have hcore : ((((f s.b.noWants).modHart core fun x => x.issued rd ((s.b.eng core u).issued + 1)).dropLines core u).core core) =
      { (f s.b.noWants).core core with hart := ((f s.b.noWants).core core).hart.issued rd ((s.b.eng core u).issued + 1) } := by
    rw [(Block.dropLines_keeps _ _ _).core_eq (by simp), Block.modHart, Block.modCore_core_same]
  refine ⟨_, he, ⟨rfl, rfl, rfl, ?_⟩, ?_, ?_, fun q => ?_⟩
  · exact (((s.b.noWants_keeps.mono (by simp)).trans hkeeps).trans ((Block.modHart_keeps _ core _).mono (by simp))).trans
      ((Block.dropLines_keeps _ _ _).mono (by simp))
  · rw [Block.eng, hcore]
    exact hissued
  · rw [hcore, Hart.issued_pc, hhart]
    rfl
  · rw [hcore, Hart.issued_reg, hhart]
    rfl

/-- An issue to the vector unit joins a program to its queue under the next ticket, and returns that. -/
theorem vecIssue_takes (rd rs1 : Nat) :
    let h := (s.b.core core).hart
    s.b.vecWaits core h.zhCtx = false → Completes (exec (.vecIssue core rd rs1) s) fun t =>
      Frame [.cores, .ctxs, .mem, .coh, .slices] s t ∧
      (t.b.core core).vec.issued = (s.b.core core).vec.issued + 1 ∧ (t.b.core core).hart.pc = h.pc + 4 ∧
      (∃ p, (t.b.core core).vec.queue = (s.b.core core).vec.queue ++ [p] ∧ p.pc = dfld (h.reg rs1) 21 0 ∧ p.ctx = h.zhCtx) ∧
      ∀ r, (t.b.core core).hart.reg r = if r = rd ∧ rd ≠ 0 then
        BitVec.ofNat 64 ((s.b.core core).vec.issued + 1).toNat else h.reg r := by
  intro h hfree
  have he : exec (.vecIssue core rd rs1) s = .next { s with
      b := (s.b.vecJoin core (dfld (h.reg rs1) 21 0) h).modHart core fun x => x.issued rd ((s.b.core core).vec.issued + 1) } := by
    show execVecIssue core rd rs1 s = _
    rw [execVecIssue, State.onBlock_eq, Block.onHart_runs _ _ _ _ hr, Block.vecIssue, if_neg (by rw [hfree]; exact Bool.false_ne_true)]
    rfl
  obtain ⟨_, _, _, r, hcore⟩ := (Accesses.touchCtx (core := core) s.b h.zhCtx).accessed.core core
  refine ⟨_, he, ⟨rfl, rfl, rfl, ?_⟩, ?_, ?_, ?_, fun q => ?_⟩
  · exact (((s.b.touchCtx_keeps h.zhCtx).mono (by simp)).trans ((Block.modVec_keeps _ core _).mono (by simp))).trans
      ((Block.modHart_keeps _ core _).mono (by simp))
  all_goals
    dsimp only
    rw [Block.modHart, Block.modCore_core_same, Block.vecJoin, Block.modVec, Block.modCore_core_same, hcore]
  · rw [Hart.issued_pc]
  · exact ⟨_, rfl, rfl, rfl⟩
  · rw [Hart.issued_reg]
    rfl

end

/-- Settles O22: both issues take the unit's next ticket and return it; what accesses to the context and to its memory leave of the
control processor is all but its reservation. -/
theorem issueReturnsTheNextTicket : Obligations.IssueReturnsTheNextTicket := by
  intro s core rd rs1 hr
  refine ⟨fun rs2 hu hfree hmet => engIssue_takes hr rd rs1 rs2 hu hfree hmet, fun hfree => vecIssue_takes hr rd rs1 hfree⟩

end Sys2Proof.Machine
end

section
/-! The op placed next on an engine (R74, R76, R77, R130, R189; O9). -/

namespace Sys2Proof.Machine

/-! ### What an acceptance reads -/

/-- A compute command of the block, while its clock runs. -/
theorem State.onCompute_running {s : State} (h : s.b.gated = false) (f : Block → Block) : s.onCompute f = .next { s with b := f s.b } := by
  rw [State.onCompute, State.onBlock_eq, if_neg (by rw [h]; exact Bool.false_ne_true)]

/-- A descriptor is read from the core's scratchpad: a change of an engine leaves it. -/
theorem Block.modEng_readDesc (b : Block) (core eng : Nat) (f : Engine → Engine) (off : Nat) :
    (b.modEng core eng f).readDesc core off = b.readDesc core off := by
  rw [Block.readDesc, Block.rdRaw, Block.modEng, Block.modCore_core_same]
  rfl

/-- The real-time share of a slice's engines goes by the cores' owners and places and by what the slice holds in force (R184, R240). -/
theorem Block.reservedEng_congr {b b' : Block} (hc : ∀ k, (b'.core k).owner = (b.core k).owner ∧ (b'.core k).place = (b.core k).place)
    (hs : ∀ n, (b'.slice n).hold = (b.slice n).hold) (hr : b'.recon = b.recon) (n core eng : Nat) :
    b'.reservedEng n core eng = b.reservedEng n core eng := by
  have hin : b'.inForce n = b.inForce n := by rw [Block.inForce, Block.inForce, hs, hr]
  rw [Block.reservedEng, Block.reservedEng, Block.coresOf_congr hc, hin]

/-- An issuer is a real-time source by its queue's class alone. -/
theorem Block.realTime_congr {b b' : Block} (h : b'.queues = b.queues) (iss : Issuer) : b'.realTime iss = b.realTime iss := by
  cases iss with
  | queue q k l => rw [Block.realTime, Block.realTime, Block.queue, Block.queue, h]
  | hart q =>
    cases q with
    | none => rfl
    | some q => rw [Block.realTime, Block.realTime, Block.queue, Block.queue, h]

/-- A change of an engine leaves every core's owner and place. -/
theorem Block.modEng_place (b : Block) (core eng : Nat) (f : Engine → Engine) (k : Nat) :
    ((b.modEng core eng f).core k).owner = (b.core k).owner ∧ ((b.modEng core eng f).core k).place = (b.core k).place := by
  by_cases h : k = core
  · rw [h, Block.modEng, Block.modCore_core_same]
    exact ⟨rfl, rfl⟩
  · rw [Block.modEng, Block.modCore_core_ne _ _ h]
    exact ⟨rfl, rfl⟩

/-- An op's ticket and descriptor leave every core's owner and place, and what the slices hold. -/
theorem Block.ticketed_place (b : Block) (core eng off ctx k : Nat) :
    ((b.ticketed core eng off ctx).core k).owner = (b.core k).owner ∧ ((b.ticketed core eng off ctx).core k).place = (b.core k).place := by
  obtain ⟨_, _, _, _, hc⟩ := (Accesses.touchCtx (core := core) b ctx).accessed.core k
  rw [(b.ticketed_keeps core eng off ctx).core_eq (by simp), Block.numbered, (Block.modEng_place _ core eng _ k).1,
    (Block.modEng_place _ core eng _ k).2, hc]
  exact ⟨rfl, rfl⟩

theorem Block.ticketed_hold (b : Block) (core eng off ctx n : Nat) :
    ((b.ticketed core eng off ctx).slice n).hold = (b.slice n).hold := by
  rw [(b.ticketed_keeps core eng off ctx).slice_eq (by simp), Block.numbered, (Block.modEng_keeps _ core eng _).slice_eq (by simp),
    (Accesses.touchCtx (core := core) b ctx).accessed.hold]

/-- Whether an op's own source may use the engine is as it was before the op took its ticket. -/
theorem Block.ticketed_mayUse (b : Block) (core eng off ctx : Nat) (iss : Issuer) :
    (b.ticketed core eng off ctx).reservedEng ((b.ticketed core eng off ctx).core core).owner core eng =
        b.reservedEng (b.core core).owner core eng ∧
      (b.ticketed core eng off ctx).realTime iss = b.realTime iss := by
  obtain ⟨hkeeps, -⟩ := b.ticketed_took core eng off ctx
  refine ⟨?_, Block.realTime_congr (hkeeps .queues (by simp)) iss⟩
  rw [(b.ticketed_place core eng off ctx core).1]
  exact Block.reservedEng_congr (b.ticketed_place core eng off ctx) (b.ticketed_hold core eng off ctx) (hkeeps .recon (by simp)) _ _ _

/-- The check of an op whose source may use the engine (R74). -/
theorem Block.opRefusal_mayUse {b : Block} {core eng : Nat} {rt : Bool} (h : b.reservedEng (b.core core).owner core eng = false ∨ rt = true)
    (ctx : Nat) (d : List Dword) :
    (opCheck d (b.parade.map.minSp (dSeg d)) ≠ 0 → b.opRefusal core eng ctx d rt = (some cOpInvalid, none, [])) ∧
      (opCheck d (b.parade.map.minSp (dSeg d)) = 0 → dMask d = false → b.opRefusal core eng ctx d rt = (none, none, [])) := by
  have hfree : ¬ (b.reservedEng (b.core core).owner core eng && !rt) = true := by
    rcases h with h | h <;> simp [h]
  refine ⟨fun hc => ?_, fun hc hm => ?_⟩
  · simp [Block.opRefusal, hfree, hc]
  · simp [Block.opRefusal, hfree, hc, hm]

/-! ### The front end's placement -/

/-- The block once the next placement has left the front end's list. -/
def Block.unplaced (b : Block) (core eng : Nat) (rest : List Placement) : Block :=
  b.modEng core eng fun x => { x with arrivals := rest }

section
variable (b : Block) (core eng : Nat) (rest : List Placement)

theorem Block.unplaced_keeps : b.Keeps [.cores] (b.unplaced core eng rest) := b.modEng_keeps core eng _

theorem Block.unplaced_eng : (b.unplaced core eng rest).eng core eng = { b.eng core eng with arrivals := rest } :=
  Block.modEng_eng_same _ _ _ _

theorem Block.unplaced_readDesc (off : Nat) : (b.unplaced core eng rest).readDesc core off = b.readDesc core off :=
  b.modEng_readDesc core eng _ off

theorem Block.unplaced_reservedEng : (b.unplaced core eng rest).reservedEng ((b.unplaced core eng rest).core core).owner core eng =
    b.reservedEng (b.core core).owner core eng := by
  rw [Block.unplaced, (b.modEng_place core eng _ core).1]
  exact Block.reservedEng_congr (b.modEng_place core eng _) (fun _ => rfl) rfl _ _ _

end

section
variable {b : Block} {core eng : Nat} {p : Placement} {rest : List Placement} (ha : (b.eng core eng).arrivals = p :: rest)
include ha

/-- A placement with a stale generation is dropped. -/
theorem Block.frontAccept_stale (hg : p.gen ≠ (b.core core).roleGen) :
    b.frontAccept core eng = (b.unplaced core eng rest).ctxCode p.ctx cStaleRole := by
  simp [Block.frontAccept, Block.unplaced, ha, hg]

/-- One that need not wait is accepted, and its command notes the ticket where a queue issued it. -/
theorem Block.frontAccept_accepts (hg : p.gen = (b.core core).roleGen) (hq : (b.eng core eng).queue.length < 16)
    (ht : b.turnHeld core eng p.ctx (dAdapt (b.readDesc core p.desc)) = false) :
    ((b.unplaced core eng rest).acceptOp core eng p.desc p.ctx p.issuer p.label).Keeps [.queues]
      (b.frontAccept core eng) := by
  rw [Block.frontAccept]
  simp only [ha, hg, ht, Nat.not_le.2 hq, bne_self_eq_false, Bool.or_false, decide_false, Bool.false_eq_true, if_false]
  split
  · exact Block.modCmd_keeps _ _ _ _
  · exact Block.Keeps.refl _ _

end

/-! ### The instruction -/

/-- An engine's turn to accept, when no lower one takes an op in the clock and what it reads has come. -/
theorem exec_opAccept {s : State} {core eng : Nat} (hlow : ∀ e, e < eng → s.b.acceptsNow core e = false) (hg : s.b.gated = false)
    (hm : Met s.b fun b => b.frontAccept core eng) :
    exec (.opAccept core eng) s = .next { s with b := (s.b.noWants.frontAccept core eng).dropLines core eng } := by
  have hany : ¬ ((List.range eng).any fun e => s.b.acceptsNow core e) = true := by
    simpa using hlow
  show execOpAccept core eng s = _
  rw [execOpAccept, State.onCompute_running hg, if_neg hany, Block.acceptTurn, Block.attempt_met hm]

section
variable {s : State} {core eng : Nat} {p : Placement} {rest : List Placement} (ha : (s.b.eng core eng).arrivals = p :: rest)
  (hlow : ∀ e, e < eng → s.b.acceptsNow core e = false) (hgated : s.b.gated = false)
include ha hlow hgated

theorem opAccept_drops (hgen : p.gen ≠ (s.b.core core).roleGen) : Completes (exec (.opAccept core eng) s) fun t =>
    Frame [.cores, .ctxs, .ports] s t ∧ (t.b.eng core eng).issued = (s.b.eng core eng).issued ∧
      (t.b.eng core eng).arrivals = rest ∧ (t.b.ctx p.ctx).lastCode = 0x2C := by
  have hf := Block.frontAccept_stale (b := s.b.noWants) ha hgen
  have hm : Met s.b fun b => b.frontAccept core eng := by
    rw [Met, hf, Block.ctxCode_ports _ _ (by decide : cStaleRole < 65536)]
    rfl
  have he := exec_opAccept hlow hgated hm
  rw [hf] at he
  have hpre := s.b.noWants.unplaced_keeps core eng rest
  have hcode := (s.b.noWants.unplaced core eng rest).ctxCode_keeps p.ctx cStaleRole
  have hdrop := ((s.b.noWants.unplaced core eng rest).ctxCode p.ctx cStaleRole).dropLines_keeps core eng
  have heng : (((s.b.noWants.unplaced core eng rest).ctxCode p.ctx cStaleRole).dropLines core eng).eng core eng =
      { s.b.eng core eng with arrivals := rest } := by
    rw [Block.eng, hdrop.core_eq (by simp), hcode.core_eq (by simp), ← Block.eng, Block.unplaced_eng]
    rfl
  refine ⟨_, he, ⟨rfl, rfl, rfl, ?_⟩, by rw [heng], by rw [heng], ?_⟩
  · exact (((s.b.noWants_keeps.mono (by simp)).trans (hpre.mono (by simp))).trans (hcode.mono (by simp))).trans (hdrop.mono (by simp))
  · rw [hdrop.ctx_eq (by simp)]
    exact Block.ctxCode_lastCode _ _ _ (by decide : cStaleRole < 65536)

theorem opAccept_accepts (hgen : p.gen = (s.b.core core).roleGen) (hq : (s.b.eng core eng).queue.length < 16) :
    let d := s.b.readDesc core p.desc
    s.b.turnHeld core eng p.ctx (dAdapt d) = false →
    (s.b.reservedEng (s.b.core core).owner core eng = false ∨ s.b.realTime p.issuer = true) →
    Met s.b (fun b => b.frontAccept core eng) →
    Completes (exec (.opAccept core eng) s) fun t =>
      Frame [.cores, .ctxs, .mem, .coh, .slices, .queues, .ports, .draws] s t ∧
      (t.b.eng core eng).issued = (s.b.eng core eng).issued + 1 ∧ (t.b.eng core eng).arrivals = rest ∧
      (opCheck d (s.b.parade.map.minSp (dSeg d)) ≠ 0 →
        (t.b.eng core eng).queue = (s.b.eng core eng).queue ∧ (t.b.ctx p.ctx).lastCode = 0x21) ∧
      (opCheck d (s.b.parade.map.minSp (dSeg d)) = 0 → dMask d = false →
        ∃ o, (t.b.eng core eng).queue.getLast? = some o ∧ o.desc = d ∧ o.ctx = p.ctx ∧
          o.ticket = ((s.b.eng core eng).issued + 1).toNat) := by
  intro d hturn hmay hm
  have hafter := Block.frontAccept_accepts (b := s.b.noWants) ha hgen hq hturn
  have hdrop := (s.b.noWants.frontAccept core eng).dropLines_keeps core eng
  have hdesc : (s.b.noWants.unplaced core eng rest).readDesc core p.desc = d := Block.unplaced_readDesc _ _ _ _ _
  have heng : (s.b.noWants.unplaced core eng rest).eng core eng = { s.b.eng core eng with arrivals := rest } :=
    s.b.noWants.unplaced_eng core eng rest
  have hplace := s.b.noWants.unplaced_reservedEng core eng rest
  have hpre : s.b.Keeps [.cores, .ports] (s.b.noWants.unplaced core eng rest) :=
    (s.b.noWants_keeps.mono (by simp)).trans ((s.b.noWants.unplaced_keeps core eng rest).mono (by simp))
  generalize s.b.noWants.unplaced core eng rest = b₁ at hafter hdesc heng hplace hpre
  obtain ⟨hkeeps, hissued, harr, -⟩ := b₁.acceptOp_took core eng p.desc p.ctx p.issuer p.label
  obtain ⟨hshare, hrt⟩ := b₁.ticketed_mayUse core eng p.desc p.ctx p.issuer
  have hmap : (b₁.ticketed core eng p.desc p.ctx).parade = s.b.parade :=
    ((b₁.ticketed_took core eng p.desc p.ctx).keeps .parade (by simp)).trans (hpre .parade (by simp))
  have hcheck := Block.opRefusal_mayUse (b := b₁.ticketed core eng p.desc p.ctx) (core := core) (eng := eng)
    (rt := (b₁.ticketed core eng p.desc p.ctx).realTime p.issuer) (by
      rw [hshare, hplace, hrt, Block.realTime_congr (hpre .queues (by simp))]
      exact hmay) p.ctx d
  rw [hmap] at hcheck
  obtain ⟨hbad, hgood⟩ := hcheck
  have hcore : ((s.b.noWants.frontAccept core eng).dropLines core eng).eng core eng =
      (b₁.acceptOp core eng p.desc p.ctx p.issuer p.label).eng core eng := by
    rw [Block.eng, hdrop.core_eq (by simp), hafter.core_eq (by simp), Block.eng]
  refine ⟨_, exec_opAccept hlow hgated hm, ⟨rfl, rfl, rfl, ?_⟩, ?_, ?_, fun hc => ?_, fun hc hmask => ?_⟩
  · exact (((hpre.mono (by simp)).trans (hkeeps.mono (by simp))).trans (hafter.mono (by simp))).trans (hdrop.mono (by simp))
  · rw [hcore, hissued, heng]
  · rw [hcore, harr, heng]
  · obtain ⟨hqueue, hlast⟩ := Block.acceptOp_refuses (b := b₁) (off := p.desc) (iss := p.issuer) (hdesc.symm ▸ hbad hc) p.label
    exact ⟨by rw [hcore, hqueue, heng], by rw [hdrop.ctx_eq (by simp), hafter.ctx_eq (by simp), hlast]; rfl⟩
  · obtain ⟨o, ho, hname⟩ := Block.acceptOp_joins (b := b₁) (off := p.desc) (iss := p.issuer) (hdesc.symm ▸ hgood hc hmask) p.label
    rw [hdesc, heng] at hname
    exact ⟨o, by rw [hcore, ho], congrArg (fun n => n.2.1) hname, congrArg (fun n => n.2.2) hname, congrArg Prod.fst hname⟩

end

/-- Settles O9: the placement leaves the front end's list, and the acceptance takes a ticket, or gives its code and takes none. -/
theorem placedOpIsAcceptedRefusedOrDropped : Obligations.PlacedOpIsAcceptedRefusedOrDropped := by
  intro s core eng p rest ha d hlow hgated
  exact ⟨fun hgen hq hturn hmay hm => opAccept_accepts ha hlow hgated hgen hq hturn hmay hm, fun hgen => opAccept_drops ha hlow hgated hgen⟩

end Sys2Proof.Machine
end

section
/-! Parade ops at the head of a queue (R68; O10, which fails). -/

namespace Sys2Proof.Machine

/-- A MATMUL whose resident tile is tile 0 of segment 0, of the Parade. -/
def paradeMatmul : EOp :=
  { ticket := 1, desc := [BitVec.ofNat 64 (2 ^ 60 + 2 ^ 49 + 1)], ctx := 16, issuer := .hart none, label := 0, srCtr := none
    histFloor := none, tags := none, mask := none, seq := 1, phase := .queued, headChecked := false, tile := 0, armedAt := none
    waitCounted := false, downDone := true, upDone := true, baseAt := 0, doneAt := 0, codes := [], missedSlots := [], sent := [] }

/-- An engine with an op at the head of its queue and one in execution under the same ticket, which has given PARADE_NOTILE. -/
def engineSharingTicket : Engine :=
  { Engine.reset with queue := [paradeMatmul], active := [{ paradeMatmul with codes := [cParadeNotile] }] }

/-- The compute clock runs, the active map carries no tile, and engine 0 of core 0 holds two ops of one ticket. -/
def stateSharingTicket : State :=
  { State.reset with b := { Block.reset with
      start := { StartUp.reset with released := true }
      cores := [(0, { Core.reset with engines := [(0, engineSharingTicket)] })] } }

/-- The head check ends the op, since the map does not carry its tile. -/
theorem exec_paradeHeadCheck_sharingTicket : exec (.paradeHeadCheck 0 0) stateSharingTicket =
    .next { stateSharingTicket with b := stateSharingTicket.b.endWith 0 0 paradeMatmul cParadeNotile } := by
  show execParadeHeadCheck 0 0 stateSharingTicket = _
  rw [execParadeHeadCheck, State.onCompute_running (by decide)]
  rfl

/-- The end gives no code: the ticket's op in execution has given it. -/
theorem endWith_sharingTicket_lastCode :
    ((stateSharingTicket.b.endWith 0 0 paradeMatmul cParadeNotile).ctx 16).lastCode = 0 := by decide +kernel

/-- Refutes O10: each op gives a code once, and the codes given are looked up by ticket, first among the ops in execution. Where one
of those has the head op's ticket and has given PARADE_NOTILE, the head check ends the head op without the code, although the head op
itself has given none. -/
theorem not_paradeOpsAreCheckedAndCaptureTiles : ¬ Obligations.ParadeOpsAreCheckedAndCaptureTiles := by
  rintro ⟨hhead, -⟩
  obtain ⟨-, hends⟩ := hhead stateSharingTicket 0 0 paradeMatmul [] rfl (by decide) (by decide) (by decide) rfl
  obtain ⟨t, he, -, hcode, -⟩ := hends (by decide)
  rw [exec_paradeHeadCheck_sharingTicket] at he
  cases he
  exact absurd (endWith_sharingTicket_lastCode.symm.trans hcode) (by decide)

end Sys2Proof.Machine
end

section
/-! Banks set and loaded by an op (R70, R456; O11). -/

namespace Sys2Proof.Machine

/-! ### Elements of a bank -/

theorem dBank_lt (d : List Dword) : dBank d < 2 := Nat.mod_lt _ (by decide)

/-- A bank that is set leaves the other one. -/
theorem Engine.setBank_bank_other (e : Engine) {k : Nat} (hk : k < 2) (t : Tab Word) : (e.setBank k t).bank (1 - k) = e.bank (1 - k) := by
  interval_cases k <;> rfl

theorem Engine.setBank_sameOps {α : Type} (key : EOp → α) (e : Engine) (k : Nat) (t : Tab Word) : e.SameOps key (e.setBank k t) := by
  rw [Engine.setBank]
  split <;> exact ⟨rfl, rfl, rfl, rfl, rfl⟩

/-- The rows below n of a zeroed bank are +0.0. -/
theorem bankZero_get (t : Tab Word) (n r : Nat) {j : Nat} (hj : j < 64) :
    accGet (bankZero t n) r j = if r < n then 0 else accGet t r j := by
  rw [accGet, bankZero, Tab.get_filter 0 (fun k => decide (64 * n ≤ k))]
  by_cases hr : r < n
  · rw [if_pos hr, if_neg (by simp; omega)]
  · rw [if_neg hr, if_pos (by simp; omega), accGet]

/-- A row loaded element by element. -/
theorem accSet_row_get (t : Tab Word) (r : Nat) (f : Nat → Word) (r' : Nat) {j : Nat} (hj : j < 64) :
    accGet ((List.range 64).foldl (fun t j => accSet t r j (f j)) t) r' j = if r' = r then f j else accGet t r' j := by
  have hkeys : ((List.range 64).map fun j => 64 * r + j).Nodup := List.nodup_range.map fun a b h => Nat.add_left_cancel h
  obtain ⟨hin, hout⟩ := Tab.get_foldl_set 0 (fun j => 64 * r + j) (fun j _ => f j) (List.range 64) hkeys t
  split
  · rename_i hr
    rw [hr]
    exact hin j (List.mem_range.2 hj)
  · rename_i hr
    refine hout _ fun hmem => ?_
    obtain ⟨i, hi, heq⟩ := List.mem_map.1 hmem
    have := List.mem_range.1 hi
    omega

/-- The rows that a load names, and no others, are what it reads (R70). -/
theorem Block.bankLoad_get (b : Block) (core ctx : Nat) (d : List Dword) (t : Tab Word) (r : Nat) {j : Nat} (hj : j < 64) :
    accGet (b.bankLoad core ctx d t).1 r j = if r < dRows d then
      fp32Of (((b.rdOperands core ctx (wd d 6) (4 * (r * dOutPitch d)) 256).drop (4 * j)).take 4) else accGet t r j := by
  have hfold : ∀ (l : List Nat) (codes : List Nat) (t : Tab Word), accGet (l.foldl (fun (x : Tab Word × List Nat) r =>
      ((List.range 64).foldl (fun t j => accSet t r j
        (fp32Of (((b.rdOperands core ctx (wd d 6) (4 * (r * dOutPitch d)) 256).drop (4 * j)).take 4))) x.1,
        x.2 ++ codesOf (b.rdOperands core ctx (wd d 6) (4 * (r * dOutPitch d)) 256))) (t, codes)).1 r j =
      if r ∈ l then fp32Of (((b.rdOperands core ctx (wd d 6) (4 * (r * dOutPitch d)) 256).drop (4 * j)).take 4) else accGet t r j := by
    intro l
    induction l with
    | nil => simp
    | cons x l ih =>
      intro codes t
      rw [List.foldl_cons, ih, accSet_row_get _ _ _ _ hj]
      by_cases hr : r = x <;> simp [hr]
  rw [Block.bankLoad, ← if_congr (List.mem_range (n := dRows d)) rfl rfl]
  exact hfold _ _ t

/-! ### Changes of one engine in turn -/

theorem Core.modEng_modEng (c : Core) (eng : Nat) (f g : Engine → Engine) (h : f (c.eng eng) ≠ Engine.reset) :
    (c.modEng eng f).modEng eng g = c.modEng eng fun e => g (f e) := by
  have hget : Tab.get Engine.reset (Tab.upd Engine.reset c.engines eng f) eng = f (c.eng eng) := Tab.get_upd_same _ _ _ _
  show { c with engines := Tab.set _ (Tab.set _ c.engines eng (f (c.eng eng))) eng (g (Tab.get _ (Tab.upd _ c.engines eng f) eng)) } = _
  rw [hget, Tab.set_set c.engines eng _ h]
  rfl

/-- Two changes of an engine are one, where the first does not leave the engine in reset. -/
theorem Block.modEng_modEng (b : Block) (core eng : Nat) (f g : Engine → Engine) (h : f (b.eng core eng) ≠ Engine.reset) :
    (b.modEng core eng f).modEng core eng g = b.modEng core eng fun e => g (f e) := by
  have heng : ((b.core core).modEng eng f).eng eng = f (b.eng core eng) := Tab.get_upd_same _ _ _ _
  have hcore : (b.core core).modEng eng f ≠ Core.reset := by
    intro hreset
    rw [hreset] at heng
    exact h heng.symm
  rw [Block.modEng, Block.modEng, Block.modCore_modCore _ _ _ _ hcore, Block.modEng]
  exact Block.modCore_congr ((b.core core).modEng_modEng eng f g h)

/-- An engine with an op in execution is not in reset. -/
theorem Engine.ne_reset_of_active {e : Engine} {o : EOp} (h : o ∈ e.active) : e ≠ Engine.reset := by
  rintro rfl
  exact List.not_mem_nil h

/-- An instruction whose effect is a change of one engine. -/
theorem Completes.onlyEng {i : Instr} {s : State} {core eng : Nat} {f : Engine → Engine} {p : Engine → Prop}
    (he : exec i s = .next { s with b := s.b.modEng core eng f }) (hp : p (f (s.b.eng core eng))) :
    Completes (exec i s) fun t => OnlyEng core eng s t ∧ p (t.b.eng core eng) := by
  have hf := s.b.modEng_eng_same core eng f
  refine ⟨_, he, ?_, hf.symm ▸ hp⟩
  rw [OnlyEng, hf]
  rfl

/-! ### The steps of an op on its engine -/

/-- The engine once the op at the head of its queue has begun. -/
def Engine.begun (e : Engine) (o : EOp) : Engine :=
  { e with queue := e.queue.drop 1, active := e.active ++ [{ o with phase := .running }] }

/-- The engine once a ticket's op is written out, to complete at a clock. -/
def Engine.written (e : Engine) (ticket clk : Nat) : Engine := e.modOp ticket fun x => { x with phase := .written, doneAt := clk }

theorem Block.begin_eq (b : Block) (core eng : Nat) (o : EOp) : b.begin core eng o = b.modEng core eng fun e => e.begun o := rfl

theorem Engine.begun_active (e : Engine) (o : EOp) : { o with phase := .running } ∈ (e.begun o).active :=
  List.mem_append_right _ (List.mem_singleton_self _)

/-- An op in execution by its key is written out by it. -/
theorem Engine.written_active {e : Engine} {o : EOp} (h : ∃ p ∈ e.active, p.face = o.face) (clk : Nat) :
    ∃ p ∈ (e.written o.ticket clk).active, p.ticket = o.ticket ∧ p.desc = o.desc ∧ p.phase = .written := by
  obtain ⟨p, hp, hface⟩ := h
  have hname := EOp.face_name hface
  have hticket := EOp.ticket_of_name hname
  refine ⟨{ p with phase := .written, doneAt := clk }, ?_, hticket, EOp.desc_of_name hname, rfl⟩
  rw [← hticket]
  exact Engine.mem_modOp hp _

/-! ### ZEROACC -/

/-- The engine once the op's rows of its bank are zero. -/
def Engine.zeroRows (e : Engine) (o : EOp) : Engine := e.setBank (dBank o.desc) (bankZero (e.bank (dBank o.desc)) (dRows o.desc))

theorem Engine.zeroRows_active (e : Engine) (o : EOp) :
    ∃ p ∈ ((e.begun o).zeroRows o).active, p.face = ({ o with phase := .running } : EOp).face :=
  (Engine.setBank_sameOps EOp.face _ _ _).mem_active (e.begun_active o)

theorem exec_zeroacc {s : State} {core eng : Nat} {o : EOp} (h : s.b.headOp core eng 4 = some o) :
    exec (.zeroacc core eng) s = .next { s with
      b := s.b.modEng core eng fun e => ((e.begun o).zeroRows o).written o.ticket (s.b.time.clk + 1) } := by
  obtain ⟨p, hp, -⟩ := (s.b.eng core eng).zeroRows_active o
  have hz : exec (.zeroacc core eng) s = .next { s with
      b := ((s.b.modEng core eng fun e => e.begun o).modEng core eng fun e => e.zeroRows o).modEng core eng fun e =>
        e.written o.ticket (s.b.time.clk + 1) } := by
    show execZeroacc core eng s = _
    rw [execZeroacc, State.onBlock_eq, h]
    rfl
  rw [hz, Block.modEng_modEng, Block.modEng_modEng]
  · exact Engine.ne_reset_of_active (Engine.begun_active _ o)
  · rw [Block.modEng_eng_same]
    exact Engine.ne_reset_of_active hp

theorem zeroacc_zeroes {s : State} {core eng : Nat} {o : EOp} (h : s.b.headOp core eng 4 = some o) :
    let e := s.b.eng core eng
    Completes (exec (.zeroacc core eng) s) fun t =>
      let e' := t.b.eng core eng
      OnlyEng core eng s t ∧
      (∀ r j, j < 64 → accGet (e'.bank (dBank o.desc)) r j = if r < dRows o.desc then 0 else accGet (e.bank (dBank o.desc)) r j) ∧
      e'.bank (1 - dBank o.desc) = e.bank (1 - dBank o.desc) ∧
      ∃ p ∈ e'.active, p.ticket = o.ticket ∧ p.desc = o.desc ∧ p.phase = .written := by
  intro e
  have hset := (e.begun o).setBank_bank (k := dBank o.desc) (bankZero (e.bank (dBank o.desc)) (dRows o.desc))
  have hother := (e.begun o).setBank_bank_other (dBank_lt o.desc) (bankZero (e.bank (dBank o.desc)) (dRows o.desc))
  refine Completes.onlyEng (exec_zeroacc h) (p := fun e' =>
    (∀ r j, j < 64 → accGet (e'.bank (dBank o.desc)) r j = if r < dRows o.desc then 0 else accGet (e.bank (dBank o.desc)) r j) ∧
    e'.bank (1 - dBank o.desc) = e.bank (1 - dBank o.desc) ∧
    ∃ p ∈ e'.active, p.ticket = o.ticket ∧ p.desc = o.desc ∧ p.phase = .written) ⟨fun r j hj => ?_, hother, ?_⟩
  · exact (congrArg (fun t => accGet t r j) hset).trans (bankZero_get _ _ r hj)
  · exact Engine.written_active (o := { o with phase := .running }) (e.zeroRows_active o) _

/-! ### LOADACC -/

/-- The block that LOADACC leaves of `b`. -/
theorem startLoadacc_does (b : Block) (core eng : Nat) (o : EOp) :
    let e := b.eng core eng
    let e' := (b.startLoadacc core eng o).eng core eng
    b.Keeps [.cores, .ctxs, .ports] (b.startLoadacc core eng o) ∧
      e'.bank (dBank o.desc) = ((b.begin core eng o).bankLoad core o.ctx o.desc (e.bank (dBank o.desc))).1 ∧
      e'.bank (1 - dBank o.desc) = e.bank (1 - dBank o.desc) ∧
      ∃ p ∈ e'.active, p.ticket = o.ticket ∧ p.desc = o.desc ∧ p.phase = .written := by
  intro e
  have hbegun : (b.begin core eng o).eng core eng = e.begun o := Block.modEng_eng_same _ _ _ _
  have hload : b.startLoadacc core eng o =
      let x := (b.begin core eng o).bankLoad core o.ctx o.desc (((b.begin core eng o).eng core eng).bank (dBank o.desc))
      (((b.begin core eng o).modEng core eng fun y => y.setBank (dBank o.desc) x.1).opCodes core eng o x.2).modEng core eng fun y =>
        y.written o.ticket (b.time.clk + dRows o.desc + 4) := rfl
  have hbank : (e.begun o).bank (dBank o.desc) = e.bank (dBank o.desc) := rfl
  rw [hbegun, hbank] at hload
  generalize hx : (b.begin core eng o).bankLoad core o.ctx o.desc (e.bank (dBank o.desc)) = x at hload ⊢
  dsimp only at hload
  have hset : ((b.begin core eng o).modEng core eng fun y => y.setBank (dBank o.desc) x.1).eng core eng =
      (e.begun o).setBank (dBank o.desc) x.1 := by rw [Block.modEng_eng_same, hbegun]
  have hkeeps : b.Keeps [.cores] ((b.begin core eng o).modEng core eng fun y => y.setBank (dBank o.desc) x.1) :=
    (b.modEng_keeps core eng _).trans (Block.modEng_keeps _ core eng _)
  generalize ((b.begin core eng o).modEng core eng fun y => y.setBank (dBank o.desc) x.1) = c at hload hset hkeeps
  have hsums := KeepsSums.opCodes (core := core) (eng := eng) c o x.2
  have hops := Worked.opCodes (core := core) (eng := eng) c o x.2
  have heng : (b.startLoadacc core eng o).eng core eng =
      ((c.opCodes core eng o x.2).eng core eng).written o.ticket (b.time.clk + dRows o.desc + 4) := by
    rw [hload, Block.modEng_eng_same]
  rw [heng]
  obtain ⟨p, hp, hface⟩ := (hset ▸ Engine.setBank_sameOps EOp.face (e.begun o) (dBank o.desc) x.1).mem_active (e.begun_active o)
  obtain ⟨q, hq, hqface⟩ := hops.ops.mem_active hp
  refine ⟨?_, ?_, ?_, Engine.written_active (o := { o with phase := .running }) ⟨q, hq, hqface.trans hface⟩ _⟩
  · rw [hload]
    exact ((hkeeps.mono (by simp)).trans hsums.keeps).trans ((Block.modEng_keeps _ core eng _).mono (by simp))
  · exact ((hsums.sums.bank _).trans (by rw [hset])).trans (Engine.setBank_bank _ _)
  · exact ((hsums.sums.bank _).trans (by rw [hset])).trans ((e.begun o).setBank_bank_other (dBank_lt _) _)

theorem loadacc_loads {s : State} {core eng : Nat} {o : EOp} (h : s.b.headOp core eng 3 = some o)
    (hm : Met s.b fun b => b.startLoadacc core eng o) :
    let e := s.b.eng core eng
    Completes (exec (.loadacc core eng) s) fun t =>
      let e' := t.b.eng core eng
      Frame [.cores, .ctxs, .ports] s t ∧
      (∀ r j, j < 64 → accGet (e'.bank (dBank o.desc)) r j =
        if r < dRows o.desc then
          fp32Of (((s.b.rdOperands core o.ctx (wd o.desc 6) (4 * (r * dOutPitch o.desc)) 256).drop (4 * j)).take 4)
        else accGet (e.bank (dBank o.desc)) r j) ∧
      e'.bank (1 - dBank o.desc) = e.bank (1 - dBank o.desc) ∧
      ∃ p ∈ e'.active, p.ticket = o.ticket ∧ p.desc = o.desc ∧ p.phase = .written := by
  intro e
  have he : exec (.loadacc core eng) s = .next { s with b := (s.b.noWants.startLoadacc core eng o).dropLines core eng } := by
    show execLoadacc core eng s = _
    rw [execLoadacc, State.onBlock_eq, h]
    exact congrArg (fun b => Host.Outcome.next { s with b := b }) (Block.attempt_met hm core eng o.label)
  obtain ⟨hkeeps, hbank, hother, hactive⟩ := startLoadacc_does s.b.noWants core eng o
  have hdrop := (s.b.noWants.startLoadacc core eng o).dropLines_keeps core eng
  have heng : ((s.b.noWants.startLoadacc core eng o).dropLines core eng).eng core eng = (s.b.noWants.startLoadacc core eng o).eng core eng := by
    rw [Block.eng, hdrop.core_eq (by simp), Block.eng]
  refine ⟨_, he, ⟨rfl, rfl, rfl, ?_⟩, ?_⟩
  · exact ((s.b.noWants_keeps.mono (by simp)).trans hkeeps).trans (hdrop.mono (by simp))
  · rw [heng]
    refine ⟨fun r j hj => ?_, hother, hactive⟩
    rw [hbank, Block.bankLoad_get _ _ _ _ _ _ hj, Block.begin_eq, Block.noWants_modEng_rdOperands]
    rfl

/-- Settles O11: both ops set their own bank, LOADACC from the rows that it reads, and only then is the op written out. -/
theorem bankIsZeroedOrLoaded : Obligations.BankIsZeroedOrLoaded := fun _ _ _ _ _ =>
  ⟨fun h => zeroacc_zeroes h, fun h hm => loadacc_loads h hm⟩

end Sys2Proof.Machine
end

section
/-! Work of an op in execution (R52, R59 to R63, R70, R71, R143; O12): what the start of an op, its rows, its write-out and its completion
leave of its engine's ops. -/

namespace Sys2Proof.Machine

namespace Worked

variable {α : Type} {key : EOp → α} {core eng : Nat}

/-! ### Sums -/

theorem setBank (b : Block) (k : Nat) (f : Engine → Tab Word) : Worked key core eng b (b.modEng core eng fun e => e.setBank k (f e)) :=
  modEng b _ fun e => e.setBank_sameOps key k (f e)

theorem accStart (b : Block) (ctx : Nat) (d : List Dword) : ∀ mode, Worked key core eng b (b.accStart core eng ctx d mode).1
  | 0 => setBank b (dBank d) _
  | 1 => refl b
  | 2 => setBank b (dBank d) _
  | _ + 3 => refl b

theorem takeRows (b : Block) (o : EOp) (t : Nat) : Worked key core eng b (b.takeRows core eng o t).1 := by
  rw [Block.takeRows]
  refine (progress b eng).trans (modEng _ _ fun e => ?_)
  split
  · exact e.setBank_sameOps key _ _
  · exact (e.setBank_sameOps key _ _).trans ⟨rfl, rfl, rfl, rfl, rfl⟩

theorem adapterAdd (b : Block) (o : EOp) : Worked key core eng b (b.adapterAdd core eng o) := by
  rw [Block.adapterAdd]
  exact ite (refl b) ((setBank b (dBank o.desc) _).trans (modAdapter _ _))

/-! ### The write-out -/

theorem writeOut (b : Block) (o : EOp) : Worked key core eng b (b.writeOut core eng o).1 := by
  rw [Block.writeOut]
  dsimp only
  have hpieces : ∀ (l : List (Bool × Nat × List Byte)), Worked key core eng b (l.foldl (fun (x : Block × List Nat) q =>
      ((x.1.wrOperand core o.label o.ctx (if q.1 then wd o.desc 4 else wd o.desc 5) q.2.1 q.2.2).1,
        x.2 ++ (x.1.wrOperand core o.label o.ctx (if q.1 then wd o.desc 4 else wd o.desc 5) q.2.1 q.2.2).2)) (b, [])).1 := by
    refine fun l => foldlFst _ (fun x q => ?_) l (b, [])
    exact of_accesses (Accesses.wrOperand ..)
  split
  · exact (hpieces _).trans (of_accesses (Accesses.amaxMerge ..))
  · exact hpieces _

theorem tracked {β : Type} (b : Block) (ticket : Nat) {f : Block → Block × β} (hf : Worked EOp.face core eng b (f b).1) :
    Worked EOp.face core eng b (b.tracked core eng ticket f).1 := by
  rw [Block.tracked]
  exact ite hf (hf.trans (modOp _ _ fun _ => rfl))

end Worked

theorem Engine.written_sameOps (e : Engine) (ticket clk : Nat) : e.SameOps EOp.name (e.written ticket clk) := .modOp e ticket fun _ => rfl

/-- The end of an op's sums: with its write-out made it is written out, to complete at a clock (R71, R143). -/
theorem Block.finishOp_writes (b : Block) (core eng : Nat) (o : EOp) : ∃ (c : Block) (clk : Nat), Worked EOp.face core eng b c ∧
    Worked EOp.face core eng (c.modEng core eng fun e => e.written o.ticket clk) (b.finishOp core eng o) := by
  have hadd : Worked EOp.face core eng b ((b.adapterAdd core eng o).progress core eng) :=
    (Worked.adapterAdd b o).trans (Worked.progress _ eng)
  rw [Block.finishOp]
  dsimp only
  generalize (if dOpcode o.desc == 1 then o.onRows.length else dRows o.desc) = rows
  split
  · exact ⟨_, _, hadd.trans (Worked.tracked _ o.ticket (Worked.writeOut _ o)), Worked.opCodes _ o _⟩
  · exact ⟨_, _, hadd, Worked.refl _⟩

namespace Worked

variable {core eng : Nat}

theorem finishOp (b : Block) (o : EOp) : Worked EOp.name core eng b (b.finishOp core eng o) := by
  obtain ⟨c, clk, hpre, hpost⟩ := b.finishOp_writes core eng o
  exact ((hpre.mono EOp.face_name).trans (modEng c _ fun e => e.written_sameOps o.ticket clk)).trans (hpost.mono EOp.face_name)

theorem baseComplete (b : Block) (o : EOp) (clk : Nat) : Worked EOp.name core eng b (b.baseComplete core eng o clk) := by
  rw [Block.baseComplete]
  refine trans (c := b.modOp core eng o.ticket fun x => { x with phase := .baseDone, baseAt := clk }) (modOp b _ fun _ => rfl) ?_
  exact ite (finishOp _ _) (refl _)

/-! ### Tiles -/

theorem opCodes_name (b : Block) (o : EOp) (codes : List Nat) : Worked EOp.name core eng b (b.opCodes core eng o codes) :=
  (opCodes b o codes).mono EOp.face_name

theorem loadNext (b : Block) (o : EOp) (t : Nat) : Worked EOp.name core eng b (b.loadNext core eng o t) := by
  rw [Block.loadNext]
  refine trans ?_ (modOp _ o.ticket fun _ => rfl)
  refine trans ?_ (opCodes_name _ o _)
  exact (progress b eng).trans (modEng _ _ fun _ => ⟨rfl, rfl, rfl, rfl, rfl⟩)

theorem residentMove (b : Block) : Worked EOp.name core eng b (b.residentMove core eng) := by
  rw [Block.residentMove]
  dsimp only
  split
  · exact refl b
  · rename_i o _
    refine ite (refl b) (trans ?_ (ite (ite (refl _) (loadNext _ o _)) (baseComplete _ o _)))
    refine trans ?_ (opCodes_name _ o _)
    exact (modEng b Engine.shift fun _ => ⟨rfl, rfl, rfl, rfl, rfl⟩).trans (takeRows _ o (o.tile - 1))

theorem beginAcc (b : Block) (o : EOp) : Worked EOp.name core eng (b.begin core eng o) (b.beginAcc core eng o) :=
  (accStart _ o.ctx o.desc (dAccMode o.desc)).trans (opCodes_name _ o _)

/-- The start of a MATMUL that is not to be armed (R70, R79, R161). -/
theorem startMatmul (b : Block) {o : EOp} (h : dRsrc o.desc = false ∨ o.onRows = []) :
    Worked EOp.name core eng (b.begin core eng o) (b.startMatmul core eng o) := by
  rw [Block.startMatmul]
  split
  · exact (beginAcc b o).trans (baseComplete _ o _)
  · rename_i hrows
    have hsrc : ¬ dRsrc o.desc = true := by
      rcases h with h | h
      · simp [h]
      · simp [h] at hrows
    rw [if_neg hsrc]
    refine trans ?_ (residentMove _)
    refine trans ?_ (loadNext _ o 0)
    exact trans (beginAcc b o) (modOp _ o.ticket fun _ => rfl)

end Worked

end Sys2Proof.Machine
end

section
/-! The start of an op at the head of its queue, and its completion (R60, R65, R70, R77, R79, R456; O12). -/

namespace Sys2Proof.Machine

/-! ### The head of the queue -/

theorem Block.headOp_queue {b : Block} {core eng opcode : Nat} {o : EOp} (h : b.headOp core eng opcode = some o) :
    ∃ rest, (b.eng core eng).queue = o :: rest := by
  rw [Block.headOp] at h
  split at h
  · exact nomatch h
  · rename_i p rest hq
    split at h
    · cases h
      exact ⟨rest, hq⟩
    · exact nomatch h

/-- Work after an op has begun: the op has left the queue and runs (R76). -/
theorem Worked.begun {b c : Block} {core eng : Nat} {o : EOp} {rest : List EOp} (h : Worked EOp.name core eng (b.begin core eng o) c)
    (hq : (b.eng core eng).queue = o :: rest) :
    b.Keeps [.cores, .ctxs, .mem, .coh, .ports, .slices] c ∧ (c.eng core eng).queue.length + 1 = (b.eng core eng).queue.length ∧
      (c.eng core eng).done = (b.eng core eng).done ∧ ∃ p ∈ (c.eng core eng).active, p.ticket = o.ticket ∧ p.desc = o.desc := by
  have hbegun : (b.begin core eng o).eng core eng = (b.eng core eng).begun o := Block.modEng_eng_same _ _ _ _
  obtain ⟨p, hp, hname⟩ := h.ops.mem_active (hbegun ▸ (b.eng core eng).begun_active o)
  refine ⟨((b.modEng_keeps core eng _).mono (by simp)).trans (h.keeps.mono (by simp)), ?_, ?_, p, hp, EOp.ticket_of_name hname,
    EOp.desc_of_name hname⟩
  · rw [h.ops.queue_length, hbegun, hq, Engine.begun, hq]
    rfl
  · rw [h.ops.done, hbegun]
    rfl

/-! ### The op of a ticket -/

/-- The op of a ticket gets its change. -/
theorem Engine.op_modOp (e : Engine) (ticket : Nat) {f : EOp → EOp} (hf : ∀ o, (f o).ticket = o.ticket) :
    (e.modOp ticket f).op ticket = (e.op ticket).map f := by
  have hmap : ∀ l : List EOp, (l.map fun o => if o.ticket == ticket then f o else o).find? (fun o => o.ticket == ticket) =
      (l.find? fun o => o.ticket == ticket).map f := by
    intro l
    induction l with
    | nil => rfl
    | cons x l ih =>
      by_cases hx : x.ticket = ticket
      · simp [hx, hf]
      · rw [List.map_cons, if_neg (by simpa using hx)]
        simpa [hx] using ih
  rw [Engine.op, Engine.op, ← hmap, List.map_append]
  rfl

/-- An op that begins is its ticket's, where no other in execution has it. -/
theorem Engine.begun_op {e : Engine} {o : EOp} (h : ∀ p ∈ e.active, p.ticket ≠ o.ticket) :
    (e.begun o).op o.ticket = some { o with phase := .running } := by
  have hnone : e.active.find? (fun p => p.ticket == o.ticket) = none := List.find?_eq_none.2 fun p hp => by simpa using h p hp
  rw [Engine.op, Engine.begun]
  dsimp only
  rw [List.find?_append, List.find?_append, hnone]
  simp

/-- Ops in execution under other tickets stay as they are. -/
theorem Engine.modOp_active {e : Engine} {ticket : Nat} (h : ∀ p ∈ e.active, p.ticket ≠ ticket) (f : EOp → EOp) :
    (e.modOp ticket f).active = e.active := by
  have hid : ∀ p ∈ e.active, (if p.ticket == ticket then f p else p) = p := fun p hp => if_neg (by simpa using h p hp)
  exact (List.map_congr_left hid).trans (List.map_id' _)

/-! ### WRITEOUT -/

/-- The op with its base product complete in a clock. -/
def EOp.based (clk : Nat) (o : EOp) : EOp := { o with phase := .baseDone, baseAt := clk }

/-- With no up step to come, a ticket's op in execution is written out once its base product is complete (R143). -/
theorem Block.baseComplete_writes {b : Block} {core eng : Nat} {o p : EOp} (hop : (b.eng core eng).op o.ticket = some p)
    (hp : p ∈ (b.eng core eng).active) (ht : p.ticket = o.ticket) (hup : p.upDone = true) (clk : Nat) :
    ∃ q ∈ ((b.baseComplete core eng o clk).eng core eng).active, q.ticket = o.ticket ∧ q.desc = p.desc ∧ q.phase = .written := by
  have hbased : (b.modOp core eng o.ticket (EOp.based clk)).eng core eng = (b.eng core eng).modOp o.ticket (EOp.based clk) :=
    Block.modEng_eng_same _ _ _ _
  have hmem : p.based clk ∈ ((b.modOp core eng o.ticket (EOp.based clk)).eng core eng).active := by
    rw [hbased, ← ht]
    exact Engine.mem_modOp hp _
  have hfin : b.baseComplete core eng o clk = (b.modOp core eng o.ticket (EOp.based clk)).finishOp core eng (p.based clk) := by
    have hget : (((b.modOp core eng o.ticket (EOp.based clk)).eng core eng).op o.ticket).getD o = p.based clk := by
      rw [hbased, Engine.op_modOp _ _ (f := EOp.based clk) fun _ => rfl, hop, Option.map_some, Option.getD_some]
    show (if ((((b.modOp core eng o.ticket (EOp.based clk)).eng core eng).op o.ticket).getD o).upDone then
      (b.modOp core eng o.ticket (EOp.based clk)).finishOp core eng
        ((((b.modOp core eng o.ticket (EOp.based clk)).eng core eng).op o.ticket).getD o)
      else b.modOp core eng o.ticket (EOp.based clk)) = _
    rw [hget, if_pos (show (p.based clk).upDone = true from hup)]
  obtain ⟨c, clk', hpre, hpost⟩ := (b.modOp core eng o.ticket (EOp.based clk)).finishOp_writes core eng (p.based clk)
  rw [show (p.based clk).ticket = o.ticket from ht] at hpost
  obtain ⟨r, hr, hticket, hdesc, hphase⟩ := Engine.written_active (hpre.ops.mem_active hmem) clk'
  rw [show (p.based clk).ticket = o.ticket from ht] at hr
  rw [← Block.modEng_eng_same c core eng fun e => e.written o.ticket clk'] at hr
  obtain ⟨q, hq, hface⟩ := hpost.ops.mem_active hr
  have hname := EOp.face_name hface
  rw [hfin]
  exact ⟨q, hq, ((EOp.ticket_of_name hname).trans hticket).trans ht, (EOp.desc_of_name hname).trans hdesc,
    (EOp.face_phase hface).trans hphase⟩

/-- With no up step the op is written out at once (R71, R143, R456). -/
theorem Block.startWriteout_writes {b : Block} {core eng : Nat} {o : EOp} (h : ∀ p ∈ (b.eng core eng).active, p.ticket ≠ o.ticket)
    (hup : o.upDone = true) : ∃ p ∈ ((b.startWriteout core eng o).eng core eng).active,
      p.ticket = o.ticket ∧ p.desc = o.desc ∧ p.phase = .written := by
  have hbegun : (b.begin core eng o).eng core eng = (b.eng core eng).begun o := Block.modEng_eng_same _ _ _ _
  have hop : ((b.begin core eng o).eng core eng).op o.ticket = some { o with phase := .running } := by rw [hbegun, Engine.begun_op h]
  have hmem : { o with phase := .running } ∈ ((b.begin core eng o).eng core eng).active := by rw [hbegun]; exact Engine.begun_active _ o
  exact Block.baseComplete_writes hop hmem rfl hup b.time.clk

/-! ### A Parade op is armed (R65) -/

/-- The engine once the streaming buffer holds rows for an op, which waits for its first tile from a clock on. -/
def Engine.armed (e : Engine) (o : EOp) (rows : List Byte) (clk : Nat) : Engine :=
  ({ e with stream := rows, strFor := some o.ticket }).modOp o.ticket fun x => { x with armedAt := some clk }

/-- Notes of lines still to come are kept in the ports. -/
theorem Block.ctxCodes_needs (b : Block) (c : Nat) {l : List Nat} (h : ∀ k ∈ l, 65536 ≤ k) : b.Keeps [.ports] (b.ctxCodes c l) := by
  rw [Block.ctxCodes]
  induction l generalizing b with
  | nil => exact Block.Keeps.refl _ b
  | cons k l ih =>
    obtain ⟨hk, hl⟩ := List.forall_mem_cons.1 h
    rw [List.foldl_cons]
    refine Block.Keeps.trans ?_ (ih _ hl)
    rw [Block.ctxCode, if_pos hk]
    exact b.modPorts_keeps _

theorem Block.ctxCodes_needsOf (b : Block) (c : Nat) (l : List Nat) : b.Keeps [.ports] (b.ctxCodes c (needsOf l)) :=
  b.ctxCodes_needs c fun _ hk => of_decide_eq_true (List.mem_filter.1 hk).2

/-- The engine with its mark of a wait. -/
def Engine.waits (e : Engine) (w : Bool) : Engine := { e with waiting := w }

/-- The op with its wait for a later pass counted, which is done once. -/
def EOp.counted (o : EOp) : EOp := { o with waitCounted := true }

theorem Engine.modOp_id (e : Engine) (ticket : Nat) : e.modOp ticket id = e := by simp [Engine.modOp]

/-- A wait for a later pass is noted of its op and of the engine, and counted (R65, R403). -/
theorem Block.lateStart_does (b : Block) (core eng : Nat) (o : EOp) : b.Keeps [.cores, .slices] (b.lateStart core eng o) ∧
    ∃ (w : Bool) (f : EOp → EOp), (f = id ∨ f = EOp.counted) ∧
      (b.lateStart core eng o).eng core eng = ((b.eng core eng).waits w).modOp o.ticket f := by
  have hw : (b.modEng core eng fun e => { e with waiting := e.waiting || e.isHead o.ticket }).eng core eng =
      (b.eng core eng).waits ((b.eng core eng).waiting || (b.eng core eng).isHead o.ticket) := b.modEng_eng_same core eng _
  have hk := b.modEng_keeps core eng fun e => { e with waiting := e.waiting || e.isHead o.ticket }
  rw [Block.lateStart]
  generalize (b.modEng core eng fun e => { e with waiting := e.waiting || e.isHead o.ticket }) = b₁ at hw hk ⊢
  have hop : (b₁.modOp core eng o.ticket EOp.counted).eng core eng = (b₁.eng core eng).modOp o.ticket EOp.counted :=
    b₁.modEng_eng_same core eng _
  have hkop : b₁.Keeps [.cores] (b₁.modOp core eng o.ticket EOp.counted) := b₁.modEng_keeps core eng _
  dsimp only
  split
  · exact ⟨hk.mono (by simp), _, id, .inl rfl, by rw [Engine.modOp_id, hw]⟩
  · split
    · exact ⟨(hk.trans hkop).mono (by simp), _, EOp.counted, .inr rfl, hw ▸ hop⟩
    · have hcnt := (b₁.modOp core eng o.ticket EOp.counted).modCnt_keeps (b₁.core core).owner fun c =>
        { c with engLateStart := up32 c.engLateStart }
      refine ⟨((hk.trans hkop).mono (by simp)).trans (hcnt.mono (by simp)), _, EOp.counted, .inr rfl, Eq.trans ?_ (hw ▸ hop)⟩
      exact congrArg (fun c : Core => c.eng eng) (hcnt.core_eq (by simp) core)

/-- An op that is armed stays at the head, and nothing else of its engine moves (R65). -/
theorem Block.arm_does (b : Block) (core eng : Nat) (o : EOp) : b.Keeps [.cores, .slices, .ports] (b.arm core eng o) ∧
    ∃ (rows : List Byte) (w : Bool) (f : EOp → EOp), (f = id ∨ f = EOp.counted) ∧
      (b.arm core eng o).eng core eng = (((b.eng core eng).armed o rows b.time.clk).waits w).modOp o.ticket f := by
  generalize hx : b.streamOf core o 0 = rows
  have hb := b.modEng_keeps core eng fun e => { e with stream := opVals rows, strFor := some o.ticket }
  have hbe := b.modEng_eng_same core eng fun e => { e with stream := opVals rows, strFor := some o.ticket }
  rw [Block.arm, hx]
  generalize (b.modEng core eng fun e => { e with stream := opVals rows, strFor := some o.ticket }) = b₁ at hb hbe ⊢
  have hc := b₁.ctxCodes_needsOf o.ctx (codesOf rows)
  generalize b₁.ctxCodes o.ctx (needsOf (codesOf rows)) = b₂ at hc ⊢
  have hclk : b₂.time.clk = b.time.clk := by rw [hc .time (by simp), hb .time (by simp)]
  have hd := b₂.modEng_keeps core eng fun e => e.modOp o.ticket fun x => { x with armedAt := some b₂.time.clk }
  have hde : (b₂.modOp core eng o.ticket fun x => { x with armedAt := some b₂.time.clk }).eng core eng =
      (b.eng core eng).armed o (opVals rows) b.time.clk := by
    rw [Block.modOp, Block.modEng_eng_same, Block.eng, hc.core_eq (by simp), ← Block.eng, hbe, hclk]
    rfl
  have hk : b.Keeps [.cores, .slices, .ports] (b₂.modOp core eng o.ticket fun x => { x with armedAt := some b₂.time.clk }) :=
    ((hb.mono (by simp)).trans (hc.mono (by simp))).trans (hd.mono (by simp))
  generalize (b₂.modOp core eng o.ticket fun x => { x with armedAt := some b₂.time.clk }) = b₃ at hde hk ⊢
  split
  · obtain ⟨hlate, w, f, hf, heng⟩ := b₃.lateStart_does core eng o
    exact ⟨hk.trans (hlate.mono (by simp)), _, w, f, hf, hde ▸ heng⟩
  · exact ⟨hk, _, _, id, .inl rfl, by rw [Engine.modOp_id, hde]; rfl⟩

/-- What arming the op at the head of `e` leaves: nothing but its arming, the streaming buffer and the mark of a wait has changed. -/
structure Engine.ArmedAt (e : Engine) (o : EOp) (clk : Nat) (e' : Engine) : Prop where
  length : e'.queue.length = e.queue.length
  active : e'.active = e.active
  done : e'.done = e.done
  nextTile : e'.nextTile = e.nextTile
  strFor : e'.strFor = some o.ticket
  head : ∃ p, e'.queue.head? = some p ∧ p.ticket = o.ticket ∧ p.desc = o.desc ∧ p.armedAt = some clk

/-- The ops in execution are as they were where they have other tickets. -/
theorem Engine.armedAt_of_armed {e : Engine} {o : EOp} {rest : List EOp} (hq : e.queue = o :: rest)
    (h : ∀ p ∈ e.active, p.ticket ≠ o.ticket) (rows : List Byte) (clk : Nat) (w : Bool) {f : EOp → EOp} (hf : f = id ∨ f = EOp.counted) :
    e.ArmedAt o clk (((e.armed o rows clk).waits w).modOp o.ticket f) := by
  have harmed : (e.armed o rows clk).active = e.active := Engine.modOp_active (e := { e with stream := rows, strFor := some o.ticket }) h _
  have hactive : (((e.armed o rows clk).waits w).modOp o.ticket f).active = e.active :=
    (Engine.modOp_active (e := (e.armed o rows clk).waits w) (harmed.symm ▸ h) f).trans harmed
  refine ⟨by simp [Engine.modOp, Engine.waits, Engine.armed], hactive, rfl, rfl, rfl, f { o with armedAt := some clk }, ?_, ?_⟩
  · simp [Engine.modOp, Engine.waits, Engine.armed, hq]
  · rcases hf with rfl | rfl <;> exact ⟨rfl, rfl, rfl⟩

end Sys2Proof.Machine
end

section
/-! Ops start and complete in order (R60, R65, R77, R79, R456; O12). -/

namespace Sys2Proof.Machine

/-! ### The starts -/

/-- What a command that changes the block alone leaves of the machine and of one engine. -/
theorem Completes.engineAfter {i : Instr} {s : State} {b' : Block} {core eng : Nat} {L : List Part} {p : Engine → Prop}
    (he : exec i s = .next { s with b := b' }) (hk : s.b.Keeps L b') (hp : p (b'.eng core eng)) :
    Completes (exec i s) fun t => Frame L s t ∧ p (t.b.eng core eng) :=
  Completes.framed rfl hk hp he

section
variable {s : State} {core eng : Nat} {o : EOp}

theorem exec_matmul (h : s.b.headOp core eng 1 = some o) (hm : Met s.b fun b => b.startMatmul core eng o) :
    exec (.matmul core eng) s = .next { s with b := (s.b.noWants.startMatmul core eng o).dropLines core eng } := by
  show execMatmul core eng s = _
  rw [execMatmul, State.onBlock_eq, h]
  exact congrArg (fun b => Host.Outcome.next { s with b := b }) (Block.attempt_met hm core eng o.label)

theorem exec_writeout (h : s.b.headOp core eng 2 = some o) (hm : Met s.b fun b => b.startWriteout core eng o) :
    exec (.writeout core eng) s = .next { s with b := (s.b.noWants.startWriteout core eng o).dropLines core eng } := by
  show execWriteout core eng s = _
  rw [execWriteout, State.onBlock_eq, h]
  exact congrArg (fun b => Host.Outcome.next { s with b := b }) (Block.attempt_met hm core eng o.label)

/-- The unit's own lines are no part of its engine. -/
theorem Block.dropLines_eng (b : Block) (core unit eng : Nat) : (b.dropLines core unit).eng core eng = b.eng core eng := by
  rw [Block.eng, (b.dropLines_keeps core unit).core_eq (by simp), Block.eng]

/-- An instruction that takes the head op into execution. -/
theorem Completes.begun {i : Instr} {f : Block → Block} {rest : List EOp} {q : EOp → Prop} (hq : (s.b.eng core eng).queue = o :: rest)
    (he : exec i s = .next { s with b := (f s.b.noWants).dropLines core eng })
    (hw : Worked EOp.name core eng (s.b.noWants.begin core eng o) (f s.b.noWants))
    (hp : (∃ p ∈ ((f s.b.noWants).eng core eng).active, p.ticket = o.ticket ∧ p.desc = o.desc) →
      ∃ p ∈ ((f s.b.noWants).eng core eng).active, p.ticket = o.ticket ∧ p.desc = o.desc ∧ q p) :
    let e := s.b.eng core eng
    Completes (exec i s) fun t =>
      let e' := t.b.eng core eng
      Frame [.cores, .ctxs, .mem, .coh, .ports, .slices] s t ∧ e'.queue.length + 1 = e.queue.length ∧ e'.done = e.done ∧
      ∃ p ∈ e'.active, p.ticket = o.ticket ∧ p.desc = o.desc ∧ q p := by
  obtain ⟨hkeeps, hlen, hdone, hactive⟩ := hw.begun (b := s.b.noWants) hq
  refine ⟨_, he, ⟨rfl, rfl, rfl, ?_⟩, ?_⟩
  · exact ((s.b.noWants_keeps.mono (by simp)).trans hkeeps).trans ((Block.dropLines_keeps _ core eng).mono (by simp))
  · rw [Block.dropLines_eng]
    exact ⟨hlen, hdone, hp hactive⟩

theorem matmul_begins (h : s.b.headOp core eng 1 = some o) (hs : dRsrc o.desc = false ∨ o.onRows = [])
    (hm : Met s.b fun b => b.startMatmul core eng o) :
    let e := s.b.eng core eng
    Completes (exec (.matmul core eng) s) fun t =>
      let e' := t.b.eng core eng
      Frame [.cores, .ctxs, .mem, .coh, .ports, .slices] s t ∧ e'.queue.length + 1 = e.queue.length ∧ e'.done = e.done ∧
      ∃ p ∈ e'.active, p.ticket = o.ticket ∧ p.desc = o.desc := by
  obtain ⟨rest, hq⟩ := Block.headOp_queue h
  have hb := Completes.begun (q := fun _ => True) (f := fun b => b.startMatmul core eng o) hq (exec_matmul h hm)
    (Worked.startMatmul _ hs) fun ⟨p, hp, ht, hd⟩ => ⟨p, hp, ht, hd, trivial⟩
  exact hb.mono fun t ⟨hf, hl, hd, p, hp, ht, hdesc, _⟩ => ⟨hf, hl, hd, p, hp, ht, hdesc⟩

theorem writeout_begins (hu : ∀ p ∈ (s.b.eng core eng).active, p.ticket ≠ o.ticket) (h : s.b.headOp core eng 2 = some o)
    (hm : Met s.b fun b => b.startWriteout core eng o) :
    let e := s.b.eng core eng
    Completes (exec (.writeout core eng) s) fun t =>
      let e' := t.b.eng core eng
      Frame [.cores, .ctxs, .mem, .coh, .ports, .slices] s t ∧ e'.queue.length + 1 = e.queue.length ∧ e'.done = e.done ∧
      ∃ p ∈ e'.active, p.ticket = o.ticket ∧ p.desc = o.desc ∧ (o.upDone = true → p.phase = .written) := by
  obtain ⟨rest, hq⟩ := Block.headOp_queue h
  refine Completes.begun (q := fun p => o.upDone = true → p.phase = .written) (f := fun b => b.startWriteout core eng o) hq
    (exec_writeout h hm) (Worked.baseComplete _ o _) fun ⟨p, hp, ht, hd⟩ => ?_
  by_cases hup : o.upDone = true
  · obtain ⟨r, hr, hticket, hdesc, hphase⟩ := Block.startWriteout_writes (b := s.b.noWants) hu hup
    exact ⟨r, hr, hticket, hdesc, fun _ => hphase⟩
  · exact ⟨p, hp, ht, hd, fun hup' => absurd hup' hup⟩

theorem exec_matmul_arms (h : s.b.headOp core eng 1 = some o) (hs : dRsrc o.desc = true) (hrows : o.onRows ≠ []) (harm : o.armedAt = none)
    (hm : Met s.b fun b => b.startMatmul core eng o) :
    exec (.matmul core eng) s = .next { s with b := (s.b.noWants.arm core eng o).dropLines core eng } := by
  rw [exec_matmul h hm, Block.startMatmul, if_neg (by simpa using hrows), if_pos hs, if_neg (by simp [harm])]

/-- A Parade MATMUL with a row that is on is armed. -/
theorem matmul_arms (hu : ∀ p ∈ (s.b.eng core eng).active, p.ticket ≠ o.ticket) (h : s.b.headOp core eng 1 = some o)
    (hs : dRsrc o.desc = true) (hrows : o.onRows ≠ []) (harm : o.armedAt = none) (hm : Met s.b fun b => b.startMatmul core eng o) :
    Completes (exec (.matmul core eng) s) fun t =>
      Frame [.cores, .slices, .ports] s t ∧ (s.b.eng core eng).ArmedAt o s.b.time.clk (t.b.eng core eng) := by
  obtain ⟨rest, hq⟩ := Block.headOp_queue h
  obtain ⟨hkeeps, rows, w, f, hf, heng⟩ := s.b.noWants.arm_does core eng o
  have hpre : s.b.Keeps [.cores, .slices, .ports] s.b.noWants := s.b.noWants_keeps.mono (by simp)
  have hdrop : (s.b.noWants.arm core eng o).Keeps [.cores, .slices, .ports] ((s.b.noWants.arm core eng o).dropLines core eng) :=
    ((s.b.noWants.arm core eng o).dropLines_keeps core eng).mono (by simp)
  have hafter : ((s.b.noWants.arm core eng o).dropLines core eng).eng core eng =
      (((s.b.eng core eng).armed o rows s.b.time.clk).waits w).modOp o.ticket f := (Block.dropLines_eng _ core eng eng).trans heng
  have harmed := Engine.armedAt_of_armed hq hu rows s.b.time.clk w hf
  rw [← hafter] at harmed
  exact Completes.engineAfter (p := (s.b.eng core eng).ArmedAt o s.b.time.clk) (exec_matmul_arms h hs hrows harm hm)
    ((hpre.trans hkeeps).trans hdrop) harmed

end

/-! ### Completion -/

/-- DONE advances over tickets that were refused or ended early, by at most their number (R77). -/
theorem Engine.settle_done (n : Nat) (e : Engine) : ∃ k, k ≤ e.refused.length ∧ (Engine.settle n e).done = e.done + BitVec.ofNat 16 k := by
  induction n generalizing e with
  | zero => exact ⟨0, Nat.zero_le _, (BitVec.add_zero _).symm⟩
  | succ n ih =>
    rw [Engine.settle]
    split
    · rename_i hc
      have hmem := List.contains_iff_mem.1 hc
      obtain ⟨k, hk, hdone⟩ := ih { e with done := e.done + 1, refused := e.refused.erase (e.done + 1).toNat }
      have hlen := List.length_erase_add_one hmem
      refine ⟨k + 1, by dsimp only at hk; omega, hdone.trans ?_⟩
      rw [BitVec.ofNat_add, BitVec.add_comm (BitVec.ofNat 16 k), ← BitVec.add_assoc]
      rfl
    · exact ⟨0, Nat.zero_le _, (BitVec.add_zero _).symm⟩

/-- The engine once its oldest op has completed, before DONE passes the tickets that follow it without an op. -/
def Engine.completed (e : Engine) (ticket : Nat) : Engine :=
  { e with active := e.active.filter (fun p => p.ticket != ticket), done := e.done + 1 }

theorem Tab.erase_erase {α : Type} (t : Tab α) (k : Nat) : Tab.erase (Tab.erase t k) k = Tab.erase t k := by
  induction t with
  | nil => rfl
  | cons e t ih =>
    by_cases h : e.1 = k <;> simp [Tab.erase, h, ih]

/-- A change of a core after another is a change of that core alone; where the first leaves the core in reset, the second has to too. -/
theorem Block.modCore_modCore_onlyCore (b : Block) (core : Nat) (f g : Core → Core)
    (h : f (b.core core) = Core.reset → g Core.reset = Core.reset) :
    (b.modCore core f).modCore core g = b.modCore core fun c => g (f c) := by
  by_cases hf : f (b.core core) = Core.reset
  · have hget : Tab.get Core.reset (Tab.upd Core.reset b.cores core f) core = f (b.core core) := Tab.get_upd_same _ _ _ _
    show { b with cores := Tab.set _ (Tab.set _ b.cores core (f (b.core core))) core (g (Tab.get _ (Tab.upd _ b.cores core f) core)) } =
      { b with cores := Tab.set _ b.cores core (g (f (b.core core))) }
    rw [hget, hf, h hf, Tab.set, Tab.set, if_pos rfl, if_pos rfl, Tab.erase_erase]
  · exact b.modCore_modCore core f g hf

/-- DONE of an engine in reset passes nothing. -/
theorem Core.settle_reset (eng : Nat) : (Core.reset.modEng eng fun e => e.settle (e.refused.length + 1)) = Core.reset := by
  rfl

theorem opComplete_completes {s : State} {core eng : Nat} {o : EOp} :
    let e := s.b.eng core eng
    (e.active.find? fun p => p.ticket == (e.done + 1).toNat) = some o → o.phase = .written → o.downDone = true →
    o.doneAt ≤ s.b.time.clk → s.b.unanswered o = false → s.b.gated = false →
    Completes (exec (.opComplete core eng) s) fun t =>
      let e' := t.b.eng core eng
      OnlyCore core s t ∧ e'.active = e.active.filter (fun p => p.ticket != o.ticket) ∧ e'.queue = e.queue ∧
      e'.issued = e.issued ∧ (e.refused = [] → e'.done = e.done + 1) ∧
      ∃ k, k ≤ e.refused.length ∧ e'.done = e.done + 1 + BitVec.ofNat 16 k := by
  intro e hnext hphase hdown hat hans hgated
  have hover : s.b.opOver o = true := by simp [Block.opOver, hphase, hdown, hat, hans]
  have hcomplete : s.b.completeOp core eng =
      ((s.b.progress core eng).modEng core eng fun x => x.completed o.ticket).settle core eng := by
    rw [Block.completeOp, hnext]
    exact if_pos hover
  have hone : ((s.b.progress core eng).modEng core eng fun x => x.completed o.ticket).settle core eng = s.b.modCore core fun c =>
      ((({ c with watch := Tab.erase c.watch eng } : Core).modEng eng fun x => x.completed o.ticket).modEng eng
        fun x => x.settle (x.refused.length + 1)) := by
    have hbusy : ({ s.b.core core with watch := Tab.erase (s.b.core core).watch eng } : Core) ≠ Core.reset := fun hreset =>
      Engine.ne_reset_of_active (List.mem_of_find?_eq_some hnext) (congrArg (fun c : Core => c.eng eng) hreset)
    rw [Block.progress, Block.modEng, Block.modCore_modCore _ _ _ _ hbusy, Block.settle, Block.modEng,
      Block.modCore_modCore_onlyCore _ _ _ _ fun _ => Core.settle_reset eng]
  have he : exec (.opComplete core eng) s = .next { s with b := s.b.completeOp core eng } := by
    show execOpComplete core eng s = _
    rw [execOpComplete, State.onCompute_running hgated]
  have heng : (s.b.completeOp core eng).eng core eng =
      (e.completed o.ticket).settle ((e.completed o.ticket).refused.length + 1) := by
    rw [hcomplete, Block.settle, Block.modEng_eng_same, Block.modEng_eng_same, Block.progress_eng]
  obtain ⟨hqueue, hactive⟩ := Engine.settle_ops ((e.completed o.ticket).refused.length + 1) (e.completed o.ticket)
  obtain ⟨k, hk, hdone⟩ := Engine.settle_done ((e.completed o.ticket).refused.length + 1) (e.completed o.ticket)
  have hissued := (Engine.settle_issued ((e.completed o.ticket).refused.length + 1) (e.completed o.ticket)).1
  refine ⟨_, he, ?_, ?_⟩
  · rw [OnlyCore, hcomplete, hone, Block.modCore_core_same]
    rfl
  · dsimp only
    rw [heng]
    refine ⟨hactive, hqueue, hissued, fun hnone => ?_, k, hk, hdone⟩
    have hzero : k = 0 := by
      have : (e.completed o.ticket).refused.length = 0 := congrArg List.length hnone
      omega
    rw [hdone, hzero]
    exact BitVec.add_zero _

/-- Settles O12: the op at the head begins, or is armed; and what completes is the oldest op, over which DONE advances. -/
theorem opsStartAndCompleteInOrder : Obligations.OpsStartAndCompleteInOrder := by
  refine ⟨fun s core eng o hu => ?_, fun s core eng o => opComplete_completes⟩
  have hactive : ∀ p ∈ (s.b.eng core eng).active, p.ticket ≠ o.ticket := fun p hp => hu p (List.mem_append_left _ hp)
  exact ⟨fun h hs hm => matmul_begins h hs hm, fun h hs hrows harm hm =>
      (matmul_arms hactive h hs hrows harm hm).mono fun t ⟨hframe, hlen, hact, hdone, htile, hstr, hhead⟩ =>
        ⟨hframe, hlen, hact, hdone, htile, hstr, hhead⟩,
    fun h hm => writeout_begins hactive h hm⟩

end Sys2Proof.Machine
end

section
/-! The stride time base (R98, R99, R102; O3, O4): edges of STRIDE_PULSE, and the phase zeros that the block makes itself. -/

namespace Sys2Proof.Machine

/-! ### The management-domain phase zero -/

theorem TimeBase.mgmtZero_with (t : TimeBase) (acc ended : Nat) : ∃ lenNs inc, t.mgmtZero acc ended = { t with
    acc := acc, heldAt := none, ownDue := false, zeroDue := t.zeroDue ++ [(t.clk + 8, ended)], lenNs := lenNs, inc := inc } := by
  rw [TimeBase.mgmtZero]
  dsimp only
  split
  · exact ⟨_, _, rfl⟩
  · split
    · exact ⟨_, _, rfl⟩
    · exact ⟨_, _, rfl⟩

theorem TimeBase.mgmtZero_inc {t : TimeBase} (h : appliedMsg t.accepted = none) (acc ended : Nat) : (t.mgmtZero acc ended).inc = t.inc := by
  rw [TimeBase.mgmtZero]
  dsimp only
  rw [h, ite_self]

/-! ### Edges (R98) -/

theorem exec_stridePulseEdge {s : State} (hs : s.b.start.stage ≠ 0) : exec .stridePulseEdge s = .next { s with b := s.b.modTime fun t =>
    if t.acceptsEdge then { t with edgeDue := true } else { t with pulseSpurious := up32 t.pulseSpurious } } := by
  show execStridePulseEdge s = _
  rw [execStridePulseEdge, State.onBlock_eq, if_neg (by simpa using hs)]

theorem TimeBase.acceptsEdge_iff (t : TimeBase) : t.acceptsEdge = true ↔ t.lock ≠ .locked ∨ 0xFF00 ≤ t.mgmtPhase := by
  simp [TimeBase.acceptsEdge]

theorem Block.generate_edge {b : Block} (h : b.time.edgeDue = true) : b.generate = b.modTime TimeBase.edge := by
  rw [Block.generate, if_pos h]

/-- INC as an accepted edge measures it, and whether it counts as a FREQ_STEP (R99). -/
def TimeBase.measured (t : TimeBase) : TimeBase :=
  match t.lastEdge with
  | none => t
  | some e =>
    { t with inc := (edgeInc t.lenNs (t.mclk - e)).1
             freqStep := if (edgeInc t.lenNs (t.mclk - e)).2 then up32 t.freqStep else t.freqStep }

theorem TimeBase.edge_eq (t : TimeBase) : t.edge =
    { t.measured.mgmtZero 0 t.mgmtPhase with lock := .locked, lastEdge := some t.measured.mclk, edgeDue := false } := rfl

theorem TimeBase.measured_with (t : TimeBase) : ∃ inc step, t.measured = { t with inc := inc, freqStep := step } := by
  rw [TimeBase.measured]
  split <;> exact ⟨_, _, rfl⟩

theorem TimeBase.measured_inc {t : TimeBase} {e : Nat} (h : t.lastEdge = some e) : t.measured.inc = (edgeInc t.lenNs (t.mclk - e)).1 := by
  rw [TimeBase.measured, h]

/-- What an accepted edge makes of the time base, whatever INC becomes. -/
theorem TimeBase.edge_with (t : TimeBase) : ∃ lenNs inc step, t.edge = { t with
    acc := 0, heldAt := none, ownDue := false, zeroDue := t.zeroDue ++ [(t.clk + 8, t.mgmtPhase)], lenNs := lenNs, inc := inc
    freqStep := step, lock := .locked, lastEdge := some t.mclk, edgeDue := false } := by
  obtain ⟨lenNs, inc, hzero⟩ := t.measured.mgmtZero_with 0 t.mgmtPhase
  obtain ⟨_, step, hmeasured⟩ := t.measured_with
  exact ⟨lenNs, inc, step, by rw [TimeBase.edge_eq, hzero, hmeasured]⟩

theorem TimeBase.edge_inc {t : TimeBase} {e : Nat} (he : t.lastEdge = some e) (hm : appliedMsg t.accepted = none) :
    t.edge.inc = (edgeInc t.lenNs (t.mclk - e)).1 := by
  obtain ⟨_, _, hmeasured⟩ := t.measured_with
  have hnone : appliedMsg t.measured.accepted = none := by rw [hmeasured]; exact hm
  exact (TimeBase.mgmtZero_inc hnone 0 _).trans (TimeBase.measured_inc he)

/-- Settles O3: the edge is judged in its own clock, and `TimeBase.edge` is what the generator's next clock makes of it. -/
theorem pulseEdgeAcceptedOrCounted : Obligations.PulseEdgeAcceptedOrCounted := by
  intro s hs
  refine ⟨fun h => ?_, fun h => ?_, fun hl hp => ?_⟩
  · rw [exec_stridePulseEdge hs, Block.modTime, if_pos ((TimeBase.acceptsEdge_iff _).2 h)]
  · obtain ⟨lenNs, inc, step, hedge⟩ := s.b.time.edge_with
    have htime : s.b.generate.time = s.b.time.edge := by rw [Block.generate_edge h]; rfl
    refine ⟨Block.generate_edge h ▸ s.b.modTime_keeps _, ?_⟩
    rw [htime]
    refine ⟨by rw [hedge], by rw [hedge], by rw [hedge], by rw [hedge], by rw [hedge], by rw [hedge], by rw [hedge], by rw [hedge], ?_⟩
    exact fun e he hm => TimeBase.edge_inc he hm
  · have hn : ¬ s.b.time.acceptsEdge = true := by
      rw [TimeBase.acceptsEdge_iff]
      rintro (h | h)
      · exact h hl
      · omega
    rw [exec_stridePulseEdge hs, Block.modTime, if_neg hn]
    rfl

/-! ### Phase zeros of the block's own (R99) -/

theorem TimeBase.graceEnd_with (t : TimeBase) : ∃ lenNs inc, t.graceEnd = { t with
    acc := 0, heldAt := none, ownDue := false, zeroDue := t.zeroDue ++ [(t.clk + 8, 0xFFFF)], lenNs := lenNs, inc := inc
    lock := .holdover, holdoverStrides := up32 t.holdoverStrides } := by
  obtain ⟨lenNs, inc, h⟩ := t.mgmtZero_with 0 0xFFFF
  exact ⟨lenNs, inc, by rw [TimeBase.graceEnd, h]⟩

theorem TimeBase.wrap_with (t : TimeBase) : ∃ lenNs inc, t.wrap = { t with
    acc := (t.acc + t.inc) % 2 ^ 48, heldAt := none, ownDue := false, zeroDue := t.zeroDue ++ [(t.clk + 8, 0xFFFF)], lenNs := lenNs
    inc := inc, holdoverStrides := up32 t.holdoverStrides } := by
  obtain ⟨lenNs, inc, h⟩ := t.mgmtZero_with ((t.acc + t.inc) % 2 ^ 48) 0xFFFF
  exact ⟨lenNs, inc, by rw [TimeBase.wrap, h]⟩

theorem TimeBase.wraps_iff (t : TimeBase) : t.wraps = true ↔ t.lock = .holdover ∧ 2 ^ 48 ≤ t.acc + t.inc := by
  simp [TimeBase.wraps]

theorem TimeBase.graceDue_of_not_locked {t : TimeBase} (h : t.lock ≠ .locked) : t.graceDue = false := by
  rw [TimeBase.graceDue]
  split
  · rfl
  · simp [h]

/-- A phase zero that the block makes itself: the time base moves on, and the tally of such strides counts it. -/
def Block.ownZero (b : Block) (f : TimeBase → TimeBase) : Block := (b.modTime f).tallyUp 0x8010 3

theorem Block.ownZero_keeps (b : Block) (f : TimeBase → TimeBase) : b.Keeps [.time, .tally] (b.ownZero f) :=
  ((b.modTime_keeps f).mono (by simp)).trans ((Block.tallyUp_keeps _ _ _).mono (by simp))

theorem Block.ownZero_time (b : Block) (f : TimeBase → TimeBase) : (b.ownZero f).time = f b.time := rfl

theorem Block.ownZero_tally (b : Block) (f : TimeBase → TimeBase) :
    (b.ownZero f).tallyGet 0x8010 3 = min 4294967295 (b.tallyGet 0x8010 3 + 1) := Block.tallyUp_get _ _ _

theorem Block.generate_graceEnd {b : Block} (hl : b.time.lock = .locked) (he : b.time.edgeDue = false) (ho : b.time.ownDue = true) :
    b.generate = b.ownZero TimeBase.graceEnd := by
  simp [Block.generate, Block.ownZero, hl, he, ho]

theorem Block.generate_wrap {b : Block} (hl : b.time.lock = .holdover) (he : b.time.edgeDue = false)
    (hw : 2 ^ 48 ≤ b.time.acc + b.time.inc) : b.generate = b.ownZero TimeBase.wrap := by
  have hgrace := TimeBase.graceDue_of_not_locked (t := b.time) (by rw [hl]; decide)
  have hwraps := (TimeBase.wraps_iff b.time).2 ⟨hl, hw⟩
  simp [Block.generate, Block.ownZero, hl, he, hgrace, hwraps]

theorem exec_graceExpiry {s : State} {h : Nat} (hl : s.b.time.lock = .locked) (he : s.b.time.edgeDue = false)
    (hh : s.b.time.heldAt = some h) (ho : h + ceilDiv (s.b.time.grace * 2 ^ 32) s.b.time.inc ≤ s.b.time.mclk) :
    exec .graceExpiry s = .next { s with b := { s.b with time := { s.b.time with ownDue := true } } } := by
  show execGraceExpiry s = _
  have hover : s.b.time.graceOver = true := by
    rw [TimeBase.graceOver, hh, hl]
    simp only [BEq.rfl, Bool.true_and]
    exact decide_eq_true ho
  rw [execGraceExpiry, State.onBlock_eq, hover, he]
  rfl

theorem exec_holdoverWrap {s : State} (hl : s.b.time.lock = .holdover) (he : s.b.time.edgeDue = false)
    (hw : 2 ^ 48 ≤ s.b.time.acc + s.b.time.inc) :
    exec .holdoverWrap s = .next { s with b := { s.b with time := { s.b.time with ownDue := true } } } := by
  show execHoldoverWrap s = _
  rw [execHoldoverWrap, State.onBlock_eq, (TimeBase.wraps_iff _).2 ⟨hl, hw⟩, he]
  rfl

/-- Settles O4: the event asks, and the generator's next clock makes the phase zero and counts it. -/
theorem blockMakesPhaseZeroInHoldover : Obligations.BlockMakesPhaseZeroInHoldover := by
  refine ⟨fun s h => exec_graceExpiry, fun b hl he ho => ?_, fun s => exec_holdoverWrap, fun b hl he hw => ?_⟩
  · obtain ⟨lenNs, inc, hend⟩ := b.time.graceEnd_with
    rw [Block.generate_graceEnd hl he ho]
    refine ⟨b.ownZero_keeps _, ?_⟩
    rw [Block.ownZero_time, Block.ownZero_tally, hend]
    exact ⟨rfl, rfl, rfl, rfl, rfl, rfl⟩
  · obtain ⟨lenNs, inc, hwrap⟩ := b.time.wrap_with
    rw [Block.generate_wrap hl he hw]
    refine ⟨b.ownZero_keeps _, ?_⟩
    rw [Block.ownZero_time, Block.ownZero_tally, hwrap]
    exact ⟨hl, rfl, rfl, rfl, rfl⟩

end Sys2Proof.Machine
end

section
/-! Timing messages, phase zero and the stride count (R95 to R97, R101, R102, R108; O5). -/

namespace Sys2Proof.Machine

/-! ### Timing messages (R95, R96) -/

/-- What a timing message asks of its port, of the phase and of its length. -/
def TimeBase.Admits (t : TimeBase) (port len : Nat) : Prop :=
  t.timingPorts.getLsbD port = true ∧ 0x8000 ≤ t.phase.toNat ∧ t.phase.toNat < 0xFF00 ∧ 2000000 ≤ len ∧ len ≤ 1000000000

/-- The message that a payload carries. -/
def timingMsg (port : Nat) (w : BitVec 128) : TimingMsg :=
  { port := port, lenNs := (w.extractLsb' 64 32).toNat, epoch := w.extractLsb' 48 16, nextCount := w.extractLsb' 0 48 }

theorem TimeBase.timing_admitted {t : TimeBase} {port : Nat} {w : BitVec 128} (h : t.Admits port (w.extractLsb' 64 32).toNat) :
    t.timing port w = { t with accepted := t.accepted ++ [timingMsg port w] } := by
  obtain ⟨hport, hfrom, hto, hshort, hlong⟩ := h
  rw [TimeBase.timing, if_pos (by simp only [hport, hfrom, hto, hshort, hlong, decide_true, Bool.and_true])]
  rfl

theorem TimeBase.timing_ignored {t : TimeBase} {port : Nat} {w : BitVec 128} (h : ¬ t.Admits port (w.extractLsb' 64 32).toNat) :
    t.timing port w = { t with tmIgnored := up32 t.tmIgnored } := by
  rw [TimeBase.timing, if_neg fun hc => h ?_]
  rw [TimeBase.Admits]
  simpa only [Bool.and_eq_true, decide_eq_true_eq, and_assoc] using hc

theorem exec_timing {s : State} (hs : s.b.start.stage ≠ 0) (port : Nat) (w : BitVec 128) :
    exec (.timing port w) s = .next { s with b := (s.b.rx port).modTime fun t => t.timing port w } := by
  show execTiming port w s = _
  rw [execTiming, State.onBlock_eq, if_neg (by simpa using hs)]

/-! ### The stride count (R97, R101) -/

/-- The count that follows, with the message applied. -/
def TimeBase.counted (t : TimeBase) : TimeBase :=
  match appliedMsg t.accepted with
  | none => { t with count := t.count + 1 }
  | some m =>
    let t := { t with tmConflict := min max32 (t.tmConflict + (t.accepted.filter fun (x : TimingMsg) => !x.agrees m).length) }
    if t.takes m then { t with count := m.nextCount, epoch := m.epoch, tmPort := m.port }
    else { t with count := t.count + 1, tmStale := up32 t.tmStale }

theorem TimeBase.newCount_with (t : TimeBase) : ∃ k, t.newCount = { t.counted with countStep := k } := by
  rw [show t.newCount = if t.counted.count == t.count + 1 then t.counted else { t.counted with countStep := up32 t.counted.countStep } from rfl]
  split <;> exact ⟨_, rfl⟩

theorem TimeBase.takes_iff (t : TimeBase) (m : TimingMsg) : t.takes m = true ↔ t.count.toNat < m.nextCount.toNat ∨ m.epoch ≠ t.epoch := by
  simp [TimeBase.takes]

theorem TimeBase.counted_none {t : TimeBase} (h : appliedMsg t.accepted = none) : t.counted = { t with count := t.count + 1 } := by
  rw [TimeBase.counted, h]

theorem TimeBase.counted_taken {t : TimeBase} {m : TimingMsg} (h : appliedMsg t.accepted = some m) (hm : t.takes m = true) :
    ∃ k, t.counted = { t with tmConflict := k, count := m.nextCount, epoch := m.epoch, tmPort := m.port } := by
  rw [TimeBase.counted, h]
  exact ⟨_, if_pos hm⟩

theorem TimeBase.counted_stale {t : TimeBase} {m : TimingMsg} (h : appliedMsg t.accepted = some m) (hm : ¬ t.takes m = true) :
    ∃ k, t.counted = { t with tmConflict := k, count := t.count + 1, tmStale := up32 t.tmStale } := by
  rw [TimeBase.counted, h]
  exact ⟨_, if_neg hm⟩

/-- The first phase zero of all leaves the count at its value (R101). -/
theorem TimeBase.zero_first {t : TimeBase} {c : Nat} (h : t.started = false) : (t.zero c).count = t.count ∧ (t.zero c).epoch = t.epoch := by
  rw [TimeBase.zero, h]
  exact ⟨rfl, rfl⟩

/-- A later one takes the count that follows (R97). -/
theorem TimeBase.zero_later {t : TimeBase} (h : t.started = true) (c : Nat) : (t.zero c).count = t.counted.count ∧
    (t.zero c).epoch = t.counted.epoch ∧ (t.zero c).tmStale = t.counted.tmStale := by
  obtain ⟨k, hk⟩ := t.newCount_with
  rw [TimeBase.zero, h, if_pos rfl, hk]
  exact ⟨rfl, rfl, rfl⟩

/-! ### What follows the count at a phase zero -/

/-- Parts that the events of a phase zero can change once the count is taken, the ends of windows apart. -/
def zeroParts : List Part := .parade :: endParts

theorem Ends.lateStart {P Q : Nat → Prop} (b : Block) (core eng : Nat) (o : EOp) : Ends P Q b (b.lateStart core eng o) := by
  rw [Block.lateStart]
  have hwait : Ends P Q b (b.modEng core eng fun e => { e with waiting := e.waiting || e.isHead o.ticket }) :=
    modEng b core eng fun _ => ⟨List.Subset.refl _, List.Subset.refl _⟩
  refine trans hwait (ite (refl _) ?_)
  have hop : ∀ b : Block, Ends P Q b (b.modOp core eng o.ticket fun x => { x with waitCounted := true }) := fun b =>
    modEng b core eng fun e => Engine.Fewer.modOp e _ fun _ => rfl
  exact ite (hop _) (trans (hop _) (modCnt _ _ _))

theorem Ends.recheckOp {P Q : Nat → Prop} (b : Block) (core eng : Nat) (o : EOp) : Ends P Q b (b.recheckOp core eng o) := by
  rw [Block.recheckOp]
  exact ite (endWith b core eng o _) (ite (lateStart b core eng o) (refl b))

theorem Ends.recheckOps {P Q : Nat → Prop} (b : Block) (waiting : Bool) : Ends P Q b (b.recheckOps waiting) := by
  rw [Block.recheckOps]
  exact each _ (fun c b => each _ (fun e b => foldl _ _ (fun o _ b => recheckOp b c e o) b) _ b) _ b

theorem Ends.mapSwitched {P Q : Nat → Prop} (b : Block) : Ends P Q b b.mapSwitched := by
  rw [Block.mapSwitched, Block.regenAll]
  refine trans ?_ (each _ (fun n b => regen b n) _ _)
  refine trans (trans (each _ (fun c b => each _ (fun i b => ?_) _ b) _ b) (recheckOps _ true)) (ite (recheckOps _ false) (refl _))
  exact trans (aimPrefs b c _) (modAdapter _ c fun _ => ⟨List.Subset.refl _, List.Subset.refl _⟩)

theorem Block.Keeps.ite {L : List Part} {b x y : Block} {p : Prop} [Decidable p] (hx : b.Keeps L x) (hy : b.Keeps L y) :
    b.Keeps L (if p then x else y) := by
  split
  · exact hx
  · exact hy

theorem Block.paradeRecord_keeps (b : Block) (ended : BitVec 48) (cpt : Nat) : b.Keeps zeroParts (b.paradeRecord ended cpt) := by
  have hparade : ∀ (b : Block) (f : Parade → Parade), b.Keeps zeroParts (b.modParade f) := fun b f => (b.modParade_keeps f).mono (by decide)
  have htold : ∀ b : Block, b.Keeps zeroParts ((b.irqAll 3).tallyUp 0x8010 1) := fun b =>
    ((b.irqAll_keeps 3).mono (by decide)).trans ((Block.tallyUp_keeps _ _ _).mono (by decide))
  rw [Block.paradeRecord]
  refine Keeps.trans (hparade b _) (Keeps.trans (hparade _ _) (Keeps.trans (hparade _ _) (Keeps.ite ?_ (Keeps.refl _ _))))
  exact (hparade _ _).trans (htold _)

theorem Block.stagedZero_keeps (b : Block) (k : Nat) : b.Keeps [.parade] (b.stagedZero k).1 := by
  rw [Block.stagedZero]
  split
  · exact Keeps.refl _ b
  · split
    · exact b.modParade_keeps _
    · split
      · split
        · split
          · exact b.modParade_keeps _
          · exact b.modParade_keeps _
        · exact b.modParade_keeps _
      · split
        · exact b.modParade_keeps _
        · exact Keeps.refl _ b

theorem Block.noteStarts_keeps (b : Block) : b.Keeps [.parade] b.noteStarts := by
  rw [Block.noteStarts]
  exact Keeps.ite (Keeps.refl _ b) (b.modParade_keeps _)

theorem Block.reinRoll_keeps (b : Block) (n : Nat) (ended : BitVec 48) : b.Keeps zeroParts (b.reinRoll n ended) := by
  have hroll : b.Keeps zeroParts (b.modSlice n fun x => { x with rein := (b.slice n).rein.roll ended }) :=
    (b.modSlice_keeps n _).mono (by decide)
  rw [Block.reinRoll]
  split
  · have htally : b.Keeps zeroParts ((b.modSlice n fun x => { x with rein := (b.slice n).rein.roll ended }).tallyUp (0x8400 + n) 1) :=
      hroll.trans ((Block.tallyUp_keeps _ _ _).mono (by decide))
    split
    · exact htally
    · exact htally.trans ((Block.irq_keeps _ n 2).mono (by decide))
  · exact hroll

/-- The record of the stride that ended; the first stride of all has none before it. -/
def Block.zeroRecord (b : Block) (was : Bool) (ended : BitVec 48) : Block :=
  if was then b.paradeRecord ended b.time.cpt.toNat else b.modParade fun q => { q with nextRun := 0, startClks := [] }

theorem Block.zeroRecord_keeps (b : Block) (was : Bool) (ended : BitVec 48) : b.Keeps zeroParts (b.zeroRecord was ended) :=
  Keeps.ite (b.paradeRecord_keeps ended _) ((b.modParade_keeps _).mono (by decide))

/-- A staged map takes effect, or not (R119). -/
def Block.zeroStaged (b : Block) : Block :=
  if (b.stagedZero b.time.count.toNat).2 then (b.stagedZero b.time.count.toNat).1.mapSwitched else (b.stagedZero b.time.count.toNat).1

theorem Block.zeroStaged_keeps (b : Block) : b.Keeps zeroParts b.zeroStaged := by
  have hstaged : b.Keeps zeroParts (b.stagedZero b.time.count.toNat).1 := (b.stagedZero_keeps _).mono (by decide)
  exact Keeps.ite (hstaged.trans ((Ends.mapSwitched (P := Nobody) (Q := Nobody) _).keeps.mono (by decide))) hstaged

/-- The record, the staged map, starts that have come and the roll-over. -/
def Block.zeroFollows (b : Block) (was : Bool) (ended : BitVec 48) : Block :=
  let b := (b.zeroRecord was ended).zeroStaged.noteStarts
  b.each b.live fun n b => b.reinRoll n ended

theorem Block.zeroFollows_keeps (b : Block) (was : Bool) (ended : BitVec 48) : b.Keeps zeroParts (b.zeroFollows was ended) := by
  refine Keeps.trans (b.zeroRecord_keeps was ended) (Keeps.trans (Block.zeroStaged_keeps _) ?_)
  exact ((Block.noteStarts_keeps _).mono (by decide)).trans (Keeps.each _ (fun n b => b.reinRoll_keeps n ended) _ _)

/-- A window that ends leaves all of the time base but the list of windows. -/
theorem Block.windowEnds_time (b : Block) (w : WindowId) :
    (b.windowEnds w).time = { b.time with windows := b.time.windows.filter fun x => x.1 != w } := by
  cases w <;> rfl

theorem Block.windowsEnd_time (l : List WindowId) (b : Block) : ∃ w, (l.foldl Block.windowEnds b).time = { b.time with windows := w } := by
  induction l generalizing b with
  | nil => exact ⟨_, rfl⟩
  | cons x l ih =>
    obtain ⟨w, hw⟩ := ih (b.windowEnds x)
    exact ⟨w, by rw [List.foldl_cons, hw, Block.windowEnds_time]⟩

/-! ### The phase zero -/

/-- The time base with another count of skipped starts. -/
def TimeBase.skipped (t : TimeBase) (k : Nat) : TimeBase := { t with phaseSkip := k }

/-- The count is taken; starts that the ended stride skipped are counted first. -/
def Block.zeroCounted (b : Block) (c p : Nat) : Block :=
  (if b.time.started then b.modTime fun t => { t with phaseSkip := min max32 (t.phaseSkip + b.skipCount p) } else b).modTime fun t => t.zero c

theorem Block.zeroCounted_time (b : Block) (c p : Nat) : ∃ k, (b.zeroCounted c p).time = (b.time.skipped k).zero c := by
  rw [Block.zeroCounted]
  split <;> exact ⟨_, rfl⟩

theorem Block.phaseZero_eq {b : Block} {c p : Nat} {rest : List (Nat × Nat)} (h : b.time.zeroDue = (c, p) :: rest) :
    let b' := (b.zeroCounted c p).zeroFollows b.time.started b.time.count
    b.phaseZero = (b'.time.windows.map (·.1)).foldl Block.windowEnds b' := by
  rw [Block.phaseZero, h]
  rfl

/-- What a phase zero makes of the time base, whatever the skipped starts and the windows. -/
theorem Block.phaseZero_time {b : Block} {c p : Nat} {rest : List (Nat × Nat)} (h : b.time.zeroDue = (c, p) :: rest) :
    ∃ k w, b.phaseZero.time = { (b.time.skipped k).zero c with windows := w } := by
  obtain ⟨k, hcounted⟩ := b.zeroCounted_time c p
  have hfollows : ((b.zeroCounted c p).zeroFollows b.time.started b.time.count).time = (b.zeroCounted c p).time :=
    Block.zeroFollows_keeps _ _ _ .time (by decide)
  rw [Block.phaseZero_eq h]
  obtain ⟨w, hw⟩ := Block.windowsEnd_time
    (((b.zeroCounted c p).zeroFollows b.time.started b.time.count).time.windows.map (·.1)) ((b.zeroCounted c p).zeroFollows b.time.started b.time.count)
  exact ⟨k, w, by rw [hw, hfollows, hcounted]⟩

theorem Block.waitTick_keeps (b : Block) : b.Keeps [.cores] b.waitTick := by
  rw [Block.waitTick]
  split
  · exact Keeps.refl _ b
  · refine Keeps.each _ (fun c b => ?_) _ b
    split
    · exact Keeps.refl _ b
    · exact b.modCore_keeps c _

theorem Block.phaseMoved_keeps (b : Block) : b.Keeps [.cores, .queues] b.phaseMoved := by
  rw [Block.phaseMoved, Block.queueTick]
  exact (b.waitTick_keeps.mono (by simp)).trans (Keeps.each _ (fun q b => (b.modQueue_keeps q _).mono (by simp)) _ _)

theorem exec_phaseZero {s : State} {c p : Nat} {rest : List (Nat × Nat)} (h : s.b.time.zeroDue = (c, p) :: rest)
    (hc : s.b.gated = true ∨ c ≤ s.b.time.clk) : exec .phaseZero s = .next { s with b := s.b.phaseZero.phaseMoved } := by
  have hnow : s.b.zeroNow = true := by simp [Block.zeroNow, TimeBase.zeroBefore, h, hc]
  show execPhaseZero s = _
  rw [execPhaseZero, State.onBlock_eq, hnow]
  rfl

/-- Settles O5: messages are admitted or counted; and a phase zero takes the count that `TimeBase.counted` gives. -/
theorem timingMessagesAndTheStrideCount : Obligations.TimingMessagesAndTheStrideCount := by
  refine ⟨fun s port w hs => ?_, fun s c p rest hzero hc => ?_⟩
  · refine ⟨_, exec_timing hs port w, ⟨rfl, rfl, rfl, ?_⟩, TimeBase.timing_admitted, TimeBase.timing_ignored⟩
    exact ((s.b.rx_keeps port).mono (by simp)).trans ((Block.modTime_keeps _ _).mono (by simp))
  · obtain ⟨k, w, hphase⟩ := Block.phaseZero_time hzero
    have htime : s.b.phaseZero.phaseMoved.time = { (s.b.time.skipped k).zero c with windows := w } :=
      (Block.phaseMoved_keeps _ .time (by decide)).trans hphase
    refine ⟨_, exec_phaseZero hzero hc, rfl, rfl, rfl, ?_⟩
    dsimp only
    rw [htime]
    refine ⟨rfl, rfl, congrArg (List.drop 1) hzero, rfl, rfl,
      TimeBase.zero_first (t := s.b.time.skipped k) (c := c), fun hlater => ?_⟩
    obtain ⟨hcount, hepoch, hstale⟩ := TimeBase.zero_later (t := s.b.time.skipped k) hlater c
    dsimp only
    rw [hcount, hepoch, hstale]
    refine ⟨fun hm => ?_, fun m hm => ⟨fun ht => ?_, fun ht => ?_⟩⟩
    · rw [TimeBase.counted_none (t := s.b.time.skipped k) hm]
      exact ⟨rfl, rfl, rfl⟩
    · obtain ⟨_, hcounted⟩ := TimeBase.counted_taken (t := s.b.time.skipped k) hm ((TimeBase.takes_iff _ m).2 ht)
      rw [hcounted]
      exact ⟨rfl, rfl, rfl⟩
    · obtain ⟨_, hcounted⟩ := TimeBase.counted_stale (t := s.b.time.skipped k) hm fun h => ht ((TimeBase.takes_iff _ m).1 h)
      rw [hcounted]
      exact ⟨rfl, rfl, rfl⟩

end Sys2Proof.Machine
end

section
/-! Phase windows (R104 to R106, R345, R347; O6). -/

namespace Sys2Proof.Machine

/-- The block with the window listed as open in this stride. -/
def Block.listWindow (b : Block) (w : WindowId) : Block := b.modTime fun t => { t with windows := t.windows ++ [(w, t.count.toNat)] }

/-- What the opening of a window starts: a copy of its job, as the job and the level of this clock have it. -/
def Block.windowStarts (b : Block) : WindowId → Block
  | .reconf => b
  | .secure n j => b.modJob n j fun x => { x with startDue := b.copyStarts x }

theorem Block.windowOpens_eq {b : Block} {w : WindowId} (hs : b.time.started = true)
    (ha : winActive (b.windowDesc w) b.time.count.toNat = true) (hfrom : winStart (b.windowDesc w) ≤ b.phaseNow)
    (hto : b.phaseNow < winEnd (b.windowDesc w)) (hn : ∀ x ∈ b.time.windows, x.1 ≠ w) :
    b.windowOpens w = (b.listWindow w).windowStarts w := by
  have hfresh : (b.time.windows.any fun x => x.1 == w) = false := by simpa using hn
  rw [Block.windowOpens, hs, ha, decide_eq_true hfrom, decide_eq_true hto, hfresh]
  cases w <;> rfl

theorem Block.windowStarts_keeps (b : Block) (w : WindowId) : b.Keeps [.slices] (b.windowStarts w) := by
  cases w with
  | reconf => exact Keeps.refl _ b
  | secure n j => exact b.modJob_keeps n j _

@[simp] theorem Block.modJob_job_same (b : Block) (n j : Nat) (f : Job → Job) : (b.modJob n j f).job n j = f (b.job n j) := by
  rw [Block.job, Block.modJob, Block.modSlice_slice_same]
  exact Tab.get_upd_same _ _ _ _

theorem Block.windowStarts_job (b : Block) (n j : Nat) :
    (b.windowStarts (.secure n j)).job n j = { b.job n j with startDue := b.copyStarts (b.job n j) } := b.modJob_job_same n j _

theorem Block.windowEnds_keeps (b : Block) (w : WindowId) : b.Keeps [.time, .slices] (b.windowEnds w) := by
  cases w with
  | reconf => exact (b.modTime_keeps _).mono (by simp)
  | secure n j => exact ((b.modTime_keeps _).mono (by simp)).trans ((Block.modJob_keeps _ n j _).mono (by simp))

theorem exec_windowClose {s : State} {w : WindowId} (ho : ∃ x ∈ s.b.time.windows, x.1 = w)
    (he : winEnd (s.b.windowDesc w) ≤ s.b.phaseNow) : exec (.windowClose w) s = .next { s with b := s.b.windowEnds w } := by
  have hopen : (s.b.time.windows.any fun x => x.1 == w) = true := by simpa using ho
  show execWindowClose w s = _
  rw [execWindowClose, State.onBlock_eq, hopen, decide_eq_true he]
  rfl

/-- Settles O6: the window is listed and starts what it has to start; at its end it leaves the list. -/
theorem windowsOpenAndClose : Obligations.WindowsOpenAndClose := by
  refine ⟨fun s w hs ha hfrom hto hn => ?_, fun s w ho he => ?_⟩
  · have hstarts := (s.b.listWindow w).windowStarts_keeps w
    refine Completes.framed (Block.windowOpens_eq hs ha hfrom hto hn)
      (((s.b.modTime_keeps _).mono (by simp)).trans (hstarts.mono (by simp))) ⟨hstarts .time (by decide), fun hw => ?_, fun n j hw => ?_⟩
    · rw [hw]; rfl
    · rw [hw]; exact Block.windowStarts_job _ n j
  · refine ⟨_, exec_windowClose ho he, ⟨rfl, rfl, rfl, s.b.windowEnds_keeps w⟩, ?_, fun hw => ?_⟩
    · refine (s.b.windowEnds_time w).trans ?_
      have hne : (fun x : WindowId × Nat => x.1 != w) = fun x => decide (x.1 ≠ w) := by
        funext x
        rw [Bool.eq_iff_iff, bne_iff_ne, decide_eq_true_iff]
      rw [hne]
    · rw [hw]; rfl

end Sys2Proof.Machine
end

section
/-! Base-image loads and staged maps (R110, R118, R119, R223; O7). -/

namespace Sys2Proof.Machine

/-! ### Admitted writes (R408, R409, R416) -/

/-- A write of the dictionary that is admitted and that its entry's rule accepts: the rule's block, and the answer besides. -/
theorem Completes.accepted {i : Instr} {s : State} {eid ix sub : Nat} {tag : Byte} {v : List Byte} {f : Block → WriteRes} {b' : Block}
    {L : List Part} {p : State → Prop} (ha : Admitted s.b eid ix sub v) (hf : f s.b = .done b') (hk : s.b.Keeps L b')
    (hL : [.ports, .dict] ⊆ L) (hp : ∀ b : Block, b'.Keeps [.ports, .dict] b → p { s with b := b })
    (he : exec i s = s.onBlock fun b => b.dictWrite eid tag ix sub v f := by rfl) :
    Completes (exec i s) fun t => Frame L s t ∧ p t := by
  obtain ⟨code, reason, hw⟩ := s.b.dictWrite_admitted eid tag ix sub v f ha
  rw [hf] at hw
  have hanswer := b'.answer_keeps { eid := eid, kind := 2, tag := tag, index := ix, sub := sub, code := code, reason := reason, data := [] }
  rw [he, State.onBlock_eq, hw]
  exact ⟨_, rfl, ⟨rfl, rfl, rfl, hk.trans (hanswer.mono hL)⟩, hp _ hanswer⟩

/-! ### The base image (R110) -/

theorem Block.fetchList_keeps (b : Block) (use : HostUse) (base : Dword) (count left : Nat) :
    b.Keeps [.ports] (b.fetchList use base count left) := b.hostRead_keeps _

theorem Block.beginLoad_keeps (b : Block) (n : Nat) (fetched : Bool) : b.Keeps [.parade, .keys, .keyGens] (b.beginLoad n fetched) := by
  intro p hp
  cases p <;> first | rfl | exact absurd (by simp) hp

theorem Block.beginLoad_key (b : Block) (n : Nat) (fetched : Bool) :
    (b.beginLoad n fetched).key 63 = { holder := 0, gen := b.keyGens + 1 } := Tab.get_put_same _ _ _ _

/-- Beyond the load's beginning, its start asks for the first entry of the list. -/
theorem Block.startLoad_keeps (b : Block) :
    (b.beginLoad b.parade.loadCount (b.parade.loadCount == 0)).Keeps [.ports] b.startLoad :=
  Keeps.ite (Keeps.refl _ _) (Block.fetchList_keeps _ _ _ _ _)

theorem loadCtrl_begins {s : State} {eid : Nat} {tag : Byte} (ha : Admitted s.b eid 0x3030 1 [1]) (hstage : s.b.start.stage = 4)
    (hrng : s.b.life.rngFault = false) (hst : s.b.parade.st = .empty ∨ s.b.parade.st = .fault) :
    Completes (exec (.loadCtrl eid tag 1) s) fun t =>
      Frame [.parade, .keys, .keyGens, .ports, .dict] s t ∧ t.b.parade.st = .loading ∧
      t.b.keyGens = s.b.keyGens + 1 ∧ (t.b.key 63).gen = s.b.keyGens + 1 ∧
      t.b.parade.load = some { left := s.b.parade.loadCount, written := 0, fetched := s.b.parade.loadCount == 0 } := by
  have hkept : (s.b.beginLoad s.b.parade.loadCount (s.b.parade.loadCount == 0)).Keeps [.ports, .dict] (s.b.startLoad.keep 0x3030 1 1) :=
    (s.b.startLoad_keeps.mono (by simp)).trans ((Block.keep_keeps _ _ _ _).mono (by simp))
  refine Completes.accepted ha (b' := s.b.startLoad.keep 0x3030 1 1) (if_pos ?_)
    (((s.b.beginLoad_keeps _ _).mono (by simp)).trans (hkept.mono (by simp))) (by simp) fun b hdone => ?_
  · rcases hst with h | h <;> simp [hstage, hrng, h]
  · have hbegun := hkept.trans hdone
    have hparade : b.parade = _ := hbegun .parade (by decide)
    have hgens : b.keyGens = _ := hbegun .keyGens (by decide)
    have hkeys : b.keys = _ := hbegun .keys (by decide)
    refine ⟨by rw [hparade]; rfl, hgens, ?_, by rw [hparade]; rfl⟩
    rw [Block.key, hkeys]
    exact congrArg KeySel.gen (s.b.beginLoad_key _ _)

theorem Block.blockRungEnds_keeps (b : Block) : b.Keeps [.ladder] b.blockRungEnds := Keeps.ite (Keeps.refl _ b) (b.modLadder_keeps _)

/-- The load ends with the verdict on the commons. -/
def Block.loadEnds (b : Block) (l : BaseLoad) : Block := b.modParade fun p =>
  { p with st := if l.written == b.parade.map.baseBytes && b.parade.commonsHash == b.parade.map.commonsDigest then .verified else .fault
           load := none, look := [], lookPart := 0, nextRun := nextAfter p.map.runs b.phaseNow }

theorem baseImageVerify_ends {s : State} {l : BaseLoad} (hl : s.b.parade.load = some l) (hst : s.b.parade.st = .loading)
    (hf : l.fetched = true ∨ s.b.start.lead = false) : Completes (exec .baseImageVerify s) fun t =>
      Frame [.parade, .ladder] s t ∧ t.b.parade.load = none ∧ t.b.parade.commons = s.b.parade.commons ∧
      t.b.parade.st = (if l.written = s.b.parade.map.baseBytes ∧
          Config.sha384 (s.b.parade.commons.readN 0 s.b.parade.map.baseBytes) = s.b.parade.map.commonsDigest
        then .verified else .fault) := by
  have heq : s.b.verifyBase = (s.b.loadEnds l).blockRungEnds := by
    have hwhole : (s.b.parade.st == .loading && (l.fetched || !s.b.start.lead)) = true := by simpa [hst] using hf
    rw [Block.verifyBase, hl]
    exact if_pos hwhole
  have hrung := (s.b.loadEnds l).blockRungEnds_keeps
  have hparade : (s.b.loadEnds l).blockRungEnds.parade = (s.b.loadEnds l).parade := hrung .parade (by decide)
  refine Completes.framed heq (((s.b.modParade_keeps _).mono (by simp)).trans (hrung.mono (by simp))) ?_
  dsimp only
  rw [hparade]
  refine ⟨rfl, rfl, ?_⟩
  simp only [Block.loadEnds, Block.modParade, Parade.commonsHash, Bool.and_eq_true, beq_iff_eq]

/-! ### Staged maps (R118, R119) -/

theorem Block.fedCtrl_keeps (b : Block) (dst op : Nat) (payload : List Byte) : b.Keeps [.ports] (b.fedCtrl dst op payload) := b.modPorts_keeps _

/-- A staged load begins with the discarding of reads for the one before. -/
def Block.newStage (b : Block) (v : Dword) : Block :=
  (b.staleHost fun u => match u with
    | .stageList => true
    | .stageData _ _ => true
    | _ => false).newStaged v b.parade.stageCount

theorem Block.newStage_keeps (b : Block) (v : Dword) : b.Keeps [.parade, .ports] (b.newStage v) :=
  ((b.modPorts_keeps _).mono (by simp)).trans ((Block.modParade_keeps _ _).mono (by simp))

/-- Beyond that, a write of SWITCH_STRIDE tells the other instances and asks for the first entry of the list. -/
theorem Block.stageMap_keeps (b : Block) (v : Dword) : (b.newStage v).Keeps [.ports] (b.stageMap v) := by
  have htold : (b.newStage v).Keeps [.ports] (if (b.newStage v).start.lead
      then (b.newStage v).each (b.newStage v).otherInsts fun i b => b.fedCtrl i 2 (toLe 8 v.toNat) else b.newStage v) :=
    Keeps.ite (Keeps.each _ (fun i b => b.fedCtrl_keeps i 2 _) _ _) (Keeps.refl _ _)
  exact Keeps.ite htold (htold.trans (Block.fetchList_keeps _ _ _ _ _))

theorem switchStride_stages {s : State} {eid : Nat} {tag : Byte} {v : Dword} (ha : Admitted s.b eid 0x3012 1 (toLe 8 v.toNat)) :
    Completes (exec (.switchStride eid tag v) s) fun t =>
      Frame [.parade, .ports, .dict] s t ∧ t.b.parade.switchStride = v ∧ t.b.parade.map = s.b.parade.map ∧
      t.b.parade.staged = some { switchAt := dfld v 47 0, future := s.b.time.count.toNat < dfld v 47 0,
                                 left := s.b.parade.stageCount, bytes := [], ready := none, readyLate := false } := by
  refine Completes.accepted ha (b' := s.b.stageMap v) rfl
    (((s.b.newStage_keeps v).mono (by simp)).trans ((s.b.stageMap_keeps v).mono (by simp))) (by simp) fun b hdone => ?_
  have hparade : b.parade = (s.b.newStage v).parade := (((s.b.stageMap_keeps v).mono (by simp)).trans hdone) .parade (by decide)
  dsimp only
  rw [hparade]
  exact ⟨rfl, rfl, rfl⟩

/-- What becomes of a staged map that has arrived whole, `m` its contents and the rule of R118 that it breaks; `late` where it has come
too late for the phase zero that follows. -/
def Parade.judges (p : Parade) (st : Staged) (m : SweepMap × Nat) (late : Bool) : Parade :=
  if m.2 != 0 then { p with staged := none, mapRefusal := m.2 }
  else if m.1.baseBytes != p.map.baseBytes || m.1.commonsDigest != p.map.commonsDigest || !Config.mapSigned st.bytes then { p with staged := none }
  else { p with mapRefusal := 0, staged := some { st with ready := some m.1, readyLate := late } }

theorem Block.stagedArrived_eq {b : Block} {st : Staged} (hs : b.parade.staged = some st) (hleft : st.left = 0) (hready : st.ready = none) :
    b.stagedArrived = b.modParade fun p => p.judges st (mapOf b.start.commons.length st.bytes) (0xFF00 ≤ b.phaseNow) := by
  have hwhole : (st.left == 0 && st.ready.isNone) = true := by simp [hleft, hready]
  rw [Block.stagedArrived, hs]
  dsimp only [Block.modParade, Parade.judges]
  rw [if_pos hwhole]
  split
  · rfl
  · split <;> rfl

theorem Parade.judges_map (p : Parade) (st : Staged) (m : SweepMap × Nat) (late : Bool) : (p.judges st m late).map = p.map := by
  rw [Parade.judges]
  split
  · rfl
  · split <;> rfl

theorem Parade.judges_broken (p : Parade) (st : Staged) {m : SweepMap × Nat} (late : Bool) (h : m.2 ≠ 0) :
    p.judges st m late = { p with staged := none, mapRefusal := m.2 } := if_pos (bne_iff_ne.2 h)

theorem Parade.judges_ready (p : Parade) {st : Staged} {m : SweepMap × Nat} (late : Bool) (h : m.2 = 0)
    (hbase : m.1.baseBytes = p.map.baseBytes) (hdigest : m.1.commonsDigest = p.map.commonsDigest) (hsigned : Config.mapSigned st.bytes = true) :
    p.judges st m late = { p with mapRefusal := 0, staged := some { st with ready := some m.1, readyLate := late } } := by
  rw [Parade.judges, if_neg (by simpa using h), if_neg (by simp [hbase, hdigest, hsigned])]

theorem Parade.judges_discarded (p : Parade) {st : Staged} {m : SweepMap × Nat} (late : Bool) (h : m.2 = 0)
    (hbad : m.1.baseBytes ≠ p.map.baseBytes ∨ m.1.commonsDigest ≠ p.map.commonsDigest ∨ Config.mapSigned st.bytes = false) :
    p.judges st m late = { p with staged := none } := by
  rw [Parade.judges, if_neg (by simpa using h), if_pos]
  rcases hbad with h | h | h <;> simp [h]

theorem stagedMapComplete_checks {s : State} {st : Staged} (hs : s.b.parade.staged = some st) (hleft : st.left = 0) (hready : st.ready = none) :
    let m := mapOf s.b.start.commons.length st.bytes
    Completes (exec .stagedMapComplete s) fun t =>
      Frame [.parade] s t ∧ t.b.parade.map = s.b.parade.map ∧
      (m.2 ≠ 0 → t.b.parade.staged = none ∧ t.b.parade.mapRefusal = m.2) ∧
      (m.2 = 0 → m.1.baseBytes = s.b.parade.map.baseBytes → m.1.commonsDigest = s.b.parade.map.commonsDigest →
        Config.mapSigned st.bytes = true →
        t.b.parade.staged = some { st with ready := some m.1, readyLate := 0xFF00 ≤ s.b.phaseNow } ∧ t.b.parade.mapRefusal = 0) ∧
      (m.2 = 0 → m.1.baseBytes ≠ s.b.parade.map.baseBytes ∨ m.1.commonsDigest ≠ s.b.parade.map.commonsDigest ∨
        Config.mapSigned st.bytes = false → t.b.parade.staged = none ∧ t.b.parade.mapRefusal = s.b.parade.mapRefusal) := by
  intro m
  refine Completes.framed (Block.stagedArrived_eq hs hleft hready) (s.b.modParade_keeps _) ?_
  dsimp only [Block.modParade]
  refine ⟨Parade.judges_map _ _ _ _, fun hm => ?_, fun hm hbase hdigest hsigned => ?_, fun hm hbad => ?_⟩
  · rw [Parade.judges_broken _ _ _ hm]
    exact ⟨rfl, rfl⟩
  · rw [Parade.judges_ready _ _ hm hbase hdigest hsigned]
    exact ⟨rfl, rfl⟩
  · rw [Parade.judges_discarded _ _ hm hbad]
    exact ⟨rfl, rfl⟩

/-- Settles O7: a load begins and is judged; a staged map begins and is judged. -/
theorem baseImageAndStagedMapAreChecked : Obligations.BaseImageAndStagedMapAreChecked :=
  ⟨⟨fun _ _ _ => loadCtrl_begins, fun _ _ => baseImageVerify_ends⟩, fun _ _ _ _ => switchStride_stages, fun _ _ => stagedMapComplete_checks⟩

end Sys2Proof.Machine
end

section
/-! Tiles that the root sends (R111, R115, R121; O8, which fails). -/

namespace Sys2Proof.Machine

/-- A run of two Q4m tiles of segment 0 from the commons' first byte on. -/
def runOfTwoTiles : Run :=
  { seg := 0, fmt := 0, tileFirst := 0, count := 2, start := 0, stop := 65536, spacing := 2097152, inner := 2, srcBase := 0
    innerStep := 2052, outerStep := 0 }

/-- The run as it begins in stride 0 at clock 0. -/
def runBegun : RunSt := { idx := 0, run := runOfTwoTiles, stride := 0, startClk := 0, next := 0, slip := 0, late := false }

/-- The compute clock runs, the run has begun, and its first tile is whole in the lookahead buffer; the read of the tile's line 0 came
back as uncorrectable (`LookTile.bad`, as MCP_READ_RETURN with RD_ERR leaves it). -/
def stateWithFailedRead : State :=
  { State.reset with b := { Block.reset with
      start := { StartUp.reset with released := true }
      parade := { Parade.reset with
        st := .running, map := { SweepMap.reset with runs := [runOfTwoTiles] }, nextRun := 1, run := some runBegun
        look := [{ runIdx := 0, size := 2052, missing := [], bad := [0], ready := 0 }] } } }

/-- TILE_EMIT with no failing lines of its own sends the tile. -/
theorem exec_tileEmit_failedRead : exec (.tileEmit []) stateWithFailedRead =
    .next { stateWithFailedRead with b := stateWithFailedRead.b.sendTile runBegun [] } := by
  show execTileEmit [] stateWithFailedRead = _
  rfl

/-- The tile is marked (R111), so it does not carry the commons' own bytes. -/
theorem sendTile_failedRead_bytes : (stateWithFailedRead.b.sendTile runBegun []).parade.tree.getLast?.map (·.bytes) ≠
    some (stateWithFailedRead.b.parade.commons.readN 0 2052) := by decide +kernel

/-- Refutes O8, in its last clause: the lines of a tile that read badly are those that the command names and those that came back
as uncorrectable while the lookahead buffer filled, and the clause rules out the former and failed groups alone. In
`stateWithFailedRead` the command names no line and no group has failed, and the tile is marked. -/
theorem not_runsAndTilesLeaveOnSchedule : ¬ Obligations.RunsAndTilesLeaveOnSchedule := by
  rintro ⟨-, hemit⟩
  obtain ⟨-, hsent⟩ := hemit stateWithFailedRead runBegun [] 0 rfl (by decide) (by decide) (by decide)
  obtain ⟨t, he, -, -, -, -, -, ⟨m, hlast, -, -, -, -, hbytes⟩, -⟩ := hsent (by decide)
  rw [exec_tileEmit_failedRead] at he
  cases he
  refine sendTile_failedRead_bytes ?_
  rw [hlast]
  exact congrArg some (hbytes rfl rfl)

end Sys2Proof.Machine
end

section
/-! Tallies and their records (R107, R424 to R430; O42). -/

namespace Sys2Proof.Machine

/-- A change of the tallies alone. -/
theorem Block.keeps_tally (b : Block) (x : Tally) : b.Keeps [.tally] { b with tally := x } := by
  intro p hp
  cases p <;> first | rfl | exact absurd (by simp) hp

theorem Completes.ofTally {i : Instr} {s : State} {x : Tally} {p : State → Prop} (he : exec i s = .next { s with b := { s.b with tally := x } })
    (hp : p { s with b := { s.b with tally := x } }) : Completes (exec i s) fun t => Frame [.tally] s t ∧ p t :=
  ⟨_, he, ⟨rfl, rfl, rfl, s.b.keeps_tally x⟩, hp⟩

/-! ### What asks for a save (R107, R430) -/

theorem tallyCheckpoint_asks {s : State} (hs : s.b.time.started = true) (hn : s.b.time.count.toNat % s.b.time.checkpointEvery = 0)
    (hp : s.b.parade.tallyPhase ≤ s.b.phaseNow) (hc : s.b.tally.checkedIn ≠ some s.b.time.count.toNat)
    (he : s.b.earlier s.fuse 9 = false) : Completes (exec .tallyCheckpoint s) fun t =>
      Frame [.tally] s t ∧ t.b.tally = { s.b.tally with checkedIn := some s.b.time.count.toNat, savePending := true } := by
  have hdue : (s.b.checkpointDue && !s.b.earlier s.fuse 9) = true := by simp [Block.checkpointDue, hs, hn, hp, hc, he]
  refine Completes.ofTally ?_ rfl
  show execTallyCheckpoint s = _
  rw [execTallyCheckpoint, State.onBlock_eq, if_pos hdue]
  rfl

theorem tallyUnlockedTimer_asks {s : State} (hs : s.b.start.stage ≠ 0) (hl : s.b.time.lock = .unlocked)
    (ht : s.b.tally.unlockedAt + msClks 600000 ≤ s.b.time.mclk) : Completes (exec .tallyUnlockedTimer s) fun t =>
      Frame [.tally] s t ∧ t.b.tally = { s.b.tally with savePending := true, unlockedAt := s.b.time.mclk } := by
  have hdue : (s.b.start.stage != 0 && s.b.time.lock == .unlocked && s.b.tally.unlockedAt + msClks 600000 ≤ s.b.time.mclk) = true := by
    simp [hs, hl, ht]
  refine Completes.ofTally ?_ rfl
  show execTallyUnlockedTimer s = _
  rw [execTallyUnlockedTimer, State.onBlock_eq, if_pos hdue]
  rfl

theorem saveNow_asks {s : State} {eid : Nat} {tag : Byte} (ha : Admitted s.b eid 0x8000 7 [1])
    (ht : ∀ t, s.b.tally.lastSaveAt = some t → t + 60 * 750000000 ≤ s.b.time.mclk) : Completes (exec (.saveNow eid tag 1) s) fun t =>
      Frame [.tally, .ports, .dict] s t ∧ t.b.tally = { s.b.tally with savePending := true } := by
  refine Completes.accepted ha (b' := s.b.saveDue) ?_ ((s.b.keeps_tally _).mono (by simp)) (by simp) fun b hdone => hdone .tally (by decide)
  refine if_neg ?_
  cases hl : s.b.tally.lastSaveAt with
  | none => simp
  | some t => simpa using ht t hl

/-! ### The record (R429) -/

/-- Bytes of a record before its padding: the head, and every tally in its own size. -/
def Block.tallyHead (b : Block) (seq : Nat) : List Byte :=
  toLe 2 1 ++ toLe 2 0 ++ toLe 4 seq ++ toLe 8 b.start.serial.toNat ++ tallyKeys.flatMap fun k => toLe k.2.2 (b.tallyGet k.1 k.2.1)

theorem tallyKeys_bytes : (tallyKeys.map fun k => k.2.2).sum = 18764 := by decide +kernel

theorem Block.tallyHead_length (b : Block) (seq : Nat) : (b.tallyHead seq).length = 18780 := by
  simp only [Block.tallyHead, List.length_append, List.length_flatMap, toLe_length, tallyKeys_bytes]

theorem Block.tallyRecord_eq (b : Block) (seq : Nat) : b.tallyRecord seq =
    b.tallyHead seq ++ List.replicate (32720 - (b.tallyHead seq).length) 0 ++ digestBytes (Config.sha384 (b.tallyBody seq)) := rfl

theorem Block.tallyRecord_length (b : Block) (seq : Nat) : (b.tallyRecord seq).length = 32768 := by
  simp only [Block.tallyRecord_eq, List.length_append, List.length_replicate, Block.tallyHead_length, digestBytes, toLe_length]

theorem Block.tallyRecord_seq (b : Block) {seq : Nat} (h : seq < 2 ^ 32) : recordSeq (b.tallyRecord seq) = seq := by
  obtain ⟨rest, hrest⟩ : ∃ rest, b.tallyRecord seq = (toLe 2 1 ++ toLe 2 0) ++ (toLe 4 seq ++ rest) := by
    simp only [Block.tallyRecord_eq, Block.tallyHead, List.append_assoc]
    exact ⟨_, rfl⟩
  rw [recordSeq, hrest, List.drop_left' (by simp), List.take_left' (toLe_length 4 seq)]
  exact leNat_toLe 4 seq h

theorem tallySave_takes {s : State} (hp : s.b.tally.savePending = true) (hs : s.b.tally.saving = none) :
    Completes (exec .tallySave s) fun t =>
      Frame [.tally] s t ∧ t.b.tally.t = s.b.tally.t ∧ t.b.tally.saveSeq = (s.b.tally.saveSeq + 1) % 2 ^ 32 ∧
      t.b.tally.savePending = false ∧ ∃ r, t.b.tally.saving = some r ∧ r.length = 32768 ∧ recordSeq r = t.b.tally.saveSeq := by
  have hdue : (s.b.tally.savePending && s.b.tally.saving.isNone) = true := by simp [hp, hs]
  refine Completes.ofTally (x := { s.b.tally with
      saveSeq := (s.b.tally.saveSeq + 1) % 2 ^ 32, savePending := false
      saving := some (s.b.tallyRecord ((s.b.tally.saveSeq + 1) % 2 ^ 32)) }) ?_
    ⟨rfl, rfl, rfl, _, rfl, s.b.tallyRecord_length _, s.b.tallyRecord_seq (Nat.mod_lt _ (by decide))⟩
  show execTallySave s = _
  rw [execTallySave, State.onBlock_eq, if_pos hdue]

/-! ### The end of a save -/

@[simp] theorem Block.setTally_get_same (b : Block) (i sub v : Nat) : (b.setTally i sub v).tallyGet i sub = v := Tab.get_set_same _ _ _ _

theorem Block.setTally_get_ne (b : Block) {i sub j k : Nat} (v : Nat) (h : 256 * j + k ≠ 256 * i + sub) :
    (b.setTally i sub v).tallyGet j k = b.tallyGet j k := Tab.get_set_ne _ _ _ h

theorem Block.saved_count (b : Block) (r : List Byte) : (b.saved r).tallyGet 0x8000 1 = recordSeq r := by
  show (((b.setTally 0x8000 1 (recordSeq r)).setTally 0x8000 5 (b.tallyGet 0x8000 2)).tallyGet 0x8000 1) = _
  rw [Block.setTally_get_ne _ _ (by decide), Block.setTally_get_same]

theorem Block.saveFailed_count (b : Block) : b.saveFailed.tallyGet 0x8000 4 = min 4294967295 (b.tallyGet 0x8000 4 + 1) :=
  b.tallyUp_get 0x8000 4

theorem Block.saveFailed_keeps (b : Block) : b.Keeps [.tally, .draws] b.saveFailed := by
  intro p hp
  cases p <;> first | rfl | exact absurd (by simp) hp

/-- The record that is being written, and the flash where it is whole. -/
theorem exec_tallySaveComplete_ok {s : State} {r : List Byte} (h : s.b.tally.saving = some r) : exec (.tallySaveComplete true) s =
    .next { s with flash := { s.flash with bytes := s.flash.bytes.writeN (recordAt (recordSeq r)) r }, b := s.b.saved r } := by
  show execTallySaveComplete true s = _
  rw [execTallySaveComplete, State.onFlash_eq, h]
  rfl

/-- What a write that met a flash error leaves at the record's position. -/
def Block.tornRecord (b : Block) : List Byte := (List.range 32768).map fun i => (Config.freeWord (b.draws + i)).setWidth 8

theorem exec_tallySaveComplete_failed {s : State} {r : List Byte} (h : s.b.tally.saving = some r) : exec (.tallySaveComplete false) s =
    .next { s with flash := { s.flash with bytes := s.flash.bytes.writeN (recordAt (recordSeq r)) s.b.tornRecord }, b := s.b.saveFailed } := by
  show execTallySaveComplete false s = _
  rw [execTallySaveComplete, State.onFlash_eq, h]
  rfl

theorem tallySaveComplete_stands {s : State} {r : List Byte} (h : s.b.tally.saving = some r) :
    (Completes (exec (.tallySaveComplete true) s) fun t =>
      t.pending = s.pending ∧ t.fuse = s.fuse ∧ s.b.Keeps [.tally] t.b ∧ t.b.tally.saving = none ∧
      t.b.tallyGet 0x8000 1 = recordSeq r ∧ t.flash.sealed = s.flash.sealed ∧ t.flash.retired = s.flash.retired ∧
      t.flash.bytes.readN (recordAt (recordSeq r)) r.length = r ∧
      ∀ a, (a < recordAt (recordSeq r) ∨ recordAt (recordSeq r) + r.length ≤ a) → t.flash.bytes.read a = s.flash.bytes.read a) ∧
    (Completes (exec (.tallySaveComplete false) s) fun t =>
      t.pending = s.pending ∧ t.fuse = s.fuse ∧ s.b.Keeps [.tally, .draws] t.b ∧ t.b.tally.saving = none ∧
      t.b.tallyGet 0x8000 4 = min 4294967295 (s.b.tallyGet 0x8000 4 + 1) ∧
      ∀ a, (a < recordAt (recordSeq r) ∨ recordAt (recordSeq r) + 32768 ≤ a) → t.flash.bytes.read a = s.flash.bytes.read a) := by
  refine ⟨⟨_, exec_tallySaveComplete_ok h, rfl, rfl, s.b.keeps_tally _, rfl, s.b.saved_count r, rfl, rfl, Mem.readN_writeN _ _ _, ?_⟩,
    ⟨_, exec_tallySaveComplete_failed h, rfl, rfl, s.b.saveFailed_keeps, rfl, s.b.saveFailed_count, ?_⟩⟩
  · exact fun a ha => Mem.read_writeN_out _ _ _ _ ha
  · have hlen : s.b.tornRecord.length = 32768 := by rw [Block.tornRecord, List.length_map, List.length_range]
    have hout := Mem.read_writeN_out s.flash.bytes (recordAt (recordSeq r)) s.b.tornRecord
    rw [hlen] at hout
    dsimp only
    exact hout

/-! ### Intervals (R425, R426) -/

/-- Each sensor or monitor of a list counts its bin in the histogram of its number. -/
def Block.countBins (b : Block) (l : List Nat) (base : Nat) (bin : Block → Nat → Nat) : Block :=
  b.each l fun i b => b.tallyUp (base + i) (bin b i)

theorem Block.countBins_keeps (b : Block) (l : List Nat) (base : Nat) (bin : Block → Nat → Nat) : b.Keeps [.tally] (b.countBins l base bin) :=
  Keeps.each _ (fun _ b => b.tallyUp_keeps _ _) l b

theorem Block.countBins_cons (b : Block) (x : Nat) (l : List Nat) (base : Nat) (bin : Block → Nat → Nat) :
    b.countBins (x :: l) base bin = (b.tallyUp (base + x) (bin b x)).countBins l base bin := rfl

theorem droopBin_lt (mv : Nat) : droopBin mv + 1 < 256 := by
  rw [droopBin]
  omega

theorem tempBin_lt (c : Int) : tempBin c + 1 < 256 := by
  rw [tempBin]
  split <;> omega

section

variable {base : Nat} {bin : Block → Nat → Nat} (hsame : ∀ (b : Block) (j k i : Nat), bin (b.tallyUp j k) i = bin b i)
include hsame

/-- A place that is no bin counted is as it was. -/
theorem Block.countBins_other {l : List Nat} {b : Block} {j k : Nat} (h : ∀ i ∈ l, 256 * j + k ≠ 256 * (base + i) + bin b i) :
    (b.countBins l base bin).tallyGet j k = b.tallyGet j k := by
  induction l generalizing b with
  | nil => rfl
  | cons x l ih =>
    rw [Block.countBins_cons, ih fun i hi => ?_, Block.tallyUp_get_ne _ _ _ (h x List.mem_cons_self)]
    rw [hsame]
    exact h i (List.mem_cons_of_mem _ hi)

/-- Each bin is counted once. -/
theorem Block.countBins_same (hlt : ∀ b i, bin b i < 256) {l : List Nat} (hl : l.Nodup) {b : Block} {i : Nat} (hi : i ∈ l) :
    (b.countBins l base bin).tallyGet (base + i) (bin b i) =
      min (tallyMax (256 * (base + i) + bin b i)) (b.tallyGet (base + i) (bin b i) + 1) := by
  have hapart : ∀ {b : Block} {i x : Nat}, i ≠ x → 256 * (base + i) + bin b i ≠ 256 * (base + x) + bin b x := fun {b i x} hne => by
    have := hlt b i
    have := hlt b x
    omega
  induction l generalizing b with
  | nil => cases hi
  | cons x l ih =>
    obtain ⟨hx, hl⟩ := List.nodup_cons.1 hl
    rw [Block.countBins_cons]
    rcases List.mem_cons.1 hi with rfl | hi
    · rw [Block.countBins_other hsame fun y hy => ?_, Block.tallyUp_get]
      rw [hsame]
      exact hapart fun h => hx (h ▸ hy)
    · have hrest := ih hl (b := b.tallyUp (base + x) (bin b x)) hi
      rw [hsame, Block.tallyUp_get_ne _ _ _ (hapart fun h : i = x => hx (h ▸ hi))] at hrest
      exact hrest

end

/-- The bin of a monitor's largest depth (R426). -/
def Block.droopBinOf (b : Block) (i : Nat) : Nat := droopBin (b.power.maxDroop.getD i 0) + 1

/-- The bin of a sensor's reading with its trim (R386, R426). -/
def Block.tempBinOf (l : List Int) (b : Block) (i : Nat) : Nat := tempBin (l.getD i 0 + b.start.thermTrim.getD i 0) + 1

/-- The monitors that count (R386). -/
def Block.monitors (b : Block) : List Nat := (List.range 8).filter fun i => b.power.dmEnable.getLsbD i

/-- An interval of the droop histograms ends. -/
def Block.nextDroop (b : Block) : Block := { b with tally := { b.tally with droopAt := b.tally.droopAt + msClks 1 } }

/-- An interval of the temperature histograms ends. -/
def Block.nextTemp (b : Block) : Block := { b with tally := { b.tally with tempAt := b.tally.tempAt + msClks 1000 } }

theorem exec_histogramInterval_droop {s : State} (hs : s.b.start.stage ≠ 0) (ht : s.b.tally.droopAt + msClks 1 ≤ s.b.time.mclk) :
    exec (.histogramInterval none) s = .next { s with b := s.b.nextDroop.droopInterval } := by
  have hdue : ¬ (s.b.start.stage == 0 || s.b.time.mclk < s.b.tally.droopAt + msClks 1) = true := by simpa [hs] using ht
  show execHistogramInterval none s = _
  rw [execHistogramInterval, State.onBlock_eq]
  dsimp only
  rw [if_neg hdue]
  rfl

theorem exec_histogramInterval_temp {s : State} {l : List Int} (hs : s.b.start.stage ≠ 0)
    (ht : s.b.tally.tempAt + msClks 1000 ≤ s.b.time.mclk) :
    exec (.histogramInterval (some l)) s = .next { s with b := s.b.nextTemp.tempInterval l } := by
  have hdue : ¬ (s.b.start.stage == 0 || s.b.time.mclk < s.b.tally.tempAt + msClks 1000) = true := by simpa [hs] using ht
  show execHistogramInterval (some l) s = _
  rw [execHistogramInterval, State.onBlock_eq]
  dsimp only
  rw [if_neg hdue]
  rfl

theorem tallyMax_droop {i k : Nat} (hi : i < 8) (hk : k < 256) : tallyMax (256 * (0x8100 + i) + k) = 2 ^ 64 - 1 := by
  rw [tallyMax, if_pos]
  simp only [Bool.or_eq_true, Bool.and_eq_true, decide_eq_true_eq]
  omega

theorem tallyMax_temp {i k : Nat} (hi : i < 8) (hk : k < 256) : tallyMax (256 * (0x8110 + i) + k) = 2 ^ 32 - 1 := by
  rw [tallyMax, if_neg]
  simp only [Bool.or_eq_true, Bool.and_eq_true, decide_eq_true_eq]
  omega

/-- A histogram of a sensor or monitor that counts: its bin is one more up to its maximum, and no other of its bins changes. -/
theorem Block.countBins_counts {base m : Nat} {bin : Block → Nat → Nat} (hsame : ∀ (b : Block) (j k i : Nat), bin (b.tallyUp j k) i = bin b i)
    (hlt : ∀ b i, bin b i < 256) {l : List Nat} (hl : l.Nodup) {b : Block} {i : Nat} (hi : i ∈ l)
    (hm : tallyMax (256 * (base + i) + bin b i) = m) :
    (b.countBins l base bin).tallyGet (base + i) (bin b i) = min m (b.tallyGet (base + i) (bin b i) + 1) ∧
    ∀ k, k < 256 → k ≠ bin b i → (b.countBins l base bin).tallyGet (base + i) k = b.tallyGet (base + i) k := by
  refine ⟨hm ▸ Block.countBins_same hsame hlt hl hi, fun k hk hne => Block.countBins_other hsame fun x hx heq => ?_⟩
  have hbin := hlt b x
  obtain rfl : i = x := by omega
  omega

theorem histogramInterval_droop {s : State} (hs : s.b.start.stage ≠ 0) (ht : s.b.tally.droopAt + msClks 1 ≤ s.b.time.mclk) :
    Completes (exec (.histogramInterval none) s) fun t =>
      Frame [.tally, .power] s t ∧ ∀ i, i < 8 → s.b.power.dmEnable.getLsbD i = true →
        let bin := droopBin (s.b.power.maxDroop.getD i 0) + 1
        t.b.tallyGet (0x8100 + i) bin = min (2 ^ 64 - 1) (s.b.tallyGet (0x8100 + i) bin + 1) ∧
        ∀ k, k < 256 → k ≠ bin → t.b.tallyGet (0x8100 + i) k = s.b.tallyGet (0x8100 + i) k := by
  have hkeeps : s.b.Keeps [.tally, .power] s.b.nextDroop.droopInterval :=
    ((s.b.keeps_tally _).mono (by simp)).trans
      (((s.b.nextDroop.countBins_keeps _ 0x8100 _).mono (by simp)).trans ((Block.modPower_keeps _ _).mono (by simp)))
  refine ⟨_, exec_histogramInterval_droop hs ht, ⟨rfl, rfl, rfl, hkeeps⟩, fun i hi hon => ?_⟩
  exact Block.countBins_counts (base := 0x8100) (bin := Block.droopBinOf) (fun _ _ _ _ => rfl) (fun _ _ => droopBin_lt _)
    (List.nodup_range.filter _) (b := s.b.nextDroop) (List.mem_filter.2 ⟨List.mem_range.2 hi, hon⟩) (tallyMax_droop hi (droopBin_lt _))

theorem histogramInterval_temp {s : State} {l : List Int} (hs : s.b.start.stage ≠ 0)
    (ht : s.b.tally.tempAt + msClks 1000 ≤ s.b.time.mclk) : Completes (exec (.histogramInterval (some l)) s) fun t =>
      Frame [.tally] s t ∧ ∀ i, i < 8 →
        let bin := tempBin (l.getD i 0 + s.b.start.thermTrim.getD i 0) + 1
        t.b.tallyGet (0x8110 + i) bin = min 4294967295 (s.b.tallyGet (0x8110 + i) bin + 1) ∧
        ∀ k, k < 256 → k ≠ bin → t.b.tallyGet (0x8110 + i) k = s.b.tallyGet (0x8110 + i) k := by
  have hkeeps : s.b.Keeps [.tally] (s.b.nextTemp.tempInterval l) := (s.b.keeps_tally _).trans (s.b.nextTemp.countBins_keeps _ 0x8110 _)
  refine ⟨_, exec_histogramInterval_temp hs ht, ⟨rfl, rfl, rfl, hkeeps⟩, fun i hi => ?_⟩
  exact Block.countBins_counts (base := 0x8110) (bin := Block.tempBinOf l) (fun _ _ _ _ => rfl) (fun _ _ => tempBin_lt _)
    List.nodup_range (b := s.b.nextTemp) (List.mem_range.2 hi) (tallyMax_temp hi (tempBin_lt _))

/-- A minute of management clock ends. -/
def Block.nextMinute (b : Block) : Block := { b with tally := { b.tally with minuteAt := b.tally.minuteAt + msClks 60000 } }

theorem powerOnMinute_counts {s : State} (hs : s.b.start.stage ≠ 0) (ht : s.b.tally.minuteAt + msClks 60000 ≤ s.b.time.mclk) :
    Completes (exec .powerOnMinute s) fun t =>
      Frame [.tally] s t ∧ t.b.tallyGet 0x8000 2 = min 4294967295 (s.b.tallyGet 0x8000 2 + 1) ∧
      ∀ i k, k < 256 → (i ≠ 0x8000 ∨ k ≠ 2) → t.b.tallyGet i k = s.b.tallyGet i k := by
  have hdue : ¬ (s.b.start.stage == 0 || s.b.time.mclk < s.b.tally.minuteAt + msClks 60000) = true := by simpa [hs] using ht
  have hexec : exec .powerOnMinute s = .next { s with b := s.b.nextMinute.tallyUp 0x8000 2 } := by
    show execPowerOnMinute s = _
    rw [execPowerOnMinute, State.onBlock_eq, if_neg hdue]
    rfl
  refine ⟨_, hexec, ⟨rfl, rfl, rfl, (s.b.keeps_tally _).trans (s.b.nextMinute.tallyUp_keeps _ _)⟩, s.b.nextMinute.tallyUp_get 0x8000 2, ?_⟩
  exact fun i k hk h => s.b.nextMinute.tallyUp_get_ne 0x8000 2 (by omega)

theorem tallyClear_clears {s : State} {eid : Nat} {tag : Byte} (ha : Admitted s.b eid 0x8000 6 [1])
    (hl : s.b.life.lcs = 1 ∨ s.b.life.lcs = 2) : Completes (exec (.tallyClear eid tag 1) s) fun t =>
      Frame [.tally, .ports, .dict] s t ∧ ∀ i k, t.b.tallyGet i k = 0 := by
  refine Completes.accepted ha (b' := { s.b with tally := { s.b.tally with t := [] } }) (if_pos ?_) ((s.b.keeps_tally _).mono (by simp))
    (by simp) fun b hdone i k => ?_
  · rcases hl with h | h <;> simp [h]
  · have htally : b.tally = _ := hdone .tally (by decide)
    dsimp only
    rw [Block.tallyGet, htally]
    rfl

/-- Settles O42: what asks for a save, the save and its record, the intervals and the clearing. -/
theorem talliesCountAndAreSaved : Obligations.TalliesCountAndAreSaved := fun _ =>
  ⟨tallyCheckpoint_asks, tallyUnlockedTimer_asks, fun _ _ => saveNow_asks, tallySave_takes, fun _ => tallySaveComplete_stands,
    fun hs => ⟨histogramInterval_droop hs, fun _ => histogramInterval_temp hs, powerOnMinute_counts hs⟩, fun _ _ => tallyClear_clears⟩

end Sys2Proof.Machine
end

section
/-! Links: credits, training, replay (R423, R443), reads that return (R121, R437, R439) and interrupts (R448), for O54. -/

namespace Sys2Proof.Machine

/-! ### One link at a time -/

@[simp] theorem Block.modLink_link (b : Block) (port : Nat) (f : Link → Link) :
    (b.modLink port f).ports.link port = f (b.ports.link port) := Tab.get_upd_same _ _ _ _

theorem Block.modLink_link_ne (b : Block) {port p : Nat} (f : Link → Link) (h : p ≠ port) :
    (b.modLink port f).ports.link p = b.ports.link p := Tab.get_upd_ne _ _ _ h

@[simp] theorem Block.modPorts_link {b : Block} {f : Ports → Ports} (h : (f b.ports).links = b.ports.links) (p : Nat) :
    (b.modPorts f).ports.link p = b.ports.link p := congrArg (fun t => Tab.get Link.reset t p) h

/-- The ports alone change, and of the links only one, which becomes `l`. -/
def Relinks (port : Nat) (l : Link) (b b' : Block) : Prop :=
  b' = { b with ports := b'.ports } ∧ b'.ports.link port = l ∧ ∀ p, p ≠ port → b'.ports.link p = b.ports.link p

namespace Relinks

theorem modLink (b : Block) (port : Nat) (f : Link → Link) : Relinks port (f (b.ports.link port)) b (b.modLink port f) :=
  ⟨rfl, b.modLink_link port f, fun _ h => b.modLink_link_ne f h⟩

theorem modPorts {b : Block} {f : Ports → Ports} (h : (f b.ports).links = b.ports.links) (port : Nat) :
    Relinks port (b.ports.link port) b (b.modPorts f) :=
  ⟨rfl, Block.modPorts_link h port, fun p _ => Block.modPorts_link h p⟩

theorem trans {port : Nat} {l l' : Link} {b c d : Block} (h : Relinks port l b c) (g : Relinks port l' c d) : Relinks port l' b d := by
  obtain ⟨hc, -, hcne⟩ := h
  obtain ⟨hd, hdl, hdne⟩ := g
  exact ⟨by rw [hd, hc], hdl, fun p hp => (hdne p hp).trans (hcne p hp)⟩

/-- Another change of the same link. -/
theorem andLink {port : Nat} {l : Link} {b c : Block} (h : Relinks port l b c) (f : Link → Link) :
    Relinks port (f l) b (c.modLink port f) := h.2.1 ▸ h.trans (modLink c port f)

/-- A change of the ports that leaves the links. -/
theorem andPorts {port : Nat} {l : Link} {b c : Block} (h : Relinks port l b c) {f : Ports → Ports} (hf : (f c.ports).links = c.ports.links) :
    Relinks port l b (c.modPorts f) := by
  have hports := h.trans (modPorts hf port)
  rwa [h.2.1] at hports

theorem keeps {port : Nat} {l : Link} {b b' : Block} (h : Relinks port l b b') : b.Keeps [.ports] b' := by
  rw [h.1]
  exact b.modPorts_keeps fun _ => b'.ports

end Relinks

/-- The statement's form of `Relinks`, for a state. -/
def OnlyLink (port : Nat) (l : Link) (s t : State) : Prop :=
  t = { s with b := { s.b with ports := t.b.ports } } ∧ t.b.ports.link port = l ∧ ∀ p, p ≠ port → t.b.ports.link p = s.b.ports.link p

theorem Relinks.only {s : State} {port : Nat} {l : Link} {b' : Block} (h : Relinks port l s.b b') : OnlyLink port l s { s with b := b' } :=
  ⟨congrArg (fun b => { s with b := b }) h.1, h.2.1, h.2.2⟩

theorem Relinks.frame {s : State} {port : Nat} {l : Link} {b' : Block} (h : Relinks port l s.b b') : Frame [.ports] s { s with b := b' } :=
  ⟨rfl, rfl, rfl, h.keeps⟩

section

variable {s : State} {port : Nat}

/-! ### Credits and training -/

theorem null_creditsBack (src : FlitSrc) (q r : Nat) : Completes (exec (.null port src q r) s) (OnlyLink port { s.b.ports.link port with
    seqRx := ((s.b.ports.link port).seqRx + 1) % 4096
    reqCredits := min 1024 ((s.b.ports.link port).reqCredits + q), rspCredits := min 1024 ((s.b.ports.link port).rspCredits + r) } s) :=
  ⟨_, rfl, ((Relinks.modLink s.b port _).andLink _).only⟩

theorem linkTrain_up (h : (s.b.ports.link port).st = .training) : Completes (exec (.linkTrain port) s) fun t =>
    OnlyLink port { s.b.ports.link port with st := .up } s t ∧ t.b.ports = { s.b.ports with links := t.b.ports.links } := by
  have hexec : exec (.linkTrain port) s = .next { s with b := s.b.modLink port fun l => { l with st := .up } } := by
    show execLinkTrain port s = _
    rw [execLinkTrain, State.onBlock_eq, h, if_pos (by decide)]
  exact ⟨_, hexec, (Relinks.modLink s.b port _).only, rfl⟩

theorem linkTrain_idle (h : (s.b.ports.link port).st ≠ .training) : exec (.linkTrain port) s = .next s := by
  show execLinkTrain port s = _
  rw [execLinkTrain, State.onBlock_eq, if_neg (by simpa using h)]

/-! ### The PHY -/

theorem phyUpRise_up (h : (s.b.ports.link port).phy = true) : exec (.phyUpRise port) s = .next s := by
  show execPhyUpRise port s = _
  rw [execPhyUpRise, State.onBlock_eq, if_pos h]

/-- What the PHY's rise does to a link whose PHY was down. -/
def Block.phyUp (b : Block) (port : Nat) : Block :=
  if (b.ports.link port).st == .up then (b.modLink port fun l => { l with phy := true }).retrain port
  else (b.modLink port fun l => { l with phy := true }).linkWake port

theorem exec_phyUpRise (h : (s.b.ports.link port).phy = false) : exec (.phyUpRise port) s = .next { s with b := s.b.phyUp port } := by
  show execPhyUpRise port s = _
  rw [execPhyUpRise, State.onBlock_eq, if_neg (by simp [h])]
  dsimp only
  rw [Block.modLink_link]
  rfl

theorem Relinks.andTrain {l : Link} {b c : Block} (h : Relinks port l b c) :
    Relinks port { l with st := .training, trainAt := c.time.mclk } b (c.train port) := by
  rw [Block.train, Block.emitOwn]
  exact (h.andLink fun l => { l with st := .training, trainAt := c.time.mclk }).andPorts rfl

theorem Block.linkWake_wakes {b : Block} {port : Nat} (hst : (b.ports.link port).st = .down) (hphy : (b.ports.link port).phy = true)
    (hon : Tab.get false b.power.on (portDomain port) = true) : b.linkWake port = (b.modLink port fun l =>
      { l with seqTx := 0, seqRx := 0, replay := [], retrainAt := [], reqCredits := 1024, rspCredits := 1024 }).train port := by
  rw [Block.linkWake, hst, hphy, hon]
  rfl

theorem phyUpRise_trains (hst : (s.b.ports.link port).st = .down) (hphy : (s.b.ports.link port).phy = false)
    (hon : Tab.get false s.b.power.on (portDomain port) = true) : Completes (exec (.phyUpRise port) s) fun t =>
      OnlyLink port { s.b.ports.link port with
        st := .training, phy := true, seqTx := 0, seqRx := 0, replay := [], retrainAt := [], reqCredits := 1024
        rspCredits := 1024, trainAt := s.b.time.mclk } s t ∧
      t.b.ports = { s.b.ports with links := t.b.ports.links, own := s.b.ports.own ++ [(port, .link port 1 0)] } := by
  have hwakes := Block.linkWake_wakes (b := s.b.modLink port fun l => { l with phy := true }) (port := port)
    (by rw [Block.modLink_link]; exact hst) (by rw [Block.modLink_link]) hon
  refine ⟨_, exec_phyUpRise hphy, ?_⟩
  rw [Block.phyUp, if_neg (by simp [hst]), hwakes]
  have hlink : Relinks port _ s.b _ := (Relinks.modLink s.b port fun l => { l with phy := true }).andLink fun l =>
    { l with seqTx := 0, seqRx := 0, replay := [], retrainAt := [], reqCredits := 1024, rspCredits := 1024 }
  exact ⟨hlink.andTrain.only, rfl⟩

theorem Block.retrain_trains {b : Block} {port : Nat}
    (h : ((b.ports.link port).retrainAt.filter fun t => b.time.mclk < t + 750000000).length < 3) : b.retrain port =
      ((b.modPorts fun p => { p with retrains := Tab.upd 0 p.retrains (min port 4) up32 }).modLink port fun l => { l with
        retrainAt := ((b.ports.link port).retrainAt.filter fun t => b.time.mclk < t + 750000000) ++ [b.time.mclk] }).train port := by
  rw [Block.retrain]
  exact if_neg (by omega)

/-- What a retrain leaves where the last second saw fewer than three. -/
theorem Block.retrain_leaves {b : Block} {port : Nat}
    (h : ((b.ports.link port).retrainAt.filter fun t => b.time.mclk < t + 750000000).length < 3) :
    ∃ l, Relinks port l b (b.retrain port) ∧ l.st = .training ∧ l.replay = (b.ports.link port).replay ∧
      (b.retrain port).ports.remote = b.ports.remote ∧ (b.retrain port).ports.own = b.ports.own ++ [(port, .link port 1 0)] ∧
      Tab.get 0 (b.retrain port).ports.retrains (min port 4) = up32 (Tab.get 0 b.ports.retrains (min port 4)) := by
  rw [Block.retrain_trains h]
  have hports : Relinks port _ b _ := Relinks.modPorts (b := b)
    (f := fun p => { p with retrains := Tab.upd 0 p.retrains (min port 4) up32 }) rfl port
  exact ⟨_, (hports.andLink fun l => { l with
    retrainAt := ((b.ports.link port).retrainAt.filter fun t => b.time.mclk < t + 750000000) ++ [b.time.mclk] }).andTrain,
    rfl, rfl, rfl, rfl, Tab.get_upd_same _ _ _ _⟩

theorem phyUpRise_retrains (hst : (s.b.ports.link port).st = .up) (hphy : (s.b.ports.link port).phy = false)
    (h : ((s.b.ports.link port).retrainAt.filter fun c => s.b.time.mclk < c + 750000000).length < 3) :
    Completes (exec (.phyUpRise port) s) fun t =>
      Frame [.ports] s t ∧ (t.b.ports.link port).st = .training ∧ (t.b.ports.link port).replay = (s.b.ports.link port).replay ∧
      t.b.ports.remote = s.b.ports.remote ∧ t.b.ports.own = s.b.ports.own ++ [(port, .link port 1 0)] ∧
        Tab.get 0 t.b.ports.retrains (min port 4) = up32 (Tab.get 0 s.b.ports.retrains (min port 4)) := by
  obtain ⟨l, hlink, htraining, hreplay, hremote, hown, hcount⟩ := Block.retrain_leaves
    (b := s.b.modLink port fun l => { l with phy := true }) (port := port) (by rw [Block.modLink_link]; exact h)
  rw [Block.modLink_link] at hreplay
  refine ⟨_, exec_phyUpRise hphy, ?_⟩
  rw [Block.phyUp, hst, if_pos (by decide)]
  have hall := (Relinks.modLink s.b port fun l => { l with phy := true }).trans hlink
  exact ⟨hall.frame, (congrArg Link.st hall.2.1).trans htraining, (congrArg Link.replay hall.2.1).trans hreplay, hremote, hown, hcount⟩

theorem phyUpFall_falls : Completes (exec (.phyUpFall port) s) (OnlyLink port { s.b.ports.link port with
    phy := false, st := if (s.b.ports.link port).st = .failed then .down else (s.b.ports.link port).st } s) := by
  have hlink := Relinks.modLink s.b port fun l => { l with phy := false, st := if l.st == .failed then .down else l.st }
  refine ⟨_, rfl, ?_⟩
  simp only [beq_iff_eq] at hlink ⊢
  exact hlink.only

/-! ### NAK and replay -/

theorem rxBad_asks : Completes (exec (.rxBad port) s) fun t => t = { s with b := { s.b with ports := { s.b.ports with
    own := s.b.ports.own ++ [(port, .link port 2 (s.b.ports.link port).seqRx)] } } } := ⟨_, rfl, rfl⟩

theorem Link.from_unknown {l : Link} {seq : Nat} (h : ∀ x ∈ l.replay, x.1 ≠ seq) : l.from seq = [] :=
  List.dropWhile_eq_nil_iff.2 fun x hx => by simpa using h x hx

theorem Link.from_named {l : Link} {seq n : Nat} {f : Flit} {freed rest : List (Nat × Nat × Flit)}
    (hreplay : l.replay = freed ++ (seq, n, f) :: rest) (hfreed : ∀ x ∈ freed, x.1 ≠ seq) : l.from seq = (seq, n, f) :: rest := by
  rw [Link.from, hreplay, List.dropWhile_append_of_pos fun x hx => by simpa using hfreed x hx, List.dropWhile_cons_of_neg (by simp)]

theorem linkNak_unknown {seq : Nat} (h : ∀ x ∈ (s.b.ports.link port).replay, x.1 ≠ seq) : exec (.linkNak port seq) s = .next s := by
  show execLinkNak port seq s = _
  rw [execLinkNak, State.onBlock_eq, Block.nak, Link.from_unknown h]
  rfl

/-- The flits of a replay leave on their link again. -/
def Block.resend (b : Block) (port : Nat) (l : List (Nat × Nat × Flit)) : Block :=
  l.foldl (fun b x => b.modPorts fun p => { p with out := .flit port x.2.2 :: p.out }) b

theorem Block.resend_eq (port : Nat) (l : List (Nat × Nat × Flit)) (b : Block) :
    b.resend port l = b.modPorts fun p => { p with out := (l.map fun x => Out.flit port x.2.2).reverse ++ p.out } := by
  induction l generalizing b with
  | nil => rfl
  | cons x l ih =>
    rw [Block.resend, List.foldl_cons, ← Block.resend, ih]
    simp [Block.modPorts]

/-- A replay as the NAK counts it. -/
def countReplay (l : List (Nat × Nat × Flit)) : List (Nat × Nat × Flit) := l.map fun x => (x.1, x.2.1 + 1, x.2.2)

theorem Block.nak_replays {b : Block} {port seq n : Nat} {f : Flit} {rest : List (Nat × Nat × Flit)}
    (hfrom : (b.ports.link port).from seq = (seq, n, f) :: rest) (hn : n < 7) (hrest : ∀ x ∈ rest, x.2.1 < 7) :
    b.nak port seq = (b.modLink port fun l => { l with replay := countReplay ((seq, n, f) :: rest) }).resend port
      (countReplay ((seq, n, f) :: rest)) := by
  have hcount : ¬ ((countReplay ((seq, n, f) :: rest)).any fun x => 8 ≤ x.2.1) = true := by
    simp only [countReplay, List.any_map, List.any_eq_true, List.mem_cons, Function.comp, decide_eq_true_eq, not_exists, not_and, not_le]
    rintro x (rfl | hx)
    · exact Nat.succ_lt_succ hn
    · exact Nat.succ_lt_succ (hrest x hx)
  rw [Block.nak, hfrom]
  exact if_neg hcount

theorem linkNak_replays {seq n : Nat} {f : Flit} {freed rest : List (Nat × Nat × Flit)}
    (hreplay : (s.b.ports.link port).replay = freed ++ (seq, n, f) :: rest) (hfreed : ∀ x ∈ freed, x.1 ≠ seq) (hn : n < 7)
    (hrest : ∀ x ∈ rest, x.2.1 < 7) : Completes (exec (.linkNak port seq) s) fun t =>
      OnlyLink port { s.b.ports.link port with replay := (seq, n + 1, f) :: rest.map fun x => (x.1, x.2.1 + 1, x.2.2) } s t ∧
      t.b.ports.out = (((seq, n, f) :: rest).map fun x => Out.flit port x.2.2).reverse ++ s.b.ports.out := by
  have hexec : exec (.linkNak port seq) s = .next { s with b := (s.b.modLink port fun l =>
      { l with replay := countReplay ((seq, n, f) :: rest) }).resend port (countReplay ((seq, n, f) :: rest)) } := by
    show execLinkNak port seq s = _
    rw [execLinkNak, State.onBlock_eq, Block.nak_replays (Link.from_named hreplay hfreed) hn hrest]
  refine ⟨_, hexec, ?_⟩
  rw [Block.resend_eq]
  refine ⟨((Relinks.modLink s.b port fun l => { l with replay := countReplay ((seq, n, f) :: rest) }).andPorts rfl).only, ?_⟩
  simp [countReplay, Function.comp_def, Block.modLink]

/-! ### Reads that return (R121, R437, R439) -/

theorem exec_mcpReadReturn {line g : Nat} (err : Bool) (hg : s.b.gated = false) (hb : s.b.groupBehind (port / 4) = some g) :
    exec (.mcpReadReturn port line err) s = .next { s with
      b := if s.b.groupOwner g == 31 then s.b.commonsReturn g (port % 4) line err
        else if err then s.b.setPoison (g * 2 ^ 30 + 4 * line + port % 4) true else s.b } := by
  show execMcpReadReturn port line err s = _
  rw [execMcpReadReturn, State.onCompute_running hg, hb]

/-- A tile of the lookahead buffer when a line returns. -/
def LookTile.returned (x : LookTile) (a clk : Nat) (err : Bool) : LookTile :=
  if x.missing.contains a then
    { x with missing := x.missing.filter (· != a), bad := if err then x.bad ++ [a] else x.bad, ready := clk }
  else x

theorem LookTile.returned_other {x : LookTile} {a : Nat} (h : a ∉ x.missing) (clk : Nat) (err : Bool) : x.returned a clk err = x :=
  if_neg (by simpa using h)

theorem LookTile.returned_missing {x : LookTile} {a : Nat} (h : a ∈ x.missing) (clk : Nat) (err : Bool) :
    a ∉ (x.returned a clk err).missing ∧ (∀ z, z ≠ a → (z ∈ (x.returned a clk err).missing ↔ z ∈ x.missing)) ∧
      (x.returned a clk err).ready = clk ∧ (x.returned a clk err).bad = if err then x.bad ++ [a] else x.bad := by
  rw [LookTile.returned, if_pos (by simpa using h)]
  refine ⟨by simp, fun z hz => by simp [hz], rfl, rfl⟩

theorem Block.commonsReturn_some {b : Block} {g port line a : Nat} (h : (b.parade.outstanding b.start.commons g port).find?
    (fun x => (commonsPlace b.start.commons x).2.2 == line) = some a) (err : Bool) : b.commonsReturn g port line err =
      b.modParade fun p => { p with look := p.look.map fun x => x.returned a b.time.clk err } := by
  rw [Block.commonsReturn, h]
  rfl

theorem mcpReadReturn_commons {line g a : Nat} (err : Bool) (hg : s.b.gated = false) (hb : s.b.groupBehind (port / 4) = some g)
    (ho : s.b.groupOwner g = 31) (ha : (s.b.parade.outstanding s.b.start.commons g (port % 4)).find?
      (fun x => (commonsPlace s.b.start.commons x).2.2 == line) = some a) :
    Completes (exec (.mcpReadReturn port line err) s) fun t => Frame [.parade] s t ∧
      t.b.parade = { s.b.parade with look := t.b.parade.look } ∧ t.b.parade.look.length = s.b.parade.look.length ∧
      ∀ (i : Nat) (x y : LookTile), s.b.parade.look[i]? = some x → t.b.parade.look[i]? = some y →
        (a ∉ x.missing → y = x) ∧ (a ∈ x.missing → a ∉ y.missing ∧ (∀ z, z ≠ a → (z ∈ y.missing ↔ z ∈ x.missing)) ∧
          y.ready = s.b.time.clk ∧ y.bad = if err then x.bad ++ [a] else x.bad) := by
  refine ⟨_, exec_mcpReadReturn err hg hb, ?_⟩
  rw [if_pos (by simpa using ho), Block.commonsReturn_some ha]
  refine ⟨⟨rfl, rfl, rfl, s.b.modParade_keeps _⟩, rfl, List.length_map _, fun i x y hx hy => ?_⟩
  obtain rfl : x.returned a s.b.time.clk err = y := by
    have hmap : (s.b.parade.look.map fun x => x.returned a s.b.time.clk err)[i]? = some y := hy
    rw [List.getElem?_map, hx] at hmap
    exact Option.some.inj hmap
  exact ⟨fun h => LookTile.returned_other h _ _, fun h => LookTile.returned_missing h _ _⟩

theorem mcpReadReturn_noRead {line g : Nat} (err : Bool) (hg : s.b.gated = false) (hb : s.b.groupBehind (port / 4) = some g)
    (ho : s.b.groupOwner g = 31) (h : ∀ a ∈ s.b.parade.outstanding s.b.start.commons g (port % 4),
      (commonsPlace s.b.start.commons a).2.2 ≠ line) : exec (.mcpReadReturn port line err) s = .next s := by
  have hnone : (s.b.parade.outstanding s.b.start.commons g (port % 4)).find?
      (fun x => (commonsPlace s.b.start.commons x).2.2 == line) = none := List.find?_eq_none.2 fun a ha => by simpa using h a ha
  rw [exec_mcpReadReturn err hg hb, if_pos (by simpa using ho), Block.commonsReturn, hnone]

theorem mcpReadReturn_poisons {line g : Nat} (hg : s.b.gated = false) (hb : s.b.groupBehind (port / 4) = some g)
    (ho : s.b.groupOwner g ≠ 31) : Completes (exec (.mcpReadReturn port line true) s) fun t => Frame [.mem] s t ∧
      t.b.mem.bytes = s.b.mem.bytes ∧ t.b.poisoned (128 * (g * 2 ^ 30 + 4 * line + port % 4)) = true := by
  refine ⟨_, exec_mcpReadReturn true hg hb, ?_⟩
  rw [if_neg (by simpa using ho), if_pos rfl]
  refine ⟨⟨rfl, rfl, rfl, s.b.setPoison_keeps _ _⟩, rfl, ?_⟩
  rw [Block.poisoned, Nat.mul_div_cancel_left _ (by decide), Bool.or_eq_true]
  exact .inl (Tab.get_set_same false s.b.mem.poison _ true)

theorem mcpReadReturn_other {line g : Nat} (hg : s.b.gated = false) (hb : s.b.groupBehind (port / 4) = some g)
    (ho : s.b.groupOwner g ≠ 31) : exec (.mcpReadReturn port line false) s = .next s := by
  rw [exec_mcpReadReturn false hg hb, if_neg (by simpa using ho)]
  rfl

/-! ### Interrupts (R448) -/

theorem irqSend_lowest {v : Nat} {x : Bool} {rest : Tab Bool} (h : s.b.ports.irq = (v, x) :: rest) :
    Completes (exec .irqSend s) fun t =>
      t = { s with b := { s.b with ports := { s.b.ports with irq := rest, out := .irq v :: s.b.ports.out } } } := by
  refine ⟨_, ?_, rfl⟩
  show execIrqSend s = _
  rw [execIrqSend, State.onBlock_eq, h]
  rfl

end

end Sys2Proof.Machine
end

section
/-! A link that fails (R443), for O54: the requests that end as if REFUSED had been answered leave the links as they are, for a flit
of theirs only waits for a block position. -/

namespace Sys2Proof.Machine

/-- No link's state, sequence, credits or replay changes. -/
def SameLinks (b b' : Block) : Prop := b'.ports.links = b.ports.links

namespace SameLinks

theorem refl (b : Block) : SameLinks b b := rfl

theorem trans {b c d : Block} (h : SameLinks b c) (g : SameLinks c d) : SameLinks b d := Eq.trans g h

theorem of_keeps {L : List Part} {b b' : Block} (h : b.Keeps L b') (hn : Part.ports ∉ L) : SameLinks b b' :=
  congrArg Ports.links (h .ports hn)

theorem of_homelike {b b' : Block} (h : Homelike (fun _ => True) b b') : SameLinks b b' := of_keeps h.keeps (by decide)

theorem ite {b x y : Block} {p : Prop} [Decidable p] (hx : SameLinks b x) (hy : SameLinks b y) : SameLinks b (if p then x else y) := by
  split
  · exact hx
  · exact hy

theorem foldl {α : Type} (f : Block → α → Block) (hf : ∀ (b : Block) (x : α), SameLinks b (f b x)) (l : List α) (b : Block) :
    SameLinks b (l.foldl f b) := by
  induction l generalizing b with
  | nil => exact refl b
  | cons x l ih => exact (hf b x).trans (ih (f b x))

theorem each (f : Nat → Block → Block) (hf : ∀ (n : Nat) (b : Block), SameLinks b (f n b)) (l : List Nat) (b : Block) :
    SameLinks b (b.each l f) := foldl _ (fun b n => hf n b) l b

/-- The block of the first component of an equation between pairs. -/
theorem of_pair {α : Type} {b b' : Block} {x : Block × α} {y : α} (h : SameLinks b x.1) (hx : x = (b', y)) : SameLinks b b' := by
  rwa [hx] at h

theorem modCtx (b : Block) (c : Nat) (f : Ctx → Ctx) : SameLinks b (b.modCtx c f) := rfl
theorem modHart (b : Block) (c : Nat) (f : Hart → Hart) : SameLinks b (b.modHart c f) := rfl
theorem modXlat (b : Block) (n : Nat) (f : XlatRegs → XlatRegs) : SameLinks b (b.modXlat n f) := rfl
theorem modSlice (b : Block) (n : Nat) (f : Slice → Slice) : SameLinks b (b.modSlice n f) := rfl
theorem modJob (b : Block) (n j : Nat) (f : Job → Job) : SameLinks b (b.modJob n j f) := rfl
theorem modDma (b : Block) (agent ch : Nat) (f : Dma → Dma) : SameLinks b (b.modDma agent ch f) := rfl
theorem cmdDone (b : Block) (q k : Nat) : SameLinks b (b.cmdDone q k) := rfl
theorem report (b : Block) (code pkg a0 a1 : Nat) : SameLinks b (b.report code pkg a0 a1) := rfl
theorem irq (b : Block) (n k : Nat) : SameLinks b (b.irq n k) := rfl
theorem dropTag (b : Block) (tag : Nat) : SameLinks b (b.dropTag tag) := rfl
theorem takeTag (b : Block) (u : RemoteUse) (port : Nat) : SameLinks b (b.takeTag u port).1 := rfl
theorem gotLine (b : Block) (core unit c va : Nat) (ans : LineAns) : SameLinks b (b.gotLine core unit c va ans) := rfl
theorem waitAt (b : Block) (path n : Nat) (m : Maker) (addr : Nat) (gen : Option (Nat × Nat)) (what : PortWhat) :
    SameLinks b (b.waitAt path n m addr gen what) := rfl
theorem wrOwn (b : Block) (n a : Nat) (bs : List Byte) : SameLinks b (b.wrOwn n a bs) := of_homelike (Homelike.wrOwn b n a bs)

/-! ### Requests that wait at a port -/

theorem askMem (b : Block) (n : Nat) (m : Maker) (unit c va line : Nat) : SameLinks b (b.askMem n m unit c va line) :=
  ite (refl b) (waitAt b _ _ _ _ _ _)

theorem askWalk (b : Block) (n : Nat) (m : Maker) (unit c page : Nat) : SameLinks b (b.askWalk n m unit c page) :=
  ite (refl b) (waitAt b _ _ _ _ _ _)

theorem hostWrite (b : Block) (n : Nat) (m : Maker) (gen : Option (Nat × Nat)) (a : Nat) (bs : List Byte) (pasid : Nat)
    (dma : Option (Nat × Nat)) : SameLinks b (b.hostWrite n m gen a bs pasid dma) :=
  foldl _ (fun b _ => waitAt b _ _ _ _ _ _) _ b

theorem remoteRead (b : Block) (n : Nat) (m : Maker) (u : RemoteUse) (a len : Nat) : SameLinks b (b.remoteRead n m u a len).1 :=
  (takeTag b u _).trans (waitAt _ _ _ _ _ _ _)

theorem remoteWrite (b : Block) (n : Nat) (m : Maker) (u : RemoteUse) (a : Nat) (bs : List Byte) :
    SameLinks b (b.remoteWrite n m u a bs) := by
  rw [Block.remoteWrite]
  exact (takeTag b _ _).trans ((waitAt _ _ _ _ _ _ _).trans (foldl _ (fun b _ => waitAt b _ _ _ _ _ _) _ _))

theorem dropLines (b : Block) (core unit : Nat) : SameLinks b (b.dropLines core unit) := by
  have hwait : ∀ b : Block, SameLinks b (if b.ports.waiting.any fun x => x.isOf core unit then
      b.modPorts fun p => { p with waiting := p.waiting.filter fun x => !x.isOf core unit } else b) := fun b => ite rfl (refl b)
  rw [Block.dropLines]
  exact (hwait b).trans ((foldl _ dropTag _ _).trans (ite rfl (refl _)))

theorem ctxCode (b : Block) (c code : Nat) : SameLinks b (b.ctxCode c code) := ite rfl (modCtx b c _)

theorem endAccess (b : Block) (core : Nat) (f : Hart → Hart) : SameLinks b (b.endAccess core f) := ite (modHart b core f) (refl b)

/-! ### Faults -/

theorem putFault (b : Block) (n : Nat) (r : FaultRec) : SameLinks b (b.putFault n r) := by
  rw [Block.putFault]
  exact ((wrOwn b n _ _).trans (modXlat _ n _)).trans (ite (irq _ n 1) (refl _))

theorem drainFaults (n : Nat) (l : List FaultRec) (b : Block) : SameLinks b (Block.drainFaults n l b) := by
  induction l generalizing b with
  | nil => exact modXlat b n _
  | cons r l ih => exact ite ((putFault b n r).trans (ih _)) (modXlat b n _)

theorem newFault (b : Block) (n : Nat) (r : FaultRec) : SameLinks b (b.newFault n r) := by
  rw [Block.newFault]
  exact (drainFaults n _ b).trans (ite (irq _ n 1) (refl _))

theorem migrFails (b : Block) (n cause : Nat) : SameLinks b (b.migrFails n cause) := by
  rw [Block.migrFails]
  split
  · exact refl b
  · exact (modXlat b n _).trans (newFault _ n _)

/-! ### Signals and the copies of secure jobs -/

theorem wakeWaits (b : Block) (f : Nat) : SameLinks b (b.wakeWaits f) := by
  rw [Block.wakeWaits]
  refine each _ (fun q b => ?_) _ b
  exact ite rfl (refl b)

theorem notify (b : Block) (n f : Nat) : SameLinks b (b.notify n f) := by
  rw [Block.notify]
  refine ite (refl b) ?_
  split
  · exact modHart b _ _
  · exact modCtx b _ _

theorem writeMirror (b : Block) (n f : Nat) (y : Signaller) : SameLinks b (b.writeMirror n f y) :=
  ite (refl b) (ite (hostWrite b _ _ _ _ _ _ _) (ite (wrOwn b _ _ _) (refl b)))

theorem fenceChanged (b : Block) (f : Nat) (y : Signaller) : SameLinks b (b.fenceChanged f y) := by
  rw [Block.fenceChanged]
  split
  · exact wakeWaits b f
  · exact (writeMirror b _ f y).trans ((notify _ _ f).trans (wakeWaits _ f))

theorem snapshots (b : Block) (f : Nat) : SameLinks b (b.snapshots f) := by
  rw [Block.snapshots]
  split
  · exact refl b
  · refine each _ (fun j b => ?_) _ b
    split
    · exact refl b
    · exact ite (modJob b _ j _) (refl b)

theorem signal (b : Block) (f : Nat) (w : Dword) (y : Signaller) : SameLinks b (b.signal f w y) := by
  have hset : SameLinks b (b.modFence f fun x => { x with value := w }) := rfl
  exact ite (refl b) (ite (hset.trans ((snapshots _ f).trans (fenceChanged _ f y))) (modCtx b _ _))

theorem jobSignal (b : Block) (n f : Nat) (w : Dword) : SameLinks b (b.jobSignal n f w) := ite (signal b f w noCmd) (refl b)

theorem secureEvent (b : Block) (n j result : Nat) : SameLinks b (b.secureEvent n j result) := by
  rw [Block.secureEvent]
  exact ((modJob b n j _).trans (modSlice _ n _)).trans ((ite (irq _ n 7) (refl _)).trans (report _ _ _ _ _))

theorem secureResult (b : Block) (n j result : Nat) (f : Dword) : SameLinks b (b.secureResult n j result f) := by
  rw [Block.secureResult]
  exact (modJob b n j _).trans ((ite (secureEvent _ n j result) (refl _)).trans (jobSignal _ n _ f))

theorem regen (b : Block) (n : Nat) : SameLinks b (b.regen n) := ite (refl b) rfl

theorem regenFeed (b : Block) (n : Nat) {f : Block → Block} (hf : SameLinks b (f b)) : SameLinks b (b.regenFeed n f) :=
  ite (hf.trans (regen _ n)) hf

theorem endCopy (b : Block) (n j result : Nat) : SameLinks b (b.endCopy n j result) := by
  rw [Block.endCopy]
  split
  · exact refl b
  · exact regenFeed b n ((dropTag b _).trans ((modJob _ n j _).trans (secureResult _ n j result _)))

theorem dropRestore (b : Block) (n j : Nat) : SameLinks b (b.dropRestore n j) := by
  rw [Block.dropRestore]
  split
  · exact refl b
  · exact (dropTag b _).trans (modJob _ n j _)

theorem endRestore (b : Block) (n j result : Nat) : SameLinks b (b.endRestore n j result) := by
  rw [Block.endRestore]
  split
  · exact refl b
  · refine (dropRestore b n j).trans (ite (regenFeed _ n ?_) ?_)
    · exact ((modJob _ n j _).trans (of_keeps (Block.tallyUp_keeps _ _ _) (by decide))).trans
        ((jobSignal _ n _ _).trans (jobSignal _ n _ _))
    · exact (modJob _ n j _).trans (ite (secureEvent _ n j result) (refl _))

theorem streamRefused (b : Block) (n j : Nat) : SameLinks b (b.streamRefused n j) := by
  rw [Block.streamRefused]
  split
  · exact endCopy b n j 6
  · exact endRestore b n j 6

end SameLinks

/-! ### Reads of a cluster cache -/

theorem Homelike.readLine {Q : Nat → Prop} (b : Block) (a : Agent) (line key : Nat) : Homelike Q b (b.readLine a line key).block := by
  rw [Block.readLine]
  split
  · exact useLine b a line false
  · exact fetchLine b a line key .rds

theorem Homelike.cacheRead {Q : Nat → Prop} (b : Block) (a : Agent) (i key k hint : Nat) :
    Homelike Q b (b.cacheRead a i key k hint).1 := by
  rw [Block.cacheRead]
  split
  · exact useLine b a _ false
  · split
    · have hturn := homeTurn (Q := Q) b (Agent.uncached (agentSlice a) i) (k / 128) false
      split
      · rename_i h; rw [h] at hturn; exact hturn
      · rename_i b₁ h
        rw [h] at hturn
        have hwhole := whole (Q := Q) b₁ (Agent.uncached (agentSlice a) i) (k / 128) key .uncrd
        split <;> rename_i h <;> rw [h] at hwhole <;> exact hturn.trans hwhole
    · have hread := readLine (Q := Q) b a (k / 128) key
      split
      · rename_i h; rw [h] at hread; exact hread
      · rename_i h; rw [h] at hread; exact hread
      · rename_i h; rw [h] at hread; exact hread.trans (ite (useLine _ _ _ _) (refl _))

namespace SameLinks

/-! ### The DMA engines -/

theorem dmaLine (b : Block) (d : Dma) (va key k adv : Nat) : SameLinks b (b.dmaLine d va key k adv).1 := by
  rw [Block.dmaLine]
  split
  · exact askMem b _ _ _ _ _ _
  · exact of_homelike (Homelike.cacheRead b _ _ _ _ _)

theorem dmaMoved (b : Block) (d : Dma) (n : Nat) : SameLinks b (b.dmaMoved d n) :=
  (dropLines b _ _).trans (ite rfl (modDma _ _ _ _))

theorem dmaBad (b : Block) (d : Dma) : SameLinks b (b.dmaBad d) := (ctxCode b _ _).trans (dmaMoved _ d _)

theorem dmaFault (b : Block) (d : Dma) (va cause level adv : Nat) (write : Bool) : SameLinks b (b.dmaFault d va cause level adv write) :=
  (dropLines b _ _).trans ((modDma _ _ _ _).trans (newFault _ _ _))

theorem dmaWrite (b : Block) (d : Dma) (a key : Nat) (bs : List Byte) : SameLinks b (b.dmaWrite d a key bs) := by
  rw [Block.dmaWrite]
  dsimp only
  split
  · exact (modDma b _ _ _).trans (askMem _ _ _ _ _ _ _)
  · have hcache := of_homelike (Homelike.cacheWrite b (b.dmaCluster d) d.agent key (gaKey a) 1 (bs.take (128 - gaKey a % 128)))
    split
    · rename_i h; exact (hcache.of_pair h).trans (modDma _ _ _ _)
    · rename_i h; exact (hcache.of_pair h).trans ((dmaMoved _ d _).trans (modDma _ _ _ _))

theorem dmaTr (b : Block) (d : Dma) (va : Nat) (write : Bool) : SameLinks b (b.dmaTr d va write).1 := by
  rw [Block.dmaTr]
  split
  · exact askWalk b _ _ _ _ _
  · exact of_keeps (b.translate_keeps d.ctx va write) (by decide)

theorem dmaPut (b : Block) (d : Dma) (bs : List Byte) : SameLinks b (b.dmaPut d bs) := by
  have htr := dmaTr b d (d.dst + d.pos) true
  rw [Block.dmaPut]
  dsimp only
  split
  · exact modDma b _ _ _
  · split <;> rename_i h <;> refine (htr.of_pair h).trans ?_
    · exact modDma _ _ _ _
    · exact dmaFault _ d _ _ _ _ _
    · exact dmaWrite _ d _ _ _
    · exact (hostWrite _ _ _ _ _ _ _ _).trans (modDma _ _ _ _)
    · exact dmaBad _ d
    · exact (remoteWrite _ _ _ _ _ _).trans (modDma _ _ _ _)

theorem dmaFromMemory (b : Block) (d : Dma) (a key adv : Nat) (toHost : Bool) : SameLinks b (b.dmaFromMemory d a key adv toHost) := by
  have hsecond : ∀ (p : Prop) [Decidable p] (va k : Nat) (b : Block),
      SameLinks b (if p then b.dmaLine d va key k adv else (b, some (.data []))).1 := fun p _ va k b => by
    split
    · exact dmaLine b d va key k adv
    · exact refl b
  have hboth := (dmaLine b d (d.src + d.pos) key (gaKey a) adv).trans
    (hsecond (128 < gaKey a % 128 + d.chunk a (if toHost then 256 else 128)) ((d.src + d.pos) / 128 * 128 + 128) (gaKey a / 128 * 128 + 128) _)
  rw [Block.dmaFromMemory]
  dsimp only
  split
  · exact hboth.trans (dmaPut _ d _)
  · exact hboth
  · exact hboth
  · exact hboth.trans (dmaBad _ d)

theorem dmaRequest (b : Block) (d : Dma) : SameLinks b (b.dmaRequest d) := by
  have hsrc := dmaTr b d (d.src + d.pos) false
  rw [Block.dmaRequest]
  split
  · exact dmaPut b d d.data
  · split <;> rename_i h <;> refine (hsrc.of_pair h).trans ?_
    · exact refl _
    · exact dmaFault _ d _ _ _ _ _
    · rename_i b₁ src _
      have hdst := dmaTr b₁ d (d.dst + d.pos) true
      split <;> rename_i h <;> refine (hdst.of_pair h).trans ?_
      · exact refl _
      · exact dmaFault _ d _ _ _ _ _
      · cases src with
        | dev a key adv => exact dmaFromMemory _ d a _ adv _
        | host a => exact (modDma _ _ _ _).trans (waitAt _ _ _ _ _ _ _)
        | remote a => exact (modDma _ _ _ _).trans (remoteRead _ _ _ _ _ _)
        | poison => exact dmaBad _ d
        | fail => exact refl _

theorem dmaGo (agent ch tileEnd fuel : Nat) (b : Block) : SameLinks b (Block.dmaGo agent ch tileEnd fuel b) := by
  induction fuel generalizing b with
  | zero => exact refl b
  | succ fuel ih =>
    rw [Block.dmaGo]
    split
    · exact refl b
    · exact ite ((dmaRequest b _).trans (ite (refl _) (ih _))) (refl b)

theorem onDma (b : Block) (agent ch : Nat) {f : Dma → Nat → Block → Block} (hf : ∀ d n b, SameLinks b (f d n b)) :
    SameLinks b (b.onDma agent ch f) := by
  rw [Block.onDma]
  split
  · exact refl b
  · split
    · exact refl b
    · exact (modDma b agent ch _).trans ((hf _ _ _).trans (dmaGo _ _ _ _ _))

theorem dmaRefused (b : Block) (agent ch cause : Nat) (write : Bool) : SameLinks b (b.dmaRefused agent ch cause write) :=
  onDma b agent ch fun d _ b => dmaFault b d _ _ _ _ _

/-! ### The end of a request, and the report -/

theorem endRefused (b : Block) (tag : Nat) : SameLinks b (b.endRefused tag) := by
  rw [Block.endRefused]
  split
  · exact refl b
  · rename_i u _
    refine (dropTag b tag).trans ?_
    cases u with
    | dma ag ch w => exact dmaRefused _ ag ch 6 w
    | fence q k => exact ite ((ctxCode _ _ _).trans (cmdDone _ q k)) (refl _)
    | message core => exact endAccess _ core _
    | stream n j => exact streamRefused _ n j
    | window c va => exact ctxCode _ c _
    | winTake core unit c va => exact gotLine _ core unit c va _
    | winRead core unit c va => exact gotLine _ core unit c va _
    | migrate n => exact migrFails _ n 6
    | load core => exact endAccess _ core _
    | store core va => exact endAccess _ core _
    | atomic core rd va => exact endAccess _ core _

theorem ladderReport (b : Block) (t : Dword) (ns : List Nat) (rung cause unit idx : Nat) :
    SameLinks b (b.ladderReport t ns rung cause unit idx) := by
  have hone : ∀ (n : Nat) (b : Block), SameLinks b (b.ladderSlice t n rung cause unit idx) := fun n b => by
    have hraised : SameLinks b (b.modLad n fun l => { l with
        rung := rung, cause := cause, unit := unit, core := idx, stride := BitVec.ofNat 48 (dfld t 63 16), irqEvent := true }) := rfl
    rw [Block.ladderSlice]
    exact hraised.trans (trans (ite (refl _) (irq _ n 5)) rfl)
  exact (each _ hone ns b).trans rfl

end SameLinks

/-! ### The failure of a link -/

/-- A link that fails before its outstanding requests end. -/
def Block.linkFails (b : Block) (port : Nat) (st : LinkSt) : Block :=
  (b.modLink port fun l => { l with st := st, replay := [] }).modPorts fun p =>
    { p with waiting := p.waiting.filter (fun x => x.path != port), own := p.own.filter fun x => x.1 != port }

theorem Block.linkFails_relinks (b : Block) (port : Nat) (st : LinkSt) :
    Relinks port { b.ports.link port with st := st, replay := [] } b (b.linkFails port st) :=
  ((Relinks.modLink b port fun l => { l with st := st, replay := [] }).andPorts rfl)

/-- The tags of the requests outstanding on a link. -/
def Block.linkTags (b : Block) (port : Nat) : List Nat := (b.ports.tagPort.filter fun x => x.2 == port).map (·.1)

theorem Block.linkLost_eq (b : Block) (port : Nat) (st : LinkSt) : b.linkLost port st =
    ((b.linkFails port st).each (b.linkTags port) fun t b => b.endRefused t).ladderReport
      (b.linkFails port st).stamp ((b.linkFails port st).portSlices port) 0 11 7 0 := rfl

theorem Block.linkLost_link (b : Block) (port : Nat) (st : LinkSt) :
    (b.linkLost port st).ports.link port = { b.ports.link port with st := st, replay := [] } := by
  have hsame : SameLinks (b.linkFails port st) (b.linkLost port st) := by
    rw [Block.linkLost_eq]
    exact (SameLinks.each _ (fun t b => SameLinks.endRefused b t) _ _).trans (SameLinks.ladderReport _ _ _ _ _ _ _)
  rw [Ports.link, hsame]
  exact (b.linkFails_relinks port st).2.1

section

variable {s : State} {port : Nat}

theorem trainingTimeout_early (h : s.b.time.mclk < (s.b.ports.link port).trainAt + 10000 * usClk) :
    exec (.trainingTimeout port) s = .next s := by
  show execTrainingTimeout port s = _
  rw [execTrainingTimeout, State.onBlock_eq, if_neg]
  simp only [Bool.and_eq_true, decide_eq_true_eq]
  omega

theorem exec_trainingTimeout (hst : (s.b.ports.link port).st = .training)
    (ht : (s.b.ports.link port).trainAt + 10000 * usClk ≤ s.b.time.mclk) :
    exec (.trainingTimeout port) s = .next { s with b := s.b.linkLost port .failed } := by
  show execTrainingTimeout port s = _
  rw [execTrainingTimeout, State.onBlock_eq, if_pos]
  simp only [hst, Bool.and_eq_true, decide_eq_true_eq]
  exact ⟨by decide, ht⟩

theorem trainingTimeout_fails (hst : (s.b.ports.link port).st = .training)
    (ht : (s.b.ports.link port).trainAt + 10000 * usClk ≤ s.b.time.mclk) : Completes (exec (.trainingTimeout port) s) fun t =>
      t.pending = s.pending ∧ t.fuse = s.fuse ∧ t.flash = s.flash ∧ (t.b.ports.link port).st = .failed :=
  ⟨_, exec_trainingTimeout hst ht, rfl, rfl, rfl, congrArg Link.st (s.b.linkLost_link port .failed)⟩

theorem trainingTimeout_reports (hst : (s.b.ports.link port).st = .training)
    (ht : (s.b.ports.link port).trainAt + 10000 * usClk ≤ s.b.time.mclk) (htags : ∀ x ∈ s.b.ports.tagPort, x.2 ≠ port) :
    Completes (exec (.trainingTimeout port) s) fun t =>
      Frame [.ports, .slices, .dict, .tally] s t ∧ (t.b.ports.link port).st = .failed ∧ (t.b.ports.link port).replay = [] ∧
      ∀ n ∈ s.b.portSlices port, (t.b.slice n).ladder.cause = 11 := by
  have hnone : s.b.linkTags port = [] := by
    rw [Block.linkTags, List.filter_eq_nil_iff.2 fun x hx => by simpa using htags x hx, List.map_nil]
  have hlost := s.b.linkLost_eq port .failed
  rw [hnone] at hlost
  refine ⟨_, exec_trainingTimeout hst ht, ⟨rfl, rfl, rfl, ?_⟩, congrArg Link.st (s.b.linkLost_link port .failed),
    congrArg Link.replay (s.b.linkLost_link port .failed), fun n hn => ?_⟩
  · rw [hlost]
    exact ((s.b.linkFails_relinks port .failed).keeps.mono (by simp)).trans ((Block.ladderReport_keeps _ _ _ _ _ _ _).mono (by simp))
  · rw [hlost]
    exact (Block.ladderReport_reaches _ _ _ _ _ _ hn).2

end

/-- Settles O54: a lemma per command; a link that fails stays FAILED because `SameLinks` holds of what ends its requests. -/
theorem linksReplayAndInterruptsLeave : Obligations.LinksReplayAndInterruptsLeave := fun _ _ =>
  ⟨null_creditsBack, linkTrain_up, linkTrain_idle, phyUpRise_up, phyUpRise_trains, phyUpRise_retrains, phyUpFall_falls,
    trainingTimeout_early, trainingTimeout_fails, trainingTimeout_reports, rxBad_asks, fun _ => linkNak_unknown,
    fun _ _ _ _ _ => linkNak_replays,
    fun _ _ err hg hb ho => ⟨fun _ => mcpReadReturn_commons err hg hb ho, mcpReadReturn_noRead err hg hb ho⟩,
    fun _ _ hg hb ho => ⟨mcpReadReturn_poisons hg hb ho, mcpReadReturn_other hg hb ho⟩, fun _ _ _ => irqSend_lowest⟩

end Sys2Proof.Machine
end

section
/-! Work of an adapter unit (R137 to R141; O14): what accesses, codes and the settling of bindings leave of it. -/

namespace Sys2Proof.Machine

/-- Work that leaves what `key` reads of a core's adapter unit. -/
structure Tended {α : Type} (key : Adapter → α) (core : Nat) (b b' : Block) : Prop where
  keeps : b.Keeps [.cores, .ctxs, .mem, .coh, .slices, .ports] b'
  unit : key (b'.core core).adapter = key (b.core core).adapter

namespace Tended

variable {α : Type} {key : Adapter → α} {core : Nat}

theorem refl (b : Block) : Tended key core b b := ⟨Block.Keeps.refl _ b, rfl⟩

theorem trans {b c d : Block} (h : Tended key core b c) (g : Tended key core c d) : Tended key core b d :=
  ⟨h.keeps.trans g.keeps, g.unit.trans h.unit⟩

theorem ite {b x y : Block} {p : Prop} [Decidable p] (hx : Tended key core b x) (hy : Tended key core b y) :
    Tended key core b (if p then x else y) := by
  split
  · exact hx
  · exact hy

theorem foldl {β : Type} (f : Block → β → Block) (hf : ∀ (b : Block) (x : β), Tended key core b (f b x)) (l : List β) (b : Block) :
    Tended key core b (l.foldl f b) := by
  induction l generalizing b with
  | nil => exact refl b
  | cons x l ih => exact (hf b x).trans (ih (f b x))

/-- A fold that carries more than the block. -/
theorem foldlFst {β γ : Type} (f : Block × γ → β → Block × γ) (hf : ∀ x q, Tended key core x.1 (f x q).1) (l : List β)
    (x : Block × γ) : Tended key core x.1 (l.foldl f x).1 := by
  induction l generalizing x with
  | nil => exact refl x.1
  | cons q l ih => exact (hf x q).trans (ih (f x q))

/-- Accesses of a core's units leave every adapter unit. -/
theorem of_accesses {point : Nat} {b b' : Block} (h : Accesses point b b') : Tended key core b b' := by
  obtain ⟨_, _, _, _, hc⟩ := h.accessed.core core
  exact ⟨h.accessed.keeps, by rw [hc]⟩

/-- An operation that leaves the cores alone. -/
theorem of_keeps {b b' : Block} {L : List Part} (h : b.Keeps L b') (hs : L ⊆ [.ctxs, .mem, .coh, .slices, .ports]) :
    Tended key core b b' :=
  ⟨h.mono fun _ hp => List.mem_cons_of_mem _ (hs hp), by rw [h.core_eq (fun hl => by simpa using hs hl)]⟩

theorem modAdapter (b : Block) {f : Adapter → Adapter} (hf : ∀ a, key (f a) = key a) : Tended key core b (b.modAdapter core f) :=
  ⟨(b.modAdapter_keeps core f).mono (by simp), by rw [Block.modAdapter, Block.modCore_core_same]; exact hf _⟩

theorem modEng (b : Block) (eng : Nat) (f : Engine → Engine) : Tended key core b (b.modEng core eng f) :=
  ⟨(b.modEng_keeps core eng f).mono (by simp), by rw [Block.modEng, Block.modCore_core_same]; rfl⟩

theorem modOp (b : Block) (eng ticket : Nat) (f : EOp → EOp) : Tended key core b (b.modOp core eng ticket f) := modEng b eng _
theorem modCnt (b : Block) (n : Nat) (f : Counters → Counters) : Tended key core b (b.modCnt n f) :=
  of_keeps (b.modCnt_keeps n f) (by simp)

/-! ### Codes (R75) and what an op's writes have sent (R77) -/

theorem engCode (b : Block) (eng ctx code : Nat) : Tended key core b (b.engCode core eng ctx code) :=
  (of_keeps (b.ctxCode_keeps ctx code) (by simp)).trans (modEng _ eng _)

theorem opCodes (b : Block) (eng : Nat) (o : EOp) (codes : List Nat) : Tended key core b (b.opCodes core eng o codes) := by
  refine trans ?_ (modOp _ eng o.ticket _)
  refine foldlFst _ (fun x k => ?_) codes (b, _)
  dsimp only
  split
  · exact refl _
  · exact engCode _ eng o.ctx k

theorem tracked {β : Type} (b : Block) (eng ticket : Nat) {f : Block → Block × β} (hf : Tended key core b (f b).1) :
    Tended key core b (b.tracked core eng ticket f).1 := by
  rw [Block.tracked]
  exact ite hf (hf.trans (modOp _ eng ticket _))

/-! ### Bindings (R137) -/

/-- Deferred changes of a slot change slots and fired prefetches alone. -/
theorem settleSlot (slot : Nat) (hk : ∀ (a : Adapter) slots fires, key { a with slots := slots, fires := fires } = key a) (n : Nat) (b : Block) :
    Tended key core b (Block.settleSlot core slot n b) := by
  have hunbind : ∀ a : Adapter, key (a.unbind slot) = key a := fun a => hk a _ _
  induction n generalizing b with
  | zero => exact refl b
  | succ n ih =>
    rw [Block.settleSlot]
    dsimp only
    split
    · exact refl b
    · split
      · exact refl b
      · refine trans ?_ (ih _)
        refine trans ?_ (modAdapter _ fun a => hk a _ a.fires)
        refine (modAdapter b hunbind).trans ?_
        simp only [Block.aimPrefs]
        exact ite (refl _) (modCnt _ _ _)

theorem settleSlots (hk : ∀ (a : Adapter) slots fires, key { a with slots := slots, fires := fires } = key a) (b : Block) (slots : List Nat) :
    Tended key core b (b.settleSlots core slots) := foldl _ (fun b s => settleSlot s hk _ b) slots b

end Tended

/-- Steps that leave the unit are no longer among its steps (R141). -/
theorem Block.dropSteps_steps (b : Block) (core : Nat) (gone : Step → Bool) :
    ((b.dropSteps core gone).core core).adapter.steps = (b.core core).adapter.steps.filter fun st => !gone st := by
  rw [Block.dropSteps, (Tended.settleSlots (key := Adapter.steps) (fun _ _ _ => rfl) _ _).unit, Block.modAdapter, Block.modCore_core_same]

/-- Of the rest of the unit they take slots and fired prefetches along, where bindings settle. -/
theorem Tended.dropSteps {α : Type} {key : Adapter → α} {core : Nat}
    (hk : ∀ (a : Adapter) slots fires steps, key { a with slots := slots, fires := fires, steps := steps } = key a) (b : Block)
    (gone : Step → Bool) : Tended key core b (b.dropSteps core gone) :=
  (modAdapter b fun a => hk a a.slots a.fires _).trans (settleSlots (fun a slots fires => hk a slots fires a.steps) _ _)

end Sys2Proof.Machine
end

section
/-! A step of an adapter unit that runs (R141). -/

namespace Sys2Proof.Machine

/-! ### The step in the unit's list -/

/-- What names a step, and its next panel. -/
def Step.place (st : Step) : Nat × Bool × Nat := (st.seq, st.up, st.t)

/-- The places of a unit's steps. -/
def Adapter.places (a : Adapter) : List (Nat × Bool × Nat) := a.steps.map Step.place

/-- The step as the unit's list has it. -/
def Adapter.step (a : Adapter) (st : Step) : Option Step := a.steps.find? fun x => x.same st

theorem Step.same_self (st : Step) : st.same st = true := by simp [Step.same]

theorem Step.same_up {x st : Step} (h : x.same st = true) : x.up = st.up := by simp_all [Step.same]

theorem Step.same_congr {x st st' : Step} (h : st.same st' = true) : x.same st = x.same st' := by
  simp only [Step.same, Bool.and_eq_true, beq_iff_eq] at h
  simp only [Step.same, h.1, h.2]

theorem Adapter.step_same {a : Adapter} {st x : Step} (h : a.step st = some x) : x.same st = true :=
  List.find?_some (p := fun x : Step => x.same st) h

/-- A change of steps that keeps their names. -/
theorem Adapter.step_map {a a' : Adapter} {g : Step → Step} (h : a'.steps = a.steps.map g) {st : Step} (hg : ∀ x, (g x).same st = x.same st) :
    a'.step st = (a.step st).map g := by
  rw [Adapter.step, h, List.find?_map, Adapter.step]
  exact congrArg (Option.map g) (congrArg (List.find? · a.steps) (funext hg))

/-- The places of a unit's steps say where a step is. -/
theorem Adapter.step_place {a a' : Adapter} (h : a'.places = a.places) (st : Step) :
    (a'.step st).map Step.place = (a.step st).map Step.place := by
  have hfind (a : Adapter) : (a.step st).map Step.place = a.places.find? fun p => p.1 == st.seq && p.2.1 == st.up :=
    (List.find?_map (p := fun p : Nat × Bool × Nat => p.1 == st.seq && p.2.1 == st.up) (f := Step.place) (l := a.steps)).symm
  rw [hfind, hfind, h]

theorem Block.stepNow_eq (b : Block) (core : Nat) (st : Step) : b.stepNow core st = ((b.core core).adapter.step st).getD st := rfl

/-- A change of a step by its name. -/
theorem Block.modStep_step {b : Block} {core : Nat} {st st' x : Step} (hx : (b.core core).adapter.step st = some x) (hs : st'.same st = true)
    {f : Step → Step} (hf : ∀ x, (f x).seq = x.seq ∧ (f x).up = x.up) :
    ((b.modStep core st' f).core core).adapter.step st = some (f x) := by
  have hg : ∀ y : Step, (if y.same st' = true then f y else y).same st = y.same st := fun y => by
    split
    · simp only [Step.same, (hf y).1, (hf y).2]
    · rfl
  rw [Block.modStep, Block.modAdapter, Block.modCore_core_same, Adapter.step_map (a := (b.core core).adapter) rfl hg, hx, Option.map_some,
    if_pos ((Step.same_congr hs).trans (Adapter.step_same hx))]

namespace Tended

variable {core : Nat}

/-- A change of steps that leaves their places. -/
theorem modStep (b : Block) (st : Step) {f : Step → Step} (hf : ∀ x, (f x).place = x.place) :
    Tended Adapter.places core b (b.modStep core st f) := by
  refine modAdapter b fun a => ?_
  rw [Adapter.places, List.map_map]
  refine List.map_congr_left fun x _ => ?_
  dsimp only [Function.comp]
  split
  · exact hf x
  · rfl

/-! ### Gradient adds (R163 to R168) -/

variable {α : Type} {key : Adapter → α}

theorem gradAdd (b : Block) (label ctx aw off : Nat) (v : Fp) : Tended key core b (b.gradAdd core label ctx aw off v).1 := by
  rw [Block.gradAdd]
  split
  · rename_i h; exact of_accesses (Accesses.winAtomic h)
  · exact of_accesses (Accesses.wrOperand ..)

theorem gradPanel (b : Block) (eng : Nat) (o : EOp) (m : MaskBlock) (slot rc p : Nat) (alpha : Option Word)
    (pairs : Nat → List (Fp × Fp)) : Tended key core b (b.gradPanel core eng o m slot rc p alpha pairs) := by
  rw [Block.gradPanel]
  dsimp only
  split
  · exact opCodes b eng o _
  · exact (opCodes b eng o _).trans (engCode _ eng o.ctx _)
  · refine trans ?_ (opCodes _ eng o _)
    refine tracked b eng o.ticket ?_
    refine foldlFst _ (fun x i => ?_) _ (b, _)
    exact gradAdd x.1 o.label o.ctx _ _ _

theorem gradUp (b : Block) (o : EOp) (st : Step) (slot : Nat) (x : Binding) (rows : List Nat) :
    Tended key core b (b.gradUp core o st slot x rows) := by
  rw [Block.gradUp]
  split
  · exact ite (refl b) ((opCodes b st.eng o _).trans (gradPanel _ st.eng o ..))
  · exact refl b

theorem gradDown (b : Block) (o : EOp) (st : Step) (slot t : Nat) : Tended key core b (b.gradDown core o st slot t) := by
  rw [Block.gradDown]
  split
  · exact (opCodes b st.eng o _).trans (gradPanel _ st.eng o ..)
  · exact refl b

/-! ### Panels -/

/-- A panel taken for a slot leaves the places of the unit's steps (R146). -/
theorem stepSlot (b : Block) (o : EOp) (st : Step) (slot : Nat) :
    Tended Adapter.places core b (b.stepSlot core o st slot) := by
  rw [Block.stepSlot]
  dsimp only
  split
  · refine trans ?_ (opCodes _ st.eng o _)
    refine trans ?_ (modStep _ st fun _ => rfl)
    exact (gradUp b o st slot _ _).trans (modAdapter _ fun _ => rfl)
  · exact refl b

/-- So does what a step does when the unit takes it (R148, R163). -/
theorem tagRows (b : Block) (o : EOp) (st : Step) : Tended Adapter.places core b (b.tagRows core o st) := by
  rw [Block.tagRows]
  dsimp only
  refine ite (refl b) ?_
  refine trans ?_ (opCodes _ st.eng o _)
  refine trans (modStep b st ?_) (foldl _ (fun b _ => ?_) _ _)
  · exact fun _ => rfl
  · exact ite (engCode b st.eng o.ctx _) ((engCode b st.eng o.ctx _).trans (modCnt _ _ _))

end Tended
end Sys2Proof.Machine
end

section
/-! The run of a step over its panels (R141; O14). -/

namespace Sys2Proof.Machine

/-- The unit has done with a step for now: its arithmetic is done, or a panel that it needs next is not there. -/
def Core.Yields (c : Core) (o : EOp) (st : Step) : Prop :=
  ((c.adapter.step st).getD st).arithDone = true ∨
    (((c.adapter.step st).getD st).t < stepPanels o st ∧
      c.panelsHere ((c.adapter.step st).getD st) o ((c.adapter.step st).getD st).t = false)

/-- The step with its arithmetic done. -/
def Step.finished (st : Step) : Step := { st with arithDone := true, waits := [], doneAt := st.busyEnd + 8 }

/-- The step at its next panel, after busy clocks. -/
def Step.past (busy free : Nat) (st : Step) : Step := { st with t := st.t + 1, waits := [], busy := st.busy + busy, busyEnd := free }

theorem stepPanels_congr {o : EOp} {st x : Step} (h : x.up = st.up) : stepPanels o x = stepPanels o st := by rw [stepPanels, h, stepPanels]

/-- The end of a step's arithmetic is its gradient adds, and then the mark (R163). -/
theorem Block.arithEnds_after (b : Block) (core : Nat) (o : EOp) (st : Step) :
    ∃ c, Tended Adapter.places core b c ∧ b.arithEnds core o st = c.modStep core st Step.finished := by
  refine ⟨_, Tended.ite ?_ (Tended.refl b), rfl⟩
  exact Tended.foldl _ (fun b s => Tended.foldl _ (fun b t => Tended.gradDown b o st s t) _ b) _ b

section
variable {b : Block} {core : Nat} {st x : Step} (hx : (b.core core).adapter.step st = some x)
include hx

theorem Block.stepNow_of_step : b.stepNow core st = x := by rw [Block.stepNow_eq, hx, Option.getD_some]

/-- Work that leaves the places of the unit's steps leaves the step at its panel. -/
theorem Tended.step {b' : Block} (h : Tended Adapter.places core b b') :
    ∃ y, (b'.core core).adapter.step st = some y ∧ y.t = x.t := by
  have hp := Adapter.step_place h.unit st
  rw [hx, Option.map_some] at hp
  obtain ⟨y, hy, hplace⟩ := Option.map_eq_some_iff.1 hp
  exact ⟨y, hy, congrArg (fun p => p.2.2) hplace⟩

/-- The step's arithmetic is done (R140). -/
theorem Block.arithEnds_yields (o : EOp) {st' : Step} (hs : st'.same st = true) :
    b.Keeps [.cores, .ctxs, .mem, .coh, .slices, .ports] (b.arithEnds core o st') ∧ ((b.arithEnds core o st').core core).Yields o st := by
  obtain ⟨c, hc, he⟩ := b.arithEnds_after core o st'
  obtain ⟨y, hy, -⟩ := hc.step hx
  rw [he]
  refine ⟨hc.keeps.trans ((Block.modAdapter_keeps _ core _).mono (by simp)), .inl ?_⟩
  rw [Block.modStep_step (f := Step.finished) hy hs fun _ => ⟨rfl, rfl⟩]
  rfl

end

/-- One panel of a step, for every slot that it serves: its busy clocks are added, and the next panel follows (R140, R146). -/
def Block.panelTaken (b : Block) (core : Nat) (o : EOp) (st : Step) : Block :=
  let k := b.panelBusy core o st
  let free := max (b.core core).adapter.busyTo b.time.clk + k
  ((((b.core core).adapter.served o st).foldl (fun b s => b.stepSlot core o (b.stepNow core st) s) b).modAdapter core
    fun a => { a with busyTo := free }).modStep core st (Step.past k free)

theorem Block.runPanels_succ (core : Nat) (o : EOp) (st : Step) (n : Nat) (b : Block) : Block.runPanels core o st (n + 1) b =
    if (stepPanels o (b.stepNow core st) ≤ (b.stepNow core st).t || ((b.core core).adapter.served o (b.stepNow core st)).isEmpty) = true then
      b.arithEnds core o (b.stepNow core st)
    else if (b.core core).panelsHere (b.stepNow core st) o (b.stepNow core st).t = true then
      Block.runPanels core o st n (b.panelTaken core o (b.stepNow core st))
    else b := rfl

theorem Block.panelTaken_step {b : Block} {core : Nat} {st st' x : Step} (hx : (b.core core).adapter.step st = some x)
    (hs : st'.same st = true) (o : EOp) :
    b.Keeps [.cores, .ctxs, .mem, .coh, .slices, .ports] (b.panelTaken core o st') ∧
      ∃ y, ((b.panelTaken core o st').core core).adapter.step st = some y ∧ y.t = x.t + 1 := by
  have hslots : Tended Adapter.places core b
      (((b.core core).adapter.served o st').foldl (fun b s => b.stepSlot core o (b.stepNow core st') s) b) :=
    Tended.foldl _ (fun b s => Tended.stepSlot b o _ s) _ b
  have hbusy := hslots.trans (Tended.modAdapter _ (f := fun a =>
    { a with busyTo := max (b.core core).adapter.busyTo b.time.clk + b.panelBusy core o st' }) fun _ => rfl)
  obtain ⟨y, hy, ht⟩ := hbusy.step hx
  rw [Block.panelTaken]
  refine ⟨hbusy.keeps.trans ((Block.modAdapter_keeps _ core _).mono (by simp)), _,
    Block.modStep_step (f := Step.past _ _) hy hs fun _ => ⟨rfl, rfl⟩, ?_⟩
  exact congrArg (· + 1) ht

/-- A step runs until its arithmetic is done or it yields: each panel taken leaves one fewer (R141). -/
theorem Block.runPanels_yields (core : Nat) (o : EOp) (st : Step) (n : Nat) {b : Block} {x : Step}
    (hx : (b.core core).adapter.step st = some x) (hn : stepPanels o st ≤ x.t + n) :
    b.Keeps [.cores, .ctxs, .mem, .coh, .slices, .ports] (Block.runPanels core o st (n + 1) b) ∧
      ((Block.runPanels core o st (n + 1) b).core core).Yields o st := by
  have hsame := Adapter.step_same hx
  induction n generalizing b x with
  | zero =>
    have hlast : stepPanels o x ≤ x.t := (stepPanels_congr (Step.same_up hsame)).trans_le hn
    have hdone : (stepPanels o x ≤ x.t || ((b.core core).adapter.served o x).isEmpty) = true := by simp [hlast]
    rw [Block.runPanels_succ, Block.stepNow_of_step hx, if_pos hdone]
    exact Block.arithEnds_yields hx o hsame
  | succ n ih =>
    rw [Block.runPanels_succ, Block.stepNow_of_step hx]
    split
    · exact Block.arithEnds_yields hx o hsame
    · rename_i hmore
      split
      · obtain ⟨hk, y, hy, ht⟩ := Block.panelTaken_step hx hsame o
        obtain ⟨hk', hyields⟩ := ih hy (by omega) (Adapter.step_same hy)
        exact ⟨hk.trans hk', hyields⟩
      · rename_i habsent
        refine ⟨Block.Keeps.refl _ b, .inr ?_⟩
        rw [hx, Option.getD_some]
        simp only [Bool.or_eq_true, decide_eq_true_eq, not_or, not_le, stepPanels_congr (Step.same_up hsame)] at hmore
        exact ⟨hmore.1, by simpa using habsent⟩

/-- The unit takes a step of its list. -/
theorem Block.takeStep_yields {b : Block} {core : Nat} {st : Step} (h : st ∈ (b.core core).adapter.steps) (o : EOp) :
    b.Keeps [.cores, .ctxs, .mem, .coh, .slices, .ports] (b.takeStep core st o) ∧ ((b.takeStep core st o).core core).Yields o st := by
  obtain ⟨x, hx⟩ : ∃ x, (b.core core).adapter.step st = some x :=
    Option.isSome_iff_exists.1 (List.find?_isSome.2 ⟨st, h, st.same_self⟩)
  have htag := Tended.tagRows (core := core) b o st
  obtain ⟨y, hy, -⟩ := htag.step hx
  obtain ⟨hk, hyields⟩ := Block.runPanels_yields core o st (stepPanels o st + 1) hy (by omega)
  exact ⟨htag.keeps.trans hk, hyields⟩

/-! ### The choice of the step -/

/-- A fold that picks, of what it has and the next, one, takes its result from the list. -/
theorem foldl_pick_mem {α : Type} {pick : Option α → α → Option α} (hp : ∀ {best x y}, pick best x = some y → best = some y ∨ x = y)
    {y : α} (l : List α) (best : Option α) (h : l.foldl pick best = some y) : best = some y ∨ y ∈ l := by
  induction l generalizing best with
  | nil => exact .inl h
  | cons x l ih =>
    rcases ih _ h with hb | hl
    · exact (hp hb).imp_right fun he => List.mem_cons.2 (.inl he.symm)
    · exact .inr (List.mem_cons_of_mem _ hl)

/-- The step that runs next is one of the unit's. -/
theorem Block.nextStep_mem {b : Block} {core : Nat} {st : Step} {o : EOp} (h : b.nextStep core = some (st, o)) :
    st ∈ (b.core core).adapter.steps := by
  rw [Block.nextStep] at h
  obtain ⟨z, hz, he⟩ := Option.map_eq_some_iff.1 h
  rcases foldl_pick_mem (fun {best x y} hpick => by
    cases best with
    | none => exact .inr (Option.some.inj hpick)
    | some z =>
      dsimp only at hpick
      split at hpick
      · exact .inr (Option.some.inj hpick)
      · exact .inl hpick) _ none hz with hn | hm
  · cases hn
  · obtain ⟨st', hst', hsome⟩ := List.mem_filterMap.1 hm
    split at hsome
    · cases hsome
    · split at hsome
      · cases hsome; cases he; exact hst'
      · cases hsome

/-! ### The commands -/

section
variable {s : State} {core : Nat} {st : Step} {o : EOp} (hparked : s.b.parked = false) (hgated : s.b.gated = false)
include hparked hgated

/-- The unit, when it is free, takes the next step, if it is of the kind that the command names. -/
theorem Block.runStep_next (hfree : (s.b.core core).adapter.busyTo ≤ s.b.time.clk) (hnext : s.b.nextStep core = some (st, o))
    (hm : Met s.b fun b => b.takeStep core st o) :
    s.b.runStep core st.up st.transposed = (s.b.noWants.takeStep core st o).dropLines core 4 := by
  simp [Block.runStep, hparked, hgated, Nat.not_lt.2 hfree, hnext, Block.attempt_met hm]

theorem adaptStep_runs (hfree : (s.b.core core).adapter.busyTo ≤ s.b.time.clk) (hnext : s.b.nextStep core = some (st, o))
    (hm : Met s.b fun b => b.takeStep core st o) {i : Instr}
    (hi : exec i s = s.onBlock fun b => b.runStep core st.up st.transposed) :
    Completes (exec i s) fun t =>
      Frame [.cores, .ctxs, .mem, .coh, .ports, .slices, .draws] s t ∧ (t.b.core core).Yields o st := by
  have hmem : st ∈ (s.b.noWants.core core).adapter.steps := Block.nextStep_mem hnext
  obtain ⟨hk, hyields⟩ := Block.takeStep_yields hmem o
  have hdrop := (s.b.noWants.takeStep core st o).dropLines_keeps core 4
  rw [hi, State.onBlock_eq, Block.runStep_next hparked hgated hfree hnext hm]
  refine ⟨_, rfl, ⟨rfl, rfl, rfl, ?_⟩, ?_⟩
  · exact ((s.b.noWants_keeps.mono (by simp)).trans (hk.mono (by simp))).trans (hdrop.mono (by simp))
  · dsimp only
    rw [hdrop.core_eq (by simp)]
    exact hyields

end

end Sys2Proof.Machine
end

section
/-! The end of a step (R138 to R140, R147; O14). -/

namespace Sys2Proof.Machine

/-! ### The U entries of a down step (R138, R147) -/

theorem zipIdx_eq_range (u : List Word) : u.zipIdx = (List.range u.length).map fun j => (u.getD j 0, j) := by
  refine List.ext_getElem (by simp) fun j h _ => ?_
  have hj : j < u.length := by simpa using h
  simp [List.getD_eq_getElem?_getD, hj]

/-- A row of 64 words written to its place, element by element. -/
theorem accGet_setWords (t : Tab Word) (e : Nat) {u : List Word} (hu : u.length = 64) (e' : Nat) {j : Nat} (hj : j < 64) :
    accGet (u.zipIdx.foldl (fun t (v, j) => Tab.set 0 t (64 * e + j) v) t) e' j = if e' = e then u.getD j 0 else accGet t e' j := by
  rw [zipIdx_eq_range, hu, List.foldl_map]
  exact accSet_row_get t e (fun j => u.getD j 0) e' hj

/-- The U store with a row of words written from a base on, for each row given. -/
def uWritten (base : Nat) (outs : List (Nat × List Word)) (u : Tab Word) : Tab Word :=
  outs.foldl (fun t (r, u) => u.zipIdx.foldl (fun t (v, j) => Tab.set 0 t (64 * (base + r) + j) v) t) u

theorem accGet_uWritten_other (base : Nat) (outs : List (Nat × List Word)) (hlen : ∀ y ∈ outs, y.2.length = 64) (u : Tab Word) {r : Nat}
    (h : ∀ y ∈ outs, y.1 ≠ r) {j : Nat} (hj : j < 64) : accGet (uWritten base outs u) (base + r) j = accGet u (base + r) j := by
  induction outs generalizing u with
  | nil => rfl
  | cons y outs ih =>
    rw [List.forall_mem_cons] at hlen h
    refine (ih hlen.2 _ h.2).trans ?_
    have hne : base + r ≠ base + y.1 := fun he => h.1 (Nat.add_left_cancel he).symm
    exact (accGet_setWords u (base + y.1) hlen.1 (base + r) hj).trans (if_neg hne)

/-- Each row, where no two are the same, reads as it was written. -/
theorem accGet_uWritten (base : Nat) {outs : List (Nat × List Word)} (hlen : ∀ y ∈ outs, y.2.length = 64)
    (hn : outs.Pairwise fun y z => y.1 ≠ z.1) (u : Tab Word) {y : Nat × List Word} (hy : y ∈ outs) {j : Nat} (hj : j < 64) :
    accGet (uWritten base outs u) (base + y.1) j = y.2.getD j 0 := by
  induction outs generalizing u with
  | nil => cases hy
  | cons z outs ih =>
    rw [List.forall_mem_cons] at hlen
    rw [List.pairwise_cons] at hn
    rcases List.mem_cons.1 hy with rfl | hy
    · refine (accGet_uWritten_other base outs hlen.2 _ (fun w hw => (hn.1 w hw).symm) hj).trans ?_
      exact (accGet_setWords u (base + y.1) hlen.1 (base + y.1) hj).trans (if_pos rfl)
    · exact ih hlen.2 hn.2 _ hy

/-- The op's rows stand once each among its row tags (R128). -/
theorem EOp.rowTags_pairwise (o : EOp) : o.rowTags.Pairwise fun y z => y.1 ≠ z.1 := by
  rw [EOp.rowTags]
  split
  · exact .nil
  · rename_i g _
    rw [List.pairwise_map]
    refine List.Pairwise.filter _ ?_
    have hn : (g.rows.zipIdx.map Prod.snd).Nodup := by
      rw [List.zipIdx_map_snd]
      exact List.nodup_range'
    exact List.pairwise_map.1 hn

/-- The rows that a down step writes to U. -/
def Adapter.outs (a : Adapter) (o : EOp) (st : Step) : List (Nat × List Word) :=
  o.rowTags.filterMap fun y => (a.uOut st y).map fun u => (y.1, u)

theorem Adapter.outs_pairwise (a : Adapter) (o : EOp) (st : Step) : (a.outs o st).Pairwise fun y z => y.1 ≠ z.1 := by
  refine o.rowTags_pairwise.filterMap _ fun y z hne p hp q hq => ?_
  obtain ⟨u, -, rfl⟩ := Option.map_eq_some_iff.1 hp
  obtain ⟨u', -, rfl⟩ := Option.map_eq_some_iff.1 hq
  exact hne

theorem Adapter.uOut_length {a : Adapter} {st : Step} {y : Nat × Word} {u : List Word} (h : a.uOut st y = some u) : u.length = 64 := by
  rw [Adapter.uOut] at h
  split at h
  · cases h
  · split at h
    · cases h
    · split at h
      · cases h; exact List.length_replicate
      · cases h; simp

theorem Adapter.outs_length (a : Adapter) (o : EOp) (st : Step) : ∀ y ∈ a.outs o st, y.2.length = 64 := by
  intro y hy
  obtain ⟨z, -, hz⟩ := List.mem_filterMap.1 hy
  obtain ⟨u, hu, rfl⟩ := Option.map_eq_some_iff.1 hz
  exact Adapter.uOut_length hu

theorem Adapter.mem_outs {a : Adapter} {o : EOp} {st : Step} {y : Nat × Word} (hy : y ∈ o.rowTags) {u : List Word}
    (hu : a.uOut st y = some u) : (y.1, u) ∈ a.outs o st :=
  List.mem_filterMap.2 ⟨y, hy, Option.map_eq_some_iff.2 ⟨u, hu, rfl⟩⟩

/-- What a forward down step leaves for a row of a bound slot that did not miss. -/
theorem Adapter.uOut_served {a : Adapter} {st : Step} {r : Nat} {w : Word} {x : Binding} (hforward : st.transposed = false)
    (hb : (a.slot (tagSlot w)).bound = some x) (hc : x.ctx = tagCtx w) (hm : st.missed.contains (tagSlot w) = false) :
    a.uOut st (r, w) = some ((List.range 64).map fun j => if x.rc ≤ j then 0 else Tab.get 0 st.part (64 * r + j)) := by
  simp only [Adapter.uOut, hb, hc, hm, hforward, bne_self_eq_false, Bool.false_eq_true, if_false]

/-- The block with the U entries of a down step written. -/
def Block.uStored (b : Block) (core : Nat) (o : EOp) (st : Step) : Block :=
  b.modAdapter core fun a =>
    { a with u := uWritten ((o.tags.map (·.uBase)).getD 0) ((b.core core).adapter.outs o st) (b.core core).adapter.u }

theorem Block.uStored_get {b : Block} {core : Nat} {o : EOp} {st : Step} (hforward : st.transposed = false) {g : TagBlock} (hg : o.tags = some g)
    {r : Nat} {w : Word} (hr : (r, w) ∈ o.rowTags) {x : Binding} (hb : ((b.core core).adapter.slot (tagSlot w)).bound = some x)
    (hc : x.ctx = tagCtx w) (hm : st.missed.contains (tagSlot w) = false) {j : Nat} (hj : j < 64) :
    ((b.uStored core o st).core core).adapter.uGet (g.uBase + r) j = if j < x.rc then Tab.get 0 st.part (64 * r + j) else 0 := by
  have hout := Adapter.uOut_served (r := r) hforward hb hc hm
  have hmem := Adapter.mem_outs hr hout
  have hget := accGet_uWritten g.uBase ((b.core core).adapter.outs_length o st) ((b.core core).adapter.outs_pairwise o st)
    (b.core core).adapter.u hmem hj
  rw [Block.uStored, Block.modAdapter, Block.modCore_core_same, hg]
  refine hget.trans ?_
  simp only [List.getD_eq_getElem?_getD, List.getElem?_map, List.getElem?_range hj, Option.map_some, Option.getD_some]
  by_cases h : j < x.rc
  · rw [if_neg (by omega), if_pos h]
  · rw [if_pos (by omega), if_neg h]

/-- The rest of a down step's end writes the spill and marks the op (R163, R166). -/
theorem Block.downEnds_tended {α : Type} (key : Adapter → α) (b : Block) (core : Nat) (o : EOp) (st : Step) :
    Tended key core (b.uStored core o st) (b.downEnds core o st) := by
  rw [Block.downEnds]
  dsimp only
  refine Tended.trans ?_ (Tended.modOp _ st.eng o.ticket _)
  split
  · exact Tended.refl _
  · refine Tended.ite ?_ (Tended.refl _)
    refine Tended.trans (Tended.tracked _ st.eng o.ticket ?_) (Tended.opCodes _ st.eng o _)
    refine Tended.foldlFst _ (fun x y => ?_) _ (b.uStored core o st, ([] : List Nat))
    exact Tended.of_accesses (Accesses.wrOperand ..)

/-! ### The sums of an up step (R139) -/

/-- Sums stored for rows under a key. -/
theorem results_get (base : Nat) (part : Tab Word) (rows : List Nat) (t : Tab Word) {r j : Nat} (hj : j < 64) :
    Tab.get 0 (rows.foldl (fun t r => (List.range 64).foldl (fun t j =>
      Tab.set 0 t ((64 * base + r) * 64 + j) (Tab.get 0 part (64 * r + j))) t) t) ((64 * base + r) * 64 + j) =
      if r ∈ rows then Tab.get 0 part (64 * r + j) else Tab.get 0 t ((64 * base + r) * 64 + j) := by
  simp only [Nat.mul_comm _ 64]
  induction rows generalizing t with
  | nil => simp
  | cons x rows ih =>
    rw [List.foldl_cons, ih]
    have hrow := accSet_row_get t (64 * base + x) (fun j => Tab.get 0 part (64 * x + j)) (64 * base + r) hj
    simp only [accGet, accSet] at hrow
    rw [hrow]
    by_cases hr : r = x <;> simp [hr]

/-- The block with an up step's sums in its result buffer. -/
def Block.sumsStored (b : Block) (core : Nat) (o : EOp) (st : Step) : Block :=
  let a := (b.core core).adapter
  let rows := a.upRows o st
  b.modAdapter core fun x =>
    { x with
      results := rows.foldl (fun t r => (List.range 64).foldl (fun t j =>
        Tab.set 0 t ((64 * resKey st.eng st.ticket + r) * 64 + j) (Tab.get 0 st.part (64 * r + j))) t) a.results
      resultRows := x.resultRows ++ rows.map fun r => 64 * resKey st.eng st.ticket + r }

theorem Block.sumsStored_get {b : Block} {core : Nat} {o : EOp} {st : Step} {r : Nat} (hr : r ∈ (b.core core).adapter.upRows o st)
    {j : Nat} (hj : j < 64) :
    let a := ((b.sumsStored core o st).core core).adapter
    64 * resKey st.eng st.ticket + r ∈ a.resultRows ∧
      Tab.get 0 a.results ((64 * resKey st.eng st.ticket + r) * 64 + j) = Tab.get 0 st.part (64 * r + j) := by
  rw [Block.sumsStored, Block.modAdapter, Block.modCore_core_same]
  exact ⟨List.mem_append_right _ (List.mem_map_of_mem hr), (results_get _ _ _ _ hj).trans (if_pos hr)⟩

/-- The op with its up step ended. -/
def EOp.upEnded (o : EOp) : EOp := { o with upDone := true }

/-- The op of a step has the step's ticket. -/
theorem Core.stepOp_ticket {c : Core} {st : Step} {o : EOp} (h : c.stepOp st = some o) : o.ticket = st.ticket := by
  simpa using List.find?_some h

/-- An op whose base product is still to come only notes that its up step has ended. -/
theorem Block.upEnds_waits {b : Block} {core : Nat} {o : EOp} {st : Step} (ho : (b.core core).stepOp st = some o) (hp : o.phase ≠ .baseDone) :
    b.upEnds core o st = (b.sumsStored core o st).modOp core st.eng o.ticket EOp.upEnded := by
  have hop : (((b.sumsStored core o st).modOp core st.eng o.ticket EOp.upEnded).eng core st.eng).op o.ticket =
      some o.upEnded := by
    have heng : (b.sumsStored core o st).eng core st.eng = b.eng core st.eng := by
      rw [Block.sumsStored, Block.eng, Block.modAdapter, Block.modCore_core_same]; rfl
    have ho' : (b.eng core st.eng).op o.ticket = some o := by rw [Core.stepOp_ticket ho]; exact ho
    rw [Block.modOp, Block.modEng_eng_same, Engine.op_modOp (f := EOp.upEnded) _ _ fun _ => rfl, heng, ho']
    rfl
  show (if _ then _ else _) = _
  refine if_neg ?_
  have hop' := congrArg (fun x : Option EOp => (x.getD o).phase == .baseDone) hop
  intro h
  have hdone : o.upEnded.phase = .baseDone := by simpa using hop'.symm.trans h
  exact hp hdone

theorem Block.upEnds_keeps (b : Block) (core : Nat) (o : EOp) (st : Step) :
    b.Keeps [.cores, .ctxs, .mem, .coh, .slices, .ports] (b.upEnds core o st) := by
  have hstored : b.Keeps [.cores, .ctxs, .mem, .coh, .slices, .ports]
      ((b.sumsStored core o st).modOp core st.eng o.ticket EOp.upEnded) :=
    ((b.modAdapter_keeps core _).mono (by simp)).trans ((Block.modEng_keeps _ core st.eng _).mono (by simp))
  rw [Block.upEnds]
  split
  · exact hstored.trans (Worked.finishOp _ _).keeps
  · exact hstored

/-! ### The command -/

/-- A step whose results are complete is one of an op in its engine. -/
theorem Block.doneStep_stepOp {b : Block} {core : Nat} {st : Step} {o : EOp} (h : b.doneStep core = some (st, o)) :
    (b.core core).stepOp st = some o := by
  obtain ⟨st', -, hst'⟩ := List.exists_of_findSome?_eq_some h
  split at hst'
  · cases hst'
  · rename_i ho
    split at hst'
    · cases hst'; exact ho
    · cases hst'

theorem Block.stepEnds_keeps (b : Block) (core : Nat) (o : EOp) (st : Step) :
    b.Keeps [.cores, .ctxs, .mem, .coh, .slices, .ports] (b.stepEnds core st o) := by
  have hdrop := fun b : Block => (Tended.dropSteps (key := fun _ => ()) (core := core) (fun _ _ _ _ => rfl) b fun x => x.same st).keeps
  rw [Block.stepEnds]
  refine Block.Keeps.trans ?_ (hdrop _)
  split
  · exact b.upEnds_keeps core o st
  · exact ((b.modAdapter_keeps core _).mono (by simp)).trans (Block.downEnds_tended (fun _ => ()) b core o st).keeps

/-- The step is no longer in the unit (R141). -/
theorem Block.stepEnds_leaves (b : Block) (core : Nat) (o : EOp) (st : Step) :
    ∀ x ∈ ((b.stepEnds core st o).core core).adapter.steps, x.same st = false := by
  intro x hx
  rw [Block.stepEnds, Block.dropSteps_steps] at hx
  simpa using (List.mem_filter.1 hx).2

/-- A down step leaves its U entries. -/
theorem Block.stepEnds_u {b : Block} {core : Nat} {o : EOp} {st : Step} (h : st.up = false) :
    ((b.stepEnds core st o).core core).adapter.u = ((b.uStored core o st).core core).adapter.u := by
  rw [Block.stepEnds, if_neg (by simp [h])]
  exact ((Block.downEnds_tended Adapter.u b core o st).trans (Tended.dropSteps (fun _ _ _ _ => rfl) _ _)).unit

/-- An up step leaves its sums, where its op's base product is still to come. -/
theorem Block.stepEnds_results {b : Block} {core : Nat} {o : EOp} {st : Step} (h : st.up = true) (ho : (b.core core).stepOp st = some o)
    (hp : o.phase ≠ .baseDone) :
    let a := ((b.stepEnds core st o).core core).adapter
    let a' := ((b.sumsStored core o st).core core).adapter
    (a.results, a.resultRows) = (a'.results, a'.resultRows) := by
  rw [Block.stepEnds, if_pos h, Block.upEnds_waits ho hp]
  exact ((Tended.modOp (key := fun a => (a.results, a.resultRows)) _ st.eng o.ticket _).trans
    (Tended.dropSteps (fun _ _ _ _ => rfl) _ _)).unit

theorem exec_adaptStepComplete {s : State} {core : Nat} {st : Step} {o : EOp} (hparked : s.b.parked = false) (hgated : s.b.gated = false)
    (hd : s.b.doneStep core = some (st, o)) (hm : Met s.b fun b => b.stepEnds core st o) :
    exec (.adaptStepComplete core) s = .next { s with b := (s.b.noWants.stepEnds core st o).dropLines core 4 } := by
  show execAdaptStepComplete core s = _
  rw [execAdaptStepComplete, State.onCompute_running hgated, hparked, hd, ← Block.attempt_met hm core 4 o.label]
  rfl

/-- Settles O14: the step runs over its panels until none is left or the next is absent, and one that ends leaves its entries or its
sums, which the settling of bindings leaves as they are. -/
theorem adapterStepsRunAndEnd : Obligations.AdapterStepsRunAndEnd := by
  refine ⟨fun s core st o hparked hgated hfree hnext hm => ?_, fun s core st o hparked hgated hd => ?_⟩
  · have hruns := fun i => adaptStep_runs hparked hgated hfree hnext hm (i := i)
    refine ⟨fun hu ht => hruns _ ?_, fun hu ht => hruns _ ?_, fun hu ht => hruns _ ?_, fun hu ht => hruns _ ?_⟩ <;> rw [hu, ht] <;> rfl
  · intro a hm
    have hdrop := (s.b.noWants.stepEnds core st o).dropLines_keeps core 4
    refine ⟨_, exec_adaptStepComplete hparked hgated hd hm, ⟨rfl, rfl, rfl, ?_⟩, ?_⟩
    · exact ((s.b.noWants_keeps.mono (by simp)).trans ((Block.stepEnds_keeps _ core o st).mono (by simp))).trans (hdrop.mono (by simp))
    · dsimp only
      rw [hdrop.core_eq (by simp)]
      refine ⟨Block.stepEnds_leaves _ core o st, fun hu ht g r w x j hg hr hb hc hmiss hj => ?_, fun hu hp r hr j hj _ => ?_⟩
      · rw [Adapter.uGet, Block.stepEnds_u hu, ← Adapter.uGet]
        exact Block.uStored_get (b := s.b.noWants) ht hg hr hb hc hmiss hj
      · have hres := Block.stepEnds_results (b := s.b.noWants) hu (Block.doneStep_stepOp hd) hp
        obtain ⟨hresults, hrows⟩ := Prod.mk.inj hres
        rw [hresults, hrows]
        exact Block.sumsStored_get (b := s.b.noWants) hr hj

end Sys2Proof.Machine
end

section
/-! A wait for a panel that reaches MISS_LIMIT (R147, R163; O15, which fails). -/

namespace Sys2Proof.Machine

/-- A MATMUL of one row and one tile with a transposed down step that makes gradient adds, for slot 3 and context 16; its U_SPILL lies in
window 0. -/
def spillingOp : EOp :=
  { ticket := 1, desc := [BitVec.ofNat 64 (2 ^ 60 + 2 ^ 50 + 2 ^ 43 + 2 ^ 42 + 2 ^ 32 + 1)], ctx := 16, issuer := .hart none, label := 0
    srCtr := none, histFloor := none
    tags := some { down := true, up := false, uBase := 0, downIndex := 7, upIndex := 0, rows := [0x80300010] }
    mask := some { mode := 0, spill := true, grad := true, xfmt := 3, bits := [], uSpill := BitVec.ofNat 64 (2 ^ 63)
                   gradTable := 0, xAddr := 0, xScale := 0, xPitch := 0 }
    seq := 1, phase := .running, headChecked := true, tile := 0, armedAt := none, waitCounted := false, downDone := false, upDone := true
    baseAt := 0, doneAt := 0, codes := [], missedSlots := [], sent := [] }

/-- Its down step, which the unit has never taken, since the first panel is not there: it has waited 5 ticks. -/
def waitedStep : Step :=
  { seq := 1, eng := 0, ticket := 1, up := false, transposed := true, t := 0, missed := [], busy := 0, busyEnd := 0, started := false
    arithDone := false, doneAt := 0, waits := [(3, 5)], uRows := [], part := [] }

/-- The binding of slot 3, with MISS_LIMIT 5. -/
def limitedBinding : Binding :=
  { ctx := 16, fmt := 3, rc64 := false, users := 1, alpha := 0x3F800000, missLimit := 5, frameBase := 0, frames := 4 }

def coreWaiting : Core :=
  { Core.reset with
    owner := 1, engines := [(0, { Engine.reset with active := [spillingOp], issued := 1 })]
    adapter := { Adapter.reset with slots := [(3, { Slot.reset with bound := some limitedBinding })], steps := [waitedStep], seq := 1 } }

/-- A context whose window table stands at the start of channel group 4; the page of its window 0 is the group's second. -/
def ctxSpilling : Ctx :=
  { Ctx.reset with
    st := .active, slice := 1, winTable := 4 * 2 ^ 37, cached := some 1
    pins := [{ win := 0, va := 0, level := 1, pte := 4 * 2 ^ 37 + 65536 + 9 }] }

/-- The compute clock runs, slice 1 has channel group 4, and in its memory stands window 0 of context 16: valid, one page from address 0. -/
def stateMissing : State :=
  { State.reset with b := { Block.reset with
      start := { StartUp.reset with released := true, memMib := [(4, 1024)] }
      recon := { Recon.reset with groupOwner := [(4, 1)] }
      mem := { Block.reset.mem with bytes := [(4 * 2 ^ 37 + 1, 0x10), (4 * 2 ^ 37 + 8, 1)], keyGen := [(2 ^ 32, 1)] }
      keys := [(63, { holder := 0, gen := 1 })], keyGens := 1
      cores := [(0, coreWaiting)], ctxs := [(16, ctxSpilling)] } }

theorem stateMissing_waits : (stateMissing.b.core 0).waitingStep 3 = some (waitedStep, spillingOp) ∧
    (stateMissing.b.core 0).waitedOut 3 waitedStep = true := by decide +kernel

theorem exec_adaptMiss_stateMissing : exec (.adaptMiss 0 3) stateMissing =
    .next { stateMissing with b := stateMissing.b.adaptMiss 0 3 waitedStep spillingOp } := by
  show execAdaptMiss 0 3 stateMissing = _
  rw [execAdaptMiss, State.onCompute_running (by decide), stateMissing_waits.1]
  dsimp only
  rw [stateMissing_waits.2]
  rfl

/-- The two lines of the spilled row have still to come, and the ports note it. -/
theorem adaptMiss_stateMissing_wanted : (stateMissing.b.adaptMiss 0 3 waitedStep spillingOp).ports.wanted = [(16, 0), (16, 1024)] := by
  decide +kernel

/-- Refutes O15, in its last clause: a miss that leaves a step no slot to serve ends the step's arithmetic, and where the unit has never
taken the step it begins it first. A transposed down step with gradient adds reads the u rows of U_SPILL when it begins (R163). Where
these lie behind a window and their lines have still to come, the ports note the lines, while the clause has the ports stay. -/
theorem not_panelsArePrefetchedOrMissed : ¬ Obligations.PanelsArePrefetchedOrMissed := by
  rintro ⟨-, -, hmiss⟩
  obtain ⟨hwaits, hout⟩ := stateMissing_waits
  obtain ⟨t, he, ⟨-, -, -, hkeeps⟩, -⟩ := hmiss stateMissing 0 3 waitedStep spillingOp (by decide) (by decide) hwaits hout
  rw [exec_adaptMiss_stateMissing] at he
  cases he
  have hports : (stateMissing.b.adaptMiss 0 3 waitedStep spillingOp).ports = stateMissing.b.ports := hkeeps .ports (by decide)
  exact absurd (adaptMiss_stateMissing_wanted.symm.trans (congrArg Ports.wanted hports)) (by decide)

end Sys2Proof.Machine
end

section
/-! The optimiser instructions of the vector unit (R171 to R175; O20). -/

namespace Sys2Proof.Machine

/-! ### What an optimiser step writes -/

/-- The lanes that an optimiser step updates: those the predicate leaves on, but those that SKIPNF keeps (R174). -/
def Vec.updates (v : Vec) (w : Nat) (skip : Bool) (gscale : Word) (l : Nat) : Bool := v.on w l && !skipLane skip (v.lane (viVA w) l) gscale

/-- With SKIPNF, p7 takes note of the lanes on that are kept (R174). -/
def Vec.noteKept (u v : Vec) (w : Nat) (skip : Bool) (gscale : Word) : Vec :=
  if skip then u.setBits 7 (fun _ => true) fun l => v.on w l && skipLane skip (v.lane (viVA w) l) gscale else u

/-- One lane of VADAMW (R171). -/
def Vec.adamwLane (v : Vec) (w : Nat) (f : Nat → Word) (l : Nat) : Word × Word × Word :=
  adamw f (v.lane (viVD w) l) (v.lane (viVA w) l) (v.lane (viVB w) l) (v.lane (viVC w) l)

/-- VADAMW writes VB, VC and VD in this order (R171, R457). -/
def Vec.adamwStep (v : Vec) (w : Nat) (f : Nat → Word) (skip : Bool) : Vec :=
  let on := v.updates w skip (f 7)
  Vec.noteKept (((v.setLanes (viVB w) on fun l => (v.adamwLane w f l).2.1).setLanes (viVC w) on fun l =>
    (v.adamwLane w f l).2.2).setLanes (viVD w) on fun l => (v.adamwLane w f l).1) v w skip (f 7)

/-- One lane of VSGDM (R172). -/
def Vec.sgdmLane (v : Vec) (w : Nat) (f : Nat → Word) (nesterov : Bool) (l : Nat) : Word × Word :=
  sgdm f nesterov (v.lane (viVD w) l) (v.lane (viVA w) l) (v.lane (viVB w) l)

/-- VSGDM writes VB and VD in this order (R172, R457). -/
def Vec.sgdmStep (v : Vec) (w : Nat) (f : Nat → Word) (nesterov skip : Bool) : Vec :=
  let on := v.updates w skip (f 7)
  Vec.noteKept ((v.setLanes (viVB w) on fun l => (v.sgdmLane w f nesterov l).2).setLanes (viVD w) on fun l =>
    (v.sgdmLane w f nesterov l).1) v w skip (f 7)

theorem Vec.noteKept_lane (u v : Vec) (w : Nat) (skip : Bool) (gscale : Word) (r l : Nat) :
    (u.noteKept v w skip gscale).lane r l = u.lane r l := by
  rw [Vec.noteKept]
  split
  · exact Vec.lane_congr (Vec.setBits_v _ _ _ _) r l
  · rfl

/-- Where VADAMW's registers are the same, VD's value stands, and VC's before VB's. -/
theorem Vec.adamwStep_lane (v : Vec) (w : Nat) (f : Nat → Word) (skip : Bool) (r : Nat) {l : Nat} (hl : l < 512) :
    (v.adamwStep w f skip).lane r l =
      if v.updates w skip (f 7) l = true ∧ r = viVD w then (v.adamwLane w f l).1
      else if v.updates w skip (f 7) l = true ∧ r = viVC w then (v.adamwLane w f l).2.2
      else if v.updates w skip (f 7) l = true ∧ r = viVB w then (v.adamwLane w f l).2.1 else v.lane r l := by
  simp only [Vec.adamwStep, Vec.noteKept_lane, Vec.setLanes_lane _ _ _ _ _ hl, and_comm]

/-- Where VSGDM's registers are the same, VD's value stands. -/
theorem Vec.sgdmStep_lane (v : Vec) (w : Nat) (f : Nat → Word) (nesterov skip : Bool) (r : Nat) {l : Nat} (hl : l < 512) :
    (v.sgdmStep w f nesterov skip).lane r l =
      if v.updates w skip (f 7) l = true ∧ r = viVD w then (v.sgdmLane w f nesterov l).1
      else if v.updates w skip (f 7) l = true ∧ r = viVB w then (v.sgdmLane w f nesterov l).2 else v.lane r l := by
  simp only [Vec.sgdmStep, Vec.noteKept_lane, Vec.setLanes_lane _ _ _ _ _ hl, and_comm]

/-! ### VADAMW and VSGDM -/

/-- An instruction that changes its vector unit by `g`, gives the codes of a scratchpad read, and goes on. -/
theorem Completes.vecCoded {s : State} {core op : Nat} {p : VProg} (h : VecNext s.b core p op) (hop : op ∈ vecOps)
    {F : Block → VProg → Nat → Option Block} {i : Instr} (hi : exec i s = s.onBlock fun b => b.vecRun core op F)
    {g : Vec → Vec} {codes : List Nat} (hc : ∀ k ∈ codes, k < 65536)
    (hF : F s.b.noWants p ((s.b.core core).rdS64 p.pc) = some ((s.b.noWants.modVec core g).progCodes core p codes)) :
    Completes (exec i s) fun t => Frame [.cores, .ctxs, .ports] s t ∧
      ∀ r l, (t.b.core core).vec.lane r l = (g (s.b.core core).vec).lane r l := by
  have hk := s.b.noWants.modVec_keeps core g
  have hcodes := GaveCodes.progCodes (s.b.noWants.modVec core g) core p codes
  have hwanted := (Block.progCodes_wanted (s.b.noWants.modVec core g) core p hc).trans (congrArg Ports.wanted (hk .ports (by simp)))
  have hvec : ((s.b.noWants.modVec core g).core core).vec = g (s.b.core core).vec := by
    rw [Block.modVec, Block.modCore_core_same]
    rfl
  refine ⟨_, exec_vecNext h hop hi hF hwanted, vecStepped_frame core ((hk.mono (by simp)).trans hcodes.keeps) (by simp), fun r l => ?_⟩
  rw [Vec.lane_congr (Block.vecStepped_v _ _), Vec.lane_congr hcodes.vec.v, hvec]

@[simp] theorem Block.noWants_optRecord (b : Block) (core ctx off : Nat) : b.noWants.optRecord core ctx off = b.optRecord core ctx off := by
  simp only [Block.optRecord, Block.noWants_rdOperands]

/-- An optimiser record lies in the scratchpad, so a read of it meets failing lines at most. -/
theorem Block.optRecord_codes (b : Block) (core ctx w : Nat) : ∀ k ∈ (b.optRecord core ctx (viImm w)).2.2, k < 65536 :=
  codesOf_scratch b core ctx 0 64 (awWindow_of_lt ((viImm_lt w).trans (by decide)))

/-- The constants of the optimiser record that IMM names (R173). -/
def Block.optConst (b : Block) (core : Nat) (p : VProg) (w i : Nat) : Word := (b.optRecord core p.ctx (viImm w)).1.getD i 0

/-- Bit i of the record's FLAGS: SKIPNF is bit 0 and NESTEROV bit 1 (R173). -/
def Block.optFlag (b : Block) (core : Nat) (p : VProg) (w i : Nat) : Bool := bit (b.optRecord core p.ctx (viImm w)).2.1 i

/-- VADAMW is its step with the constants of its record (R171, R173, R174). -/
theorem vadamw_steps {s : State} {core : Nat} {p : VProg} (h : VecNext s.b core p 0x31) :
    let w := (s.b.core core).rdS64 p.pc
    viImm w % 128 = 0 → viImm w + 64 ≤ 0x300000 → Completes (exec (.vadamw core) s) fun t => Frame [.cores, .ctxs, .ports] s t ∧
      ∀ r l, (t.b.core core).vec.lane r l =
        ((s.b.core core).vec.adamwStep w (s.b.optConst core p w) (s.b.optFlag core p w 0)).lane r l := by
  intro w halign hend
  refine Completes.vecCoded (i := .vadamw core) h (by decide) rfl
    (g := fun v => v.adamwStep w (s.b.optConst core p w) (s.b.optFlag core p w 0)) (s.b.optRecord_codes core p.ctx w) ?_
  dsimp only
  rw [(immOk_iff _ _).2 ⟨halign, hend⟩, Block.noWants_optRecord]
  rfl

/-- VSGDM is its step with the constants of its record (R172, R173, R174). -/
theorem vsgdm_steps {s : State} {core : Nat} {p : VProg} (h : VecNext s.b core p 0x32) :
    let w := (s.b.core core).rdS64 p.pc
    viImm w % 128 = 0 → viImm w + 64 ≤ 0x300000 → viVC w = 0 →
    Completes (exec (.vsgdm core) s) fun t => Frame [.cores, .ctxs, .ports] s t ∧
      ∀ r l, (t.b.core core).vec.lane r l =
        ((s.b.core core).vec.sgdmStep w (s.b.optConst core p w) (s.b.optFlag core p w 1) (s.b.optFlag core p w 0)).lane r l := by
  intro w halign hend hvc
  refine Completes.vecCoded (i := .vsgdm core) h (by decide) rfl
    (g := fun v => v.sgdmStep w (s.b.optConst core p w) (s.b.optFlag core p w 1) (s.b.optFlag core p w 0))
    (s.b.optRecord_codes core p.ctx w) ?_
  dsimp only
  rw [(immOk_iff _ _).2 ⟨halign, hend⟩, show viVC ((s.b.core core).rdS64 p.pc) = 0 from hvc, Block.noWants_optRecord]
  rfl

/-! ### VSCUPD -/

/-- The amax record as VSCUPD reads it: with IMM 1 behind a window, the access that zeroes it brings it (R175). -/
def Block.amaxBytes (b : Block) (core : Nat) (p : VProg) (w : Nat) : List OpByte :=
  let ra := ((b.core core).vec.areg (viVA w)).toNat
  if viImm w = 1 ∧ awWindow ra = true then b.takeRecord core p.ctx ra else b.rdOperands core p.ctx ra 0 8

/-- The record's fields. -/
def Block.amaxRecord (b : Block) (core : Nat) (p : VProg) (w : Nat) : Amax :=
  Amax.ofDword (BitVec.ofNat 64 (leNat (opVals (b.amaxBytes core p w))))

/-- What VSCUPD returns in a lane: the record's fields in lanes 0 to 3, and 0 in the others. -/
def Amax.toLane (a : Amax) (l : Nat) : Word :=
  [a.amax, natToF32 a.sat, natToF32 a.floored, natToF32 (if a.nonfinite then 1 else 0)].getD l 0

theorem Block.noWants_takeRecord (b : Block) (core c aw : Nat) : b.noWants.takeRecord core c aw = b.takeRecord core c aw := by
  have hwin : b.noWants.win c (awWin aw) = b.win c (awWin aw) := b.withUnits_win b.cores [] c (awWin aw)
  simp only [Block.takeRecord, hwin]
  rfl

@[simp] theorem Block.noWants_amaxRecord (b : Block) (core : Nat) (p : VProg) (w : Nat) :
    b.noWants.amaxRecord core p w = b.amaxRecord core p w := by
  have hcore : b.noWants.core core = b.core core := rfl
  simp only [Block.amaxRecord, Block.amaxBytes, hcore, Block.noWants_takeRecord, Block.noWants_rdOperands]

theorem UnitAccess.ite {core : Nat} {b x y : Block} {q : Prop} [Decidable q] (hx : UnitAccess core b x) (hy : UnitAccess core b y) :
    UnitAccess core b (if q then x else y) := by
  split
  · exact hx
  · exact hy

/-- VSCUPD's effect: accesses of the unit, which zero the record and push the history, then the lanes of VD, then codes. -/
theorem Block.vscupd_eq (b : Block) (core : Nat) (p : VProg) {w : Nat} (hva : viVA w < 8) (hvb : viVB w < 8) (himm : viImm w < 2) :
    ∃ b' codes, UnitAccess core b b' ∧
      b.vscupd core p w = some ((b'.vecLanes core w fun _ => (b.amaxRecord core p w).toLane).progCodes core p codes) := by
  have hvalid : ¬((decide (8 ≤ viVA w) || decide (8 ≤ viVB w) || viImm w / 2 != 0) = true) := by
    rw [Bool.or_eq_true, Bool.or_eq_true, decide_eq_true_eq, decide_eq_true_eq, bne_iff_ne]
    omega
  have hbytes : (if (viImm w == 1 && awWindow ((b.core core).vec.areg (viVA w)).toNat) = true
      then b.takeRecord core p.ctx ((b.core core).vec.areg (viVA w)).toNat
      else b.rdOperands core p.ctx ((b.core core).vec.areg (viVA w)).toNat 0 8) = b.amaxBytes core p w := by
    simp only [Block.amaxBytes, Bool.and_eq_true, beq_iff_eq]
  rw [Block.vscupd]
  dsimp only
  rw [if_neg hvalid, hbytes]
  exact ⟨_, _, (UnitAccess.ite (UnitAccess.vecStore b p _ _) (UnitAccess.refl b)).trans (UnitAccess.vecStore _ p _ _), rfl⟩

/-- A lane takes part in an instruction by the predicates alone. -/
theorem Vec.on_congr {v v' : Vec} (h : v'.p = v.p) (w l : Nat) : v'.on w l = v.on w l := by rw [Vec.on, Vec.on, Vec.pbit_congr h]

/-- VSCUPD, once its lines have come, returns the amax record (R175). -/
theorem vscupd_returns {s : State} {core : Nat} {p : VProg} (h : VecNext s.b core p 0x30) :
    let v := (s.b.core core).vec
    let w := (s.b.core core).rdS64 p.pc
    viVA w < 8 → viVB w < 8 → viImm w < 2 → Met s.b (fun b => b.vecNext core p (b.vscupd core p w)) →
    Completes (exec (.vscupd core) s) fun t =>
      Frame [.cores, .ctxs, .mem, .coh, .slices, .ports, .draws] s t ∧
      ∀ r l, l < 512 → (t.b.core core).vec.lane r l =
        if r = viVD w ∧ v.on w l = true then (s.b.amaxRecord core p w).toLane l else v.lane r l := by
  intro v w hva hvb himm hmet
  obtain ⟨b', codes, hacc, hF⟩ := s.b.noWants.vscupd_eq core p hva hvb himm
  rw [Block.noWants_amaxRecord] at hF
  rw [Met, hF] at hmet
  have hbefore : v.Coded (b'.core core).vec := hacc.vec
  have hcodes := GaveCodes.progCodes (b'.vecLanes core w fun _ => (s.b.amaxRecord core p w).toLane) core p codes
  have hkeeps := (hacc.keeps.trans ((b'.vecLanes_keeps core w _).mono (by simp))).trans (hcodes.keeps.mono (by simp))
  refine ⟨_, exec_vecNext (i := .vscupd core) h (by decide) rfl hF hmet, vecStepped_frame core hkeeps (by simp), fun r l hl => ?_⟩
  rw [Vec.lane_congr (Block.vecStepped_v _ _), Vec.lane_congr hcodes.vec.v, Block.vecLanes_vec, Vec.setLanes_lane _ _ _ _ _ hl,
    Vec.on_congr hbefore.p, Vec.lane_congr hbefore.v]

/-- Settles O20: the two optimiser steps lane by lane, and the record that VSCUPD returns. -/
theorem optimiserInstructionsUpdateTheirLanes : Obligations.OptimiserInstructionsUpdateTheirLanes := by
  intro s core p
  refine ⟨fun h halign hend => ?_, fun h halign hend hvc => ?_, vscupd_returns⟩
  · exact (vadamw_steps h halign hend).mono fun t ⟨hframe, hlane⟩ =>
      ⟨hframe, fun r l hl => (hlane r l).trans (Vec.adamwStep_lane _ _ _ _ r hl)⟩
  · exact (vsgdm_steps h halign hend hvc).mono fun t ⟨hframe, hlane⟩ =>
      ⟨hframe, fun r l hl => (hlane r l).trans (Vec.sgdmStep_lane _ _ _ _ _ r hl)⟩

end Sys2Proof.Machine
end

section
/-! What the stages of an action leave (R181, R184, R230, R300): the requests that wait, the action that runs, and the state of every slice. -/

namespace Sys2Proof.Machine

/-- Requests, the action that runs and the states of slices stay. -/
structure KeepsActions (b b' : Block) : Prop where
  pend : b'.recon.pend = b.recon.pend
  run : b'.recon.run = b.recon.run
  st : ∀ n, (b'.slice n).st = (b.slice n).st

namespace KeepsActions

theorem refl (b : Block) : KeepsActions b b := ⟨rfl, rfl, fun _ => rfl⟩

theorem trans {b c d : Block} (h : KeepsActions b c) (g : KeepsActions c d) : KeepsActions b d :=
  ⟨g.pend.trans h.pend, g.run.trans h.run, fun n => (g.st n).trans (h.st n)⟩

theorem foldl {α : Type} (f : Block → α → Block) (hf : ∀ (b : Block) (x : α), KeepsActions b (f b x)) (l : List α) (b : Block) :
    KeepsActions b (l.foldl f b) := by
  induction l generalizing b with
  | nil => exact refl b
  | cons x l ih => exact (hf b x).trans (ih _)

theorem each (f : Nat → Block → Block) (hf : ∀ n b, KeepsActions b (f n b)) (l : List Nat) (b : Block) : KeepsActions b (b.each l f) :=
  foldl _ (fun b n => hf n b) l b

theorem ite {b x y : Block} {p : Prop} [Decidable p] (hx : KeepsActions b x) (hy : KeepsActions b y) :
    KeepsActions b (if p then x else y) := by
  split
  · exact hx
  · exact hy

theorem of_keeps {b b' : Block} {L : List Part} (h : b.Keeps L b') (hr : Part.recon ∉ L) (hs : Part.slices ∉ L) : KeepsActions b b' := by
  have hrecon : b'.recon = b.recon := h .recon hr
  exact ⟨by rw [hrecon], by rw [hrecon], fun n => by rw [h.slice_eq hs]⟩

/-- Ends of work are among such operations. -/
theorem of_ends {b b' : Block} (h : Ends Anyone Anyone b b') : KeepsActions b b' := by
  have hrecon : b'.recon = b.recon := h.keeps .recon (by decide)
  exact ⟨by rw [hrecon], by rw [hrecon], h.st⟩

theorem modSlice (b : Block) (n : Nat) {f : Slice → Slice} (hst : ∀ x, (f x).st = x.st) : KeepsActions b (b.modSlice n f) := by
  refine ⟨rfl, rfl, fun m => ?_⟩
  by_cases h : m = n
  · rw [h, Block.modSlice_slice_same, hst]
  · rw [Block.modSlice_slice_ne _ _ h]

theorem modRecon (b : Block) {f : Recon → Recon} (hp : ∀ x, (f x).pend = x.pend) (hr : ∀ x, (f x).run = x.run) :
    KeepsActions b (b.modRecon f) := ⟨hp _, hr _, fun _ => rfl⟩

theorem modCtxr (b : Block) (n : Nat) (f : CtxRegs → CtxRegs) : KeepsActions b (b.modCtxr n f) := modSlice b n fun _ => rfl
theorem modXlat (b : Block) (n : Nat) (f : XlatRegs → XlatRegs) : KeepsActions b (b.modXlat n f) := modSlice b n fun _ => rfl
theorem modSec (b : Block) (n : Nat) (f : SliceSec → SliceSec) : KeepsActions b (b.modSec n f) := modSlice b n fun _ => rfl
theorem modCore (b : Block) (c : Nat) (f : Core → Core) : KeepsActions b (b.modCore c f) :=
  of_keeps (b.modCore_keeps c f) (by decide) (by decide)
theorem modHart (b : Block) (c : Nat) (f : Hart → Hart) : KeepsActions b (b.modHart c f) := modCore b c _
theorem modCtx (b : Block) (c : Nat) (f : Ctx → Ctx) : KeepsActions b (b.modCtx c f) := of_keeps (b.modCtx_keeps c f) (by decide) (by decide)
theorem modQueue (b : Block) (q : Nat) (f : Queue → Queue) : KeepsActions b (b.modQueue q f) :=
  of_keeps (b.modQueue_keeps q f) (by decide) (by decide)
theorem modVi (b : Block) (v : Nat) (f : Vi → Vi) : KeepsActions b (b.modVi v f) := of_keeps (b.modVi_keeps v f) (by decide) (by decide)
theorem modPower (b : Block) (f : Power → Power) : KeepsActions b (b.modPower f) := of_keeps (b.modPower_keeps f) (by decide) (by decide)
theorem modCoh (b : Block) (f : Coh → Coh) : KeepsActions b (b.modCoh f) := of_keeps (b.modCoh_keeps f) (by decide) (by decide)
theorem modPorts (b : Block) (f : Ports → Ports) : KeepsActions b (b.modPorts f) := of_keeps (b.modPorts_keeps f) (by decide) (by decide)
theorem modDict (b : Block) (f : Dict → Dict) : KeepsActions b (b.modDict f) := of_keeps (b.modDict_keeps f) (by decide) (by decide)
theorem fences (b : Block) (t : Tab Fence) : KeepsActions b { b with fences := t } := ⟨rfl, rfl, fun _ => rfl⟩
theorem ctxCode (b : Block) (c code : Nat) : KeepsActions b (b.ctxCode c code) := of_keeps (b.ctxCode_keeps c code) (by decide) (by decide)
theorem cmdDone (b : Block) (q k : Nat) : KeepsActions b (b.cmdDone q k) := of_keeps (b.cmdDone_keeps q k) (by decide) (by decide)
theorem wrOwn (b : Block) (n a : Nat) (bs : List Byte) : KeepsActions b (b.wrOwn n a bs) := of_ends (Ends.wrOwn b n a bs)

/-! ### Virtual instances (R300, R305) -/

theorem viStart (b : Block) (v n : Nat) (st : ViSt) : KeepsActions b (b.viStart v n st) := by
  rw [Block.viStart]
  refine trans ?_ (of_ends (Ends.viInval _ v))
  refine trans ?_ (each _ (fun c b => of_ends (Ends.resetStart b cCancelled trivial)) _ _)
  exact trans (modVi b v _) (each _ (fun q b => modQueue b q _) _ _)

theorem visLeave (b : Block) (n : Nat) : KeepsActions b (b.visLeave n) :=
  each _ (fun v b => trans (modVi b v _) (viStart _ v n .removing)) _ b

theorem viResume (b : Block) (n : Nat) : KeepsActions b (b.viResume n) := each _ (fun v b => viStart b v n _) _ b

/-! ### Stage 1 (R184, R230) -/

theorem launchesEnd (b : Block) (core code : Nat) : KeepsActions b (b.launchesEnd core code) := by
  rw [Block.launchesEnd]
  exact trans (foldl _ (fun b _ => trans (ctxCode b _ _) (cmdDone _ _ _)) _ _) (modHart _ core _)

theorem coreLeaves (b : Block) (n core : Nat) : KeepsActions b (b.coreLeaves n core) := by
  rw [Block.coreLeaves]
  refine trans ?_ (modCore _ core _)
  refine trans ?_ (each _ (fun q b => modQueue b q _) _ _)
  exact trans (of_ends (Ends.coreStops b core _)) (launchesEnd _ core _)

theorem queueStops (b : Block) (n q : Nat) : KeepsActions b (b.queueStops n q) := by
  rw [Block.queueStops]
  refine trans ?_ (of_ends (Ends.dropGrant _ n _))
  refine trans ?_ (modQueue _ q _)
  refine trans ?_ (each _ (fun core b => trans (each _ (fun e b => of_ends (Ends.dropArrivals b core e _ _)) _ b) (modHart _ core _)) _ _)
  exact trans (ite (ctxCode b _ _) (refl b)) (of_ends (Ends.endDmas _ _ _))

theorem queueGoes (b : Block) (q : Nat) : KeepsActions b (b.queueGoes q) := by
  have hunbind : KeepsActions b (b.unbindQueue q) := by
    rw [Block.unbindQueue]
    split
    · exact refl b
    · exact trans (modQueue b q _) (modVi _ _ _)
  have hgrant : ∀ (b : Block) (n : Nat), KeepsActions b (b.modSlice n fun x =>
      if (x.arb.granted.map (·.1)) == some q then { x with arb := { x.arb with granted := none } } else x) :=
    fun b n => modSlice b n fun x => by split <;> rfl
  exact (hunbind.trans (hgrant _ _)).trans ⟨rfl, rfl, fun _ => rfl⟩

theorem queuesLeave (b : Block) (n : Nat) (qs : List Nat) : KeepsActions b (b.queuesLeave n qs) := each _ (fun q b => queueGoes b q) _ b

theorem quotasFall (b : Block) (n : Nat) (h : Holdings) : KeepsActions b (b.quotasFall n h) := by
  rw [Block.quotasFall]
  refine trans ?_ (each _ (fun c b => of_ends (Ends.resetStart b cReclaimed trivial)) _ _)
  exact trans (modCtxr b n _) (fences _ _)

theorem stopStage (b : Block) (r : Running) : KeepsActions b (b.stopStage r) := by
  rw [Block.stopStage]
  refine trans (of_ends (Ends.abandonCopies b r.req.slice)) ?_
  split
  · exact trans (of_ends (Ends.coreStops _ _ _)) (modHart _ _ _)
  · exact refl _
  · refine ite (each _ (fun c b => modHart b c _) _ _) ?_
    refine trans ?_ (quotasFall _ _ _)
    refine trans ?_ (queuesLeave _ _ _)
    refine trans ?_ (ite (visLeave _ _) (refl _))
    exact trans (each _ (fun c b => coreLeaves b _ c) _ _) (each _ (fun q b => queueStops b _ q) _ _)

/-! ### Stages 2 to 5 (R184, R190, R229, R280) -/

theorem firmwareStage (b : Block) (fuse : BitVec 4096) (n : Nat) (fw : Dword) : KeepsActions b (b.firmwareStage fuse n fw) := by
  rw [Block.firmwareStage]
  refine trans (of_ends (Ends.dropDcache b _)) (ite ?_ (modSec _ n _))
  refine trans (each _ (fun c b => ?_) _ _) (modSec _ n _)
  exact trans (launchesEnd b c _) (modCore _ c _)

theorem writeBackStage (b : Block) (fuse : BitVec 4096) (r : Running) : KeepsActions b (b.writeBackStage fuse r) := by
  rw [Block.writeBackStage]
  refine ite (firmwareStage b fuse _ _) ?_
  refine trans ?_ (ite (each _ (fun c b => of_ends (Ends.ctxWriteBack b c)) _ _) (refl _))
  exact trans (of_ends (Ends.dropDcache b _)) (each _ (fun cl b => of_ends (Ends.flushCluster b _ cl _)) _ _)

theorem poolLeaves (b : Block) (n : Nat) (gs : List Nat) : KeepsActions b (b.poolLeaves n gs) := by
  rw [Block.poolLeaves]
  refine trans (modXlat b n _) (each _ (fun a b => ?_) _ _)
  rw [Block.poolPut]
  exact ite (trans (wrOwn b n _ _) (modXlat _ n _)) (refl b)

theorem translateStage (b : Block) (r : Running) : KeepsActions b (b.translateStage r) := by
  rw [Block.translateStage]
  refine ite (refl b) (trans ?_ (poolLeaves _ _ _))
  refine trans ?_ (ite (modSlice _ _ fun _ => rfl) (refl _))
  refine trans ?_ (foldl _ (fun b _ => of_ends (Ends.addInval b _ _)) _ _)
  exact foldl _ (fun b _ => trans (wrOwn b _ _ _) (ctxCode _ _ _)) _ b

theorem homesLeave (b : Block) (gs : List Nat) : KeepsActions b (b.homesLeave gs) := by
  rw [Block.homesLeave]
  exact trans (each _ (fun l b => of_keeps (b.loseCopies_keeps l _) (by decide) (by decide)) _ b) (modCoh _ _)

theorem coherenceStage (b : Block) (r : Running) : KeepsActions b (b.coherenceStage r) := by
  rw [Block.coherenceStage]
  exact trans (each _ (fun c b => of_ends (Ends.flushCluster b _ c _)) _ b) (ite (refl _) (homesLeave _ _))

theorem pendingLeaves (b : Block) (n : Nat) (groups : BitVec 32) : KeepsActions b (b.pendingLeaves n groups) := by
  rw [Block.pendingLeaves]
  refine trans (d := Block.modSlice _ n _) ?_ (modSlice _ n fun _ => rfl)
  exact modPower b _

theorem dropKey (b : Block) (n sel : Nat) : KeepsActions b (b.dropKey n sel) := by
  rw [Block.dropKey]
  refine trans ?_ (modSlice _ n fun x => ?_)
  · exact ite ⟨rfl, rfl, fun _ => rfl⟩ ⟨rfl, rfl, fun _ => rfl⟩
  · split <;> rfl

theorem groupLeaves (b : Block) (g : Nat) : KeepsActions b (b.groupLeaves g) := modRecon b (fun _ => rfl) fun _ => rfl

theorem releaseStage (b : Block) (r : Running) : KeepsActions b (b.releaseStage r) := by
  rw [Block.releaseStage]
  refine trans ?_ (ite (each _ (fun k b => dropKey b _ k) _ _) (refl _))
  refine trans ?_ (ite (pendingLeaves _ _ _) (refl _))
  refine trans ?_ (each _ (fun g b => groupLeaves b g) _ _)
  refine trans ?_ (modPower _ _)
  refine trans ?_ (modPower _ _)
  refine trans ?_ (ite (trans (each _ (fun c b => modCtx b c _) _ _) (modXlat _ _ _)) (refl _))
  exact modRecon b (fun _ => rfl) fun _ => rfl

/-- A stage keeps the requests, the action that it is a stage of, and every slice's state. -/
theorem enterStage (b : Block) (fuse : BitVec 4096) (r : Running) :
    KeepsActions (b.modRecon fun x => { x with run := some r }) (b.enterStage fuse r) := by
  rw [Block.enterStage]
  split
  · exact stopStage _ r
  · exact writeBackStage _ fuse r
  · exact translateStage _ r
  · exact coherenceStage _ r
  · exact releaseStage _ r
  · exact modPower _ _
  · exact refl _

/-! ### Stage 7 (R184, R188, R192) -/

theorem writeHeader (b : Block) (n : Nat) : KeepsActions b (b.writeHeader n) := by
  rw [Block.writeHeader]
  exact ite (refl b) (wrOwn b n _ _)

theorem setPending (b : Block) (n : Nat) : KeepsActions b (b.setPending n) := by
  rw [Block.setPending]
  refine trans ?_ (writeHeader _ n)
  exact modSlice b n fun _ => rfl

theorem writeMap (b : Block) (n : Nat) : KeepsActions b (b.writeMap n) := by
  rw [Block.writeMap]
  exact ite (refl b) (trans (writeHeader b n) (foldl _ (fun b _ => wrOwn b n _ _) _ _))

theorem regen (b : Block) (n : Nat) : KeepsActions b (b.regen n) := of_ends (Ends.regen b n)

end KeepsActions

end Sys2Proof.Machine
end

section
/-! Actions begin in their window, go through their stages, and a scrub ends (R181, R182, R184, R186, R300; O33). -/

namespace Sys2Proof.Machine

/-! ### An action begins (R181, R182) -/

/-- What Farrier retires goes to the flash; the fuses stay. -/
theorem State.onRetire_completes {s : State} {f : Block → Block} {p : Block → Prop} (hp : p (f s.b)) :
    Completes (s.onRetire f) fun t => t.fuse = s.fuse ∧ p t.b := ⟨_, rfl, rfl, hp⟩

/-- Of the starts of R108 only windows that are due to close come before an action. -/
theorem reconfActionStart_completes {s : State} {p : Block → Prop} (hd : s.b.windowDue = false) (hp : p (s.b.actionStarts s.fuse)) :
    Completes (exec .reconfActionStart s) fun t => t.fuse = s.fuse ∧ p t.b := by
  rw [show exec .reconfActionStart s = s.onRetire fun b => if b.earlier s.fuse 5 then b else b.actionStarts s.fuse from rfl]
  refine State.onRetire_completes ?_
  have hfirst : s.b.earlier s.fuse 5 = false := by simp [Block.earlier, hd]
  rwa [hfirst]

theorem Block.actionStarts_sheds {b : Block} {w : Nat} (fuse : BitVec 4096) (hw : b.reconfWindow = some w) (hr : b.recon.run = none)
    (hdef : b.recon.deferred ≠ some w) (hl : 2 ≤ b.power.level) : b.actionStarts fuse = b.deferAction w := by
  rw [Block.actionStarts, hw]
  dsimp only
  rw [hr]
  dsimp only
  rw [if_neg (by simpa using hdef), if_pos hl]

theorem Block.actionStarts_head {b : Block} {w : Nat} (fuse : BitVec 4096) (hw : b.reconfWindow = some w) (hr : b.recon.run = none)
    (hdef : b.recon.deferred ≠ some w) (hl : b.power.level < 2) (hj : (b.rungsDefer w).joinable w = none) :
    b.actionStarts fuse = (b.rungsDefer w).headAction fuse w := by
  rw [Block.actionStarts, hw]
  dsimp only
  rw [hr]
  dsimp only
  rw [if_neg (by simpa using hdef), if_neg (by omega), hj]

/-- The first request where it is due and names one slice. -/
theorem Block.headAction_due {b : Block} {w : Nat} (fuse : BitVec 4096) {r : Request} {rest : List Request} (hp : b.recon.pend = r :: rest)
    (hdue : r.ahead = true ∨ r.stride ≤ w) (hn : r.slice ≠ 0) : b.headAction fuse w =
      if b.rungOn r.slice then b.deferAction w
      else if b.viBusy r.slice then b
      else (b.modRecon fun x => { x with pend := rest }).beginAction fuse r none w := by
  have hnot : (!r.ahead && decide (w < r.stride)) = false := by
    rcases hdue with h | h
    · simp [h]
    · simp [Nat.not_lt.2 h]
  rw [Block.headAction, hp]
  simp [hnot, hn]

/-- An action on a slice begins with stage 1: the slice changes, and the other requests wait on. -/
theorem Block.beginAction_begins (b : Block) (fuse : BitVec 4096) {r : Request} (w : Nat) (hn : r.slice ≠ 0) :
    let b' := b.beginAction fuse r none w
    b'.recon.pend = b.recon.pend ∧ (b'.slice r.slice).st = .changing ∧
      b'.recon.run = some { req := r, stage := 1, old := (b.slice r.slice).hold, joinOnly := none, win := w } := by
  have hentered : ∀ b₁ : Block, b₁.recon.pend = b.recon.pend → (b₁.slice r.slice).st = .changing →
      let b' := b₁.enterStage fuse { req := r, stage := 1, old := (b.slice r.slice).hold, joinOnly := none, win := w }
      b'.recon.pend = b.recon.pend ∧ (b'.slice r.slice).st = .changing ∧
        b'.recon.run = some { req := r, stage := 1, old := (b.slice r.slice).hold, joinOnly := none, win := w } := by
    intro b₁ hpend hst
    have h := KeepsActions.enterStage b₁ fuse { req := r, stage := 1, old := (b.slice r.slice).hold, joinOnly := none, win := w }
    exact ⟨h.pend.trans hpend, (h.st r.slice).trans hst, h.run⟩
  simp only [Block.beginAction, beq_iff_eq, hn, if_false]
  split
  · refine hentered _ rfl ?_
    rw [Block.slice, Tab.get_put_same]
  · refine hentered _ rfl ?_
    rw [Block.modSlice_slice_same]

section
variable {s : State} {w : Nat} (hw : s.b.reconfWindow = some w) (hd : s.b.windowDue = false) (hr : s.b.recon.run = none)
  (hdef : s.b.recon.deferred ≠ some w)
include hw hd hr hdef

theorem reconfActionStart_sheds (hl : 2 ≤ s.b.power.level) : Completes (exec .reconfActionStart s) fun t =>
    t.fuse = s.fuse ∧ s.b.Keeps [.recon] t.b ∧ t.b.recon = { s.b.recon with deferred := some w } := by
  refine reconfActionStart_completes (p := fun b => s.b.Keeps [.recon] b ∧ b.recon = { s.b.recon with deferred := some w }) hd ?_
  rw [Block.actionStarts_sheds _ hw hr hdef hl]
  exact ⟨s.b.modRecon_keeps _, rfl⟩

variable (hl : s.b.power.level < 2) (hj : (s.b.rungsDefer w).joinable w = none) {r : Request} {rest : List Request}
  (hp : s.b.recon.pend = r :: rest) (hdue : r.ahead = true ∨ r.stride ≤ w) (hn : r.slice ≠ 0)
include hl hj hp hdue hn

theorem reconfActionStart_defers (hrung : s.b.rungOn r.slice = true) : Completes (exec .reconfActionStart s) fun t =>
    t.fuse = s.fuse ∧ s.b.Keeps [.recon] t.b ∧ t.b.recon = { (s.b.rungsDefer w).recon with deferred := some w } := by
  refine reconfActionStart_completes
    (p := fun b => s.b.Keeps [.recon] b ∧ b.recon = { (s.b.rungsDefer w).recon with deferred := some w }) hd ?_
  have hon : (s.b.rungsDefer w).rungOn r.slice = true := hrung
  rw [Block.actionStarts_head _ hw hr hdef hl hj, Block.headAction_due _ (b := s.b.rungsDefer w) hp hdue hn, if_pos hon]
  exact ⟨(s.b.modRecon_keeps _).trans (Block.modRecon_keeps _ _), rfl⟩

theorem reconfActionStart_begins (hrung : s.b.rungOn r.slice = false) (hvi : s.b.viBusy r.slice = false) :
    Completes (exec .reconfActionStart s) fun t => t.fuse = s.fuse ∧ t.b.recon.pend = rest ∧ (t.b.slice r.slice).st = .changing ∧
      t.b.recon.run = some { req := r, stage := 1, old := (s.b.slice r.slice).hold, joinOnly := none, win := w } := by
  refine reconfActionStart_completes (p := fun b => b.recon.pend = rest ∧ (b.slice r.slice).st = .changing ∧
    b.recon.run = some { req := r, stage := 1, old := (s.b.slice r.slice).hold, joinOnly := none, win := w }) hd ?_
  have hoff : ¬ (s.b.rungsDefer w).rungOn r.slice = true := ne_true_of_eq_false hrung
  have hidle : ¬ (s.b.rungsDefer w).viBusy r.slice = true := ne_true_of_eq_false hvi
  rw [Block.actionStarts_head _ hw hr hdef hl hj, Block.headAction_due _ (b := s.b.rungsDefer w) hp hdue hn, if_neg hoff, if_neg hidle]
  exact Block.beginAction_begins _ _ w hn

end

end Sys2Proof.Machine
end

section
/-! What the removal of a slice's virtual instances leaves (R234, R300, R305; O33): the power level among it. -/

namespace Sys2Proof.Machine

/-- Parts that a reset of a virtual instance can change. -/
def viParts : List Part := [.cores, .ctxs, .mem, .coh, .slices, .ports, .queues, .dmas, .vis]

/-! ### Ends of ops, programs and bindings -/

theorem Block.endOp_keeps (b : Block) (core eng ticket : Nat) : b.Keeps [.cores] (b.endOp core eng ticket) :=
  ((b.modCore_keeps core _).trans (Block.modEng_keeps _ core eng _)).trans (Block.modEng_keeps _ core eng _)

theorem Block.opCodes_keeps (b : Block) (core eng : Nat) (o : EOp) (codes : List Nat) : b.Keeps viParts (b.opCodes core eng o codes) :=
  (Tended.opCodes (key := fun _ => ()) b eng o codes).keeps.mono (by decide)

theorem Block.dropOpSteps_keeps (b : Block) (core eng ticket : Nat) : b.Keeps viParts (b.dropOpSteps core eng ticket) :=
  ((b.dropLines_keeps core 4).mono (by decide)).trans
    ((Tended.dropSteps (key := fun _ => ()) (core := core) (fun _ _ _ _ => rfl) _ _).keeps.mono (by decide))

theorem Block.endWith_keeps (b : Block) (core eng : Nat) (o : EOp) (code : Nat) : b.Keeps viParts (b.endWith core eng o code) := by
  rw [Block.endWith]
  refine Block.Keeps.trans ?_ ((Block.modEng_keeps _ core eng _).mono (by decide))
  refine Block.Keeps.trans ?_ ((Block.modAdapter_keeps _ core _).mono (by decide))
  exact ((b.opCodes_keeps core eng o [code]).trans ((Block.endOp_keeps _ core eng _).mono (by decide))).trans (Block.dropOpSteps_keeps _ core eng _)

theorem Block.dropOps_keeps (b : Block) (core eng code : Nat) (p : EOp → Bool) : b.Keeps viParts (b.dropOps core eng code p) := by
  rw [Block.dropOps, Block.endOps]
  refine Block.Keeps.trans ?_ ((Block.modEng_keeps _ core eng _).mono (by decide))
  refine Block.Keeps.trans ?_ (Block.Keeps.foldl _ (fun b o => b.endWith_keeps core eng o code) _ _)
  exact Block.Keeps.ite (Block.Keeps.refl _ b) ((b.dropLines_keeps core eng).mono (by decide))

theorem Block.dropArrivals_keeps (b : Block) (core eng code : Nat) (p : Placement → Bool) :
    b.Keeps viParts (b.dropArrivals core eng code p) := by
  rw [Block.dropArrivals]
  refine Block.Keeps.trans ?_ (Block.Keeps.foldl _ (fun b (x : Placement) => (b.ctxCode_keeps x.ctx code).mono (by decide)) _ _)
  exact (b.modEng_keeps core eng _).mono (by decide)

theorem Block.dropProgs_keeps (b : Block) (core code : Nat) (p : VProg → Bool) : b.Keeps viParts (b.dropProgs core code p) := by
  rw [Block.dropProgs]
  refine Block.Keeps.trans ?_ (Block.Keeps.mono (Block.modVec_keeps _ core _) (by decide))
  refine Block.Keeps.trans ?_ (Block.Keeps.foldl _ (fun b (x : VProg) => (b.vecCode_keeps core x.ctx code).mono (by decide)) _ _)
  exact Block.Keeps.ite (Block.Keeps.refl _ b) ((b.dropLines_keeps core 6).mono (by decide))

theorem Block.endBindings_keeps (b : Block) (core ctx : Nat) : b.Keeps viParts (b.endBindings core ctx) :=
  ((b.modAdapter_keeps core _).mono (by decide)).trans
    ((Tended.settleSlots (key := fun _ => ()) (core := core) (fun _ _ _ => rfl) _ _).keeps.mono (by decide))

theorem Block.cancelOn_keeps (b : Block) (core c code : Nat) : b.Keeps viParts (b.cancelOn core c code) := by
  rw [Block.cancelOn]
  refine Block.Keeps.trans ?_ (Block.endBindings_keeps _ core c)
  refine Block.Keeps.trans ?_ (Block.dropProgs_keeps _ core code _)
  exact Block.Keeps.each _ (fun e b => (b.dropOps_keeps core e code _).trans (Block.dropArrivals_keeps _ core e code _)) _ b

theorem Block.endDmas_keeps (b : Block) (code : Nat) (p : Dma → Bool) : b.Keeps viParts (b.endDmas code p) := by
  have hdmas : b.Keeps [.dmas] { b with dmas := b.dmas.filter fun d => !p d } := fun p hp => by cases p <;> simp_all [Part.same]
  rw [Block.endDmas]
  refine (hdmas.mono (by decide)).trans (Block.Keeps.foldl _ (fun b d => ?_) _ _)
  refine Block.Keeps.trans ?_ ((Block.cmdDone_keeps _ d.queue d.k).mono (by decide))
  exact ((b.dropLines_keeps _ _).mono (by decide)).trans ((Block.ctxCode_keeps _ d.ctx code).mono (by decide))

/-! ### Resets of contexts -/

theorem Block.dropCtxGrant_keeps (b : Block) (n c : Nat) : b.Keeps [.slices] (b.dropCtxGrant n c) := by
  rw [Block.dropCtxGrant]
  split
  · exact Block.Keeps.ite (b.modSlice_keeps n _) (Block.Keeps.refl _ b)
  · exact Block.Keeps.refl _ b

theorem Block.dropGrant_keeps (b : Block) (n : Nat) (qs : List Nat) : b.Keeps [.slices] (b.dropGrant n qs) := by
  rw [Block.dropGrant]
  split
  · exact Block.Keeps.ite (b.modSlice_keeps n _) (Block.Keeps.refl _ b)
  · exact Block.Keeps.refl _ b

theorem Block.stopQueues_keeps (b : Block) (c : Nat) : b.Keeps [.queues, .slices] (b.stopQueues c) :=
  ((Block.Keeps.each (L := [.queues]) _ (fun q b => b.modQueue_keeps q _) _ b).mono (by decide)).trans
    ((Block.dropGrant_keeps _ _ _).mono (by decide))

theorem Block.resetStart_keeps (b : Block) (c code : Nat) : b.Keeps viParts (b.resetStart c code) := by
  rw [Block.resetStart]
  refine Block.Keeps.trans ?_ (Block.Keeps.each _ (fun k b => (b.modHart_keeps k _).mono (by decide)) _ _)
  refine Block.Keeps.trans ?_ ((Block.modXlat_keeps _ _ _).mono (by decide))
  refine Block.Keeps.trans ?_ (Block.endDmas_keeps _ code _)
  refine Block.Keeps.trans ?_ (Block.Keeps.each _ (fun k b => b.cancelOn_keeps k c code) _ _)
  refine Block.Keeps.trans ?_ ((Block.stopQueues_keeps _ c).mono (by decide))
  exact ((b.setCtxSt_keeps c .resetting).mono (by decide)).trans ((Block.dropCtxGrant_keeps _ _ c).mono (by decide))

/-! ### Invalidations, and the steps of R305 -/

theorem Block.setWinStatus_keeps (b : Block) (c w status cause : Nat) : b.Keeps viParts (b.setWinStatus c w status cause) := by
  rw [Block.setWinStatus]
  refine Block.Keeps.trans ?_ ((Homely.wrOwn _ _ _ _).keeps.mono (by decide))
  refine Block.Keeps.trans ?_ ((Homely.wrOwn _ _ _ _).keeps.mono (by decide))
  exact Block.Keeps.ite ((b.modCtx_keeps c _).mono (by decide)) (Block.Keeps.refl _ b)

theorem Block.startInval_keeps (b : Block) (n : Nat) (i : Inval) : b.Keeps viParts (b.startInval n i) :=
  ((b.modXlat_keeps n _).mono (by decide)).trans (Block.Keeps.each _ (fun c b =>
    Block.Keeps.each _ (fun w b => Block.Keeps.ite (b.setWinStatus_keeps c w 3 0) (Block.Keeps.refl _ b)) _ b) _ _)

theorem Block.addInval_keeps (b : Block) (n : Nat) (i : Inval) : b.Keeps viParts (b.addInval n i) :=
  ((b.modXlat_keeps n _).mono (by decide)).trans (Block.Keeps.ite (Block.startInval_keeps _ n i) (Block.Keeps.refl _ _))

theorem Block.viInval_keeps (b : Block) (v : Nat) : b.Keeps viParts (b.viInval v) :=
  Block.Keeps.ite (Block.Keeps.refl _ b)
    (((b.modVi_keeps v _).mono (by decide)).trans (Block.Keeps.foldl _ (fun b _ => b.addInval_keeps _ _) _ _))

theorem Block.viStart_keeps (b : Block) (v n : Nat) (st : ViSt) : b.Keeps viParts (b.viStart v n st) := by
  rw [Block.viStart]
  refine Block.Keeps.trans ?_ (Block.viInval_keeps _ v)
  refine Block.Keeps.trans ?_ (Block.Keeps.each _ (fun c b => b.resetStart_keeps c cCancelled) _ _)
  exact ((b.modVi_keeps v _).mono (by decide)).trans (Block.Keeps.each _ (fun q b => (b.modQueue_keeps q _).mono (by decide)) _ _)

theorem Block.visLeave_keeps (b : Block) (n : Nat) : b.Keeps viParts (b.visLeave n) :=
  Block.Keeps.each _ (fun v b => ((b.modVi_keeps v _).mono (by decide)).trans (Block.viStart_keeps _ v n .removing)) _ b

end Sys2Proof.Machine
end

section
/-! A stage is over, the last one publishes, and a scrub completes (R184, R186, R224, R300). Settles O33. -/

namespace Sys2Proof.Machine

/-! ### A stage gives way to the next (R184) -/

/-- The block in which the end of a stage is judged: virtual instances of a slice that is removed are removed too. -/
def Block.stageLeft (b : Block) (r : Running) : Block := if r.stage = 1 ∧ r.isRemove = true then b.visLeave r.req.slice else b

theorem Block.stageLeft_level (b : Block) (r : Running) : (b.stageLeft r).power.level = b.power.level := by
  have hpower : (b.stageLeft r).power = b.power := by
    rw [Block.stageLeft]
    split
    · exact b.visLeave_keeps r.req.slice .power (by decide)
    · rfl
  rw [hpower]

theorem Block.stageEnds_over {b : Block} (fuse : BitVec 4096) {r : Running} (hr : b.recon.run = some r) (hl : b.power.level ≠ 5)
    (ho : (b.stageLeft r).stageOver r = true) : b.stageEnds fuse =
      if 7 ≤ r.stage then (b.stageLeft r).leaveStage r
      else ((b.stageLeft r).leaveStage r).enterStage fuse { r with stage := r.stage + 1 } := by
  have hleft : (if r.stage == 1 && r.isRemove then b.visLeave r.req.slice else b) = b.stageLeft r := by simp [Block.stageLeft]
  rw [Block.stageEnds, hr]
  dsimp only
  rw [hleft, ho]
  simp [Block.stageLeft_level, hl]

theorem Block.stageEnds_next {b : Block} (fuse : BitVec 4096) {r : Running} (hr : b.recon.run = some r) (hl : b.power.level ≠ 5)
    (ho : (b.stageLeft r).stageOver r = true) (hs : r.stage < 7) :
    (b.stageEnds fuse).recon.run = some { r with stage := r.stage + 1 } := by
  rw [Block.stageEnds_over fuse hr hl ho, if_neg (by omega)]
  exact (KeepsActions.enterStage _ fuse _).run

theorem Block.stageEnds_last {b : Block} (fuse : BitVec 4096) {r : Running} (hr : b.recon.run = some r) (hl : b.power.level ≠ 5)
    (ho : (b.stageLeft r).stageOver r = true) (hs : 7 = r.stage) : b.stageEnds fuse = b.publishStage r := by
  have hstay : b.stageLeft r = b := if_neg fun h => by omega
  rw [Block.stageEnds_over fuse hr hl ho, if_pos (by omega), hstay, Block.leaveStage, ← hs]
  rfl

theorem reconfStageEnd_completes {s : State} {p : Block → Prop} (hp : p (s.b.stageEnds s.fuse)) :
    Completes (exec .reconfStageEnd s) fun t => t.fuse = s.fuse ∧ p t.b := by
  rw [show exec .reconfStageEnd s = s.onRetire fun b => b.stageEnds s.fuse from rfl]
  exact State.onRetire_completes hp

/-! ### Stage 7 publishes (R184, R188) -/

/-- A slice without a map has its stride alone written. -/
theorem Block.setPending_slice {b : Block} {n : Nat} (h : (b.slice n).mapAddr = 0) :
    ((b.setPending n).slice n) = { b.slice n with pendingStride := ((b.setPending n).slice n).pendingStride } := by
  have hmap : ∀ f : Slice → Slice, (f (b.slice n)).mapAddr = 0 → (b.modSlice n f).writeHeader n = b.modSlice n f := by
    intro f hf
    rw [Block.writeHeader, Block.modSlice_slice_same, hf]
    rfl
  rw [Block.setPending]
  dsimp only
  rw [hmap _ h, Block.modSlice_slice_same]

theorem Block.publishStage_remove (b : Block) {r : Running} (hn : r.req.slice ≠ 0) (hrem : r.isRemove = true) :
    let b' := b.publishStage r
    b'.recon.run = none ∧ b'.slice r.req.slice = { Slice.reset with pendingStride := (b'.slice r.req.slice).pendingStride } := by
  simp only [Block.publishStage, beq_iff_eq, hn, if_false, hrem, if_true]
  refine ⟨(KeepsActions.setPending _ _).run, ?_⟩
  have hgone : ∀ (b : Block) (f : Dict → Dict),
      (Block.modDict { b with slices := Tab.erase b.slices r.req.slice } f).slice r.req.slice = Slice.reset :=
    fun b _ => Tab.get_erase_same Slice.reset b.slices r.req.slice
  have h := Block.setPending_slice (n := r.req.slice) (congrArg Slice.mapAddr (hgone
    ((b.modRecon fun x => { x.applied r.req with run := none }).modPorts fun p =>
      { p with waiting := p.waiting.filter fun x => x.slice != r.req.slice })
    fun d => { (d.unbindSlice r.req.slice) with held := Dict.unkept d r.req.slice }))
  rwa [hgone] at h

theorem Block.publishStage_activates (b : Block) {r : Running} (hn : r.req.slice ≠ 0) (hrem : r.isRemove = false) :
    let b' := b.publishStage r
    b'.recon.run = none ∧ (b'.slice r.req.slice).st = .active := by
  have hpublished : ∀ b : Block, KeepsActions b
      ((((b.setPending r.req.slice).writeMap r.req.slice).regen r.req.slice).viResume r.req.slice) := fun b =>
    (((KeepsActions.setPending b _).trans (KeepsActions.writeMap _ _)).trans (KeepsActions.regen _ _)).trans (KeepsActions.viResume _ _)
  simp only [Block.publishStage, beq_iff_eq, hn, if_false, hrem, Bool.false_eq_true]
  refine ⟨(hpublished _).run.trans ?_, ((hpublished _).st _).trans ?_⟩
  · split <;> rfl
  · have hactive : ∀ (b : Block) (h : Holdings),
        ((b.modSlice r.req.slice fun x => { x with st := .active, hold := h }).slice r.req.slice).st = .active :=
      fun b h => by rw [Block.modSlice_slice_same]
    split
    · exact hactive _ _
    · exact hactive _ _

/-! ### A scrub completes (R186, R224) -/

/-- Zero ciphertext in the whole group, and nowhere else: the form that a table has where it holds `w` bytes an entry. -/
theorem Tab.get_scrubbed {α : Type} (d : α) (g w : Nat) (t : Tab α) (k : Nat) :
    Tab.get d (t.filter fun x => x.1 * w / 2 ^ 37 != g) k = if k * w / 2 ^ 37 = g then d else Tab.get d t k := by
  rw [Tab.get_filter d (fun k => k * w / 2 ^ 37 != g)]
  by_cases h : k * w / 2 ^ 37 = g
  · rw [if_pos h, if_neg fun hb => bne_iff_ne.1 hb h]
  · rw [if_neg h, if_pos (bne_iff_ne.2 h)]

theorem group_of_line (line : Nat) : line * 128 / 2 ^ 37 = line / 2 ^ 30 := by omega

theorem Block.scrubGroup_keyGen (b : Block) (g line : Nat) :
    Tab.get 0 (b.scrubGroup g).mem.keyGen line = if line / 2 ^ 30 = g then 0 else Tab.get 0 b.mem.keyGen line := by
  have hmem : (b.scrubGroup g).mem.keyGen = b.mem.keyGen.filter fun x => x.1 * 128 / 2 ^ 37 != g := by
    rw [Block.scrubGroup]
    split <;> rfl
  rw [hmem, Tab.get_scrubbed, group_of_line]

theorem Block.scrubGroup_poison (b : Block) (g line : Nat) :
    Tab.get false (b.scrubGroup g).mem.poison line = if line / 2 ^ 30 = g then false else Tab.get false b.mem.poison line := by
  have hmem : (b.scrubGroup g).mem.poison = b.mem.poison.filter fun x => x.1 * 128 / 2 ^ 37 != g := by
    rw [Block.scrubGroup]
    split <;> rfl
  rw [hmem, Tab.get_scrubbed, group_of_line]

theorem Block.scrubGroup_bytes (b : Block) {g line i : Nat} (hg : line / 2 ^ 30 ≠ g) (hi : i < 128) :
    (b.scrubGroup g).mem.bytes.read (128 * line + i) = b.mem.bytes.read (128 * line + i) := by
  have hmem : (b.scrubGroup g).mem.bytes = b.mem.bytes.filter fun x => x.1 * 1 / 2 ^ 37 != g := by
    rw [Block.scrubGroup]
    split <;> rfl
  have hout : (128 * line + i) * 1 / 2 ^ 37 ≠ g := by omega
  rw [hmem, Mem.read, Tab.get_scrubbed, if_neg hout, Mem.read]

theorem Block.scrubGroup_keeps (b : Block) (g : Nat) : b.Keeps [.mem, .coh] (b.scrubGroup g) := by
  rw [Block.scrubGroup]
  have hlate := Block.Keeps.ite (p := b.coh.late.isEmpty = true) (Block.Keeps.refl [.coh] b)
    (b.modCoh_keeps fun c => { c with late := c.late.filter fun x => x.2.1 / 2 ^ 37 != g })
  refine (hlate.mono (by decide)).trans fun p hp => ?_
  cases p <;> first | rfl | exact absurd (by decide) hp

/-- The group is out of the list of those that are scrubbed. -/
def Block.scrubOver (b : Block) (g : Nat) : Block :=
  (b.scrubGroup g).modRecon fun x => { x with scrubbing := x.scrubbing.filter (· != g) }

/-- It joins in no action of a window that is open. -/
def Block.joinWaits (b : Block) (g : Nat) : Block :=
  match b.reconfWindow with
  | none => b
  | some w => b.joinsLater w [g]

theorem Block.scrubOver_keeps (b : Block) (g : Nat) : b.Keeps [.mem, .coh, .recon] (b.scrubOver g) :=
  ((b.scrubGroup_keeps g).mono (by decide)).trans ((Block.modRecon_keeps _ _).mono (by decide))

theorem Block.scrubOver_scrubbing (b : Block) (g : Nat) : (b.scrubOver g).recon.scrubbing = b.recon.scrubbing.filter (· != g) := by
  have hrecon : (b.scrubGroup g).recon = b.recon := b.scrubGroup_keeps g .recon (by decide)
  rw [Block.scrubOver, Block.modRecon, hrecon]

theorem Block.joinWaits_keeps (b : Block) (g : Nat) : b.Keeps [.recon] (b.joinWaits g) := by
  rw [Block.joinWaits]
  split
  · exact Block.Keeps.refl _ b
  · exact b.modRecon_keeps _

theorem Block.joinWaits_scrubbing (b : Block) (g : Nat) : (b.joinWaits g).recon.scrubbing = b.recon.scrubbing := by
  rw [Block.joinWaits]
  split <;> rfl

theorem scrubComplete_ends {s : State} {g : Nat} (hg : g ∈ s.b.recon.scrubbing) (hl : s.b.power.level ≠ 5) :
    Completes (exec (.scrubComplete g) s) fun t => Frame [.mem, .coh, .recon, .power] s t ∧
      t.b.mem = (s.b.scrubGroup g).mem ∧ t.b.recon.scrubbing = s.b.recon.scrubbing.filter (· != g) := by
  let b := (s.b.scrubOver g).joinWaits g
  have hexec : exec (.scrubComplete g) s = s.onBlock fun x => if x.recon.scrubbing.contains g && x.power.level != 5 then
      if ((x.scrubOver g).joinWaits g).groupAwaited g then (x.scrubOver g).joinWaits g
      else ((x.scrubOver g).joinWaits g).modPower fun p => p.wantDown (80 + ((x.scrubOver g).joinWaits g).recon.shimOf g)
    else x := rfl
  have hcond : (s.b.recon.scrubbing.contains g && s.b.power.level != 5) = true := by simp [hg, hl]
  have hpower : b.Keeps [.power] (if b.groupAwaited g then b else b.modPower fun p => p.wantDown (80 + b.recon.shimOf g)) :=
    Block.Keeps.ite (Block.Keeps.refl _ b) (b.modPower_keeps _)
  have hjoin := (s.b.scrubOver g).joinWaits_keeps g
  have hkeeps : s.b.Keeps [.mem, .coh, .recon, .power] b :=
    ((s.b.scrubOver_keeps g).mono (by decide)).trans (hjoin.mono (by decide))
  rw [hexec]
  refine State.onBlock_completes ?_ ?_
  · rw [if_pos hcond]
    exact hkeeps.trans (hpower.mono (by decide))
  · rw [if_pos hcond]
    exact ⟨(hpower .mem (by decide)).trans (hjoin .mem (by decide)),
      (congrArg Recon.scrubbing (hpower .recon (by decide))).trans ((Block.joinWaits_scrubbing _ g).trans (s.b.scrubOver_scrubbing g))⟩

theorem scrubComplete_zeroes {s : State} {g : Nat} (hg : g ∈ s.b.recon.scrubbing) (hl : s.b.power.level ≠ 5) :
    Completes (exec (.scrubComplete g) s) fun t => Frame [.mem, .coh, .recon, .power] s t ∧ g ∉ t.b.recon.scrubbing ∧
      ∀ line, (line / 2 ^ 30 = g → Tab.get 0 t.b.mem.keyGen line = 0 ∧ Tab.get false t.b.mem.poison line = false) ∧
        (line / 2 ^ 30 ≠ g → Tab.get 0 t.b.mem.keyGen line = Tab.get 0 s.b.mem.keyGen line ∧
          ∀ i, i < 128 → t.b.mem.bytes.read (128 * line + i) = s.b.mem.bytes.read (128 * line + i)) := by
  obtain ⟨t, ht, hframe, hmem, hscrub⟩ := scrubComplete_ends hg hl
  refine ⟨t, ht, hframe, by simp [hscrub], fun line => ⟨fun hin => ?_, fun hout => ?_⟩⟩
  · rw [hmem, Block.scrubGroup_keyGen, Block.scrubGroup_poison, if_pos hin, if_pos hin]
    exact ⟨rfl, rfl⟩
  · rw [hmem, Block.scrubGroup_keyGen, if_neg hout]
    exact ⟨rfl, fun i hi => Block.scrubGroup_bytes _ hout hi⟩

/-- Settles O33, by what the start of an action, the end of a stage and the end of a scrub do to the block. -/
theorem actionsRunThroughTheirStages : Obligations.ActionsRunThroughTheirStages := by
  unfold Obligations.ActionsRunThroughTheirStages
  refine ⟨fun s w hw hd hr hdef => ⟨fun hl => reconfActionStart_sheds hw hd hr hdef hl, fun r rest hl hj hp hdue hn => ⟨fun hrung => ?_,
    fun hrung hvi => ?_⟩⟩, fun s r hr hl ho => ⟨fun hs => ?_, fun hs hn => ?_⟩, fun s g hg hl => scrubComplete_zeroes hg hl⟩
  · exact reconfActionStart_defers hw hd hr hdef hl hj hp hdue hn hrung
  · exact reconfActionStart_begins hw hd hr hdef hl hj hp hdue hn hrung hvi
  · exact reconfStageEnd_completes (p := fun b => b.recon.run = some { r with stage := r.stage + 1 })
      (Block.stageEnds_next s.fuse hr hl ho hs)
  · refine reconfStageEnd_completes (p := fun b => b.recon.run = none ∧
      (r.isRemove = true → b.slice r.req.slice = { Slice.reset with pendingStride := (b.slice r.req.slice).pendingStride }) ∧
      (r.isRemove = false → (b.slice r.req.slice).st = .active)) ?_
    rw [Block.stageEnds_last s.fuse hr hl ho hs]
    cases hrem : r.isRemove
    · obtain ⟨hrun, hst⟩ := Block.publishStage_activates s.b hn hrem
      exact ⟨hrun, nofun, fun _ => hst⟩
    · obtain ⟨hrun, hslice⟩ := Block.publishStage_remove s.b hn hrem
      exact ⟨hrun, fun _ => hslice, nofun⟩

end Sys2Proof.Machine
end
section
/-! Ledgers with a nonce, mediators' answers, key selectors and samples (R192 to R194, R223, R266 to R269). Settles O34. -/

namespace Sys2Proof.Machine

/-! ### Nonces and their ledgers (R193) -/

theorem Block.modSlice_others (b : Block) (n : Nat) (f : Slice → Slice) : ∀ m, m ≠ n → (b.modSlice n f).slice m = b.slice m :=
  fun _ hm => Block.modSlice_slice_ne _ _ hm

theorem nonce_asked {s : State} {n eid : Nat} {tag : Byte} {v : List Byte} (ha : Admitted s.b eid (0x2200 + n) 2 v) :
    Completes (exec (.nonce n eid tag v) s) fun t =>
      Frame [.slices, .ports, .dict] s t ∧ (t.b.slice n).nonce = v ∧ (t.b.slice n).nonceStatus = 1 ∧
      (t.b.slice n).ledger = (s.b.slice n).ledger ∧ ∀ m, m ≠ n → t.b.slice m = s.b.slice m := by
  refine Completes.accepted ha (b' := s.b.modSlice n fun x =>
      { x with nonce := v, nonceAt := if x.nonceStatus == 1 then x.nonceAt else s.b.time.mclk, nonceStatus := 1 }) rfl
    ((s.b.modSlice_keeps n _).mono (by decide)) (by decide) fun b hdone => ?_
  have hslice := hdone.slice_eq (by decide)
  refine ⟨?_, ?_, ?_, fun m hm => (hslice m).trans (Block.modSlice_slice_ne _ _ hm)⟩ <;>
    rw [hslice, Block.modSlice_slice_same]

theorem Block.sign_length (b : Block) (msg : List Byte) : (b.sign msg).length = 96 := by
  rw [Block.sign]
  split
  · exact List.length_replicate ..
  · simp

theorem digestBytes_length (d : BitVec 384) : (digestBytes d).length = 48 := toLe_length 48 d.toNat

/-- A ledger has 480 bytes (R191). -/
theorem Block.ledgerOf_length (b : Block) (n : Nat) (nonce : List Byte) : (b.ledgerOf n nonce).length = 480 := by
  have hbody : (b.ledgerBody n nonce).length = 384 := by
    unfold Block.ledgerBody
    simp only [List.length_append, toLe_length, digestBytes_length, List.length_map, List.length_range]
  rw [Block.ledgerOf, List.length_append, hbody, Block.sign_length]

theorem nonceLedgerReady_signs {s : State} {n : Nat} (hst : (s.b.slice n).nonceStatus = 1) (hz : s.b.time.started = true)
    (hat : (s.b.slice n).nonceAt + 75000000 ≤ s.b.time.zeroAt) : Completes (exec (.nonceLedgerReady n) s) fun t =>
      Frame [.slices] s t ∧ (t.b.slice n).nonceStatus = 2 ∧ (t.b.slice n).nonceLedger = s.b.ledgerOf n (s.b.slice n).nonce ∧
      (t.b.slice n).nonceLedger.length = 480 ∧ ∀ m, m ≠ n → t.b.slice m = s.b.slice m := by
  have hdue : s.b.nonceDue n = true := by simp [Block.nonceDue, hst, hz, usClk, hat]
  refine Completes.framed (if_pos hdue) (s.b.modSlice_keeps n _) ⟨?_, ?_, ?_, s.b.modSlice_others n _⟩ <;>
    rw [Block.modSlice_slice_same]
  exact s.b.ledgerOf_length n _

/-! ### Answers to mediators (R194) -/

theorem medAnswer_leaves {s : State} {eid : Nat} {x : Nat × Nat × Out} (hx : (s.b.dict.med.find? fun y => y.1 == eid) = some x)
    (hat : x.2.1 ≤ s.b.time.mclk) : Completes (exec (.medAnswer eid) s) fun t =>
      Frame [.dict, .ports] s t ∧ t.b.dict.med = s.b.dict.med.erase x ∧ t.b.ports.out = x.2.2 :: s.b.ports.out := by
  have hsent := Block.emit_keeps (s.b.modDict fun d => { d with med := d.med.erase x }) x.2.2
  refine Completes.framed (b' := (s.b.modDict fun d => { d with med := d.med.erase x }).emit x.2.2) ?_
    (((s.b.modDict_keeps _).mono (by decide)).trans (hsent.mono (by decide)))
    ⟨congrArg Dict.med (hsent .dict (by decide)), Block.emit_out _ _⟩
    (show exec (.medAnswer eid) s = .next { s with b := match s.b.dict.med.find? fun y => y.1 == eid with
      | none => s.b
      | some x => if x.2.1 ≤ s.b.time.mclk then (s.b.modDict fun d => { d with med := d.med.erase x }).emit x.2.2 else s.b } from rfl)
  rw [hx]
  exact if_pos hat

/-! ### Key selectors (R223, R373) -/

theorem Block.Keeps.key_eq {L : List Part} {b b' : Block} (h : b.Keeps L b') (hn : Part.keys ∉ L) (k : Nat) : b'.key k = b.key k :=
  congrArg (fun t => Tab.get KeySel.reset t k) (h .keys hn)

theorem Block.freshKey_key_same (b : Block) (k n : Nat) : (b.freshKey k n).key k = { holder := n, gen := b.keyGens + 1 } :=
  Tab.get_put_same _ _ _ _

theorem Block.freshKey_key_ne (b : Block) (n : Nat) {j k : Nat} (h : j ≠ k) : (b.freshKey k n).key j = b.key j :=
  Tab.get_put_ne _ _ _ h

theorem Block.freshKey_keeps (b : Block) (k n : Nat) : b.Keeps [.keys, .keyGens] (b.freshKey k n) := fun p hp => by
  cases p <;> first | rfl | exact absurd (by decide) hp

section
variable {s : State} {n eid : Nat} {tag : Byte}

theorem keyRequest_gives {k : Nat} (ha : Admitted s.b eid (0x6100 + n) 2 [1]) (hr : s.b.life.rngFault = false)
    (hk : ((List.range 63).find? fun k => (s.b.key k).holder == 0) = some k) : Completes (exec (.keyRequest n eid tag 1) s) fun t =>
      Frame [.keys, .keyGens, .slices, .ports, .dict] s t ∧ t.b.key k = { holder := n, gen := s.b.keyGens + 1 } ∧
      (∀ j, j ≠ k → t.b.key j = s.b.key j) ∧ (t.b.slice n).sec.keyLast = k := by
  let b₁ := (s.b.freshKey k n).modSec n fun x => { x with keyLast := k }
  have hsec : (s.b.freshKey k n).Keeps [.slices] b₁ := Block.modSec_keeps _ n _
  refine Completes.accepted ha (b' := b₁) ?_ (((s.b.freshKey_keeps k n).mono (by decide)).trans (hsec.mono (by decide))) (by decide)
    fun b hdone => ?_
  · simp [hr, hk, b₁]
  · have hkey (j : Nat) : b.key j = (s.b.freshKey k n).key j := (hdone.key_eq (by decide) j).trans (hsec.key_eq (by decide) j)
    refine ⟨(hkey k).trans (s.b.freshKey_key_same k n), fun j hj => (hkey j).trans (s.b.freshKey_key_ne n hj), ?_⟩
    rw [hdone.slice_eq (by decide)]
    exact congrArg (fun x => x.sec.keyLast) (Block.modSlice_slice_same _ n _)

/-- Where no selector is free, or no draw succeeds, the request gives none. -/
theorem keyRequest_fails (ha : Admitted s.b eid (0x6100 + n) 2 [1])
    (hr : s.b.life.rngFault = true ∨ ∀ k, k < 63 → (s.b.key k).holder ≠ 0) : Completes (exec (.keyRequest n eid tag 1) s) fun t =>
      Frame [.slices, .ports, .dict] s t ∧ (t.b.slice n).sec.keyLast = 0xFF := by
  have hnone : (if s.b.life.rngFault then none else (List.range 63).find? fun k => (s.b.key k).holder == 0) = none := by
    rcases hr with hr | hheld
    · rw [if_pos hr]
    · rw [List.find?_eq_none.2 fun k hk => by simpa using hheld k (List.mem_range.1 hk), ite_self]
  refine Completes.accepted ha (b' := s.b.modSec n fun x => { x with keyLast := 0xFF }) ?_ ((s.b.modSec_keeps n _).mono (by decide)) (by decide)
    fun b hdone => ?_
  · rw [hnone]
    rfl
  · rw [hdone.slice_eq (by decide), Block.modSec, Block.modSlice_slice_same]

/-- A selector that a slice gives up where a draw succeeds: a fresh key pair that nobody holds, and a closed aperture (R446). -/
theorem Block.dropKey_fresh {b : Block} (n k : Nat) (hr : b.life.rngFault = false) : b.dropKey n k =
    (b.freshKey k 0).modSlice n fun x => if x.aptKey == k then { x with aptValid := false } else x := by
  rw [Block.dropKey, hr]
  rfl

theorem keyRelease_replaces {v : Byte} (ha : Admitted s.b eid (0x6100 + n) 4 [v]) (hv : s.b.holdsKey n v.toNat = true)
    (hr : s.b.life.rngFault = false) : Completes (exec (.keyRelease n eid tag v) s) fun t =>
      Frame [.keys, .keyGens, .slices, .ports, .dict] s t ∧ t.b.key v.toNat = { holder := 0, gen := s.b.keyGens + 1 } ∧
      (∀ j, j ≠ v.toNat → t.b.key j = s.b.key j) ∧ ((s.b.slice n).aptKey = v.toNat → (t.b.slice n).aptValid = false) := by
  let close (x : Slice) : Slice := if x.aptKey == v.toNat then { x with aptValid := false } else x
  have hclose : (s.b.freshKey v.toNat 0).Keeps [.slices] ((s.b.freshKey v.toNat 0).modSlice n close) := Block.modSlice_keeps _ n _
  have hkeep := Block.keep_keeps ((s.b.freshKey v.toNat 0).modSlice n close) (0x6100 + n) 4 v.toNat
  refine Completes.accepted ha (b' := ((s.b.freshKey v.toNat 0).modSlice n close).keep (0x6100 + n) 4 v.toNat) ?_
    (((s.b.freshKey_keeps v.toNat 0).mono (by decide)).trans ((hclose.mono (by decide)).trans (hkeep.mono (by decide)))) (by decide)
    fun b hdone => ?_
  · rw [if_pos hv, Block.dropKey_fresh n v.toNat hr]
  · have hkey (j : Nat) : b.key j = (s.b.freshKey v.toNat 0).key j :=
      (hdone.key_eq (by decide) j).trans ((hkeep.key_eq (by decide) j).trans (hclose.key_eq (by decide) j))
    refine ⟨(hkey _).trans (s.b.freshKey_key_same _ 0), fun j hj => (hkey j).trans (s.b.freshKey_key_ne 0 hj), fun hapt => ?_⟩
    rw [hdone.slice_eq (by decide), hkeep.slice_eq (by decide), Block.modSlice_slice_same]
    exact congrArg Slice.aptValid (if_pos (beq_iff_eq.2 hapt))

end

/-! ### Samples (R266 to R269) -/

theorem Rein.sample_est (r : Rein) (point c x bytes j : Nat) : Tab.get 0 (r.sample point c x bytes).est j =
    if j = 16 * point + c then estNext (Tab.get 0 r.est (16 * point + c)) (min x (2 ^ 24 - 1)) else Tab.get 0 r.est j := Tab.get_set ..

theorem Rein.sample_class (r : Rein) (point cls x bytes c : Nat) : (r.sample point cls x bytes).class c = if c = cls then
      { n := (r.class c).n + 1, m := (r.class c).m + (if clsTarget (r.setting c) < min x (2 ^ 24 - 1) then 1 else 0)
        largest := max (r.class c).largest (min x (2 ^ 24 - 1)), bytes := (r.class c).bytes + bytes }
    else r.class c := by
  rw [Rein.class, Rein.sample, Tab.get_set]
  by_cases hc : c = cls
  · subst hc
    rw [if_pos rfl, if_pos rfl]
    by_cases ht : clsTarget (r.setting c) < min x (2 ^ 24 - 1)
    · simp only [if_pos ht]
    · simp only [if_neg ht, Nat.add_zero]
  · rw [if_neg hc, if_neg hc, Rein.class]

theorem reinSample_moves {s : State} {n point cls : Nat} (x bytes : Nat) (hg : s.b.gated = false) (hst : (s.b.slice n).st ≠ .none)
    (hcls : cls < 16) (hm : s.b.measures n point = true) : Completes (exec (.reinSample n point cls x bytes) s) fun t =>
      Frame [.slices] s t ∧ (∀ m, m ≠ n → t.b.slice m = s.b.slice m) ∧
        (t.b.slice n).rein = (s.b.slice n).rein.sample point cls x bytes := by
  have hcond : ((s.b.slice n).st != .none && cls < 16 && s.b.measures n point) = true := by simp [hst, hcls, hm]
  refine Completes.framed (if_pos hcond) (s.b.modSlice_keeps n _) ⟨s.b.modSlice_others n _, ?_⟩ (State.onCompute_running hg _)
  rw [Block.modSlice_slice_same]

/-- Settles O34: each command's own case; a sample moves what `Rein.sample` moves. -/
theorem ledgersKeysAndSamples : Obligations.LedgersKeysAndSamples := by
  unfold Obligations.LedgersKeysAndSamples
  refine ⟨fun s n eid tag => ⟨fun v => nonce_asked, fun k => keyRequest_gives, keyRequest_fails, fun v => keyRelease_replaces⟩,
    fun s n => nonceLedgerReady_signs, fun s eid x => medAnswer_leaves, fun s n point cls x bytes hg hst hcls hm => ?_⟩
  refine (reinSample_moves x bytes hg hst hcls hm).mono fun t ⟨hframe, hothers, hrein⟩ => ⟨hframe, hothers, fun j => ?_, fun c => ?_⟩
  · rw [hrein, Rein.sample_est]
  · rw [hrein, Rein.sample_class]

end Sys2Proof.Machine
end
section
/-! A slice map that runs past its group (R188, R200, R389). Refutes O32. -/

namespace Sys2Proof.Machine

/-- Slice 1 has group 0 and cores 0 to 15; the image gives the group 2^38 bytes of memory, twice what OFFSET can name, and core 15's
role has one of two generations. -/
def stateWithLargeGroup (newer : Bool) : State :=
  { State.reset with
    b := { Block.reset with
      start := { Block.reset.start with memMib := [(0, 2 ^ 18)] }
      recon := { Recon.reset with groupOwner := [(0, 1)] }
      slices := [(1, { Slice.reset with st := .active })]
      keys := [(63, { holder := 0, gen := 1 })]
      dict := { Dict.reset with bindings := [(0, { eid := 8, role := 3, slices := 2 })] }
      cores := (List.range 16).map fun c => (c, { Core.reset with owner := 1, roleGen := if newer && c == 15 then 1 else 0 }) } }

/-- A place for the map in the last 128 bytes that group 0's addresses reach: core 15's entry stands past them. -/
def mapAtGroupEnd : Dword := 0x1FFFFFFF80

theorem mapAtGroupEnd_entry : mapAtGroupEnd.toNat + 8 + 8 * 15 = 2 ^ 37 := by decide

theorem mapAtGroupEnd_admitted (newer : Bool) :
    Admitted (stateWithLargeGroup newer).b 8 (0x2100 + 1) 0x0C (toLe 8 mapAtGroupEnd.toNat) := by
  unfold Admitted
  revert newer
  decide +kernel

/-- R200 accepts the map's range: the group's memory is larger. -/
theorem mapAtGroupEnd_range : ∀ newer, (stateWithLargeGroup newer).b.ownRange 1 mapAtGroupEnd.toNat 520 = true := by decide +kernel

theorem mapAtGroupEnd_calm (newer : Bool) : Calm (stateWithLargeGroup newer).b (gaKey mapAtGroupEnd.toNat) 520 :=
  ⟨rfl, rfl, fun _ _ => rfl⟩

theorem stateWithLargeGroup_key : ∀ newer, (stateWithLargeGroup newer).b.ownGen 1 ≠ 0 := by decide +kernel

theorem stateWithLargeGroup_core : ∀ newer, ((stateWithLargeGroup newer).b.coresOf 1)[15]? = some 15 := by decide +kernel

/-- What a reader of slice 1 sees past group 0, whatever the map's write has changed: group 1 is not the slice's. -/
theorem rdOwn_pastGroup {newer : Bool} {t : State} (h : Frame [.slices, .mem, .coh, .cores, .ports, .dict] (stateWithLargeGroup newer) t) :
    t.b.rdOwn 1 (2 ^ 37) 8 = (List.range 8).map fun i => Block.reset.openByte (gaKey (2 ^ 37) + i) := by
  obtain ⟨-, -, -, hkeeps⟩ := h
  have hrecon : t.b.recon = { Recon.reset with groupOwner := [(0, 1)] } := hkeeps .recon (by decide)
  have hdraws : t.b.draws = Block.reset.draws := hkeeps .draws (by decide)
  have howner : t.b.groupOwner (gaGroup (2 ^ 37)) = 0 := by rw [Block.groupOwner, hrecon]; decide
  have hout : ¬ t.b.ownRange 1 (2 ^ 37) 8 = true := by rw [Block.ownRange, howner]; simp
  rw [Block.rdOwn, if_neg hout]
  exact List.map_congr_left fun i _ => by rw [Block.openByte, Block.openByte, hdraws]

/-- Core 15's entry as the statement has it. -/
def entryOfCore15 (newer : Bool) : List Byte :=
  let b := (stateWithLargeGroup newer).b
  toLe 8 ((b.core 15).roleGen.toNat * 2 ^ 32 + b.zhCore 15)

/-- Refutes O32: `ownRange` measures a range against the memory that the image gives a group (R389), not against the 2^37 bytes that
OFFSET reaches. With more memory than that in group 0, a map near the end of its addresses is accepted, and core 15's entry, at 2^37,
lies in group 1, which the slice does not hold: what is read there does not follow the role's generation. -/
theorem not_sliceRequestsAreJudgedAtTheCommit : ¬ Obligations.SliceRequestsAreJudgedAtTheCommit := by
  rintro ⟨-, hmap⟩
  have hread (newer : Bool) : (List.range 8).map (fun i => Block.reset.openByte (gaKey (2 ^ 37) + i)) = entryOfCore15 newer := by
    obtain ⟨-, hset⟩ := hmap (stateWithLargeGroup newer) 1 8 0 mapAtGroupEnd (mapAtGroupEnd_admitted newer)
    obtain ⟨t, -, hframe, -, hentries⟩ := hset (by decide) (by decide) (by decide) (mapAtGroupEnd_range newer)
    obtain ⟨-, hentry⟩ := hentries (stateWithLargeGroup_key newer) (mapAtGroupEnd_calm newer)
    have h := hentry 15 15 (by decide) (stateWithLargeGroup_core newer)
    rw [mapAtGroupEnd_entry, rdOwn_pastGroup hframe] at h
    exact h
  exact absurd ((hread false).symm.trans (hread true)) (by decide +kernel)

end Sys2Proof.Machine
end
section
/-! Data that a grant lets run past its group (R200, R225, R389). Refutes O55. -/

namespace Sys2Proof.Machine

/-- A source on another package. -/
def remoteSource : FlitSrc := { package := 1, slice := 1, tag := 5 }

/-- The compute clock runs, and the image gives group 0, which slice 1 holds, 2^38 bytes of memory, twice what OFFSET can name. Grant 1
lets any slice of any package read and write 128 KiB from 64 KiB before the end of the group's addresses, and a write of 128 bytes from
that end on waits for its data. -/
def stateWithLargeGrant : State :=
  { State.reset with
    b := { Block.reset with
      start := { Block.reset.start with released := true, memMib := [(0, 2 ^ 18)] }
      recon := { Recon.reset with groupOwner := [(0, 1)] }
      keys := [(63, { holder := 0, gen := 1 })]
      mem := { Block.reset.mem with keyGen := [(2 ^ 30, 1)] }
      dict := { Dict.reset with grants := [(1, toLe 8 (2 ^ 37 - 65536) ++ toLe 4 2 ++ [1, 3, 0xFF, 0xFF, 0xFF])] }
      ports := { Block.reset.ports with inWrites := [{ port := 0, src := remoteSource, addr := 2 ^ 37, left := 128 }] } } }

def dataOnes : List Byte := List.replicate 128 0xFF

theorem dataOnes_length : dataOnes.length = 128 := List.length_replicate

theorem stateWithLargeGrant_key : stateWithLargeGrant.b.ownGen 1 = 1 := by decide +kernel

theorem stateWithLargeGrant_homesFree : HomesFree stateWithLargeGrant.b := by
  unfold HomesFree
  decide +kernel

/-- The grant lies within the memory that the image gives, and so it covers the write. -/
theorem stateWithLargeGrant_granted : stateWithLargeGrant.b.granted? remoteSource.package remoteSource.slice (2 ^ 37) 128 2 = some 1 := by
  decide +kernel

/-- The block once the data have arrived. -/
def blockWithLargeGrant : Block :=
  stateWithLargeGrant.b.arrives 0 fun b =>
    match b.inWrite 0 remoteSource with
    | none => b
    | some w => b.dataArrives 0 remoteSource w (dataOnes.take w.left)

theorem exec_wrData_stateWithLargeGrant :
    exec (.wrData 0 remoteSource dataOnes) stateWithLargeGrant = .next { stateWithLargeGrant with b := blockWithLargeGrant } := rfl

/-- The data have reached no place: group 1, in which they would stand, is not slice 1's. -/
theorem blockWithLargeGrant_byte : blockWithLargeGrant.rdByte 1 (2 ^ 37) = 0 := by decide +kernel

/-- The first byte of what is read. -/
theorem Block.rdMem_head {b : Block} {g k n : Nat} {bs : List Byte} (h : b.rdMem g k n = bs) (hn : 0 < n) :
    bs.head? = some (b.rdByte g k) := by
  subst h
  cases n with
  | zero => exact absurd hn (Nat.lt_irrefl 0)
  | succ n => rfl

/-- Refutes O55: a grant is in force where its range lies within the memory that the image gives its first group (R389), and that can be
more than the 2^37 bytes which OFFSET reaches. Here the grant covers 128 bytes at the next group's start, the write is acknowledged, and
the block's own write, which looks at the group that the address names, is not made. -/
theorem not_remoteRequestsAndAnswers : ¬ Obligations.RemoteRequestsAndAnswers := by
  intro h
  obtain ⟨-, hdata, -⟩ := h stateWithLargeGrant 0 remoteSource (by decide)
  obtain ⟨t, he, -, -, -, hwritten, -⟩ := hdata dataOnes { port := 0, src := remoteSource, addr := 2 ^ 37, left := 128 } 1 rfl rfl
    (by decide) (by decide +kernel) stateWithLargeGrant_homesFree rfl stateWithLargeGrant_granted
  rw [exec_wrData_stateWithLargeGrant] at he
  have hblock : t.b = blockWithLargeGrant := by
    cases he
    dsimp only
  have hread := hwritten (stateWithLargeGrant_key ▸ Nat.one_ne_zero)
  rw [stateWithLargeGrant_key, dataOnes_length, show gaKey (2 ^ 37) = 2 ^ 37 by decide] at hread
  have hfirst := Block.rdMem_head hread (by decide)
  rw [hblock, blockWithLargeGrant_byte] at hfirst
  exact absurd hfirst (by decide)

end Sys2Proof.Machine
end
section
/-! Launches and notifications as firmware reads and ends them, and accesses that fail (R206, R253, R262; O23). -/

namespace Sys2Proof.Machine

section
variable {s : State} {core : Nat} (hr : HartRuns s.b core)
include hr

/-- In machine mode a write of zh.launch ends the launch with its CODE (R253). -/
theorem zhLaunch_ends (v : Dword) {l : Launch} (hm : (s.b.core core).hart.machine = true) (hl : (s.b.core core).hart.launch = some l)
    (hc : l.code = none) :
    Completes (exec (.zhLaunchWrite core v) s) fun t =>
      OnlyHart core s t ∧ (t.b.core core).hart.pc = (s.b.core core).hart.pc + 4 ∧ (t.b.core core).hart.extIrq = false ∧
      (t.b.core core).hart.launch = some { l with code := some (dfld v 7 0) } := by
  have he : exec (.zhLaunchWrite core v) s = .next { s with b := s.b.modHart core fun x => { x.step4 with
      launch := x.launch.map fun l => { l with code := some (l.code.getD (dfld v 7 0)) }, extIrq := false } } := by
    show execZhLaunchWrite core v s = _
    rw [execZhLaunchWrite, State.onBlock_eq, Block.onHart_runs _ _ _ _ hr, hm]
    rfl
  exact Completes.hartOnly (fun h' => h'.pc = (s.b.core core).hart.pc + 4 ∧ h'.extIrq = false ∧ h'.launch = some _) he
    ⟨rfl, rfl, by rw [hl, Option.map_some, hc, Option.getD_none]⟩

/-- In user mode zh.launch does not exist (R253). -/
theorem zhLaunch_traps (v : Dword) (hm : (s.b.core core).hart.machine = false) :
    Completes (exec (.zhLaunchWrite core v) s) fun t =>
      OnlyHart core s t ∧ (t.b.core core).hart = (s.b.core core).hart.trap cIllegal 0 := by
  have he : exec (.zhLaunchWrite core v) s = .next { s with b := s.b.modHart core fun x => x.trap cIllegal 0 } := by
    show execZhLaunchWrite core v s = _
    rw [execZhLaunchWrite, State.onBlock_eq, Block.onHart_runs _ _ _ _ hr, hm]
    rfl
  exact Completes.onlyHart he rfl

/-- A read of zh.fnote takes the oldest notification (R262). -/
theorem zhFnote_takes (rd : Nat) :
    Completes (exec (.zhFnoteRead core rd) s) fun t =>
      OnlyHart core s t ∧ (t.b.core core).hart.notes = (s.b.core core).hart.notes.drop 1 ∧
      (t.b.core core).hart.pc = (s.b.core core).hart.pc + 4 ∧
      ∀ r, (t.b.core core).hart.reg r = if r = rd ∧ rd ≠ 0 then (s.b.core core).hart.noteWord else (s.b.core core).hart.reg r := by
  have he : exec (.zhFnoteRead core rd) s = .next { s with b := s.b.modHart core fun x =>
      { (x.setReg rd (s.b.core core).hart.noteWord).step4 with
        notes := (s.b.core core).hart.notes.drop 1
        noteOverflow := if (s.b.core core).hart.notes.isEmpty then (s.b.core core).hart.noteOverflow else false } } := by
    show execZhFnoteRead core rd s = _
    rw [execZhFnoteRead, State.onBlock_eq, Block.onHart_runs _ _ _ _ hr]
  exact Completes.hartOnly
    (fun h' => h'.notes = (s.b.core core).hart.notes.drop 1 ∧ h'.pc = (s.b.core core).hart.pc + 4 ∧
      ∀ r, h'.reg r = if r = rd ∧ rd ≠ 0 then (s.b.core core).hart.noteWord else (s.b.core core).hart.reg r) he
    ⟨rfl, congrArg (· + 4) (Hart.setReg_pc _ _ _), Hart.setReg_reg _ _ _⟩

/-- An access whose translation fails is an access fault (R206). -/
theorem cpAccessFault_traps (k : AccessKind) (va : Dword) (hf : s.b.cpFails core va.toNat (k == .store) = true) :
    Completes (exec (.cpAccessFault core k va) s) fun t =>
      OnlyHart core s t ∧ (t.b.core core).hart = (s.b.core core).hart.trap (accessCause k) va := by
  have he : exec (.cpAccessFault core k va) s = .next { s with b := s.b.modHart core fun x => x.trap (accessCause k) va } := by
    show execCpAccessFault core k va s = _
    rw [execCpAccessFault, State.onBlock_eq, Block.onHart_runs _ _ _ _ hr, if_pos hf]
  exact Completes.onlyHart he rfl

end

/-- Settles O23: each instruction changes its own control processor, by its effect or by a trap. -/
theorem launchNoteAndAccessFault : Obligations.LaunchNoteAndAccessFault := by
  intro s core hr
  refine ⟨fun v l hm hl hc => zhLaunch_ends hr v hm hl hc, fun v hm => ?_, fun rd => zhFnote_takes hr rd, fun k va hf => ?_⟩
  · obtain ⟨hmachine, -⟩ := (s.b.core core).hart.trap_enters cIllegal 0
    obtain ⟨hepc, hcause, -⟩ := (s.b.core core).hart.trap_csrs cIllegal 0
    exact (zhLaunch_traps hr v hm).mono fun t ⟨hs, hh⟩ => ⟨hs, hh ▸ rfl, hh ▸ hmachine, hh ▸ hcause, hh ▸ hepc⟩
  · obtain ⟨hmachine, -, -, hpc⟩ := (s.b.core core).hart.trap_enters (accessCause k) va
    obtain ⟨hepc, hcause, htval⟩ := (s.b.core core).hart.trap_csrs (accessCause k) va
    refine (cpAccessFault_traps hr k va hf).mono fun t ⟨hs, hh⟩ => ⟨hs, hh ▸ hmachine, hh ▸ htval, hh ▸ hepc, hh ▸ hpc, ?_⟩
    rw [hh, hcause]
    cases k <;> rfl

end Sys2Proof.Machine
end
section
/-! What writes of the block's own and accesses of units leave of the translation units' registers (R212, R276), and what faults and
invalidations do to them (R211 to R217). -/

namespace Sys2Proof.Machine

/-! ### Registers of the translation units -/

/-- Accesses change no register of a translation unit. -/
theorem Accesses.xlat {core : Nat} {b b' : Block} (h : Accesses core b b') (n : Nat) : (b'.slice n).xlat = (b.slice n).xlat := by
  induction h with
  | refl => rfl
  | trans _ _ ih ih' => exact ih'.trans ih
  | modCnt b m f =>
    by_cases hm : n = m
    · rw [hm, Block.modCnt, Block.modSlice_slice_same]
    · rw [Block.modCnt, Block.modSlice_slice_ne _ _ hm]
  | modCoh => rfl
  | modMem => rfl
  | dropReservation => rfl
  | modPorts => rfl
  | cached => rfl
  | scratch => rfl

theorem Block.wrOwn_xlat (b : Block) (m a : Nat) (bs : List Byte) (n : Nat) : ((b.wrOwn m a bs).slice n).xlat = (b.slice n).xlat :=
  (Accesses.wrOwn (core := 0) b m a bs).xlat n

@[simp] theorem Block.modXlat_xlat_same (b : Block) (n : Nat) (f : XlatRegs → XlatRegs) :
    ((b.modXlat n f).slice n).xlat = f (b.slice n).xlat := by
  rw [Block.modXlat, Block.modSlice_slice_same]

/-- A change of its translation unit's registers leaves a slice's other registers. -/
theorem Block.modXlat_ctxr (b : Block) (n : Nat) (f : XlatRegs → XlatRegs) (m : Nat) :
    ((b.modXlat n f).slice m).ctxr = (b.slice m).ctxr := by
  by_cases h : m = n
  · rw [h, Block.modXlat, Block.modSlice_slice_same]
  · rw [Block.modXlat, Block.modSlice_slice_ne _ _ h]

/-! ### Invalidations (R216) -/

/-- Changes of windows in memory, with their pins: what an invalidation makes of the windows that it revokes. -/
structure WindowWrites (b b' : Block) : Prop where
  keeps : b.Keeps [.ctxs, .mem, .coh, .cores, .slices] b'
  xlat : ∀ n, (b'.slice n).xlat = (b.slice n).xlat

namespace WindowWrites

theorem refl (b : Block) : WindowWrites b b := ⟨Block.Keeps.refl _ b, fun _ => rfl⟩

theorem trans {b c d : Block} (h : WindowWrites b c) (g : WindowWrites c d) : WindowWrites b d :=
  ⟨h.keeps.trans g.keeps, fun n => (g.xlat n).trans (h.xlat n)⟩

theorem ite {b x y : Block} {p : Prop} [Decidable p] (hx : WindowWrites b x) (hy : WindowWrites b y) :
    WindowWrites b (if p then x else y) := by
  split
  · exact hx
  · exact hy

theorem each (f : Nat → Block → Block) (hf : ∀ n b, WindowWrites b (f n b)) (l : List Nat) (b : Block) : WindowWrites b (b.each l f) := by
  induction l generalizing b with
  | nil => exact refl b
  | cons n l ih => exact (hf n b).trans (ih (f n b))

theorem wrOwn (b : Block) (n a : Nat) (bs : List Byte) : WindowWrites b (b.wrOwn n a bs) :=
  ⟨(Homely.wrOwn b n a bs).keeps.mono (by decide), b.wrOwn_xlat n a bs⟩

theorem unpin (b : Block) (c w : Nat) : WindowWrites b (b.unpin c w) :=
  ite ⟨(b.modCtx_keeps c _).mono (by decide), fun _ => rfl⟩ (refl b)

theorem setWinStatus (b : Block) (c w status cause : Nat) : WindowWrites b (b.setWinStatus c w status cause) :=
  ((unpin b c w).trans (wrOwn _ _ _ _)).trans (wrOwn _ _ _ _)

end WindowWrites

/-- An invalidation that starts drops cached entries, notes what is outstanding under them, and revokes windows. -/
theorem Block.startInval_windows (b : Block) (n : Nat) (i : Inval) : ∃ tlb dmas tags,
    WindowWrites (b.modXlat n fun x => { x with tlb := tlb, invalDmas := dmas, invalTags := tags }) (b.startInval n i) := by
  refine ⟨_, _, _, WindowWrites.each _ (fun c b => WindowWrites.each _ (fun w b => ?_) _ b) _ _⟩
  exact WindowWrites.ite (WindowWrites.setWinStatus b c w 3 0) (WindowWrites.refl b)

/-- An invalidation joins the slice's others, and GO stays. -/
theorem Block.addInval_joins (b : Block) (n : Nat) (i : Inval) :
    b.Keeps [.slices, .mem, .coh, .cores, .ctxs] (b.addInval n i) ∧ ((b.addInval n i).slice n).xlat.go = (b.slice n).xlat.go ∧
      ((b.addInval n i).slice n).xlat.invals = (b.slice n).xlat.invals ++ [i] := by
  have hjoin : ((b.modXlat n fun x => { x with invals := x.invals ++ [i] }).slice n).xlat =
      { (b.slice n).xlat with invals := (b.slice n).xlat.invals ++ [i] } := Block.modXlat_xlat_same b n _
  have hkeep := (b.modXlat_keeps n fun x => { x with invals := x.invals ++ [i] }).mono (M := [.slices, .mem, .coh, .cores, .ctxs]) (by decide)
  rw [Block.addInval]
  split
  · obtain ⟨tlb, dmas, tags, hw⟩ := (b.modXlat n fun x => { x with invals := x.invals ++ [i] }).startInval_windows n i
    refine ⟨(hkeep.trans ((Block.modXlat_keeps _ n _).mono (by decide))).trans (hw.keeps.mono (by decide)), ?_, ?_⟩ <;>
      rw [hw.xlat, Block.modXlat_xlat_same, hjoin]
  · exact ⟨hkeep, by rw [hjoin], by rw [hjoin]⟩

end Sys2Proof.Machine
end
section
/-! Writes of ZH_INVAL_CTRL and the end of the register's own invalidation (R212, R216 to R218; O30). -/

namespace Sys2Proof.Machine

/-! ### ZH_INVAL_CTRL written -/

/-- What bit 30 of a write of ZH_INVAL_CTRL does. -/
def Block.overrunTaken (b : Block) (n : Nat) (ctrl : Word) : Block :=
  if ctrl.getLsbD 30 then b.modXlat n fun x => { x with overrun := false } else b

theorem Block.overrunTaken_eq (b : Block) (n : Nat) (ctrl : Word) :
    b.Keeps [.slices] (b.overrunTaken n ctrl) ∧ ∃ o, ((b.overrunTaken n ctrl).slice n).xlat = { (b.slice n).xlat with overrun := o } := by
  rw [Block.overrunTaken]
  split
  · exact ⟨b.modXlat_keeps n _, false, Block.modXlat_xlat_same b n _⟩
  · exact ⟨Block.Keeps.refl _ b, _, rfl⟩

/-- The registers after a write of ZH_INVAL_CTRL that is not ignored, with what GO reads then. -/
def XlatRegs.setCtrl (x : XlatRegs) (ctrl : Word) (go : Bool) : XlatRegs :=
  { x with genBump := ctrl.getLsbD 26, allCtx := ctrl.getLsbD 25, ctx := fld ctrl.toNat 19 0, go := go }

/-- The invalidation that such a write asks for. -/
def XlatRegs.inval (x : XlatRegs) (ctrl : Word) : Inval :=
  { ctx := if ctrl.getLsbD 25 then none else some (fld ctrl.toNat 19 0), va := x.invalVa.toNat, len := x.invalLen.toNat
    bump := ctrl.getLsbD 26 && !ctrl.getLsbD 25, use := .reg }

/-- The block after a write of ZH_INVAL_CTRL. -/
def Block.invalWritten (b : Block) (n : Nat) (ctrl : Word) : Block :=
  let x := (b.slice n).xlat
  if x.go && ctrl.getLsbD 31 then (b.overrunTaken n ctrl).modXlat n fun x => { x with overrun := true }
  else if ctrl.getLsbD 31 then ((b.overrunTaken n ctrl).modXlat n fun x => x.setCtrl ctrl true).addInval n (x.inval ctrl)
  else (b.overrunTaken n ctrl).modXlat n fun y => y.setCtrl ctrl x.go

/-- A write of ZH_INVAL_CTRL while the compute clock runs. -/
theorem exec_invalidation {s : State} {n : Nat} (hg : s.b.gated = false) (hst : (s.b.slice n).st ≠ .none) (ctrl : Word) :
    exec (.invalidation n ctrl) s = .next { s with b := s.b.invalWritten n ctrl } := by
  obtain ⟨-, o, ho⟩ := s.b.overrunTaken_eq n ctrl
  have hne : ((s.b.slice n).st == .none) = false := beq_eq_false_iff_ne.2 hst
  show execInvalidation n ctrl s = _
  rw [execInvalidation, State.onHost_open hg, State.onBlock_eq, hne, if_neg Bool.false_ne_true, ← Block.overrunTaken.eq_1,
    Block.invalWritten]
  simp only [Block.modXlat_xlat_same, ho]
  cases (s.b.slice n).xlat.go <;> cases ctrl.getLsbD 31 <;> rfl

section
variable {s : State} {n : Nat} (hg : s.b.gated = false) (hst : (s.b.slice n).st ≠ .none) {ctrl : Word}
include hg hst

/-- GO written while none of the register's invalidations is under way (R216). -/
theorem invalidation_joins (hgo : (s.b.slice n).xlat.go = false) (hc : ctrl.getLsbD 31 = true) :
    Completes (exec (.invalidation n ctrl) s) fun t =>
      Frame [.slices, .mem, .coh, .cores, .ctxs] s t ∧ (t.b.slice n).xlat.go = true ∧
      (t.b.slice n).xlat.invals = (s.b.slice n).xlat.invals ++ [(s.b.slice n).xlat.inval ctrl] := by
  obtain ⟨hkeep, o, ho⟩ := s.b.overrunTaken_eq n ctrl
  have hb : s.b.invalWritten n ctrl =
      ((s.b.overrunTaken n ctrl).modXlat n fun x => x.setCtrl ctrl true).addInval n ((s.b.slice n).xlat.inval ctrl) := by
    rw [Block.invalWritten, hgo, hc]
    rfl
  obtain ⟨hjoin, hgo', hinvals⟩ :=
    ((s.b.overrunTaken n ctrl).modXlat n fun x => x.setCtrl ctrl true).addInval_joins n ((s.b.slice n).xlat.inval ctrl)
  rw [Block.modXlat_xlat_same] at hgo' hinvals
  refine Completes.framed hb ?_ ⟨hgo', ?_⟩ (exec_invalidation hg hst ctrl)
  · exact ((hkeep.trans (Block.modXlat_keeps _ n _)).mono (by decide)).trans hjoin
  · rw [hinvals, ho]
    rfl

/-- GO written while it reads 1 (R212). -/
theorem invalidation_overruns (hgo : (s.b.slice n).xlat.go = true) (hc : ctrl.getLsbD 31 = true) :
    Completes (exec (.invalidation n ctrl) s) fun t =>
      Frame [.slices] s t ∧ (t.b.slice n).xlat.overrun = true ∧ (t.b.slice n).xlat.invals = (s.b.slice n).xlat.invals := by
  obtain ⟨hkeep, o, ho⟩ := s.b.overrunTaken_eq n ctrl
  have hb : s.b.invalWritten n ctrl = (s.b.overrunTaken n ctrl).modXlat n fun x => { x with overrun := true } := by
    rw [Block.invalWritten, hgo, hc]
    rfl
  refine Completes.framed hb (hkeep.trans (Block.modXlat_keeps _ n _)) ⟨?_, ?_⟩ (exec_invalidation hg hst ctrl) <;>
    rw [Block.modXlat_xlat_same]
  rw [ho]

/-- The other fields written without GO (R212). -/
theorem invalidation_setsFields (hc : ctrl.getLsbD 31 = false) :
    Completes (exec (.invalidation n ctrl) s) fun t =>
      Frame [.slices] s t ∧ ∃ o, (t.b.slice n).xlat = { (s.b.slice n).xlat with overrun := o }.setCtrl ctrl (s.b.slice n).xlat.go := by
  obtain ⟨hkeep, o, ho⟩ := s.b.overrunTaken_eq n ctrl
  have hb : s.b.invalWritten n ctrl = (s.b.overrunTaken n ctrl).modXlat n fun y => y.setCtrl ctrl (s.b.slice n).xlat.go := by
    rw [Block.invalWritten, hc, Bool.and_false]
    rfl
  refine Completes.framed hb (hkeep.trans (Block.modXlat_keeps _ n _)) ⟨o, ?_⟩ (exec_invalidation hg hst ctrl)
  rw [Block.modXlat_xlat_same, ho]

end

/-! ### The register's own invalidation ends -/

/-- The generation that the end of an invalidation gives its context (R217). -/
def Block.invalBumps (b : Block) (n : Nat) (i : Inval) : Block :=
  match i.ctx with
  | some c => if i.bump && b.ctxInRange n c then b.modCtx c fun x => { x with gen := x.gen + 1 } else b
  | none => b

theorem Block.invalBumps_keeps (b : Block) (n : Nat) (i : Inval) : b.Keeps [.ctxs] (b.invalBumps n i) := by
  rw [Block.invalBumps]
  split
  · exact Block.Keeps.ite (b.modCtx_keeps _ _) (Block.Keeps.refl _ b)
  · exact Block.Keeps.refl _ b

/-- The register's invalidation of a range is over: it is counted, and GO reads 0. -/
theorem Block.invalDone_reg (b : Block) (n : Nat) {i : Inval} (hu : i.use = .reg) (hl : i.len ≠ 0) :
    b.invalDone n i = (b.modXlat n fun x => { x with invalDone := x.invalDone + 1, go := false }).invalBumps n i := by
  have hlen : (i.len == 0) = false := beq_eq_false_iff_ne.2 hl
  have hgo : ∀ x : XlatRegs, (x.go && InvalUse.reg != InvalUse.reg) = false := fun x => by rw [bne_self_eq_false, Bool.and_false]
  cases hctx : i.ctx <;>
    simp only [Block.invalDone, Block.invalBumps, hctx, hu, hlen, hgo, InvalUse.isVi, Bool.or_false, Bool.false_eq_true, if_false]

/-- The one invalidation of a slice ends once it is acknowledged (R216). -/
theorem exec_invalidationComplete {s : State} {n : Nat} {i : Inval} (hg : s.b.gated = false) (hi : (s.b.slice n).xlat.invals = [i])
    (hu : i.use = .reg) (hl : i.len ≠ 0) (ha : s.b.invalAcked n i = true) :
    exec (.invalidationComplete n) s = .next { s with b :=
      (((s.b.modXlat n fun x => { x with invals := [] }).modXlat n fun x =>
        { x with invalDone := x.invalDone + 1, go := false }).invalBumps n i) } := by
  show execInvalidationComplete n s = _
  rw [execInvalidationComplete, State.onCompute, State.onBlock_eq, hg, if_neg Bool.false_ne_true, hi]
  simp only [ha, if_true, Block.invalDone_reg _ n hu hl]
  rw [((Block.invalBumps_keeps _ n i).slice_eq (by decide) n), Block.modXlat_xlat_same, Block.modXlat_xlat_same]

/-- When every acknowledgement has arrived the register's own invalidation ends (R216, R217). -/
theorem invalidationComplete_ends {s : State} {n : Nat} {i : Inval} (hg : s.b.gated = false) (hi : (s.b.slice n).xlat.invals = [i])
    (hu : i.use = .reg) (hl : i.len ≠ 0) (ha : s.b.invalAcked n i = true) :
    Completes (exec (.invalidationComplete n) s) fun t =>
      Frame [.slices, .ctxs] s t ∧ (t.b.slice n).xlat.go = false ∧ (t.b.slice n).xlat.invals = [] ∧
      (t.b.slice n).xlat.invalDone = (s.b.slice n).xlat.invalDone + 1 ∧
      (∀ c, i.ctx = some c → i.bump = true → s.b.ctxInRange n c = true → (t.b.ctx c).gen = (s.b.ctx c).gen + 1) ∧
      (i.bump = false → t.b.ctxs = s.b.ctxs) := by
  have he := exec_invalidationComplete hg hi hu hl ha
  generalize hb : (s.b.modXlat n fun x => { x with invals := [] }).modXlat n (fun x =>
    { x with invalDone := x.invalDone + 1, go := false }) = b at he
  have hkeep : s.b.Keeps [.slices] b := hb ▸ (s.b.modXlat_keeps n _).trans (Block.modXlat_keeps _ n _)
  have hx : (b.slice n).xlat = { (s.b.slice n).xlat with invals := [], invalDone := (s.b.slice n).xlat.invalDone + 1, go := false } := by
    rw [← hb, Block.modXlat_xlat_same, Block.modXlat_xlat_same]
  have hrange : ∀ c, b.ctxInRange n c = s.b.ctxInRange n c := fun c => by
    rw [← hb, Block.ctxInRange, Block.modXlat_ctxr, Block.modXlat_ctxr, Block.ctxInRange]
  have hslice := (b.invalBumps_keeps n i).slice_eq (by decide) n
  refine Completes.framed rfl ((hkeep.mono (by decide)).trans ((b.invalBumps_keeps n i).mono (by decide)))
    ⟨?_, ?_, ?_, fun c hc hbump hr => ?_, fun hbump => ?_⟩ he
  · rw [hslice, hx]
  · rw [hslice, hx]
  · rw [hslice, hx]
  · have hbumps : b.invalBumps n i = b.modCtx c fun x => { x with gen := x.gen + 1 } := by
      simp only [Block.invalBumps, hc, hbump, hrange, hr, Bool.and_self, if_true]
    rw [hbumps, Block.modCtx_ctx_same, hkeep.ctx_eq (by decide)]
  · have hbumps : b.invalBumps n i = b := by
      rw [Block.invalBumps, hbump]
      cases i.ctx <;> rfl
    rw [hbumps]
    exact hkeep .ctxs (by decide)

/-- Settles O30: a write of the register joins the slice's engine, is counted as an overrun, or sets the other fields; and the end of
the register's own invalidation clears GO, counts it, and gives its context a new generation where GEN_BUMP asks for one. -/
theorem invalidationsJoinAndComplete : Obligations.InvalidationsJoinAndComplete := by
  intro s n hg hst
  refine ⟨fun ctrl hgo hc => invalidation_joins hg hst hgo hc, fun ctrl hgo hc => invalidation_overruns hg hst hgo hc,
    fun ctrl hc => ?_, fun i hi hu hl ha => invalidationComplete_ends hg hi hu hl ha⟩
  refine (invalidation_setsFields hg hst hc).mono fun t ⟨hframe, o, hx⟩ => ⟨hframe, ?_⟩
  rw [hx]
  exact ⟨rfl, rfl, rfl, rfl, rfl⟩

end Sys2Proof.Machine
end
section
/-! The fault ring (R211 to R214) and its registers; transfers at a page that waits (R215). -/

namespace Sys2Proof.Machine

/-! ### The fault ring -/

/-- What the writing and holding of fault records can do: memory, the interrupt, and of the ring's registers HEAD and the records held. -/
structure FaultWrites (b b' : Block) : Prop where
  keeps : b.Keeps [.slices, .mem, .coh, .cores, .ports] b'
  xlat : ∀ n, ∃ head held, (b'.slice n).xlat = { (b.slice n).xlat with faultHead := head, held := held }

namespace FaultWrites

theorem refl (b : Block) : FaultWrites b b := ⟨Block.Keeps.refl _ b, fun _ => ⟨_, _, rfl⟩⟩

theorem trans {b c d : Block} (h : FaultWrites b c) (g : FaultWrites c d) : FaultWrites b d where
  keeps := h.keeps.trans g.keeps
  xlat n := by
    obtain ⟨_, _, hx⟩ := h.xlat n
    obtain ⟨head, held, hy⟩ := g.xlat n
    exact ⟨head, held, by rw [hy, hx]⟩

theorem ite {b x y : Block} {p : Prop} [Decidable p] (hx : FaultWrites b x) (hy : FaultWrites b y) : FaultWrites b (if p then x else y) := by
  split
  · exact hx
  · exact hy

theorem modXlat (b : Block) (n : Nat) {f : XlatRegs → XlatRegs} (hf : ∀ x, ∃ head held, f x = { x with faultHead := head, held := held }) :
    FaultWrites b (b.modXlat n f) where
  keeps := (b.modXlat_keeps n f).mono (by decide)
  xlat m := by
    by_cases hm : m = n
    · obtain ⟨head, held, hx⟩ := hf (b.slice n).xlat
      exact ⟨head, held, by rw [hm, Block.modXlat_xlat_same, hx]⟩
    · exact ⟨_, _, by rw [Block.modXlat, Block.modSlice_slice_ne _ _ hm]⟩

theorem wrOwn (b : Block) (n a : Nat) (bs : List Byte) : FaultWrites b (b.wrOwn n a bs) :=
  ⟨(Homely.wrOwn b n a bs).keeps.mono (by decide), fun m => ⟨_, _, b.wrOwn_xlat n a bs m⟩⟩

theorem irq (b : Block) (n k : Nat) : FaultWrites b (b.irq n k) := ⟨(b.irq_keeps n k).mono (by decide), fun _ => ⟨_, _, rfl⟩⟩

theorem putFault (b : Block) (n : Nat) (r : FaultRec) : FaultWrites b (b.putFault n r) := by
  rw [Block.putFault]
  exact ((wrOwn b n _ _).trans (modXlat _ n fun x => ⟨x.faultHead + 1, x.held, rfl⟩)).trans (ite (irq _ n 1) (refl _))

theorem drainFaults (n : Nat) (l : List FaultRec) (b : Block) : FaultWrites b (Block.drainFaults n l b) := by
  induction l generalizing b with
  | nil => exact modXlat b n fun x => ⟨x.faultHead, [], rfl⟩
  | cons r l ih => exact ite ((putFault b n r).trans (ih _)) (modXlat b n fun x => ⟨x.faultHead, r :: l, rfl⟩)

theorem newFault (b : Block) (n : Nat) (r : FaultRec) : FaultWrites b (b.newFault n r) := by
  rw [Block.newFault]
  exact (drainFaults n _ b).trans (ite (irq _ n 1) (refl _))

end FaultWrites

/-- The ring's registers change, and what is held is written while the ring has room. -/
def Block.setFaultRegs (b : Block) (n : Nat) (f : XlatRegs → XlatRegs) : Block :=
  Block.drainFaults n ((b.modXlat n f).slice n).xlat.held (b.modXlat n f)

theorem Block.setFaultRegs_eq (b : Block) (n : Nat) (f : XlatRegs → XlatRegs) :
    b.Keeps [.slices, .mem, .coh, .cores, .ports] (b.setFaultRegs n f) ∧
      ∃ head held, ((b.setFaultRegs n f).slice n).xlat = { f (b.slice n).xlat with faultHead := head, held := held } := by
  have hdrain := FaultWrites.drainFaults n ((b.modXlat n f).slice n).xlat.held (b.modXlat n f)
  obtain ⟨head, held, hx⟩ := hdrain.xlat n
  exact ⟨((b.modXlat_keeps n f).mono (by decide)).trans hdrain.keeps, head, held, by
    rw [Block.setFaultRegs, hx, Block.modXlat_xlat_same]⟩

/-- The registers after a write of the ring's base or size (R213, R214). -/
def XlatRegs.ringConfig (x : XlatRegs) (base : Option Dword) (size : Option Word) : XlatRegs :=
  { x with faultBase := base.getD x.faultBase, faultSize := (size.map fun v => fld v.toNat 3 0).getD x.faultSize }

section
variable {s : State} {n : Nat} (hg : s.b.gated = false) (hst : (s.b.slice n).st ≠ .none)
include hg hst

/-- A write of TAIL (R213). -/
theorem faultTail_written (v : Word) :
    Completes (exec (.zhFaultTailWrite n v) s) fun t =>
      Frame [.slices, .mem, .coh, .cores, .ports] s t ∧ (t.b.slice n).xlat.faultTail = v := by
  have he : exec (.zhFaultTailWrite n v) s = .next { s with b := s.b.setFaultRegs n fun x => { x with faultTail := v } } := by
    show execZhFaultTailWrite n v s = _
    rw [execZhFaultTailWrite, State.onHost_open hg, State.onBlock_eq, beq_eq_false_iff_ne.2 hst, if_neg Bool.false_ne_true]
    rfl
  obtain ⟨hkeep, head, held, hx⟩ := s.b.setFaultRegs_eq n fun x => { x with faultTail := v }
  exact Completes.framed rfl hkeep (congrArg XlatRegs.faultTail hx) he

/-- The ring's base and size while HEAD = TAIL (R213, R214). -/
theorem faultRing_configured (base : Option Dword) (size : Option Word) (hempty : (s.b.slice n).xlat.faultHead = (s.b.slice n).xlat.faultTail) :
    Completes (exec (.faultRingConfig n base size) s) fun t =>
      Frame [.slices, .mem, .coh, .cores, .ports] s t ∧ (t.b.slice n).xlat.faultBase = base.getD (s.b.slice n).xlat.faultBase ∧
      (t.b.slice n).xlat.faultSize = (size.map fun v => v.toNat % 16).getD (s.b.slice n).xlat.faultSize := by
  have he : exec (.faultRingConfig n base size) s = .next { s with b := s.b.setFaultRegs n fun x => x.ringConfig base size } := by
    show execFaultRingConfig n base size s = _
    rw [execFaultRingConfig, State.onHost_open hg, State.onBlock_eq]
    dsimp only
    rw [beq_eq_false_iff_ne.2 hst, hempty, bne_self_eq_false, Bool.false_or, if_neg Bool.false_ne_true]
    rfl
  obtain ⟨hkeep, head, held, hx⟩ := s.b.setFaultRegs_eq n fun x => x.ringConfig base size
  exact Completes.framed rfl hkeep ⟨congrArg XlatRegs.faultBase hx, congrArg XlatRegs.faultSize hx⟩ he

end

/-- The ring's base and size do not change while HEAD ≠ TAIL (R213). -/
theorem faultRing_ignored {s : State} {n : Nat} (hg : s.b.gated = false) (base : Option Dword) (size : Option Word)
    (hfull : (s.b.slice n).xlat.faultHead ≠ (s.b.slice n).xlat.faultTail) :
    exec (.faultRingConfig n base size) s = .next s := by
  show execFaultRingConfig n base size s = _
  rw [execFaultRingConfig, State.onHost_open hg, State.onBlock_eq]
  dsimp only
  rw [bne_iff_ne.2 hfull, Bool.or_true, if_pos rfl]

end Sys2Proof.Machine
end
section
/-! A transfer's tile (R210, R211, R276): what a request of it does, one at a time. -/

namespace Sys2Proof.Machine

/-! ### Transfers by agent and channel -/

theorem Block.Keeps.dmaAt_eq {L : List Part} {b b' : Block} (h : b.Keeps L b') (hn : Part.dmas ∉ L) (agent ch : Nat) :
    b'.dmaAt agent ch = b.dmaAt agent ch := by
  rw [Block.dmaAt, Block.dmaAt, show b'.dmas = b.dmas from h .dmas hn]

/-- The transfer of a slot is the first listed of its agent and channel, and so is what a change of that slot makes of it. -/
theorem Block.modDma_dmaAt {b : Block} {d : Dma} {f : Dma → Dma} (hf : ∀ x, (f x).agent = x.agent ∧ (f x).channel = x.channel)
    (h : b.dmaAt d.agent d.channel = some d) : (b.modDma d.agent d.channel f).dmaAt d.agent d.channel = some (f d) := by
  have hp : ((fun x : Dma => x.agent == d.agent && x.channel == d.channel) ∘
      fun x => if x.agent == d.agent && x.channel == d.channel then f x else x) = fun x => x.agent == d.agent && x.channel == d.channel := by
    funext x
    simp only [Function.comp]
    split
    · rw [(hf x).1, (hf x).2]
    · rfl
  rw [Block.dmaAt] at h
  simp only [Block.dmaAt, Block.modDma, List.find?_map, hp, h, Option.map_some, beq_self_eq_true, Bool.and_self, if_true]

theorem Dma.tileEnd_le (d : Dma) : d.tileEnd ≤ d.bytes := Nat.min_le_left _ _

theorem Dma.lt_tileEnd {d : Dma} (h : d.pos < d.bytes) : d.pos < d.tileEnd := by
  rw [Dma.tileEnd]
  omega

/-! ### A tile that takes one request -/

/-- A tile goes no further while its transfer is over, past it, or not ready. -/
theorem Block.dmaGo_stops {b : Block} {agent ch tileEnd : Nat}
    (h : ∀ d, b.dmaAt agent ch = some d → tileEnd ≤ d.pos ∨ b.dmaReady d = false) (fuel : Nat) : Block.dmaGo agent ch tileEnd fuel b = b := by
  cases fuel with
  | zero => rfl
  | succ fuel =>
    rw [Block.dmaGo]
    split
    · rfl
    · rename_i d hd
      rw [if_neg]
      rw [Bool.and_eq_true, decide_eq_true_eq]
      rintro ⟨hpos, hready⟩
      obtain hend | hwait := h d hd
      · omega
      · rw [hwait] at hready
        cases hready

/-- A tile under way whose next request leaves it past its end, or waiting, makes that request alone. -/
theorem Block.dmaTile_request {b : Block} {agent ch : Nat} {d : Dma} (hd : b.dmaAt agent ch = some d) (hpos : d.pos < d.bytes)
    (hready : b.dmaReady d = true)
    (hstop : ∀ d', (b.dmaRequest d).dmaAt agent ch = some d' → d.tileEnd ≤ d'.pos ∨ (b.dmaRequest d).dmaReady d' = false) :
    b.dmaTile agent ch = b.dmaRequest d := by
  have hlt := Dma.lt_tileEnd hpos
  obtain ⟨fuel, hfuel⟩ : ∃ k, d.tileEnd - d.pos = k + 1 := ⟨d.tileEnd - d.pos - 1, by omega⟩
  simp only [Block.dmaTile, hd, hfuel, Block.dmaGo, hlt, hready, decide_true, Bool.and_self, if_true, Block.dmaGo_stops hstop, ite_self]

/-! ### A page that does not translate -/

/-- An address whose walk has not to wait is translated. -/
theorem Block.dmaTr_walked {b : Block} {d : Dma} {va : Nat} (h : b.mustWalk d.agent (8 + d.channel) d.ctx va = false) (write : Bool) :
    b.dmaTr d va write = ((b.translate d.ctx va write).1, some (b.translate d.ctx va write).2) := by
  rw [Block.dmaTr, h, if_neg Bool.false_ne_true]

/-- A transfer that stops at a page waits there, and its record is written or held (R210, R211). -/
theorem Block.dmaFault_waits {b : Block} {d : Dma} (hd : b.dmaAt d.agent d.channel = some d) (va cause level adv : Nat) (write : Bool) :
    b.Keeps [.dmas, .slices, .mem, .coh, .cores, .ports] (b.dmaFault d va cause level adv write) ∧
      (b.dmaFault d va cause level adv write).dmaAt d.agent d.channel = some { d with waits := some (va / 65536), fetch := none } := by
  have hdrop := b.dropLines_keeps d.agent (8 + d.channel)
  have hfault := fun r => (FaultWrites.newFault ((b.dropLines d.agent (8 + d.channel)).modDma d.agent d.channel fun x =>
    { x with waits := some (va / 65536), fetch := none }) (b.ctx d.ctx).slice r).keeps
  rw [Block.dmaFault]
  refine ⟨((hdrop.mono (by decide)).trans ((Block.modDma_keeps _ _ _ _).mono (by decide))).trans ((hfault _).mono (by decide)), ?_⟩
  rw [(hfault _).dmaAt_eq (by decide)]
  exact Block.modDma_dmaAt (fun _ => ⟨rfl, rfl⟩) ((hdrop.dmaAt_eq (by decide) _ _).trans hd)

/-- A transfer stops at a source page that does not translate (R210). -/
theorem dmaTile_faults {s : State} {d : Dma} (hd : s.b.dmaAt d.agent d.channel = some d) (hpos : d.pos < d.bytes)
    (hready : s.b.dmaReady d = true) (hdata : d.data = []) (hwalk : s.b.mustWalk d.agent (8 + d.channel) d.ctx (d.src + d.pos) = false)
    {cause level adv : Nat} (htr : (s.b.translate d.ctx (d.src + d.pos) false).2 = .fail cause level adv) :
    Completes (exec (.dmaTile d.agent d.channel) s) fun t =>
      Frame [.dmas, .slices, .mem, .coh, .cores, .ports, .ctxs] s t ∧
      ∃ d', t.b.dmaAt d.agent d.channel = some d' ∧ d'.waits = some ((d.src + d.pos) / 65536) ∧ d'.pos = d.pos := by
  have hkeep := s.b.translate_keeps d.ctx (d.src + d.pos) false
  have hreq : s.b.dmaRequest d = (s.b.translate d.ctx (d.src + d.pos) false).1.dmaFault d (d.src + d.pos) cause level adv false := by
    simp only [Block.dmaRequest, hdata, Block.dmaTr_walked hwalk, htr, List.isEmpty_nil, Bool.not_true, Bool.false_eq_true, if_false]
  obtain ⟨hfault, hwaits⟩ := Block.dmaFault_waits ((hkeep.dmaAt_eq (by decide) _ _).trans hd) (d.src + d.pos) cause level adv false
  rw [← hreq] at hfault hwaits
  have hone := Block.dmaTile_request hd hpos hready fun d' hd' => by
    rw [hwaits, Option.some_inj] at hd'
    exact .inr (by rw [← hd']; rfl)
  exact Completes.framed hone ((hkeep.mono (by decide)).trans (hfault.mono (by decide))) ⟨_, hwaits, rfl, rfl⟩

end Sys2Proof.Machine
end
section
/-! Requests of a transfer between device pages through the cluster cache (R210, R276, R281). -/

namespace Sys2Proof.Machine

/-! ### Reads and writes of a cluster cache -/

namespace Accesses

variable {core : Nat}

theorem readLine (b : Block) (a : Agent) (line key : Nat) : Accesses core b (b.readLine a line key).block := by
  rw [Block.readLine]
  split
  · exact useLine b a line false
  · exact fetchLine b a line key .rds

theorem cacheRead (b : Block) (a : Agent) (i key k hint : Nat) : Accesses core b (b.cacheRead a i key k hint).1 := by
  rw [Block.cacheRead]
  split
  · exact useLine b a _ false
  · split
    · have hturn := homeTurn (core := core) b (Agent.uncached (agentSlice a) i) (k / 128) false
      split
      · rename_i h; rw [h] at hturn; exact hturn
      · rename_i b₁ h
        rw [h] at hturn
        have hwhole := whole (core := core) b₁ (Agent.uncached (agentSlice a) i) (k / 128) key .uncrd
        split <;> rename_i h <;> rw [h] at hwhole <;> exact hturn.trans hwhole
    · have hread := readLine (core := core) b a (k / 128) key
      split
      · rename_i h; rw [h] at hread; exact hread
      · rename_i h; rw [h] at hread; exact hread
      · rename_i h; rw [h] at hread; exact hread.trans (ite (useLine _ _ _ _) (refl _))

/-- A source line that a transfer asks for, or reads. -/
theorem dmaLine (b : Block) (d : Dma) (va key k adv : Nat) : Accesses core b (b.dmaLine d va key k adv).1 := by
  rw [Block.dmaLine]
  split
  · exact ite (refl b) (waitAt b _ _ _ _ _ _)
  · exact cacheRead b _ _ _ _ _

end Accesses

/-- What a cluster cache answers to a read is a whole line. -/
theorem Block.cacheRead_length {b b' : Block} {a : Agent} {i key k hint : Nat} {bs : List Byte}
    (h : b.cacheRead a i key k hint = (b', some (.data bs))) : bs.length = 128 := by
  have hline : ∀ d : BitVec 1024, (lineBytes d).length = 128 := fun d => by rw [lineBytes, List.length_map, List.length_range]
  have hans : ∀ (b₁ : Block) (d : BitVec 1024), (b₁, some (LineAns.data (lineBytes d))) = (b', some (.data bs)) → bs.length = 128 := by
    rintro b₁ d h
    cases h
    exact hline d
  rw [Block.cacheRead] at h
  split at h
  · exact hans _ _ h
  · split at h
    · split at h
      · cases h
      · split at h
        · exact hans _ _ h
        · cases h
        · cases h
    · split at h
      · cases h
      · cases h
      · exact hans _ _ h

theorem Block.dmaLine_keeps {b b' : Block} {d : Dma} {va key k adv : Nat} {r : Option LineAns}
    (h : b.dmaLine d va key k adv = (b', r)) : b.Keeps [.cores, .ctxs, .mem, .coh, .slices, .ports] b' := by
  have hread := (Accesses.dmaLine (core := 0) b d va key k adv).accessed.keeps
  rwa [h] at hread

theorem Block.dmaLine_length {b b' : Block} {d : Dma} {va key k adv : Nat} {bs : List Byte}
    (h : b.dmaLine d va key k adv = (b', some (.data bs))) : bs.length = 128 := by
  rw [Block.dmaLine] at h
  split at h
  · cases h
  · exact Block.cacheRead_length h

theorem Coh.lineOf_mem {c : Coh} {a : Agent} {line : Nat} {l : CLine} (h : c.lineOf a line = some l) :
    l ∈ c.lines ∧ l.agent = a ∧ l.line = line := by
  have hp := List.find?_some h
  rw [Bool.and_eq_true, beq_iff_eq, beq_iff_eq] at hp
  exact ⟨List.mem_of_find?_eq_some h, hp⟩

/-- A use of a line leaves each line with its agent and address. -/
theorem Block.useLine_mem (b : Block) (a : Agent) (line : Nat) (first : Bool) {l : CLine} (h : l ∈ b.coh.lines) :
    ∃ x ∈ (b.useLine a line first).coh.lines, x.agent = l.agent ∧ x.line = l.line := by
  cases a with
  | cluster n c =>
    refine ⟨_, List.mem_map_of_mem h, ?_⟩
    split
    · exact ⟨rfl, rfl⟩
    · split
      · exact ⟨rfl, rfl⟩
      · exact ⟨rfl, rfl⟩
  | priv n i => exact ⟨l, h, rfl, rfl⟩
  | uncached n i => exact ⟨l, h, rfl, rfl⟩

/-- A store into a line that the cache has leaves it modified, with the bytes in it (R281). -/
theorem Block.storeIn_mem {b : Block} {l x : CLine} (off : Nat) (bs : List Byte) (but : Option Nat) (hx : x ∈ b.coh.lines)
    (ha : x.agent = l.agent) (hl : x.line = l.line) :
    ∃ l' ∈ (b.storeIn l off bs but).coh.lines, l'.agent = l.agent ∧ l'.line = l.line ∧ l'.st = .m ∧ l'.data = patchLine l.data off bs := by
  obtain ⟨_, hd⟩ := b.loseCopies_coh l.line fun k => agentCluster l.agent == some (k / 8) && but != some k
  refine ⟨{ x with st := .m, data := patchLine l.data off bs }, ?_, ha, hl, rfl, rfl⟩
  rw [Block.storeIn, Block.modCoh_coh, hd]
  refine List.mem_map.2 ⟨x, hx, ?_⟩
  rw [ha, hl, beq_self_eq_true, beq_self_eq_true]
  rfl

/-- A write in a line that the cache owns (R281). -/
theorem Block.cacheWrite_owned {b : Block} {a : Agent} {k : Nat} {l : CLine} (hl : b.coh.lineOf a (k / 128) = some l)
    (hst : l.st = .m ∨ l.st = .e) (core key : Nat) (bs : List Byte) :
    (b.cacheWrite a core key k 1 bs).1 = (b.useLine a (k / 128) false).storeIn l (k % 128) bs none := by
  have hown : (l.st == .m || l.st == .e) = true := by
    rw [Bool.or_eq_true, beq_iff_eq, beq_iff_eq]
    exact hst
  simp only [Block.cacheWrite, Block.writesPast, Block.ownsLine, Block.ownLine, hl, Option.isNone_some, Option.any_some, hown,
    Bool.false_and, Bool.false_eq_true, Bool.not_true, Bool.and_false, if_false, if_true]

/-- The bytes then stand in the cache's line. -/
theorem Block.cacheWrite_line {b : Block} {a : Agent} {k : Nat} {l : CLine} (hl : b.coh.lineOf a (k / 128) = some l)
    (hst : l.st = .m ∨ l.st = .e) (core key : Nat) (bs : List Byte) :
    ∃ l' ∈ (b.cacheWrite a core key k 1 bs).1.coh.lines,
      l'.agent = a ∧ l'.line = k / 128 ∧ l'.st = .m ∧ l'.data = patchLine l.data (k % 128) bs := by
  obtain ⟨hmem, rfl, hline⟩ := Coh.lineOf_mem hl
  obtain ⟨x, hx, hxa, hxl⟩ := b.useLine_mem l.agent (k / 128) false hmem
  rw [Block.cacheWrite_owned hl hst, ← hline]
  rw [← hline] at hx
  exact Block.storeIn_mem (k % 128) bs none hx hxa hxl

end Sys2Proof.Machine
end
section
/-! The last request of a tile between device pages, and what resuming or aborting a page does (R210, R215, R276). -/

namespace Sys2Proof.Machine

/-! ### A line moved between device pages -/

/-- The source line of a request holds all its bytes, so no second line is read. -/
theorem Dma.chunk_fits (d : Dma) (a : Nat) : gaKey a % 128 + d.chunk a 128 ≤ 128 := by
  have hkey : gaKey a % 128 = a % 128 := by
    simp only [gaKey, fld, Nat.shiftRight_zero]
    exact Nat.mod_mod_of_dvd a ⟨2 ^ 35, rfl⟩
  rw [hkey, Dma.chunk]
  have := Nat.mod_lt a (show 0 < 128 by decide)
  omega

section
variable {b b3 : Block} {d : Dma} {a k adv a2 k2 adv2 : Nat} {bs : List Byte}

/-- A request between device pages, whose walks need not wait, reads the source line once both addresses are translated (R210). -/
theorem Block.dmaRequest_device (hdata : d.data = []) (hsrc : b.mustWalk d.agent (8 + d.channel) d.ctx (d.src + d.pos) = false)
    (hfrom : (b.translate d.ctx (d.src + d.pos) false).2 = .dev a k adv)
    (hdst : (b.translate d.ctx (d.src + d.pos) false).1.mustWalk d.agent (8 + d.channel) d.ctx (d.dst + d.pos) = false)
    (hinto : ((b.translate d.ctx (d.src + d.pos) false).1.translate d.ctx (d.dst + d.pos) true).2 = .dev a2 k2 adv2) :
    b.dmaRequest d =
      let into := (b.translate d.ctx (d.src + d.pos) false).1.translate d.ctx (d.dst + d.pos) true
      into.1.dmaFromMemory d a (into.1.keyGen k) adv false := by
  simp only [Block.dmaRequest, hdata, Block.dmaTr_walked hsrc, hfrom, Block.dmaTr_walked hdst, hinto, Tr.isHost, List.isEmpty_nil,
    Bool.not_true, Bool.false_eq_true, if_false]

/-- The request's bytes of a source line that has come go to the destination. -/
theorem Block.dmaFromMemory_line {key : Nat} (h : b.dmaLine d (d.src + d.pos) key (gaKey a) adv = (b3, some (.data bs))) :
    b.dmaFromMemory d a key adv false = b3.dmaPut d ((bs.drop (gaKey a % 128)).take (d.chunk a 128)) := by
  have hone := Nat.not_lt.2 (d.chunk_fits a)
  simp only [Block.dmaFromMemory, h, Bool.false_eq_true, if_false, hone, List.append_nil]

/-- Bytes for a device page that translates and does not migrate are written in its line. -/
theorem Block.dmaPut_device (hmoves : b.pageMoves d.ctx (d.dst + d.pos) = false)
    (hwalk : b.mustWalk d.agent (8 + d.channel) d.ctx (d.dst + d.pos) = false)
    (hlast : (b.translate d.ctx (d.dst + d.pos) true).2 = .dev a2 k2 adv2) :
    b.dmaPut d bs =
      let last := b.translate d.ctx (d.dst + d.pos) true
      last.1.dmaWrite d a2 (last.1.keyGen k2) bs := by
  simp only [Block.dmaPut, hmoves, Bool.false_eq_true, if_false, Block.dmaTr_walked hwalk, hlast]

/-- Bytes that lie in one destination line, which the cluster cache owns or which has passed its regulation points, are written
through the cache, and the transfer has moved them (R276, R281). -/
theorem Block.dmaWrite_line {key : Nat} (hfit : gaKey a % 128 + bs.length ≤ 128)
    (hpass : b.ownsLine (b.dmaCluster d) (gaKey a / 128) = true ∨ b.hasPassed d.agent d.ctx (d.dst + d.pos) = true)
    (hput : (b.cacheWrite (b.dmaCluster d) d.agent key (gaKey a) 1 bs).2 = true) :
    b.dmaWrite d a key bs = ((b.cacheWrite (b.dmaCluster d) d.agent key (gaKey a) 1 bs).1.dmaMoved d bs.length).modDma d.agent d.channel
      fun x => { x with data := [] } := by
  have hall : bs.take (128 - gaKey a % 128) = bs := List.take_of_length_le (by omega)
  have hpass' : (!b.ownsLine (b.dmaCluster d) (gaKey a / 128) && !b.hasPassed d.agent d.ctx (d.dst + d.pos)) = false := by
    obtain h | h := hpass
    · rw [h]; rfl
    · rw [h, Bool.not_true, Bool.and_false]
  have hwritten : b.cacheWrite (b.dmaCluster d) d.agent key (gaKey a) 1 bs =
      ((b.cacheWrite (b.dmaCluster d) d.agent key (gaKey a) 1 bs).1, true) := Prod.ext rfl hput
  rw [Block.dmaWrite]
  simp only [hall, hpass', Bool.false_eq_true, if_false]
  rw [hwritten]
  simp only [List.drop_length]

theorem Block.withDmas_keeps (b : Block) (l : List Dma) : b.Keeps [.dmas] { b with dmas := l } := fun p hp => by
  cases p <;> simp_all [Part.same]

/-- A transfer that has moved a request's bytes keeps all but the transfers, its command and its lines. -/
theorem Block.dmaMoved_keeps (b : Block) (d : Dma) (n : Nat) : b.Keeps [.dmas, .queues, .ports] (b.dmaMoved d n) := by
  have hdrop := b.dropLines_keeps d.agent (8 + d.channel)
  rw [Block.dmaMoved]
  refine (hdrop.mono (by decide)).trans (Block.Keeps.ite ?_ ((Block.modDma_keeps _ _ _ _).mono (by decide)))
  exact ((Block.withDmas_keeps _ _).mono (by decide)).trans ((Block.cmdDone_keeps _ _ _).mono (by decide))

/-- A transfer with bytes left goes on behind those that it has moved. -/
theorem Block.dmaMoved_further {n : Nat} (hd : b.dmaAt d.agent d.channel = some d) (h : d.pos + n < d.bytes) :
    ((b.dmaMoved d n).modDma d.agent d.channel fun x => { x with data := [] }).dmaAt d.agent d.channel =
      some { d with pos := d.pos + n, fetch := none, data := [] } := by
  have hat := ((b.dropLines_keeps d.agent (8 + d.channel)).dmaAt_eq (by decide) _ _).trans hd
  rw [Block.dmaMoved, if_neg (by omega)]
  exact Block.modDma_dmaAt (d := { d with pos := d.pos + n, fetch := none, data := [] }) (fun _ => ⟨rfl, rfl⟩)
    (Block.modDma_dmaAt (f := fun x => { x with pos := x.pos + n, fetch := none, data := [] }) (fun _ => ⟨rfl, rfl⟩) hat)

/-- A transfer that has moved its last bytes is gone. -/
theorem Block.dmaMoved_ends {n : Nat} (h : d.bytes ≤ d.pos + n) (f : Dma → Dma) :
    ((b.dmaMoved d n).modDma d.agent d.channel f).dmas = b.dmas.filter fun x => !(x.agent == d.agent && x.channel == d.channel) := by
  have hkeep : (b.dropLines d.agent (8 + d.channel)).dmas = b.dmas := b.dropLines_keeps _ _ .dmas (by decide)
  rw [Block.dmaMoved, if_pos h, hkeep]
  refine (List.map_congr_left fun x hx => if_neg ?_).trans (List.map_id' _)
  have hother := (List.mem_filter.1 hx).2
  rwa [Bool.not_eq_true', ← Bool.not_eq_true] at hother

end

/-! ### The last request of a tile -/

/-- A tile ends with a request that has moved the bytes up to its end, `b₁` being the block once they are written (R210). -/
theorem dmaTile_moved {s : State} {d : Dma} {b₁ : Block} {n : Nat} (hd : s.b.dmaAt d.agent d.channel = some d) (hpos : d.pos < d.bytes)
    (hready : s.b.dmaReady d = true) (hend : d.pos + n = d.tileEnd) (hbefore : s.b.Keeps [.cores, .ctxs, .mem, .coh, .slices, .ports] b₁)
    (hreq : s.b.dmaRequest d = (b₁.dmaMoved d n).modDma d.agent d.channel fun x => { x with data := [] }) :
    Completes (exec (.dmaTile d.agent d.channel) s) fun t =>
      Frame [.dmas, .slices, .mem, .coh, .cores, .queues, .ctxs, .ports] s t ∧
      (d.tileEnd < d.bytes → ∃ d', t.b.dmaAt d.agent d.channel = some d' ∧ d'.pos = d.tileEnd) ∧
      (d.tileEnd = d.bytes → t.b.dmas = s.b.dmas.filter fun x => !(x.agent == d.agent && x.channel == d.channel)) ∧
      t.b.mem = b₁.mem ∧ t.b.coh = b₁.coh := by
  have hmoved : b₁.Keeps [.dmas, .queues, .ports] (s.b.dmaRequest d) := by
    rw [hreq]
    exact (Block.dmaMoved_keeps _ d _).trans ((Block.modDma_keeps _ _ _ _).mono (by decide))
  have hfurther : d.tileEnd < d.bytes →
      (s.b.dmaRequest d).dmaAt d.agent d.channel = some { d with pos := d.tileEnd, fetch := none, data := [] } := fun h => by
    rw [hreq, ← hend]
    exact Block.dmaMoved_further ((hbefore.dmaAt_eq (by decide) _ _).trans hd) (by omega)
  have hends : d.tileEnd = d.bytes →
      (s.b.dmaRequest d).dmas = s.b.dmas.filter fun x => !(x.agent == d.agent && x.channel == d.channel) := fun h => by
    rw [hreq, Block.dmaMoved_ends (by omega), show b₁.dmas = s.b.dmas from hbefore .dmas (by decide)]
  have hone : s.b.dmaTile d.agent d.channel = s.b.dmaRequest d := Block.dmaTile_request hd hpos hready fun d' hd' => by
    obtain h | h := Nat.lt_or_eq_of_le d.tileEnd_le
    · rw [hfurther h, Option.some_inj] at hd'
      exact .inl (by rw [← hd'])
    · rw [Block.dmaAt, hends h] at hd'
      have hother := (List.mem_filter.1 (List.mem_of_find?_eq_some hd')).2
      rw [List.find?_some hd'] at hother
      cases hother
  exact Completes.framed hone ((hbefore.mono (by decide)).trans (hmoved.mono (by decide)))
    ⟨fun h => ⟨_, hfurther h, rfl⟩, hends, hmoved .mem (by decide), hmoved .coh (by decide)⟩

section
variable {b b3 : Block} {d : Dma} {a k adv a2 k2 adv2 : Nat} {bs : List Byte}

/-- A request between device pages whose source line has come writes its bytes in the one destination line that takes them all. -/
theorem Block.dmaRequest_moves (hdata : d.data = []) (hsrc : b.mustWalk d.agent (8 + d.channel) d.ctx (d.src + d.pos) = false)
    (hfrom : (b.translate d.ctx (d.src + d.pos) false).2 = .dev a k adv)
    (hdst : (b.translate d.ctx (d.src + d.pos) false).1.mustWalk d.agent (8 + d.channel) d.ctx (d.dst + d.pos) = false)
    (hinto : ((b.translate d.ctx (d.src + d.pos) false).1.translate d.ctx (d.dst + d.pos) true).2 = .dev a2 k2 adv2)
    (hline : let into := (b.translate d.ctx (d.src + d.pos) false).1.translate d.ctx (d.dst + d.pos) true
      into.1.dmaLine d (d.src + d.pos) (into.1.keyGen k) (gaKey a) adv = (b3, some (.data bs)))
    (hfit : gaKey a2 % 128 + d.chunk a 128 ≤ 128) (hmoves : b3.pageMoves d.ctx (d.dst + d.pos) = false)
    (hwalk : b3.mustWalk d.agent (8 + d.channel) d.ctx (d.dst + d.pos) = false)
    (hlast : (b3.translate d.ctx (d.dst + d.pos) true).2 = .dev a2 k2 adv2) :
    let last := b3.translate d.ctx (d.dst + d.pos) true
    let put := last.1.cacheWrite (last.1.dmaCluster d) d.agent (last.1.keyGen k2) (gaKey a2) 1
      ((bs.drop (gaKey a % 128)).take (d.chunk a 128))
    (last.1.ownsLine (last.1.dmaCluster d) (gaKey a2 / 128) = true ∨ last.1.hasPassed d.agent d.ctx (d.dst + d.pos) = true) →
    put.2 = true →
    b.Keeps [.cores, .ctxs, .mem, .coh, .slices, .ports] put.1 ∧
      b.dmaRequest d = (put.1.dmaMoved d (d.chunk a 128)).modDma d.agent d.channel fun x => { x with data := [] } := by
  intro last put hpass hput
  have hlen : ((bs.drop (gaKey a % 128)).take (d.chunk a 128)).length = d.chunk a 128 := by
    rw [List.length_take, List.length_drop, Block.dmaLine_length hline]
    have := d.chunk_fits a
    omega
  constructor
  · have hread := Block.dmaLine_keeps hline
    have hwrite := (Accesses.cacheWrite (core := 0) last.1 (last.1.dmaCluster d) d.agent (last.1.keyGen k2) (gaKey a2) 1
      ((bs.drop (gaKey a % 128)).take (d.chunk a 128))).accessed.keeps
    exact (((Block.translate_keeps b _ _ _).mono (by decide)).trans ((Block.translate_keeps _ _ _ _).mono (by decide))).trans
      (hread.trans (((Block.translate_keeps b3 _ _ _).mono (by decide)).trans hwrite))
  · have hwritten := Block.dmaWrite_line (by rw [hlen]; exact hfit) hpass hput
    rw [hlen] at hwritten
    rw [Block.dmaRequest_device hdata hsrc hfrom hdst hinto]
    exact (Block.dmaFromMemory_line hline).trans ((Block.dmaPut_device hmoves hwalk hlast).trans hwritten)

end

end Sys2Proof.Machine
end
section
/-! Resumption and abortion of a page, and the statement of transfers (R210 to R215, R276). -/

namespace Sys2Proof.Machine

/-! ### Resumption (R215) -/

theorem Block.dropHeld_ready {b : Block} {n : Nat} (h : b.ringReady n = true) (c page : Nat) : b.dropHeld n c page = b := by
  rw [Block.dropHeld, if_pos h]

theorem Block.migrWaits_none {b : Block} {n : Nat} (h : (b.slice n).xlat.migrating = none) (c page : Nat) : b.migrWaits n c page = none := by
  rw [Block.migrWaits, h, Option.filter_none]

/-- What a configured ring is depends on the slice, the image and the place of the block only. -/
theorem Block.Keeps.ringReady_eq {L : List Part} {b b' : Block} (h : b.Keeps L b') (hs : Part.slices ∉ L) (hr : Part.recon ∉ L)
    (hst : Part.start ∉ L) (hd : Part.dict ∉ L) (n : Nat) : b'.ringReady n = b.ringReady n := by
  have hrecon : b'.recon = b.recon := h .recon hr
  have hstart : b'.start = b.start := h .start hst
  have hdict : b'.dict = b.dict := h .dict hd
  have hown : ∀ a len, b'.ownRange n a len = b.ownRange n a len := fun a len => by
    rw [Block.ownRange, Block.isOwn, Block.groupOwner, Block.groupBytes, hrecon, hstart, hdict]
    rfl
  rw [Block.ringReady, Block.ringReady, h.slice_eq hs, hown]

/-- A write to ZH_RESUME_VA whose row and context fit acts (R215). -/
theorem Block.onResume_fits {b : Block} {n : Nat} {abort : Bool} (ha : (b.slice n).xlat.resumeAbort = abort)
    (hc : b.ctxInRange n (b.slice n).xlat.resumeCtx = true) (hn : (b.ctx (b.slice n).xlat.resumeCtx).slice = n)
    (hg : (b.ctx (b.slice n).xlat.resumeCtx).gen = (b.slice n).xlat.resumeGen) (f : Nat → Block → Block) :
    b.onResume n abort f = f (b.slice n).xlat.resumeCtx b := by
  simp only [Block.onResume, ha, hc, hn, hg, beq_self_eq_true, Bool.and_self, if_true]

/-- A page at which one transfer waits resumes by that transfer's tile. -/
theorem Block.resumePage_one {b : Block} {n c page : Nat} {d : Dma}
    (hone : (b.dmas.filter fun e => e.ctx == c && e.waits == some page) = [d]) (hr : b.ringReady n = true)
    (hm : (b.slice n).xlat.migrating = none) :
    b.resumePage n c page = ({ b with dmas := b.dmas.map fun (e : Dma) =>
      if e.ctx == c && e.waits == some page then { e with waits := none } else e } : Block).dmaTile d.agent d.channel := by
  have hdrop := fun l => Block.dropHeld_ready (b := { b with dmas := l }) hr c page
  have hmigr := fun l => Block.migrWaits_none (b := { b with dmas := l }) hm c page
  simp only [Block.resumePage, hone, hdrop, hmigr, List.foldl_cons, List.foldl_nil]

/-- A page at which one transfer waits is aborted by its end. -/
theorem Block.abortPage_one {b : Block} {n c page : Nat} {d : Dma}
    (hone : (b.dmas.filter fun e => e.ctx == c && e.waits == some page) = [d]) (hr : b.ringReady n = true)
    (hm : (b.slice n).xlat.migrating = none) :
    b.Keeps [.dmas, .ctxs, .queues, .ports] (b.abortPage n c page) ∧ ((b.abortPage n c page).ctx c).lastCode = cDmaAborted ∧
      (b.abortPage n c page).dmas = b.dmas.filter fun e => !(e.ctx == c && e.waits == some page) := by
  have hctx : d.ctx = c := by
    have hd : d ∈ b.dmas.filter fun e => e.ctx == c && e.waits == some page := by rw [hone]; exact List.mem_singleton_self d
    exact beq_iff_eq.1 (Bool.and_eq_true_iff.1 (List.mem_filter.1 hd).2).1
  let left : Block := { b with dmas := b.dmas.filter fun e => !(e.ctx == c && e.waits == some page) }
  let coded := (left.dropLines d.agent (8 + d.channel)).ctxCode c cDmaAborted
  have hdrop := left.dropLines_keeps d.agent (8 + d.channel)
  have hcode := (left.dropLines d.agent (8 + d.channel)).ctxCode_keeps c cDmaAborted
  have hdone := coded.cmdDone_keeps d.queue d.k
  have hrest : left.Keeps [.ctxs, .queues, .ports] (coded.cmdDone d.queue d.k) :=
    ((hdrop.mono (by decide)).trans (hcode.mono (by decide))).trans (hdone.mono (by decide))
  have hkeep : b.Keeps [.dmas, .ctxs, .queues, .ports] (coded.cmdDone d.queue d.k) :=
    ((b.withDmas_keeps _).mono (by decide)).trans (hrest.mono (by decide))
  have habort : b.abortPage n c page = coded.cmdDone d.queue d.k := by
    have hended : (b.endDmas cDmaAborted fun e => e.ctx == c && e.waits == some page) = coded.cmdDone d.queue d.k := by
      simp only [Block.endDmas, hone, List.foldl_cons, List.foldl_nil, hctx]
      rfl
    have hready := (hkeep.ringReady_eq (by decide) (by decide) (by decide) (by decide) n).trans hr
    have hmigr : ((coded.cmdDone d.queue d.k).slice n).xlat.migrating = none := by rw [hkeep.slice_eq (by decide), hm]
    rw [Block.abortPage, hended, Block.dropHeld_ready hready, Block.migrWaits_none hmigr]
  rw [habort]
  refine ⟨hkeep, ?_, hrest .dmas (by decide)⟩
  rw [hdone.ctx_eq (by decide)]
  exact Block.ctxCode_lastCode _ c cDmaAborted (by decide)

section
variable {s : State} {n : Nat} {va : Dword} {d : Dma} (hg : s.b.gated = false)
  (hc : s.b.ctxInRange n (s.b.slice n).xlat.resumeCtx = true) (hn : (s.b.ctx (s.b.slice n).xlat.resumeCtx).slice = n)
  (hgen : (s.b.ctx (s.b.slice n).xlat.resumeCtx).gen = (s.b.slice n).xlat.resumeGen)
  (hone : (s.b.dmas.filter fun e => e.ctx == (s.b.slice n).xlat.resumeCtx && e.waits == some (dfld va 56 16)) = [d])
  (hm : (s.b.slice n).xlat.migrating = none) (hr : s.b.ringReady n = true)
include hg hc hn hgen hone hm hr

theorem dmaResume_runs (ha : (s.b.slice n).xlat.resumeAbort = false) :
    Completes (exec (.dmaResume n va) s) fun t =>
      let resumed (e : Dma) : Dma :=
        if e.ctx == (s.b.slice n).xlat.resumeCtx && e.waits == some (dfld va 56 16) then { e with waits := none } else e
      exec (.dmaTile d.agent d.channel) { s with b := { s.b with dmas := s.b.dmas.map resumed } } = .next t := by
  have hexec : exec (.dmaResume n va) s = s.onHost fun b => b.onResume n false fun c b => b.resumePage n c (dfld va 56 16) := rfl
  refine ⟨_, ?_, rfl⟩
  rw [hexec, State.onHost_open hg, State.onBlock_eq, Block.onResume_fits ha hc hn hgen, Block.resumePage_one hone hr hm]

theorem dmaAborted_ends (ha : (s.b.slice n).xlat.resumeAbort = true) :
    Completes (exec (.dmaAborted n va) s) fun t =>
      Frame [.dmas, .ctxs, .queues, .ports] s t ∧ (t.b.ctx (s.b.slice n).xlat.resumeCtx).lastCode = 0x2E ∧
      ∀ e ∈ t.b.dmas, ¬(e.ctx = (s.b.slice n).xlat.resumeCtx ∧ e.waits = some (dfld va 56 16)) := by
  have hexec : exec (.dmaAborted n va) s = s.onHost fun b => b.onResume n true fun c b => b.abortPage n c (dfld va 56 16) := rfl
  obtain ⟨hkeep, hcode, hdmas⟩ := Block.abortPage_one hone hr hm
  refine Completes.framed rfl hkeep ⟨hcode, fun e he => ?_⟩ ?_
  · rw [hdmas] at he
    have hother := (List.mem_filter.1 he).2
    rintro ⟨hctx, hwaits⟩
    rw [hctx, hwaits, beq_self_eq_true, beq_self_eq_true] at hother
    cases hother
  · rw [hexec, State.onHost_open hg, State.onBlock_eq, Block.onResume_fits ha hc hn hgen]

end

/-! ### The statement -/

/-- Settles O29: a tile that faults or moves its last line makes one request; the page at which one transfer waits resumes or aborts
that transfer; and the ring's registers go through one write of them. -/
theorem transfersFaultResumeAndAbort : Obligations.TransfersFaultResumeAndAbort := by
  unfold Obligations.TransfersFaultResumeAndAbort
  refine ⟨?_, ?_, ?_⟩
  · rintro s agent ch d hd rfl rfl hpos hready hdata hsrc
    refine ⟨fun cause level adv htr => dmaTile_faults hd hpos hready hdata hsrc htr, ?_⟩
    intro a k adv a2 k2 adv2 b3 bs hfrom hdst hinto hline hend hfit hmoves hwalk last cache line moved put hlast hpass hput
    obtain ⟨hbefore, hreq⟩ := Block.dmaRequest_moves hdata hsrc hfrom hdst hinto hline hfit hmoves hwalk hlast hpass hput
    refine (dmaTile_moved hd hpos hready hend hbefore hreq).mono fun t ⟨hframe, hfurther, hends, hmem, hcoh⟩ =>
      ⟨hframe, hfurther, hends, hmem, hcoh, fun l hl hst => ?_⟩
    rw [hcoh]
    exact Block.cacheWrite_line hl hst _ _ _
  · intro s n va d hg x hc hn hgen hone hm hr
    exact ⟨dmaResume_runs hg hc hn hgen hone hm hr, dmaAborted_ends hg hc hn hgen hone hm hr⟩
  · intro s n hg hst x
    exact ⟨faultTail_written hg hst, fun base size h => faultRing_configured hg hst base size h,
      fun base size h => faultRing_ignored hg base size h⟩

end Sys2Proof.Machine
end
section
/-! A pool ring that runs past its group (R200, R226, R389). Refutes O31. -/

namespace Sys2Proof.Machine

/-- The compute clock runs, and the image gives group 0, which slice 1 holds, 2^38 bytes of memory, twice what OFFSET can name. The
slice's pool ring of 1,024 entries stands 4,096 bytes before the end of the group's addresses and holds 512 pages. -/
def stateWithLargePool : State :=
  { State.reset with
    b := { Block.reset with
      start := { Block.reset.start with released := true, memMib := [(0, 2 ^ 18)] }
      recon := { Recon.reset with groupOwner := [(0, 1)] }
      slices := [(1, { Slice.reset with
        st := .active
        xlat := { Slice.reset.xlat with poolBase := BitVec.ofNat 64 (2 ^ 37 - 4096), poolSize := 10, poolCount := 512 } })]
      keys := [(63, { holder := 0, gen := 1 })] } }

/-- The place of the next page is the first that group 0's addresses do not reach. -/
theorem stateWithLargePool_place :
    (stateWithLargePool.b.slice 1).xlat.poolPlace (stateWithLargePool.b.slice 1).xlat.poolCount = 2 ^ 37 := by decide +kernel

/-- R200 accepts the ring: the group's memory is larger. -/
theorem stateWithLargePool_ready : stateWithLargePool.b.poolReady 1 = true := by decide +kernel

theorem stateWithLargePool_key : stateWithLargePool.b.ownGen 1 ≠ 0 := by decide +kernel

theorem stateWithLargePool_calm (k n : Nat) : Calm stateWithLargePool.b k n := ⟨rfl, rfl, fun _ _ => rfl⟩

/-- What slice 1 reads past group 0, whatever the pool's write has changed: group 1 is not the slice's. -/
theorem rdOwn_pastPool {t : State} (h : Frame [.slices, .mem, .coh, .cores] stateWithLargePool t) :
    t.b.rdOwn 1 (2 ^ 37) 8 = (List.range 8).map fun i => Block.reset.openByte (gaKey (2 ^ 37) + i) := by
  obtain ⟨-, -, -, hkeeps⟩ := h
  have hrecon : t.b.recon = { Recon.reset with groupOwner := [(0, 1)] } := hkeeps .recon (by decide)
  have hdraws : t.b.draws = Block.reset.draws := hkeeps .draws (by decide)
  have howner : t.b.groupOwner (gaGroup (2 ^ 37)) = 0 := by rw [Block.groupOwner, hrecon]; decide
  have hout : ¬ t.b.ownRange 1 (2 ^ 37) 8 = true := by rw [Block.ownRange, howner]; simp
  rw [Block.rdOwn, if_neg hout]
  exact List.map_congr_left fun i _ => by rw [Block.openByte, Block.openByte, hdraws]

/-- Refutes O31: `ownRange` measures the ring against the memory that the image gives its group (R389), not against the 2^37 bytes that
OFFSET reaches. With more memory than that in group 0, a ring across the end of its addresses is accepted, and the next page's entry, at
2^37, lies in group 1, which the slice does not hold: what is read there is the same after page 0 and after page 65536. -/
theorem not_poolAndDeviceAllocator : ¬ Obligations.PoolAndDeviceAllocator := by
  rintro ⟨hadd, -⟩
  have hentry (v : Dword) (hpage : stateWithLargePool.b.poolPage 1 v.toNat = true) :
      (List.range 8).map (fun i => Block.reset.openByte (gaKey (2 ^ 37) + i)) = toLe 8 v.toNat := by
    obtain ⟨hjoins, -⟩ := hadd stateWithLargePool 1 v (by decide) (by decide)
    obtain ⟨t, -, hframe, -, hread⟩ := hjoins hpage stateWithLargePool_ready (by decide +kernel)
    have h := hread stateWithLargePool_key (stateWithLargePool_calm _ _)
    rw [stateWithLargePool_place, rdOwn_pastPool hframe] at h
    exact h
  exact absurd ((hentry 0 (by decide +kernel)).symm.trans (hentry 65536 (by decide +kernel))) (by decide)

end Sys2Proof.Machine
end
section
/-! A queue that holds one SET_WINDOW twice (R208, R242). Refutes O26. -/

namespace Sys2Proof.Machine

/-- A SET_WINDOW that clears window 0 of context 0, not yet started. -/
def windowClear : Cmd :=
  { k := 0, ctx := 0, label := 0, words := [0x0600000000000000], started := false, finished := false, completed := false, placed := 0
    tickets := [], gen := none, progress := 0 }

/-- An OPS that is not complete. -/
def opsOpen : Cmd := { windowClear with k := 1, words := [0x0100000000000000] }

/-- The compute clock runs; queue 0 of slice 1, which the arbiter has granted, holds the SET_WINDOW before an OPS and behind it. -/
def stateWithWindowTwice : State :=
  { State.reset with
    b := { Block.reset with
      start := { Block.reset.start with released := true }
      recon := { Recon.reset with queueOwner := [(0, 1)] }
      slices := [(1, { Slice.reset with arb := { Slice.reset.arb with granted := some (0, 0) } })]
      queues := [(0, { Queue.reset with cmds := [windowClear, opsOpen, windowClear] })] } }

theorem stateWithWindowTwice_granted : Granted stateWithWindowTwice.b 0 6 1 windowClear := by
  unfold Granted
  decide +kernel

/-- The block once SET_WINDOW has been taken up. -/
def blockWithWindowTwice : Block := (stateWithWindowTwice.b.onGrant 0 6 fun _ _ b => b).nextWindow 0

theorem exec_setWindow_stateWithWindowTwice :
    exec (.setWindow 0) stateWithWindowTwice = .next { stateWithWindowTwice with b := blockWithWindowTwice } := rfl

/-- The command at the queue's front has no OPS before it, so it takes effect, and with it each of its number. -/
theorem blockWithWindowTwice_finished : ∀ c ∈ blockWithWindowTwice.cmdOf 0 0, c.finished = true := by decide +kernel

/-- Refutes O26: the statement asks only that the queue can be cut at the command so that an OPS lies before the cut. A queue that holds
the same command twice, with the OPS between, can be cut so at the second, while the model, like the grant, takes the first, which has
no OPS before it and takes effect at once. No fetch gives two commands one number; the statement is for every state. -/
theorem not_fenceWindowPageAndStampCommands : ¬ Obligations.FenceWindowPageAndStampCommands := by
  intro h
  obtain ⟨-, -, hwaits, -⟩ := h stateWithWindowTwice 0 1 windowClear rfl
  have hfirst : ∀ x ∈ (stateWithWindowTwice.b.queue 0).cmds, x.started = false := by decide +kernel
  obtain ⟨t, he, -, c, hc, -, hopen⟩ := hwaits stateWithWindowTwice_granted
    (fun x hx _ _ hstarted => absurd hstarted (by rw [hfirst x hx]; decide))
    ⟨[windowClear, opsOpen], [], opsOpen, rfl, by decide, by decide, rfl⟩
  rw [exec_setWindow_stateWithWindowTwice] at he
  have hblock : t.b = blockWithWindowTwice := by
    cases he
    dsimp only
  rw [hblock] at hc
  exact absurd (hopen.symm.trans (blockWithWindowTwice_finished c hc)) Bool.false_ne_true

end Sys2Proof.Machine
end
